-- ==== Sys2Proof/Word.lean ====
section
/-! DEFINITION. The word types of the Woner instruction set: bytes, 32-bit instruction words and 64-bit registers
(R4, R121, R253), and the one reading of a bit range of a number (R3). -/
namespace Sys2Proof

abbrev Byte := BitVec 8
abbrev IWord := BitVec 32
abbrev Word := BitVec 64

/-- Bits `[lo + n - 1 : lo]` of a number (R3). -/
def bits (w lo n : Nat) : Nat := w / 2 ^ lo % 2 ^ n

end Sys2Proof
end

