-- ==== Sys2Proof/Syntax.lean ====
section
/-! DEFINITION. The syntax: `Instr`, one constructor per row of spec/opcode_table.json. A coded row carries the free
fields of its word, each at its own width, in the order the table gives them (`sw` is the switch marker S). A row
without an encoding is an event of the host, the Mast, an engine, a link or firmware; it carries nothing, and reads what
it acts on and what the outside world brings from `EventArgs`, which the state holds beside it. -/
namespace Sys2Proof

/-- What a request to a peer asks for (R24 names the operation; its code is not laid out: DESIGN CHOICE, log 8). A write
holds whole sectors from the one that holds its address on, and a byte mask for each. -/
inductive PeerOp where
  | read (n : Nat)
  | write (masks : List (BitVec 32)) (data : List Byte)
  | atomic (op : BitVec 4) (wide : Bool) (v cmp : Nat)
  | barrier (fn : Nat) (index : Nat) (arg : Nat)
  deriving DecidableEq, Repr

/-- A whole message of a flit (R24, R25, R29). A response names the context whose request it answers (R30), its `status`
(0 done, else the fault code the requester takes, R27, R198), and the bytes asked for, which travel in whole sectors: `lead` bytes of
the first stand before them. -/
inductive PeerMsg where
  | request (tag : Nat) (part : BitVec 2) (ctx : BitVec 6) (addr : BitVec 52) (op : PeerOp)
  | response (tag : Nat) (part : BitVec 2) (ctx : BitVec 6) (status : BitVec 8) (lead : Nat) (data : List Byte)
  | nak (seq : BitVec 32)
  | openSession (part : BitVec 2) (gen : BitVec 16) (reply : Bool)
  | closeSession (part : BitVec 2)
  | announce (part : BitVec 2) (gen : BitVec 16)
  deriving DecidableEq, Repr

/-- A 256-byte flit: the header of R23, its payload bytes, and the messages those bytes hold (DESIGN CHOICE, log 8). -/
structure Flit where
  type : BitVec 8
  dst : BitVec 8
  src : BitVec 8
  vc : BitVec 8
  gen : BitVec 16
  len : BitVec 16
  seq : BitVec 32
  ack : BitVec 32
  credit : BitVec 32
  payload : List Byte
  crc : BitVec 32
  msgs : List PeerMsg
  deriving DecidableEq, Repr

/-- What an event brings: the numbers that name what it acts on and what the outside world supplies. An event reads
only the fields its row needs (spec/opcode_table.json); the others are zero. -/
structure EventArgs where
  /-- partition -/
  p : BitVec 2 := 0
  /-- context of the partition -/
  c : BitVec 6 := 0
  /-- queue of the partition -/
  q : BitVec 6 := 0
  die : BitVec 2 := 0
  core : Nat := 0
  /-- warp slot of the core, 0 to 511 (R79) -/
  slot : Nat := 0
  split : BitVec 2 := 0
  /-- a number: port, set, job, workgroup, launch, list place -/
  i : Nat := 0
  /-- an address or an offset -/
  addr : Nat := 0
  /-- a size in bytes -/
  size : Nat := 0
  /-- a value written -/
  val : Word := 0
  /-- bytes written -/
  data : List Byte := []
  flit : Option Flit := none
  flag : Bool := false
  deriving DecidableEq, Repr

/-- The instructions and the events of the opcode table: coded rows first, then the rows without an encoding. -/
inductive Instr where
  /-- IADD (R307): Adds two slice operands per lane, optionally saturating. -/
  | iadd (sw : Bool) (w : BitVec 3) (h : BitVec 2) (d : BitVec 7) (a : BitVec 7) (b : BitVec 7)
  /-- ISUB (R307): Subtracts two slice operands per lane, optionally saturating. -/
  | isub (sw : Bool) (w : BitVec 3) (h : BitVec 2) (d : BitVec 7) (a : BitVec 7) (b : BitVec 7)
  /-- IMUL (R307): Multiplies per lane, keeping the low bits. -/
  | imul (sw : Bool) (w : BitVec 3) (h : BitVec 2) (d : BitVec 7) (a : BitVec 7) (b : BitVec 7)
  /-- IMULH (R307): High half of the signed product per lane. -/
  | imulh (sw : Bool) (w : BitVec 3) (h : BitVec 2) (d : BitVec 7) (a : BitVec 7) (b : BitVec 7)
  /-- IMULHU (R307): High half of the unsigned product per lane. -/
  | imulhu (sw : Bool) (w : BitVec 3) (h : BitVec 2) (d : BitVec 7) (a : BitVec 7) (b : BitVec 7)
  /-- IMAD (R307): Multiply-add per lane with the old destination as addend. -/
  | imad (sw : Bool) (w : BitVec 3) (h : BitVec 2) (d : BitVec 7) (a : BitVec 7) (b : BitVec 7)
  /-- IMIN (R307): Signed minimum per lane. -/
  | imin (sw : Bool) (w : BitVec 3) (h : BitVec 2) (d : BitVec 7) (a : BitVec 7) (b : BitVec 7)
  /-- IMINU (R307): Unsigned minimum per lane. -/
  | iminu (sw : Bool) (w : BitVec 3) (h : BitVec 2) (d : BitVec 7) (a : BitVec 7) (b : BitVec 7)
  /-- IMAX (R307): Signed maximum per lane. -/
  | imax (sw : Bool) (w : BitVec 3) (h : BitVec 2) (d : BitVec 7) (a : BitVec 7) (b : BitVec 7)
  /-- IMAXU (R307): Unsigned maximum per lane. -/
  | imaxu (sw : Bool) (w : BitVec 3) (h : BitVec 2) (d : BitVec 7) (a : BitVec 7) (b : BitVec 7)
  /-- AND (R307): Bitwise AND per lane. -/
  | and (sw : Bool) (w : BitVec 3) (h : BitVec 2) (d : BitVec 7) (a : BitVec 7) (b : BitVec 7)
  /-- OR (R307): Bitwise OR per lane. -/
  | or (sw : Bool) (w : BitVec 3) (h : BitVec 2) (d : BitVec 7) (a : BitVec 7) (b : BitVec 7)
  /-- XOR (R307): Bitwise XOR per lane. -/
  | xor (sw : Bool) (w : BitVec 3) (h : BitVec 2) (d : BitVec 7) (a : BitVec 7) (b : BitVec 7)
  /-- SHL (R307): Left shift per lane. -/
  | shl (sw : Bool) (w : BitVec 3) (h : BitVec 2) (d : BitVec 7) (a : BitVec 7) (b : BitVec 7)
  /-- SHR (R307): Logical right shift per lane. -/
  | shr (sw : Bool) (w : BitVec 3) (h : BitVec 2) (d : BitVec 7) (a : BitVec 7) (b : BitVec 7)
  /-- SRA (R307): Arithmetic right shift per lane. -/
  | sra (sw : Bool) (w : BitVec 3) (h : BitVec 2) (d : BitVec 7) (a : BitVec 7) (b : BitVec 7)
  /-- FADD (R308): Floating-point add per lane, rounded. -/
  | fadd (sw : Bool) (w : BitVec 3) (h : BitVec 2) (d : BitVec 7) (a : BitVec 7) (b : BitVec 7)
  /-- FSUB (R308): Floating-point subtract per lane, rounded. -/
  | fsub (sw : Bool) (w : BitVec 3) (h : BitVec 2) (d : BitVec 7) (a : BitVec 7) (b : BitVec 7)
  /-- FMUL (R308): Floating-point multiply per lane, rounded. -/
  | fmul (sw : Bool) (w : BitVec 3) (h : BitVec 2) (d : BitVec 7) (a : BitVec 7) (b : BitVec 7)
  /-- FFMA (R308): Fused multiply-add per lane with one rounding. -/
  | ffma (sw : Bool) (w : BitVec 3) (h : BitVec 2) (d : BitVec 7) (a : BitVec 7) (b : BitVec 7)
  /-- FMIN (R309): Floating-point minimum per lane. -/
  | fmin (sw : Bool) (w : BitVec 3) (h : BitVec 2) (d : BitVec 7) (a : BitVec 7) (b : BitVec 7)
  /-- FMAX (R309): Floating-point maximum per lane. -/
  | fmax (sw : Bool) (w : BitVec 3) (h : BitVec 2) (d : BitVec 7) (a : BitVec 7) (b : BitVec 7)
  /-- SHF (R321): Shuffle from a per-lane source lane. -/
  | shf (sw : Bool) (w : BitVec 3) (h : BitVec 2) (d : BitVec 7) (a : BitVec 7) (b : BitVec 7)
  /-- SHFX (R322): Gathers an element from a 64-slice span across the warp. -/
  | shfx (sw : Bool) (w : BitVec 3) (h : BitVec 2) (d : BitVec 7) (a : BitVec 7) (b : BitVec 7)
  /-- MOV (R310): Copies a slice operand. -/
  | mov (sw : Bool) (w : BitVec 3) (d : BitVec 7) (a : BitVec 7)
  /-- NOT (R310): Bitwise complement. -/
  | not (sw : Bool) (w : BitVec 3) (d : BitVec 7) (a : BitVec 7)
  /-- NEG (R310): Integer or float negation. -/
  | neg (sw : Bool) (w : BitVec 3) (d : BitVec 7) (a : BitVec 7) (f : BitVec 1)
  /-- ABS (R310): Integer or float absolute value. -/
  | abs (sw : Bool) (w : BitVec 3) (d : BitVec 7) (a : BitVec 7) (f : BitVec 1)
  /-- POPC (R310): Population count. -/
  | popc (sw : Bool) (w : BitVec 3) (d : BitVec 7) (a : BitVec 7)
  /-- CLZ (R310): Count of leading zeros. -/
  | clz (sw : Bool) (w : BitVec 3) (d : BitVec 7) (a : BitVec 7)
  /-- CTZ (R310): Count of trailing zeros. -/
  | ctz (sw : Bool) (w : BitVec 3) (d : BitVec 7) (a : BitVec 7)
  /-- BREV (R310): Bit reversal. -/
  | brev (sw : Bool) (w : BitVec 3) (d : BitVec 7) (a : BitVec 7)
  /-- EXTS (R311): Sign-extends a narrower operand. -/
  | exts (sw : Bool) (w : BitVec 3) (d : BitVec 7) (a : BitVec 7) (x : BitVec 3)
  /-- EXTZ (R311): Zero-extends a narrower operand. -/
  | extz (sw : Bool) (w : BitVec 3) (d : BitVec 7) (a : BitVec 7) (x : BitVec 3)
  /-- CVT (R312): Converts a float to any element format. -/
  | cvt (sw : Bool) (w : BitVec 3) (d : BitVec 7) (a : BitVec 7) (x : BitVec 4)
  /-- CVTS (R312): Converts a narrow float element to a standard float format. -/
  | cvts (sw : Bool) (w : BitVec 3) (d : BitVec 7) (a : BitVec 7) (x : BitVec 4)
  /-- ICVT (R312): Converts a signed integer to a float format. -/
  | icvt (sw : Bool) (w : BitVec 3) (d : BitVec 7) (a : BitVec 7) (x : BitVec 4)
  /-- UCVT (R312): Converts an unsigned integer to a float format. -/
  | ucvt (sw : Bool) (w : BitVec 3) (d : BitVec 7) (a : BitVec 7) (x : BitVec 4)
  /-- QHAD (R316): Lane-wide 32-point Hadamard step, forward or inverse. -/
  | qhad (sw : Bool) (w : BitVec 3) (d : BitVec 7) (a : BitVec 7) (n : BitVec 1) (r : BitVec 3)
  /-- FRCP (R313): Correctly rounded reciprocal. -/
  | frcp (sw : Bool) (w : BitVec 3) (d : BitVec 7) (a : BitVec 7)
  /-- FRSQ (R313): Correctly rounded reciprocal square root. -/
  | frsq (sw : Bool) (w : BitVec 3) (d : BitVec 7) (a : BitVec 7)
  /-- FSQRT (R313): Square root under the hinted mode. -/
  | fsqrt (sw : Bool) (w : BitVec 3) (d : BitVec 7) (a : BitVec 7)
  /-- FEXP2 (R313): Base-2 exponential. -/
  | fexp2 (sw : Bool) (w : BitVec 3) (d : BitVec 7) (a : BitVec 7)
  /-- FLOG2 (R313): Base-2 logarithm. -/
  | flog2 (sw : Bool) (w : BitVec 3) (d : BitVec 7) (a : BitVec 7)
  /-- FSIN (R313): Sine in radians. -/
  | fsin (sw : Bool) (w : BitVec 3) (d : BitVec 7) (a : BitVec 7)
  /-- FCOS (R313): Cosine in radians. -/
  | fcos (sw : Bool) (w : BitVec 3) (d : BitVec 7) (a : BitVec 7)
  /-- FTANH (R313): Hyperbolic tangent. -/
  | ftanh (sw : Bool) (w : BitVec 3) (d : BitVec 7) (a : BitVec 7)
  /-- FRND (R314): Rounds to an integral value in the same format. -/
  | frnd (sw : Bool) (w : BitVec 3) (d : BitVec 7) (a : BitVec 7) (m : BitVec 3)
  /-- FCLS (R315): Writes a 12-bit class mask. -/
  | fcls (sw : Bool) (w : BitVec 3) (d : BitVec 7) (a : BitVec 7)
  /-- LANEID (R310): Writes the lane number. -/
  | laneid (sw : Bool) (w : BitVec 3) (d : BitVec 7)
  /-- MOVU (R310): Copies a uniform register into every lane. -/
  | movu (sw : Bool) (w : BitVec 3) (d : BitVec 7) (u : BitVec 6)
  /-- VMOVI (R310): Writes a signed 11-bit immediate. -/
  | vmovi (sw : Bool) (w : BitVec 3) (d : BitVec 7) (i : BitVec 11)
  /-- SHLI (R310): Left shift by an immediate. -/
  | shli (sw : Bool) (w : BitVec 3) (d : BitVec 7) (a : BitVec 7) (k : BitVec 4)
  /-- SHRI (R310): Logical right shift by an immediate. -/
  | shri (sw : Bool) (w : BitVec 3) (d : BitVec 7) (a : BitVec 7) (k : BitVec 4)
  /-- SRAI (R310): Arithmetic right shift by an immediate. -/
  | srai (sw : Bool) (w : BitVec 3) (d : BitVec 7) (a : BitVec 7) (k : BitVec 4)
  /-- ADDI (R310): Adds a signed immediate. -/
  | addi (sw : Bool) (w : BitVec 3) (d : BitVec 7) (a : BitVec 7) (k : BitVec 4)
  /-- ICMP_EQ (R317): Integer equality compare into a predicate. -/
  | icmpEq (sw : Bool) (w : BitVec 3) (b : BitVec 7) (a : BitVec 7) (n : BitVec 1) (p : BitVec 3)
  /-- ICMP_NE (R317): Integer inequality compare into a predicate. -/
  | icmpNe (sw : Bool) (w : BitVec 3) (b : BitVec 7) (a : BitVec 7) (n : BitVec 1) (p : BitVec 3)
  /-- ICMP_LT (R317): Signed less-than compare. -/
  | icmpLt (sw : Bool) (w : BitVec 3) (b : BitVec 7) (a : BitVec 7) (n : BitVec 1) (p : BitVec 3)
  /-- ICMP_LE (R317): Signed less-or-equal compare. -/
  | icmpLe (sw : Bool) (w : BitVec 3) (b : BitVec 7) (a : BitVec 7) (n : BitVec 1) (p : BitVec 3)
  /-- ICMP_LTU (R317): Unsigned less-than compare. -/
  | icmpLtu (sw : Bool) (w : BitVec 3) (b : BitVec 7) (a : BitVec 7) (n : BitVec 1) (p : BitVec 3)
  /-- ICMP_LEU (R317): Unsigned less-or-equal compare. -/
  | icmpLeu (sw : Bool) (w : BitVec 3) (b : BitVec 7) (a : BitVec 7) (n : BitVec 1) (p : BitVec 3)
  /-- FCMP_EQ (R317): Float equality compare. -/
  | fcmpEq (sw : Bool) (w : BitVec 3) (b : BitVec 7) (a : BitVec 7) (n : BitVec 1) (p : BitVec 3)
  /-- FCMP_NE (R317): Float inequality compare. -/
  | fcmpNe (sw : Bool) (w : BitVec 3) (b : BitVec 7) (a : BitVec 7) (n : BitVec 1) (p : BitVec 3)
  /-- FCMP_LT (R317): Float less-than compare. -/
  | fcmpLt (sw : Bool) (w : BitVec 3) (b : BitVec 7) (a : BitVec 7) (n : BitVec 1) (p : BitVec 3)
  /-- FCMP_LE (R317): Float less-or-equal compare. -/
  | fcmpLe (sw : Bool) (w : BitVec 3) (b : BitVec 7) (a : BitVec 7) (n : BitVec 1) (p : BitVec 3)
  /-- FCMP_UN (R317): Float unordered compare. -/
  | fcmpUn (sw : Bool) (w : BitVec 3) (b : BitVec 7) (a : BitVec 7) (n : BitVec 1) (p : BitVec 3)
  /-- SEL (R318): Overwrites the destination with a where the predicate chooses it. -/
  | sel (sw : Bool) (w : BitVec 3) (d : BitVec 7) (a : BitVec 7) (n : BitVec 1) (p : BitVec 3)
  /-- VSCAN (R323): Inclusive segmented scan over executing lanes. -/
  | vscan (sw : Bool) (w : BitVec 3) (d : BitVec 7) (a : BitVec 7) (f : BitVec 1) (h : BitVec 3)
  /-- VSCANX (R323): Exclusive segmented scan over executing lanes. -/
  | vscanx (sw : Bool) (w : BitVec 3) (d : BitVec 7) (a : BitVec 7) (f : BitVec 1) (h : BitVec 3)
  /-- VRED (R323): Segmented sum reduction. -/
  | vred (sw : Bool) (w : BitVec 3) (d : BitVec 7) (a : BitVec 7) (f : BitVec 1) (h : BitVec 3)
  /-- VREDMAX (R323): Segmented maximum reduction. -/
  | vredmax (sw : Bool) (w : BitVec 3) (d : BitVec 7) (a : BitVec 7) (f : BitVec 1) (h : BitVec 3)
  /-- VREDMIN (R323): Segmented minimum reduction. -/
  | vredmin (sw : Bool) (w : BitVec 3) (d : BitVec 7) (a : BitVec 7) (f : BitVec 1) (h : BitVec 3)
  /-- BALLOT (R324): Writes the mask of executing lanes with the predicate true. -/
  | ballot (sw : Bool) (d : BitVec 7) (p : BitVec 3)
  /-- VPOPC (R324): Counts executing lanes with the predicate true. -/
  | vpopc (sw : Bool) (w : BitVec 3) (d : BitVec 7) (p : BitVec 3)
  /-- SHFU (R320): Shuffles up by a fixed lane delta. -/
  | shfu (sw : Bool) (w : BitVec 3) (d : BitVec 7) (a : BitVec 7) (k : BitVec 4)
  /-- SHFD (R320): Shuffles down by a fixed lane delta. -/
  | shfd (sw : Bool) (w : BitVec 3) (d : BitVec 7) (a : BitVec 7) (k : BitVec 4)
  /-- SHFXOR (R320): Shuffles by lane XOR mask. -/
  | shfxor (sw : Bool) (w : BitVec 3) (d : BitVec 7) (a : BitVec 7) (k : BitVec 4)
  /-- PAND (R319): Predicate AND. -/
  | pand (sw : Bool) (f : BitVec 3) (g : BitVec 3) (n : BitVec 1) (p : BitVec 3)
  /-- POR (R319): Predicate OR. -/
  | por (sw : Bool) (f : BitVec 3) (g : BitVec 3) (n : BitVec 1) (p : BitVec 3)
  /-- PXOR (R319): Predicate XOR. -/
  | pxor (sw : Bool) (f : BitVec 3) (g : BitVec 3) (n : BitVec 1) (p : BitVec 3)
  /-- PNOT (R319): Predicate NOT. -/
  | pnot (sw : Bool) (f : BitVec 3) (p : BitVec 3)
  /-- PMOVV (R318): Sets a predicate where a slice operand is non-zero. -/
  | pmovv (sw : Bool) (w : BitVec 3) (a : BitVec 7) (n : BitVec 1) (p : BitVec 3)
  /-- VMOVP (R318): Writes 1 or 0 from a predicate. -/
  | vmovp (sw : Bool) (w : BitVec 3) (d : BitVec 7) (p : BitVec 3)
  /-- VFIRST (R324): Writes the lowest executing lane with the predicate true. -/
  | vfirst (sw : Bool) (w : BitVec 3) (d : BitVec 7) (p : BitVec 3)
  /-- LD (R327): Loads n bytes per lane through a generic pointer. -/
  | ld (sw : Bool) (g : BitVec 3) (w : BitVec 3) (d : BitVec 7) (a : BitVec 7) (x : BitVec 1)
  /-- ST (R327): Stores n bytes per lane through a generic pointer. -/
  | st (sw : Bool) (g : BitVec 3) (w : BitVec 3) (d : BitVec 7) (a : BitVec 7) (x : BitVec 1)
  /-- LDL (R329): Loads 1, 2 or 4 whole sectors per lane. -/
  | ldl (sw : Bool) (g : BitVec 3) (w : BitVec 3) (d : BitVec 7) (a : BitVec 7)
  /-- STC (R330): Compress-stores executing lanes' values into consecutive places. -/
  | stc (sw : Bool) (g : BitVec 3) (w : BitVec 3) (d : BitVec 7) (a : BitVec 7)
  /-- LDS (R332): Loads a run of slices from memory. -/
  | lds (sw : Bool) (g : BitVec 3) (w : BitVec 3) (d : BitVec 7) (a : BitVec 7) (x : BitVec 1)
  /-- STS (R332): Spills a run of slices to memory. -/
  | sts (sw : Bool) (g : BitVec 3) (w : BitVec 3) (d : BitVec 7) (a : BitVec 7) (x : BitVec 1)
  /-- PREF (R333): Prefetches a line into the home-slice and row caches. -/
  | pref (sw : Bool) (g : BitVec 3) (a : BitVec 7)
  /-- FENCE (R334): Scoped fence that parks until earlier stores settle. -/
  | fence (sw : Bool) (g : BitVec 3) (c : BitVec 3) (k : BitVec 2)
  /-- ATOM_ADD (R336): Atomic add at the scope's locus. -/
  | atomAdd (sw : Bool) (c : BitVec 3) (g : BitVec 3) (w : BitVec 1) (d : BitVec 7) (a : BitVec 7) (n : BitVec 1)
  /-- ATOM_MIN (R336): Atomic signed minimum. -/
  | atomMin (sw : Bool) (c : BitVec 3) (g : BitVec 3) (w : BitVec 1) (d : BitVec 7) (a : BitVec 7) (n : BitVec 1)
  /-- ATOM_MAX (R336): Atomic signed maximum. -/
  | atomMax (sw : Bool) (c : BitVec 3) (g : BitVec 3) (w : BitVec 1) (d : BitVec 7) (a : BitVec 7) (n : BitVec 1)
  /-- ATOM_MINU (R336): Atomic unsigned minimum. -/
  | atomMinu (sw : Bool) (c : BitVec 3) (g : BitVec 3) (w : BitVec 1) (d : BitVec 7) (a : BitVec 7) (n : BitVec 1)
  /-- ATOM_MAXU (R336): Atomic unsigned maximum. -/
  | atomMaxu (sw : Bool) (c : BitVec 3) (g : BitVec 3) (w : BitVec 1) (d : BitVec 7) (a : BitVec 7) (n : BitVec 1)
  /-- ATOM_AND (R336): Atomic AND. -/
  | atomAnd (sw : Bool) (c : BitVec 3) (g : BitVec 3) (w : BitVec 1) (d : BitVec 7) (a : BitVec 7) (n : BitVec 1)
  /-- ATOM_OR (R336): Atomic OR. -/
  | atomOr (sw : Bool) (c : BitVec 3) (g : BitVec 3) (w : BitVec 1) (d : BitVec 7) (a : BitVec 7) (n : BitVec 1)
  /-- ATOM_XOR (R336): Atomic XOR. -/
  | atomXor (sw : Bool) (c : BitVec 3) (g : BitVec 3) (w : BitVec 1) (d : BitVec 7) (a : BitVec 7) (n : BitVec 1)
  /-- ATOM_EXCH (R336): Atomic exchange. -/
  | atomExch (sw : Bool) (c : BitVec 3) (g : BitVec 3) (w : BitVec 1) (d : BitVec 7) (a : BitVec 7) (n : BitVec 1)
  /-- ATOM_CAS (R336): Atomic compare-and-swap. -/
  | atomCas (sw : Bool) (c : BitVec 3) (g : BitVec 3) (w : BitVec 1) (d : BitVec 7) (a : BitVec 7) (n : BitVec 1)
  /-- ATOM_FADD (R336): Atomic float add. -/
  | atomFadd (sw : Bool) (c : BitVec 3) (g : BitVec 3) (w : BitVec 1) (d : BitVec 7) (a : BitVec 7) (n : BitVec 1)
  /-- ATOM_FMIN (R336): Atomic float minimum. -/
  | atomFmin (sw : Bool) (c : BitVec 3) (g : BitVec 3) (w : BitVec 1) (d : BitVec 7) (a : BitVec 7) (n : BitVec 1)
  /-- ATOM_FMAX (R336): Atomic float maximum. -/
  | atomFmax (sw : Bool) (c : BitVec 3) (g : BitVec 3) (w : BitVec 1) (d : BitVec 7) (a : BitVec 7) (n : BitVec 1)
  /-- ATOM_REDC (R252): Atomic compensated-pair update. -/
  | atomRedc (sw : Bool) (c : BitVec 3) (g : BitVec 3) (w : BitVec 1) (d : BitVec 7) (a : BitVec 7) (n : BitVec 1)
  /-- ATOM_INC (R336): Atomic wrapping increment. -/
  | atomInc (sw : Bool) (c : BitVec 3) (g : BitVec 3) (w : BitVec 1) (d : BitVec 7) (a : BitVec 7) (n : BitVec 1)
  /-- SADD (R285): Uniform add. -/
  | sadd (sw : Bool) (d : BitVec 6) (a : BitVec 6) (b : BitVec 6)
  /-- SSUB (R285): Uniform subtract. -/
  | ssub (sw : Bool) (d : BitVec 6) (a : BitVec 6) (b : BitVec 6)
  /-- SMUL (R285): Uniform multiply. -/
  | smul (sw : Bool) (d : BitVec 6) (a : BitVec 6) (b : BitVec 6)
  /-- SMULH (R285): Uniform signed high multiply. -/
  | smulh (sw : Bool) (d : BitVec 6) (a : BitVec 6) (b : BitVec 6)
  /-- SAND (R285): Uniform AND. -/
  | sand (sw : Bool) (d : BitVec 6) (a : BitVec 6) (b : BitVec 6)
  /-- SOR (R285): Uniform OR. -/
  | sor (sw : Bool) (d : BitVec 6) (a : BitVec 6) (b : BitVec 6)
  /-- SXOR (R285): Uniform XOR. -/
  | sxor (sw : Bool) (d : BitVec 6) (a : BitVec 6) (b : BitVec 6)
  /-- SSHL (R285): Uniform left shift. -/
  | sshl (sw : Bool) (d : BitVec 6) (a : BitVec 6) (b : BitVec 6)
  /-- SSHR (R285): Uniform logical right shift. -/
  | sshr (sw : Bool) (d : BitVec 6) (a : BitVec 6) (b : BitVec 6)
  /-- SSRA (R285): Uniform arithmetic right shift. -/
  | ssra (sw : Bool) (d : BitVec 6) (a : BitVec 6) (b : BitVec 6)
  /-- SMIN (R285): Uniform signed minimum. -/
  | smin (sw : Bool) (d : BitVec 6) (a : BitVec 6) (b : BitVec 6)
  /-- SMAX (R285): Uniform signed maximum. -/
  | smax (sw : Bool) (d : BitVec 6) (a : BitVec 6) (b : BitVec 6)
  /-- SMINU (R285): Uniform unsigned minimum. -/
  | sminu (sw : Bool) (d : BitVec 6) (a : BitVec 6) (b : BitVec 6)
  /-- SMAXU (R285): Uniform unsigned maximum. -/
  | smaxu (sw : Bool) (d : BitVec 6) (a : BitVec 6) (b : BitVec 6)
  /-- SEQ (R285): Uniform equality test. -/
  | seq (sw : Bool) (d : BitVec 6) (a : BitVec 6) (b : BitVec 6)
  /-- SLT (R285): Uniform signed less-than test. -/
  | slt (sw : Bool) (d : BitVec 6) (a : BitVec 6) (b : BitVec 6)
  /-- SLTU (R285): Uniform unsigned less-than test. -/
  | sltu (sw : Bool) (d : BitVec 6) (a : BitVec 6) (b : BitVec 6)
  /-- SMOVI (R286): Writes a sign-extended 14-bit immediate. -/
  | smovi (sw : Bool) (d : BitVec 6) (i : BitVec 14)
  /-- SLUI (R286): Writes an immediate into the upper 32 bits. -/
  | slui (sw : Bool) (d : BitVec 6) (i : BitVec 14)
  /-- SPOPC (R286): Uniform population count. -/
  | spopc (sw : Bool) (d : BitVec 6) (a : BitVec 6)
  /-- SCLZ (R286): Uniform leading-zero count. -/
  | sclz (sw : Bool) (d : BitVec 6) (a : BitVec 6)
  /-- SCTZ (R286): Uniform trailing-zero count. -/
  | sctz (sw : Bool) (d : BitVec 6) (a : BitVec 6)
  /-- SBFX (R287): Uniform bit-field extract. -/
  | sbfx (sw : Bool) (d : BitVec 6) (a : BitVec 6) (b : BitVec 6)
  /-- SBFI (R287): Uniform bit-field insert. -/
  | sbfi (sw : Bool) (d : BitVec 6) (a : BitVec 6) (b : BitVec 6)
  /-- SREAD (R288): Reads a special register into a uniform register. -/
  | sread (sw : Bool) (d : BitVec 6) (c : BitVec 6)
  /-- WIN_IMM (R288): Sets the window base from an immediate. -/
  | winImm (sw : Bool) (i : BitVec 5)
  /-- WIN_REG (R288): Sets the window base from a uniform register. -/
  | winReg (sw : Bool) (a : BitVec 6)
  /-- VTOS (R288): Copies the lowest active lane's 64-bit value into a uniform register. -/
  | vtos (sw : Bool) (d : BitVec 6) (v : BitVec 7)
  /-- SLD (R289): Uniform load of 8 or 4 bytes. -/
  | sld (sw : Bool) (d : BitVec 6) (a : BitVec 6) (x : BitVec 2)
  /-- SST (R289): Uniform store of 8 or 4 bytes. -/
  | sst (sw : Bool) (d : BitVec 6) (a : BitVec 6) (x : BitVec 2)
  /-- SADDI (R286): Uniform add of a signed 8-bit immediate. -/
  | saddi (sw : Bool) (d : BitVec 6) (a : BitVec 6) (i : BitVec 8)
  /-- CSRR (R290): Reads a control register. -/
  | csrr (sw : Bool) (d : BitVec 6) (c : BitVec 12)
  /-- CSRW (R290): Writes a control register, binding queues or changing expert fields. -/
  | csrw (sw : Bool) (d : BitVec 6) (c : BitVec 12)
  /-- BRA (R278): Uniform branch. -/
  | bra (sw : Bool) (o : BitVec 18)
  /-- CBR (R279): Per-lane conditional branch that may fork the split. -/
  | cbr (sw : Bool) (g : BitVec 3) (n : BitVec 1) (o : BitVec 18)
  /-- BRZ (R278): Branch if a uniform register is zero. -/
  | brz (sw : Bool) (r : BitVec 6) (o : BitVec 12)
  /-- BRNZ (R278): Branch if a uniform register is non-zero. -/
  | brnz (sw : Bool) (r : BitVec 6) (o : BitVec 12)
  /-- CALL (R278): Branch saving the return address in s63. -/
  | call (sw : Bool) (o : BitVec 18)
  /-- RET (R278): Returns to the address in s63. -/
  | ret (sw : Bool)
  /-- BRX (R278): Branches to the address in a uniform register. -/
  | brx (sw : Bool) (r : BitVec 6)
  /-- EXIT (R282): Ends the guarded active lanes. -/
  | exit (sw : Bool) (g : BitVec 3) (n : BitVec 1)
  /-- YIELD (R281): Branches and withholds the split until siblings issue or 64 cycles pass. -/
  | yield (sw : Bool) (o : BitVec 18)
  /-- JOINW (R280): Waits until every valid split waits for the same join point. -/
  | joinw (sw : Bool) (o : BitVec 18)
  /-- TRAP (R283): Raises TRAP at the WARP rung for guarded lanes. -/
  | trap (sw : Bool) (g : BitVec 3) (n : BitVec 1) (i : BitVec 18)
  /-- BRK (R283): Raises BRK at the WARP rung for guarded lanes. -/
  | brk (sw : Bool) (g : BitVec 3) (n : BitVec 1)
  /-- RETT (R216): Ends a handler, reloading and readying the stopped splits from the frame. -/
  | rett (sw : Bool)
  /-- SLEEP (R284): Withholds the split for 16·count cycles. -/
  | sleep (sw : Bool) (c : BitVec 18)
  /-- NOP (R284): Does nothing. -/
  | nop (sw : Bool)
  /-- BINIT (R341): Initialises a barrier object. -/
  | binit (sw : Bool) (b : BitVec 6) (a : BitVec 6)
  /-- BARV (R342): Arrives at a barrier's present phase. -/
  | barv (sw : Bool) (b : BitVec 6) (a : BitVec 6) (p : BitVec 3)
  /-- BWAIT (R345): Parks until the barrier's phase differs from the one given. -/
  | bwait (sw : Bool) (b : BitVec 6) (a : BitVec 6)
  /-- BEXP (R344): Adds an expected byte count to a barrier's PENDING. -/
  | bexp (sw : Bool) (b : BitVec 6) (a : BitVec 6)
  /-- BTEST (R345): Tests whether a barrier phase has completed. -/
  | btest (sw : Bool) (b : BitVec 6) (a : BitVec 6) (p : BitVec 3)
  /-- BSTAT (R346): Reads a barrier's current or last-phase status. -/
  | bstat (sw : Bool) (b : BitVec 6) (d : BitVec 6) (l : BitVec 1)
  /-- CPY (R349): Queues a byte copy on the Sheet. -/
  | cpy (sw : Bool) (d : BitVec 6) (n : BitVec 6) (b : BitVec 6)
  /-- GATH (R350): Queues a pointer-list gather on the Sheet. -/
  | gath (sw : Bool) (d : BitVec 6) (n : BitVec 6) (b : BitVec 6)
  /-- XFRM (R351): Queues a Jib transform. -/
  | xfrm (sw : Bool) (d : BitVec 6) (n : BitVec 6) (b : BitVec 6)
  /-- TLD (R383): Engine load of a tile into a tile register. -/
  | tld (sw : Bool) (t : BitVec 4) (p : BitVec 6) (b : BitVec 6)
  /-- TST (R384): Engine store of a tile register, plain or through the journal. -/
  | tst (sw : Bool) (t : BitVec 4) (p : BitVec 6) (b : BitVec 6) (o : BitVec 1)
  /-- TMOV (R385): Copies a whole tile register. -/
  | tmov (sw : Bool) (t : BitVec 4) (u : BitVec 4)
  /-- THDR (R386): Copies a tile header into four uniform registers. -/
  | thdr (sw : Bool) (t : BitVec 4) (d : BitVec 6)
  /-- THSET (R386): Builds and checks a new tile header from four uniform registers. -/
  | thset (sw : Bool) (t : BitVec 4) (d : BitVec 6)
  /-- TCVT (R388): Converts a tile to a target format and layout. -/
  | tcvt (sw : Bool) (t : BitVec 4) (u : BitVec 4) (f : BitVec 6)
  /-- TFILL (R389): Fills a tile's elements with a value. -/
  | tfill (sw : Bool) (t : BitVec 4) (v : BitVec 6)
  /-- TDRN (R391): Copies 1 KiB of a tile area into lane slices. -/
  | tdrn (sw : Bool) (t : BitVec 4) (d : BitVec 7) (i : BitVec 6)
  /-- MMA (R392): Queues a tile multiply into an accumulator on the Mainsail. -/
  | mma (sw : Bool) (a : BitVec 3) (t : BitVec 4) (u : BitVec 4) (b : BitVec 6) (z : BitVec 1)
  /-- ADRN (R395): Drains part of an accumulator into a tile register. -/
  | adrn (sw : Bool) (a : BitVec 3) (t : BitVec 4) (f : BitVec 6) (b : BitVec 6)
  /-- AFILL (R396): Fills an accumulator from a constant or scratchpad. -/
  | afill (sw : Bool) (a : BitVec 3) (v : BitVec 6) (b : BitVec 6)
  /-- TBND (R390): Sets a tile's pruning bound. -/
  | tbnd (sw : Bool) (t : BitVec 4)
  /-- PRUNE (R390): Tests a tile's bound against a running maximum. -/
  | prune (sw : Bool) (t : BitVec 4) (m : BitVec 6) (p : BitVec 3)
  /-- LDH (R397): Loads 64 bytes into a shape register. -/
  | ldh (sw : Bool) (h : BitVec 4) (p : BitVec 6)
  /-- SETH (R397): Writes a shape register from eight uniform registers. -/
  | seth (sw : Bool) (h : BitVec 4) (d : BitVec 6)
  /-- STH (R397): Stores a shape register's 64 bytes. -/
  | sth (sw : Bool) (h : BitVec 4) (p : BitVec 6)
  /-- TBIND (R361): Binds, creates or unbinds a table binding. -/
  | tbind (sw : Bool) (b : BitVec 3) (h : BitVec 6)
  /-- TGET (R366): Point lookup returning a row reference or no row. -/
  | tget (sw : Bool) (b : BitVec 3) (d : BitVec 7) (k : BitVec 7) (p : BitVec 3)
  /-- TGETX (R366): Point lookup that faults NO_ROW when absent. -/
  | tgetx (sw : Bool) (b : BitVec 3) (d : BitVec 7) (k : BitVec 7) (p : BitVec 3)
  /-- TINS (R367): Sends an insert mutation per lane. -/
  | tins (sw : Bool) (b : BitVec 3) (d : BitVec 7) (k : BitVec 7) (p : BitVec 3)
  /-- TINSX (R367): Sends an insert that faults DUP_KEY on a present key. -/
  | tinsx (sw : Bool) (b : BitVec 3) (d : BitVec 7) (k : BitVec 7) (p : BitVec 3)
  /-- TUPS (R367): Sends an upsert mutation per lane. -/
  | tups (sw : Bool) (b : BitVec 3) (d : BitVec 7) (k : BitVec 7) (p : BitVec 3)
  /-- TDEL (R367): Sends a delete mutation per lane. -/
  | tdel (sw : Bool) (b : BitVec 3) (k : BitVec 7) (p : BitVec 3)
  /-- TSCAN (R369): Writes a new cursor at a start key. -/
  | tscan (sw : Bool) (b : BitVec 3) (c : BitVec 7) (k : BitVec 7)
  /-- TNEXT (R370): Performs one cursor step. -/
  | tnext (sw : Bool) (b : BitVec 3) (d : BitVec 7) (c : BitVec 7) (p : BitVec 3)
  /-- TCNT (R371): Counts rows in a key range per lane. -/
  | tcnt (sw : Bool) (b : BitVec 3) (d : BitVec 7) (k : BitVec 7)
  /-- TREF (R366): Returns the least present key at or above k. -/
  | tref (sw : Bool) (b : BitVec 3) (d : BitVec 7) (k : BitVec 7)
  /-- HREF (R372): Resolves a cache handle, layer and position to a tile row. -/
  | href (sw : Bool) (d : BitVec 7) (h : BitVec 7)
  /-- HBND (R373): Raises a Shroud entry's bound as a release. -/
  | hbnd (sw : Bool) (h : BitVec 7)
  /-- SPAWN (R295): Pushes work items to a packed device queue. -/
  | spawn (sw : Bool) (q : BitVec 3) (e : BitVec 7) (g : BitVec 7) (p : BitVec 3)
  /-- QPUSH (R295): Pushes items to a pulled device queue. -/
  | qpush (sw : Bool) (q : BitVec 3) (g : BitVec 7) (p : BitVec 3)
  /-- QPULL (R297): Takes items from a pulled device queue. -/
  | qpull (sw : Bool) (q : BitVec 3) (d : BitVec 7) (p : BitVec 3)
  /-- QFLUSH (R298): Flushes a packed queue's bins into packed warps. -/
  | qflush (sw : Bool) (q : BitVec 3)
  /-- RSWEEP (R407): Opens the next sweep of a rate-classed set. -/
  | rsweep (sw : Bool) (b : BitVec 3) (d : BitVec 6)
  /-- RDUE (R408): Reports whether a member is due this sweep. -/
  | rdue (sw : Bool) (b : BitVec 3) (k : BitVec 7) (p : BitVec 3)
  /-- RVISIT (R409): Visits a member, updating its header and rate exponent. -/
  | rvisit (sw : Bool) (b : BitVec 3) (c : BitVec 7) (k : BitVec 7) (p : BitVec 3)
  /-- RREADH (R410): Reads a member's last visited value. -/
  | rreadh (sw : Bool) (b : BitVec 3) (d : BitVec 7) (k : BitVec 7)
  /-- RREADX (R410): Reads a member's extrapolated value. -/
  | rreadx (sw : Bool) (b : BitVec 3) (d : BitVec 7) (k : BitVec 7)
  /-- RSET (R411): Overwrites a member's rate header. -/
  | rset (sw : Bool) (b : BitVec 3) (v : BitVec 7) (k : BitVec 7)
  /-- PCNT (R414): Reads a traffic counter into a uniform register. -/
  | pcnt (sw : Bool) (d : BitVec 6) (e : BitVec 6)
  /-- WAITE (R300): Waits until an event word reaches a value. -/
  | waite (sw : Bool) (p : BitVec 6) (v : BitVec 6)
  /-- SIGE (R301): Adds to an event word as a release atomic. -/
  | sige (sw : Bool) (p : BitVec 6) (v : BitVec 6)
  /-- FLUSHRC (R333): Invalidates the core's row cache. -/
  | flushrc (sw : Bool)
  /-- HINT_IMM (R270): Supplies immediate bits [20:0] to the next instruction. -/
  | hintImm (i : BitVec 21)
  /-- HINT_IMMHI (R270): Supplies immediate bits [41:21]. -/
  | hintImmhi (i : BitVec 21)
  /-- HINT_GUARD (R270): Replaces the next instruction's guard predicate. -/
  | hintGuard (n : BitVec 1) (p : BitVec 3)
  /-- HINT_RND (R230): Sets the rounding mode of the next instruction. -/
  | hintRnd (m : BitVec 3)
  /-- HINT_SAT (R234): Makes the next instruction saturate. -/
  | hintSat
  /-- HINT_ORD (R189): Sets the ordering and scope of the next access. -/
  | hintOrd (c : BitVec 3) (o : BitVec 2)
  /-- HINT_CACHE (R328): Sets the row-cache policy of the next load. -/
  | hintCache (c : BitVec 2)
  /-- HINT_OFFS (R270): Adds a signed byte offset to the next pointer. -/
  | hintOffs (o : BitVec 21)
  /-- HINT_CHECK (R258): Puts the next instruction in checked mode. -/
  | hintCheck
  /-- HINT_PRI (R269): Sets the request priority of the next engine operation. -/
  | hintPri (p : BitVec 2)
  /-- DEVICE_RESET (R63): Power-on or a DEVICE-rung reset runs the five boot stages: firmware and configuration verification, identity key derivation, memory and link training, then full control-window availability. -/
  | deviceReset
  /-- REGISTER_WRITE (R41): A host write to a control register or field that has no row of its own is applied under its access codes; an access of the wrong size or alignment is ignored and sets DEV_EVT.BADREG. -/
  | registerWrite
  /-- FWLOAD_FIRMWARE (R42): Writing GO with KIND 0 in DEV_FWLOAD.CTL starts the reading and signature verification of a firmware image; the write is ignored while any context is resident. -/
  | fwloadFirmware
  /-- FWLOAD_CONFIGURATION (R42): Writing GO with KIND 1 in DEV_FWLOAD.CTL starts the reading and signature verification of a configuration image; the write is ignored while any context is resident. -/
  | fwloadConfiguration
  /-- FWLOAD_COMPLETE (R42): An image load finishes: an image that passed verification is written to serial flash for the next boot, RESULT is set and GO reads 0. -/
  | fwloadComplete
  /-- ATTEST_START (R65): Setting DEV_ATTEST.GO after writing a nonce starts the production of a signed attestation report. -/
  | attestStart
  /-- ATTEST_COMPLETE (R65): The attestation report is ready in DEV_ATTEST.REPORT, LEN is set and GO reads 0. -/
  | attestComplete
  /-- LIFETIME_APPEND (R66): At least every 60 s, and at orderly shutdown, accumulated counts are appended as a signed block to the lifetime record, with a merge into a summary block when the log is full. -/
  | lifetimeAppend
  /-- THERMAL_LIMIT_105 (R38): A junction temperature of 105 °C puts the affected die into PS1 and raises a management event. -/
  | thermalLimit105
  /-- THERMAL_RECOVER (R38): A die held in PS1 by temperature that has cooled by 5 °C leaves the thermal cap. -/
  | thermalRecover
  /-- THERMAL_LIMIT_115 (R38): A junction temperature of 115 °C stops all compute dies at once and is handled as a DEVICE-rung reset that loses every context. -/
  | thermalLimit115
  /-- POWER_CAP_STEP (R36): When power would exceed PWR_CAP.WATTS, or has room again, the arithmetic clock of a die is stepped by 100 MHz, stalling issue for at most 1 µs. -/
  | powerCapStep
  /-- DIE_IDLE (R36): A die with no resident workgroup automatically clock-gates its cores into PS2. -/
  | dieIdle
  /-- PS_REQ_PS3 (R37): Writing 3 to PART_CTL.PS_REQ records a PS3 request; when the last live partition asks, the device enters PS3 if no context is resident and otherwise refuses, setting PWR_STATE.REFUSED. -/
  | psReqPs3
  /-- PS_REQ_NONE (R37): Writing 0 to PART_CTL.PS_REQ withdraws the request and is a wake event that takes the package out of PS3. -/
  | psReqNone
  /-- PS3_ENTRY_COMPLETE (R37): The package finishes entering PS3 after closing its peer sessions, with compute dies power-gated and memory in self-refresh. -/
  | ps3EntryComplete
  /-- PS3_WAKE_COMPLETE (R37): Within 2 ms of a wake event the package is in PS0, every PS_REQ reads 0 and a waking access completes. -/
  | ps3WakeComplete
  /-- PARTITION_CREATE (R58): Writing a non-zero DIES to a deleted partition creates it, unless the dies overlap another live partition; a new Shroud secret is drawn. -/
  | partitionCreate
  /-- PARTITION_DELETE (R58): Writing 0 to DIES of a live partition kills its contexts, stops its queues with code 0x06, closes its sessions and starts zeroing its shadow slots and save regions. -/
  | partitionDelete
  /-- PARTITION_DELETE_COMPLETE (R58): Zeroing of a deleted partition's shadow slots and save regions ends and STATE becomes 0, within 1 ms. -/
  | partitionDeleteComplete
  /-- CONTEXT_KILL (R61): Writing 1 to CTX_CFG.KILL halts every warp of the context, cancels its engine operations, stops fetching its records and marks it killed. -/
  | contextKill
  /-- CONTEXT_FREE (R61): Once a killed context with VALID cleared has finished its halt and its shadow slot and save region are zeroed, its STATE returns to 0. -/
  | contextFree
  /-- EXPERT_DISABLE (R68): Clearing EXPERT_EN returns every expert field of the context to its default before the context next issues. -/
  | expertDisable
  /-- CXLP_SET_ENABLE (R45): A write that enables a CXLP_SET makes it far interleave set NUM of partition PART, unless its ports, capacities, partition or number break the rules. -/
  | cxlpSetEnable
  /-- CXLP_SET_DISABLE (R45): A write that disables or changes an enabled far set takes effect only while no page of its partition is mapped on it. -/
  | cxlpSetDisable
  /-- CXL_EXPANDER_TIMEOUT (R19): An expander that has not responded for 2 ms makes loads, atomics and table operations on its range fault ECC_UNCORR and engine operations set status bit 3, and raises a management event. -/
  | cxlExpanderTimeout
  /-- MEMORY_ERROR_CORRECTED (R17): A correctable error in a 32-byte sector is corrected, written back and counted. -/
  | memoryErrorCorrected
  /-- MEMORY_ERROR_UNCORRECTABLE (R17): An uncorrectable sector is marked poisoned, so later reads fault ECC_UNCORR, engines set status bit 3 and host reads return poisoned completions. -/
  | memoryErrorUncorrectable
  /-- WORKGROUP_STATE_ERROR (R220): An uncorrectable error in a workgroup's own storage kills that workgroup and relaunches it if IDEMPOTENT, or raises ECC_UNCORR at the CONTEXT rung. -/
  | workgroupStateError
  /-- HOST_MWIN_READ (R47): A host read through a memory window aperture is translated by the named context and served at the home slice, returning all ones for unmapped pages and a poisoned completion for poisoned sectors. -/
  | hostMwinRead
  /-- HOST_MWIN_WRITE (R47): A host write through a memory window aperture is translated and performed sector by sector at the home slice, or dropped and ERR set for an unmapped or protected page. -/
  | hostMwinWrite
  /-- HOST_COMPLETION_TIMEOUT (R148): A HOST request with no completion within 10 ms faults XLATE for loads and atomics, reports STORE_LATE for stores and sets status bit 0 for engines. -/
  | hostCompletionTimeout
  /-- SESSION_OPEN (R29): Writing 1 to OPEN of a peer session entry starts the link-control exchange that opens the session. -/
  | sessionOpen
  /-- SESSION_CLOSE (R29): Writing 0 to OPEN of a peer session entry closes the session, keeping GEN. -/
  | sessionClose
  /-- FLIT_RECEIVE (R25): A Stay port takes a 256-byte flit whole, checks its CRC and sequence number, sends a NAK on failure, and otherwise delivers its messages upward in SEQ order. -/
  | flitReceive
  /-- LINK_RETRAIN_COMPLETE (R25): A retraining port returns to the up state. -/
  | linkRetrainComplete
  /-- STAY_PORT_DOWN (R26): A port going down moves its planes' traffic to the next plane up and replays its unacknowledged flits there in their original order. -/
  | stayPortDown
  /-- PEER_RING_TIMEOUT (R32): A peer request with no response within the ring timeout declares the peer lost, failing outstanding work as R33 lays down and raising a management event. -/
  | peerRingTimeout
  /-- QUEUE_ENABLE (R49): Changing HQ_CFG.EN from 0 to 1 enables a command queue and resets HEAD and TAIL to 0. -/
  | queueEnable
  /-- QUEUE_RESUME (R55): Writing EN = 1 while EN reads 1 restarts a stopped queue, fetching again from record HEAD + 1. -/
  | queueResume
  /-- QUEUE_DISABLE (R55): Writing EN = 0 disables a command queue so that TAIL reads 0 and notifies are ignored. -/
  | queueDisable
  /-- HQ_STATUS_CLEAR (R49): Writing 1 to HQ_STATUS bit 8 clears the whole status register of a queue. -/
  | hqStatusClear
  /-- QUEUE_NOTIFY (R51): A host write of TAIL to a queue's notify page starts fetching of records HEAD + 1 onward, or stops the queue with overrun code 0x01. -/
  | queueNotify
  /-- RECORD_FETCH (R56): The device, in round robin over a partition's queues, starts the fetch of a queue's next record by reading its SEQ bytes. -/
  | recordFetch
  /-- SEQ_READ_RETURN (R56): The SEQ read returns; on a match the rest of the record is read, otherwise a retry is scheduled with doubling delay. -/
  | seqReadReturn
  /-- SEQ_RETRY_TIMER (R56): The retry delay of an unmatched SEQ expires and the SEQ bytes are read again. -/
  | seqRetryTimer
  /-- SEQ_STALL_TIMEOUT (R56): After 1 ms without a SEQ match, DEV_EVT bit 5 is set while polling continues. -/
  | seqStallTimeout
  /-- RECORD_PAYLOAD_RETURN (R55): Bytes 0x04–0xFF of a record arrive and the record is checked against R52 to R55 and the refusals of R85, entering Waiting or stopping the queue. -/
  | recordPayloadReturn
  /-- RECORD_WAIT_POLL (R75): Every 2 µs, or when a signal, SIGE or atomic changes it, the event word of a waiting record is re-read and the wait is checked. -/
  | recordWaitPoll
  /-- RECORD_START (R70): A record whose waits are met is accepted by the Mast and Starts: HQ_HEAD advances, the head write-back is made and progress vectors counted. -/
  | recordStart
  /-- RECORD_SIGNAL (R54): Once a record's work is complete, its signal increment is added to its event word as one release atomic, or the queue stops with code 0x08 on failure. -/
  | recordSignal
  /-- WORKGROUP_PLACE (R80): The Mast places the next workgroup of the launch first in priority order on a fitting core, reserving all of R78 at once, claiming blocks of four and raising starved launches' priority. -/
  | workgroupPlace
  /-- DRAIN_RESERVATION (R82): A workgroup that has found no core for 100 µs reserves the core with the most free resources in proportion to its demand. -/
  | drainReservation
  /-- COOP_DIE_RESERVE (R87): A waiting COOP_DIE launch takes a reservation on all its named dies at once when none of them holds a reservation. -/
  | coopDieReserve
  /-- JIB_CHUNK_COMPLETE (R139): The Jib finishes one 4 KiB chunk of a transform binding into scratchpad; after the last chunk of the last binding the workgroup's warps become ready. -/
  | jibChunkComplete
  /-- RESOURCE_RELEASE (R84): A warp's or workgroup's slots, registers, accumulators and scratchpad are released once its exits, stores and engine operations have settled. -/
  | resourceRelease
  /-- PACK_FLUSH_TIMEOUT (R92): A packing bin whose first item is PACK.FLUSH_NS old is flushed into a packed warp. -/
  | packFlushTimeout
  /-- SPLIT_LIFT (R97): A split whose readiness age reaches SCHED.AGE_LIMIT is lifted to first choice in its slot-group. -/
  | splitLift
  /-- RESULT_LANDS (R257): A variable-latency register result lands in its destination, releasing a parked split once all its results have landed. -/
  | resultLands
  /-- STORE_SETTLED (R210): A store is performed or dropped; a dropped store is recorded for late delivery as STORE_LATE. -/
  | storeSettled
  /-- YIELD_TIMEOUT (R281): 64 cycles after a YIELD the yielding split becomes ready again. -/
  | yieldTimeout
  /-- SLEEP_EXPIRY (R284): The 16·count cycles of a SLEEP run out and the split becomes ready. -/
  | sleepExpiry
  /-- WAITE_POLL (R300): Every 2 µs, or when a local signal changes it, the word a WAITE waits on is re-read as an acquire and the wait ends once it is at least the value. -/
  | waitePoll
  /-- QUAD_ATOMIC_WRITEBACK (R188): A quad atomic unit writes a held line back to its home slice within 2 µs of the operation. -/
  | quadAtomicWriteback
  /-- HALYARD_COMMIT (R167): A stripe's Halyard applies a received mutation, writing the row and node entries and committing with a stamp, and returns the lane's result. -/
  | halyardCommit
  /-- TABLE_RETIRE (R159): After STATE changes from 2 to 3, the home Halyard unmaps both regions, returns the pages, invalidates translations and sets STATE to 0. -/
  | tableRetire
  /-- NODE_READ_RETRY (R169): After an invalid node read, the read is repeated 64 fabric cycles later, and after 64 failures the operation is forwarded to the Halyard. -/
  | nodeReadRetry
  /-- TILE_LOAD_RETRY (R180): A failed tile-load attempt is repeated after 64 fabric cycles, and after 64 repeats the load gives up with status bit 4 or TILE_TORN. -/
  | tileLoadRetry
  /-- JOURNAL_APPLY (R179): A committed .aon tile store in a home-slice journal is written out, its version set to v + 2 and the entry freed within 1 µs. -/
  | journalApply
  /-- SHEET_CHUNK_COMPLETE (R348): The Sheet or Jib finishes a 4 KiB chunk of a CPY, GATH, XFRM or copy record and takes the next queued chunk in priority and age order. -/
  | sheetChunkComplete
  /-- MAINSAIL_GRANT (R393): Each cycle the quad's Mainsail grants passes of one reservation-table entry, chosen by age limit, HINT.PRI priority and age. -/
  | mainsailGrant
  /-- ENGINE_OPERATION_COMPLETE (R344): An engine operation completes: it releases its locks, delivers its byte count and ORs its status into its barrier object, completing the phase if due. -/
  | engineOperationComplete
  /-- BARRIER_STARVED (R347): Within 64 cycles of every live warp parking in BWAIT on CORE barriers with one FIXED and no engine work outstanding, BARRIER_STARVED is raised at the WORKGROUP rung. -/
  | barrierStarved
  /-- CONTEXT_SLICE_EXPIRY (R109): SLICE_US of the resident context runs out and it is switched out if another eligible context has at least its priority. -/
  | contextSliceExpiry
  /-- CONTEXT_PREEMPT (R109): After MIN_US of residency, an eligible context of higher priority starts a switch of the resident context. -/
  | contextPreempt
  /-- HALT_COMPLETE (R110): Every split of the halting context has stopped, stores are settled and engine operations stopped, and the exchange, or a kill's discard, follows. -/
  | haltComplete
  /-- EXCHANGE_COMPLETE (R110): The die's resident image has been exchanged with its shadow slot; job records are re-entered and the incoming context resumes. -/
  | exchangeComplete
  /-- WRITEBACK_COMPLETE (R110): The outgoing image has been written from the shadow slot to its save region and staging of the next image starts. -/
  | writebackComplete
  /-- STAGING_COMPLETE (R110): The next incoming image is staged into the shadow slot, letting a waiting switch proceed. -/
  | stagingComplete
  /-- TRANSLATION_INVALIDATE (R154): Writing GO in PART_XLTINV starts invalidation of one page or all translations of a context. -/
  | translationInvalidate
  /-- XLTINV_COMPLETE (R155): Invalidation ends: no translation cache of the partition holds the replaced entries and GO reads 0. -/
  | xltinvComplete
  /-- HANDLE_MINT (R426): A read of PART_HMINT returns the cache handle whose check value is computed from INDEX, GEN and the partition's secret. -/
  | handleMint
  /-- COUNTER_CLEAR (R67): Writing CNT_CLR clears all core counter sets or one partition's table counter sets. -/
  | counterClear
  /-- WARP_RUNG_ENTRY (R214): Once the warp's splits have stopped, its WARP frame is written and the handler split starts at the code's vector. -/
  | warpRungEntry
  /-- WORKGROUP_RUNG_ENTRY (R215): Once every live warp of the workgroup has stopped, their WORKGROUP frames are written and the handler runs in the lowest live warp. -/
  | workgroupRungEntry
  /-- CONTEXT_RUNG_ENTRY (R217): A fault at the CONTEXT rung halts and swaps out the context, marks it faulted, writes its summary and raises its MSI-X vector. -/
  | contextRungEntry
  /-- CONTEXT_RESUME (R217): A summary CMD of 1 makes a faulted context eligible again so its warps continue from their saved splits. -/
  | contextResume
  /-- WORKGROUP_END (R217): A summary CMD of 2 halts the faulting workgroup as under KILL and counts it as exited. -/
  | workgroupEnd
  /-- HANDLER_TIMEOUT (R219): A WARP or WORKGROUP handler that has not returned within its PART_LADDER time climbs as TIMEOUT to the next rung. -/
  | handlerTimeout
  /-- HOST_RESPONSE_TIMEOUT (R219): A pending context summary unanswered within CTX_MS climbs to the PARTITION rung. -/
  | hostResponseTimeout
  /-- PARTITION_RESET (R218): At the PARTITION rung firmware kills every context, stops every queue with code 0x06 and resets and zeroes the partition's cores, quads and engines. -/
  | partitionReset
  /-- PARTITION_RESET_TIMEOUT (R218): A partition reset that does not finish within PART_MS, or fails, escalates to a DEVICE-rung reset. -/
  | partitionResetTimeout
  /-- ROW_CACHE_EVICTION (R176): Any valid line of a core's row cache may be evicted at any moment, whether or not the cache is full, so that a later load refills from the home slice. -/
  | rowCacheEviction
  /-- POWER_LOSS (R36): Removal of power, by the host putting the package into D3cold or abruptly, puts it in the Off state with no state held, possibly losing lifetime counts gathered since the last append. -/
  | powerLoss
  /-- STAY_PORT_TRAINED (R44): A Stay port in the training state, entered when EN is set to 1 or after the port went down, finishes training and becomes up, so R26 may route its plane again. -/
  | stayPortTrained
  deriving DecidableEq, Repr

end Sys2Proof
end

