-- ==== Sys2Proof/Config.lean ====
section
/-! DEFINITION. What one device fixes and what the manual leaves open. A constant with a body is a figure of the
manual. An `opaque` constant is a FREE VALUE: nothing can be proved of it, so a statement holds whatever it is. -/
namespace Sys2Proof.Config

/-- Cycles of the arithmetic clock in one microsecond at 1.7 GHz (R36) (DESIGN CHOICE, log 74). -/
def cyclesPerUs : Nat := 1700

/-- Which of the values that R256 allows a source slice yields while a variable-latency write to it is pending:
of the instruction numbered `time`, operand `operand`, lane `lane`, slice `slice` (DESIGN CHOICE, log 1). -/
opaque pick (time operand lane slice : Nat) : Nat

/-- Which of the `count` moves that could happen next does happen, at the step numbered `turn` (DESIGN CHOICE, log 2). -/
opaque pickMove (turn count : Nat) : Nat

/-- The Shroud's check value of an index and a generation under the secret of the `draw`-th draw (R426; DESIGN CHOICE, log 1). -/
opaque shroudCheck (draw : Nat) (index : BitVec 32) (gen : BitVec 16) : BitVec 16

/-- What PART_HMINT reads while its partition is not live, at the `n`-th step (R426; DESIGN CHOICE, log 36). -/
opaque deadMint (n : Nat) : Word

/-- Does the signature of an image verify, `kind` true for a configuration image (the keys are the device's; R42, 
DESIGN CHOICE, log 3)? -/
opaque imageGood (kind : Bool) (image : List Byte) : Bool

/-- The version an image carries (R63; DESIGN CHOICE, log 3). -/
opaque imageVersion (kind : Bool) (image : List Byte) : BitVec 32

/-- The highest PWR_CAP.WATTS that a configuration image states (R43; DESIGN CHOICE, log 3). -/
opaque imageWatts (image : List Byte) : BitVec 16

/-- How training comes out in boot stage 4 at the `n`-th step: 0 well, 1 a memory fails, 2 a link fails (R42, R63; DESIGN CHOICE, log 1). -/
opaque training (n : Nat) : Nat

/-- The dies that a configuration image enables, the highest arithmetic clock it allows a die in MHz, the lanes it gives a
CXL port, and whether its plane map has the plane of a Stay port (R63; DESIGN CHOICE, log 3). -/
opaque imageDies (image : List Byte) : BitVec 4
opaque imageClock (image : List Byte) (die : Nat) : BitVec 16
opaque imageLanes (image : List Byte) (port : Nat) : BitVec 4
opaque imagePlane (image : List Byte) (port : Nat) : Bool

/-- Byte `k` of the payload that stands for the messages of a flit, whose layout R24 leaves open (DESIGN CHOICE, log 8). -/
opaque payloadByte (msgs : List PeerMsg) (k : Nat) : Byte

/-- What an encoding leaves in the bytes of a tile register outside its areas, at the `n`-th step (R388, R395; DESIGN CHOICE, log 18). -/
opaque tileRest (n : Nat) : BitVec 73984

/-- Credits that a Stay port holds ready for the other end of each virtual channel when its link comes up (R25; DESIGN CHOICE, log 8). -/
opaque portCredits (vc : Nat) : Nat

/-- A word of the lifetime record's read window where it shows no block, at the `n`-th step (R40, R66; DESIGN CHOICE, log 1). -/
opaque lifeWord (n offset : Nat) : Word

/-- The ECDSA P-521 signature of the identity key over a text (R65, R66; DESIGN CHOICE, log 3). -/
opaque signature (text : List Byte) : List Byte

/-- The SHA-512 digest of a text, 64 bytes (R65; DESIGN CHOICE, log 3). -/
opaque digest (text : List Byte) : BitVec 512

/-- The identity certificate readable at DEV_ID.CERT, its length and the stepping (R42, R65; DESIGN CHOICE, log 3). -/
opaque cert : List Byte
opaque stepping : BitVec 8

/-- Sensor `which` read at the `n`-th step (R43; DESIGN CHOICE, log 1): junctions of compute dies 0 to 3, of base dies 4 to 7, package
power 8. -/
opaque sensor (n which : Nat) : BitVec 16

end Sys2Proof.Config
end

