-- ==== Sys2Proof/WellFormed.lean ====
section
/-! DEFINITION. Well-formedness: the operand values the spec allows a row (widths and codes of R260 to R268, codes of
special registers). A coded word that is not well-formed still decodes; its meaning takes ILLEGAL_OP, ILLEGAL_WIDTH or
ILLEGAL_HINT (R272). -/
namespace Sys2Proof

/-- W codes that name a floating-point format (R260). -/
def isFmt (w : BitVec 3) : Bool := w == 3 || w == 4 || w == 5 || w == 7

/-- Element codes 0x6 and 0x8 to 0xD (R262, R312). -/
def isFloatCode (x : BitVec 4) : Bool := x == 6 || (decide (8 ≤ x) && decide (x ≤ 13))

/-- Control register numbers that the table of R290 assigns. -/
def isCsr (c : BitVec 12) : Bool :=
  decide (c ≤ 2) || (decide (0x10 ≤ c) && decide (c ≤ 0x17)) || (decide (0x100 ≤ c) && decide (c ≤ 0x104))

/-- The operand values the spec allows (R260 to R269); an event has no operands of its own. -/
def Instr.wf : Instr → Bool
  | .iadd _ _ _ _ _ _ => true
  | .isub _ _ _ _ _ _ => true
  | .imul _ _ _ _ _ _ => true
  | .imulh _ _ _ _ _ _ => true
  | .imulhu _ _ _ _ _ _ => true
  | .imad _ _ _ _ _ _ => true
  | .imin _ _ _ _ _ _ => true
  | .iminu _ _ _ _ _ _ => true
  | .imax _ _ _ _ _ _ => true
  | .imaxu _ _ _ _ _ _ => true
  | .and _ _ _ _ _ _ => true
  | .or _ _ _ _ _ _ => true
  | .xor _ _ _ _ _ _ => true
  | .shl _ _ _ _ _ _ => true
  | .shr _ _ _ _ _ _ => true
  | .sra _ _ _ _ _ _ => true
  | .fadd _ w _ _ _ _ => isFmt w
  | .fsub _ w _ _ _ _ => isFmt w
  | .fmul _ w _ _ _ _ => isFmt w
  | .ffma _ w _ _ _ _ => isFmt w
  | .fmin _ w _ _ _ _ => isFmt w
  | .fmax _ w _ _ _ _ => isFmt w
  | .shf _ _ _ _ _ _ => true
  | .shfx _ _ _ _ _ _ => true
  | .mov _ _ _ _ => true
  | .not _ _ _ _ => true
  | .neg _ w _ _ f => (f == 0 || isFmt w)
  | .abs _ w _ _ f => (f == 0 || isFmt w)
  | .popc _ _ _ _ => true
  | .clz _ _ _ _ => true
  | .ctz _ _ _ _ => true
  | .brev _ _ _ _ => true
  | .exts _ w _ _ x => decide (x < w)
  | .extz _ w _ _ x => decide (x < w)
  | .cvt _ w _ _ x => (isFmt w && x != 7 && x != 15)
  | .cvts _ w _ _ x => (isFmt w && isFloatCode x)
  | .icvt _ _ _ _ x => isFloatCode x
  | .ucvt _ _ _ _ x => isFloatCode x
  | .qhad _ w _ _ _ _ => (isFmt w && w != 7)
  | .frcp _ w _ _ => isFmt w
  | .frsq _ w _ _ => isFmt w
  | .fsqrt _ w _ _ => isFmt w
  | .fexp2 _ w _ _ => (isFmt w && w != 7)
  | .flog2 _ w _ _ => (isFmt w && w != 7)
  | .fsin _ w _ _ => (isFmt w && w != 7)
  | .fcos _ w _ _ => (isFmt w && w != 7)
  | .ftanh _ w _ _ => (isFmt w && w != 7)
  | .frnd _ w _ _ m => (isFmt w && decide (m < 4))
  | .fcls _ w _ _ => isFmt w
  | .laneid _ _ _ => true
  | .movu _ _ _ _ => true
  | .vmovi _ _ _ _ => true
  | .shli _ _ _ _ _ => true
  | .shri _ _ _ _ _ => true
  | .srai _ _ _ _ _ => true
  | .addi _ _ _ _ _ => true
  | .icmpEq _ _ _ _ _ _ => true
  | .icmpNe _ _ _ _ _ _ => true
  | .icmpLt _ _ _ _ _ _ => true
  | .icmpLe _ _ _ _ _ _ => true
  | .icmpLtu _ _ _ _ _ _ => true
  | .icmpLeu _ _ _ _ _ _ => true
  | .fcmpEq _ w _ _ _ _ => isFmt w
  | .fcmpNe _ w _ _ _ _ => isFmt w
  | .fcmpLt _ w _ _ _ _ => isFmt w
  | .fcmpLe _ w _ _ _ _ => isFmt w
  | .fcmpUn _ w _ _ _ _ => isFmt w
  | .sel _ _ _ _ _ _ => true
  | .vscan _ w _ _ f _ => (f == 0 || isFmt w)
  | .vscanx _ w _ _ f _ => (f == 0 || isFmt w)
  | .vred _ w _ _ f _ => (f == 0 || isFmt w)
  | .vredmax _ w _ _ f _ => (f == 0 || isFmt w)
  | .vredmin _ w _ _ f _ => (f == 0 || isFmt w)
  | .ballot _ _ _ => true
  | .vpopc _ _ _ _ => true
  | .shfu _ _ _ _ _ => true
  | .shfd _ _ _ _ _ => true
  | .shfxor _ _ _ _ _ => true
  | .pand _ _ _ _ _ => true
  | .por _ _ _ _ _ => true
  | .pxor _ _ _ _ _ => true
  | .pnot _ _ _ => true
  | .pmovv _ _ _ _ _ => true
  | .vmovp _ _ _ _ => true
  | .vfirst _ _ _ _ => true
  | .ld _ _ w _ _ x => (if x = 1 then w == 7 else w != 0 && w != 2)
  | .st _ _ w _ _ x => (if x = 1 then w == 7 else w != 0 && w != 2)
  | .ldl _ _ w _ _ => decide (w < 3)
  | .stc _ _ w _ _ => (w != 0 && w != 2)
  | .lds _ _ _ _ _ _ => true
  | .sts _ _ _ _ _ _ => true
  | .pref _ _ _ => true
  | .fence _ _ c _ => decide (c < 6)
  | .atomAdd _ c _ _ _ _ _ => decide (c < 6)
  | .atomMin _ c _ _ _ _ _ => decide (c < 6)
  | .atomMax _ c _ _ _ _ _ => decide (c < 6)
  | .atomMinu _ c _ _ _ _ _ => decide (c < 6)
  | .atomMaxu _ c _ _ _ _ _ => decide (c < 6)
  | .atomAnd _ c _ _ _ _ _ => decide (c < 6)
  | .atomOr _ c _ _ _ _ _ => decide (c < 6)
  | .atomXor _ c _ _ _ _ _ => decide (c < 6)
  | .atomExch _ c _ _ _ _ _ => decide (c < 6)
  | .atomCas _ c _ _ _ _ _ => decide (c < 6)
  | .atomFadd _ c _ _ _ _ _ => decide (c < 6)
  | .atomFmin _ c _ _ _ _ _ => decide (c < 6)
  | .atomFmax _ c _ _ _ _ _ => decide (c < 6)
  | .atomRedc _ c _ _ _ _ _ => decide (c < 6)
  | .atomInc _ c _ _ _ _ _ => decide (c < 6)
  | .sadd _ _ _ _ => true
  | .ssub _ _ _ _ => true
  | .smul _ _ _ _ => true
  | .smulh _ _ _ _ => true
  | .sand _ _ _ _ => true
  | .sor _ _ _ _ => true
  | .sxor _ _ _ _ => true
  | .sshl _ _ _ _ => true
  | .sshr _ _ _ _ => true
  | .ssra _ _ _ _ => true
  | .smin _ _ _ _ => true
  | .smax _ _ _ _ => true
  | .sminu _ _ _ _ => true
  | .smaxu _ _ _ _ => true
  | .seq _ _ _ _ => true
  | .slt _ _ _ _ => true
  | .sltu _ _ _ _ => true
  | .smovi _ _ _ => true
  | .slui _ _ _ => true
  | .spopc _ _ _ => true
  | .sclz _ _ _ => true
  | .sctz _ _ _ => true
  | .sbfx _ _ _ _ => true
  | .sbfi _ _ _ _ => true
  | .sread _ _ c => decide (c < 15)
  | .winImm _ _ => true
  | .winReg _ _ => true
  | .vtos _ _ _ => true
  | .sld _ _ _ x => decide (x < 2)
  | .sst _ _ _ x => decide (x < 2)
  | .saddi _ _ _ _ => true
  | .csrr _ _ c => isCsr c
  | .csrw _ _ c => isCsr c
  | .bra _ _ => true
  | .cbr _ _ _ _ => true
  | .brz _ _ _ => true
  | .brnz _ _ _ => true
  | .call _ _ => true
  | .ret _ => true
  | .brx _ _ => true
  | .exit _ _ _ => true
  | .yield _ _ => true
  | .joinw _ _ => true
  | .trap _ _ _ _ => true
  | .brk _ _ _ => true
  | .rett _ => true
  | .sleep _ _ => true
  | .nop _ => true
  | .binit _ _ _ => true
  | .barv _ _ _ _ => true
  | .bwait _ _ _ => true
  | .bexp _ _ _ => true
  | .btest _ _ _ _ => true
  | .bstat _ _ _ _ => true
  | .cpy _ d _ _ => (d != 63)
  | .gath _ d _ _ => (d != 63)
  | .xfrm _ d _ _ => (d != 63)
  | .tld _ _ _ _ => true
  | .tst _ _ _ _ _ => true
  | .tmov _ _ _ => true
  | .thdr _ _ d => decide (d ≤ 60)
  | .thset _ _ d => decide (d ≤ 60)
  | .tcvt _ _ _ _ => true
  | .tfill _ _ _ => true
  | .tdrn _ _ _ _ => true
  | .mma _ _ _ _ _ _ => true
  | .adrn _ _ _ _ _ => true
  | .afill _ _ _ _ => true
  | .tbnd _ _ => true
  | .prune _ _ _ _ => true
  | .ldh _ _ _ => true
  | .seth _ _ d => decide (d ≤ 56)
  | .sth _ _ _ => true
  | .tbind _ _ _ => true
  | .tget _ _ _ _ _ => true
  | .tgetx _ _ _ _ _ => true
  | .tins _ _ _ _ _ => true
  | .tinsx _ _ _ _ _ => true
  | .tups _ _ _ _ _ => true
  | .tdel _ _ _ _ => true
  | .tscan _ _ _ _ => true
  | .tnext _ _ _ _ _ => true
  | .tcnt _ _ _ _ => true
  | .tref _ _ _ _ => true
  | .href _ _ _ => true
  | .hbnd _ _ => true
  | .spawn _ _ _ _ _ => true
  | .qpush _ _ _ _ => true
  | .qpull _ _ _ _ => true
  | .qflush _ _ => true
  | .rsweep _ _ _ => true
  | .rdue _ _ _ _ => true
  | .rvisit _ _ _ _ _ => true
  | .rreadh _ _ _ _ => true
  | .rreadx _ _ _ _ => true
  | .rset _ _ _ _ => true
  | .pcnt _ _ _ => true
  | .waite _ _ _ => true
  | .sige _ _ _ => true
  | .flushrc _ => true
  | .hintImm _ => true
  | .hintImmhi _ => true
  | .hintGuard _ _ => true
  | .hintRnd m => decide (m < 5)
  | .hintSat => true
  | .hintOrd c _ => decide (c < 6)
  | .hintCache c => (c != 3)
  | .hintOffs _ => true
  | .hintCheck => true
  | .hintPri _ => true
  | .deviceReset => true
  | .registerWrite => true
  | .fwloadFirmware => true
  | .fwloadConfiguration => true
  | .fwloadComplete => true
  | .attestStart => true
  | .attestComplete => true
  | .lifetimeAppend => true
  | .thermalLimit105 => true
  | .thermalRecover => true
  | .thermalLimit115 => true
  | .powerCapStep => true
  | .dieIdle => true
  | .psReqPs3 => true
  | .psReqNone => true
  | .ps3EntryComplete => true
  | .ps3WakeComplete => true
  | .partitionCreate => true
  | .partitionDelete => true
  | .partitionDeleteComplete => true
  | .contextKill => true
  | .contextFree => true
  | .expertDisable => true
  | .cxlpSetEnable => true
  | .cxlpSetDisable => true
  | .cxlExpanderTimeout => true
  | .memoryErrorCorrected => true
  | .memoryErrorUncorrectable => true
  | .workgroupStateError => true
  | .hostMwinRead => true
  | .hostMwinWrite => true
  | .hostCompletionTimeout => true
  | .sessionOpen => true
  | .sessionClose => true
  | .flitReceive => true
  | .linkRetrainComplete => true
  | .stayPortDown => true
  | .peerRingTimeout => true
  | .queueEnable => true
  | .queueResume => true
  | .queueDisable => true
  | .hqStatusClear => true
  | .queueNotify => true
  | .recordFetch => true
  | .seqReadReturn => true
  | .seqRetryTimer => true
  | .seqStallTimeout => true
  | .recordPayloadReturn => true
  | .recordWaitPoll => true
  | .recordStart => true
  | .recordSignal => true
  | .workgroupPlace => true
  | .drainReservation => true
  | .coopDieReserve => true
  | .jibChunkComplete => true
  | .resourceRelease => true
  | .packFlushTimeout => true
  | .splitLift => true
  | .resultLands => true
  | .storeSettled => true
  | .yieldTimeout => true
  | .sleepExpiry => true
  | .waitePoll => true
  | .quadAtomicWriteback => true
  | .halyardCommit => true
  | .tableRetire => true
  | .nodeReadRetry => true
  | .tileLoadRetry => true
  | .journalApply => true
  | .sheetChunkComplete => true
  | .mainsailGrant => true
  | .engineOperationComplete => true
  | .barrierStarved => true
  | .contextSliceExpiry => true
  | .contextPreempt => true
  | .haltComplete => true
  | .exchangeComplete => true
  | .writebackComplete => true
  | .stagingComplete => true
  | .translationInvalidate => true
  | .xltinvComplete => true
  | .handleMint => true
  | .counterClear => true
  | .warpRungEntry => true
  | .workgroupRungEntry => true
  | .contextRungEntry => true
  | .contextResume => true
  | .workgroupEnd => true
  | .handlerTimeout => true
  | .hostResponseTimeout => true
  | .partitionReset => true
  | .partitionResetTimeout => true
  | .rowCacheEviction => true
  | .powerLoss => true
  | .stayPortTrained => true

end Sys2Proof
end

