-- ==== Sys2Proof/Decode.lean ====
section
/-! DEFINITION. The decoder, total on every 32-bit word (R253, R261 to R269, R272), and after it the encoder, written
from the same tables. A word of no row is answered by the name of its fate. Both work on the word as a number, field by
field, so that the round trip is linear arithmetic. -/
namespace Sys2Proof

/-- What one word decodes to. -/
inductive Decoded where
  | ok (i : Instr)
  /-- A reserved fn, op, kind or a field marked zero that is not (R272). -/
  | illegalOp
  /-- A W code that the row does not allow, where the row fixes W (R263, R311). -/
  | illegalWidth
  /-- A HINT word of an assigned kind with a payload bit marked zero that is set, or a reserved payload value
  (R271, R272): the run it stands in faults ILLEGAL_HINT. -/
  | badHint (kind : BitVec 5) (payload : BitVec 21)
  deriving DecidableEq, Repr

/-- The field of `n` bits at `lo`. -/
def fieldAt (n w lo : Nat) : BitVec n := BitVec.ofNat n (bits w lo n)

/-- V3 words, OP 0 to 23 (R261). -/
def decodeV3 (w op : Nat) : Decoded :=
  if op = 0 then .ok (.iadd (bits w 31 1 == 1) (fieldAt 3 w 23) (fieldAt 2 w 21) (fieldAt 7 w 14) (fieldAt 7 w 7) (fieldAt 7 w 0))
  else if op = 1 then .ok (.isub (bits w 31 1 == 1) (fieldAt 3 w 23) (fieldAt 2 w 21) (fieldAt 7 w 14) (fieldAt 7 w 7) (fieldAt 7 w 0))
  else if op = 2 then .ok (.imul (bits w 31 1 == 1) (fieldAt 3 w 23) (fieldAt 2 w 21) (fieldAt 7 w 14) (fieldAt 7 w 7) (fieldAt 7 w 0))
  else if op = 3 then .ok (.imulh (bits w 31 1 == 1) (fieldAt 3 w 23) (fieldAt 2 w 21) (fieldAt 7 w 14) (fieldAt 7 w 7) (fieldAt 7 w 0))
  else if op = 4 then .ok (.imulhu (bits w 31 1 == 1) (fieldAt 3 w 23) (fieldAt 2 w 21) (fieldAt 7 w 14) (fieldAt 7 w 7) (fieldAt 7 w 0))
  else if op = 5 then .ok (.imad (bits w 31 1 == 1) (fieldAt 3 w 23) (fieldAt 2 w 21) (fieldAt 7 w 14) (fieldAt 7 w 7) (fieldAt 7 w 0))
  else if op = 6 then .ok (.imin (bits w 31 1 == 1) (fieldAt 3 w 23) (fieldAt 2 w 21) (fieldAt 7 w 14) (fieldAt 7 w 7) (fieldAt 7 w 0))
  else if op = 7 then .ok (.iminu (bits w 31 1 == 1) (fieldAt 3 w 23) (fieldAt 2 w 21) (fieldAt 7 w 14) (fieldAt 7 w 7) (fieldAt 7 w 0))
  else if op = 8 then .ok (.imax (bits w 31 1 == 1) (fieldAt 3 w 23) (fieldAt 2 w 21) (fieldAt 7 w 14) (fieldAt 7 w 7) (fieldAt 7 w 0))
  else if op = 9 then .ok (.imaxu (bits w 31 1 == 1) (fieldAt 3 w 23) (fieldAt 2 w 21) (fieldAt 7 w 14) (fieldAt 7 w 7) (fieldAt 7 w 0))
  else if op = 10 then .ok (.and (bits w 31 1 == 1) (fieldAt 3 w 23) (fieldAt 2 w 21) (fieldAt 7 w 14) (fieldAt 7 w 7) (fieldAt 7 w 0))
  else if op = 11 then .ok (.or (bits w 31 1 == 1) (fieldAt 3 w 23) (fieldAt 2 w 21) (fieldAt 7 w 14) (fieldAt 7 w 7) (fieldAt 7 w 0))
  else if op = 12 then .ok (.xor (bits w 31 1 == 1) (fieldAt 3 w 23) (fieldAt 2 w 21) (fieldAt 7 w 14) (fieldAt 7 w 7) (fieldAt 7 w 0))
  else if op = 13 then .ok (.shl (bits w 31 1 == 1) (fieldAt 3 w 23) (fieldAt 2 w 21) (fieldAt 7 w 14) (fieldAt 7 w 7) (fieldAt 7 w 0))
  else if op = 14 then .ok (.shr (bits w 31 1 == 1) (fieldAt 3 w 23) (fieldAt 2 w 21) (fieldAt 7 w 14) (fieldAt 7 w 7) (fieldAt 7 w 0))
  else if op = 15 then .ok (.sra (bits w 31 1 == 1) (fieldAt 3 w 23) (fieldAt 2 w 21) (fieldAt 7 w 14) (fieldAt 7 w 7) (fieldAt 7 w 0))
  else if op = 16 then .ok (.fadd (bits w 31 1 == 1) (fieldAt 3 w 23) (fieldAt 2 w 21) (fieldAt 7 w 14) (fieldAt 7 w 7) (fieldAt 7 w 0))
  else if op = 17 then .ok (.fsub (bits w 31 1 == 1) (fieldAt 3 w 23) (fieldAt 2 w 21) (fieldAt 7 w 14) (fieldAt 7 w 7) (fieldAt 7 w 0))
  else if op = 18 then .ok (.fmul (bits w 31 1 == 1) (fieldAt 3 w 23) (fieldAt 2 w 21) (fieldAt 7 w 14) (fieldAt 7 w 7) (fieldAt 7 w 0))
  else if op = 19 then .ok (.ffma (bits w 31 1 == 1) (fieldAt 3 w 23) (fieldAt 2 w 21) (fieldAt 7 w 14) (fieldAt 7 w 7) (fieldAt 7 w 0))
  else if op = 20 then .ok (.fmin (bits w 31 1 == 1) (fieldAt 3 w 23) (fieldAt 2 w 21) (fieldAt 7 w 14) (fieldAt 7 w 7) (fieldAt 7 w 0))
  else if op = 21 then .ok (.fmax (bits w 31 1 == 1) (fieldAt 3 w 23) (fieldAt 2 w 21) (fieldAt 7 w 14) (fieldAt 7 w 7) (fieldAt 7 w 0))
  else if op = 22 then .ok (.shf (bits w 31 1 == 1) (fieldAt 3 w 23) (fieldAt 2 w 21) (fieldAt 7 w 14) (fieldAt 7 w 7) (fieldAt 7 w 0))
  else if op = 23 then .ok (.shfx (bits w 31 1 == 1) (fieldAt 3 w 23) (fieldAt 2 w 21) (fieldAt 7 w 14) (fieldAt 7 w 7) (fieldAt 7 w 0))
  else .illegalOp

/-- VU words (R262). -/
def decodeVU (w fn : Nat) : Decoded :=
  if fn = 0 ∧ bits w 0 4 = 0 then .ok (.mov (bits w 31 1 == 1) (fieldAt 3 w 18) (fieldAt 7 w 11) (fieldAt 7 w 4))
  else if fn = 1 ∧ bits w 0 4 = 0 then .ok (.not (bits w 31 1 == 1) (fieldAt 3 w 18) (fieldAt 7 w 11) (fieldAt 7 w 4))
  else if fn = 2 ∧ bits w 1 3 = 0 then .ok (.neg (bits w 31 1 == 1) (fieldAt 3 w 18) (fieldAt 7 w 11) (fieldAt 7 w 4) (fieldAt 1 w 0))
  else if fn = 3 ∧ bits w 1 3 = 0 then .ok (.abs (bits w 31 1 == 1) (fieldAt 3 w 18) (fieldAt 7 w 11) (fieldAt 7 w 4) (fieldAt 1 w 0))
  else if fn = 4 ∧ bits w 0 4 = 0 then .ok (.popc (bits w 31 1 == 1) (fieldAt 3 w 18) (fieldAt 7 w 11) (fieldAt 7 w 4))
  else if fn = 5 ∧ bits w 0 4 = 0 then .ok (.clz (bits w 31 1 == 1) (fieldAt 3 w 18) (fieldAt 7 w 11) (fieldAt 7 w 4))
  else if fn = 6 ∧ bits w 0 4 = 0 then .ok (.ctz (bits w 31 1 == 1) (fieldAt 3 w 18) (fieldAt 7 w 11) (fieldAt 7 w 4))
  else if fn = 7 ∧ bits w 0 4 = 0 then .ok (.brev (bits w 31 1 == 1) (fieldAt 3 w 18) (fieldAt 7 w 11) (fieldAt 7 w 4))
  else if fn = 8 ∧ bits w 3 1 = 0 then .ok (.exts (bits w 31 1 == 1) (fieldAt 3 w 18) (fieldAt 7 w 11) (fieldAt 7 w 4) (fieldAt 3 w 0))
  else if fn = 9 ∧ bits w 3 1 = 0 then .ok (.extz (bits w 31 1 == 1) (fieldAt 3 w 18) (fieldAt 7 w 11) (fieldAt 7 w 4) (fieldAt 3 w 0))
  else if fn = 10 then .ok (.cvt (bits w 31 1 == 1) (fieldAt 3 w 18) (fieldAt 7 w 11) (fieldAt 7 w 4) (fieldAt 4 w 0))
  else if fn = 11 then .ok (.cvts (bits w 31 1 == 1) (fieldAt 3 w 18) (fieldAt 7 w 11) (fieldAt 7 w 4) (fieldAt 4 w 0))
  else if fn = 12 then .ok (.icvt (bits w 31 1 == 1) (fieldAt 3 w 18) (fieldAt 7 w 11) (fieldAt 7 w 4) (fieldAt 4 w 0))
  else if fn = 13 then .ok (.ucvt (bits w 31 1 == 1) (fieldAt 3 w 18) (fieldAt 7 w 11) (fieldAt 7 w 4) (fieldAt 4 w 0))
  else if fn = 14 then .ok (.qhad (bits w 31 1 == 1) (fieldAt 3 w 18) (fieldAt 7 w 11) (fieldAt 7 w 4) (fieldAt 1 w 3) (fieldAt 3 w 0))
  else if fn = 15 ∧ bits w 0 4 = 0 then .ok (.frcp (bits w 31 1 == 1) (fieldAt 3 w 18) (fieldAt 7 w 11) (fieldAt 7 w 4))
  else if fn = 16 ∧ bits w 0 4 = 0 then .ok (.frsq (bits w 31 1 == 1) (fieldAt 3 w 18) (fieldAt 7 w 11) (fieldAt 7 w 4))
  else if fn = 17 ∧ bits w 0 4 = 0 then .ok (.fsqrt (bits w 31 1 == 1) (fieldAt 3 w 18) (fieldAt 7 w 11) (fieldAt 7 w 4))
  else if fn = 18 ∧ bits w 0 4 = 0 then .ok (.fexp2 (bits w 31 1 == 1) (fieldAt 3 w 18) (fieldAt 7 w 11) (fieldAt 7 w 4))
  else if fn = 19 ∧ bits w 0 4 = 0 then .ok (.flog2 (bits w 31 1 == 1) (fieldAt 3 w 18) (fieldAt 7 w 11) (fieldAt 7 w 4))
  else if fn = 20 ∧ bits w 0 4 = 0 then .ok (.fsin (bits w 31 1 == 1) (fieldAt 3 w 18) (fieldAt 7 w 11) (fieldAt 7 w 4))
  else if fn = 21 ∧ bits w 0 4 = 0 then .ok (.fcos (bits w 31 1 == 1) (fieldAt 3 w 18) (fieldAt 7 w 11) (fieldAt 7 w 4))
  else if fn = 22 ∧ bits w 0 4 = 0 then .ok (.ftanh (bits w 31 1 == 1) (fieldAt 3 w 18) (fieldAt 7 w 11) (fieldAt 7 w 4))
  else if fn = 23 ∧ bits w 3 1 = 0 then .ok (.frnd (bits w 31 1 == 1) (fieldAt 3 w 18) (fieldAt 7 w 11) (fieldAt 7 w 4) (fieldAt 3 w 0))
  else if fn = 24 ∧ bits w 0 4 = 0 then .ok (.fcls (bits w 31 1 == 1) (fieldAt 3 w 18) (fieldAt 7 w 11) (fieldAt 7 w 4))
  else if fn = 25 ∧ bits w 0 11 = 0 then .ok (.laneid (bits w 31 1 == 1) (fieldAt 3 w 18) (fieldAt 7 w 11))
  else if fn = 26 ∧ bits w 0 4 = 0 ∧ bits w 10 1 = 0 then .ok (.movu (bits w 31 1 == 1) (fieldAt 3 w 18) (fieldAt 7 w 11) (fieldAt 6 w 4))
  else if fn = 27 then .ok (.vmovi (bits w 31 1 == 1) (fieldAt 3 w 18) (fieldAt 7 w 11) (fieldAt 11 w 0))
  else if fn = 28 then .ok (.shli (bits w 31 1 == 1) (fieldAt 3 w 18) (fieldAt 7 w 11) (fieldAt 7 w 4) (fieldAt 4 w 0))
  else if fn = 29 then .ok (.shri (bits w 31 1 == 1) (fieldAt 3 w 18) (fieldAt 7 w 11) (fieldAt 7 w 4) (fieldAt 4 w 0))
  else if fn = 30 then .ok (.srai (bits w 31 1 == 1) (fieldAt 3 w 18) (fieldAt 7 w 11) (fieldAt 7 w 4) (fieldAt 4 w 0))
  else if fn = 31 then .ok (.addi (bits w 31 1 == 1) (fieldAt 3 w 18) (fieldAt 7 w 11) (fieldAt 7 w 4) (fieldAt 4 w 0))
  else if (fn = 8 ∨ fn = 9) ∧ bits w 3 1 = 1 then .illegalWidth
  else .illegalOp

/-- VC words (R263). -/
def decodeVC (w fn : Nat) : Decoded :=
  if fn = 0 then .ok (.icmpEq (bits w 31 1 == 1) (fieldAt 3 w 18) (fieldAt 7 w 11) (fieldAt 7 w 4) (fieldAt 1 w 3) (fieldAt 3 w 0))
  else if fn = 1 then .ok (.icmpNe (bits w 31 1 == 1) (fieldAt 3 w 18) (fieldAt 7 w 11) (fieldAt 7 w 4) (fieldAt 1 w 3) (fieldAt 3 w 0))
  else if fn = 2 then .ok (.icmpLt (bits w 31 1 == 1) (fieldAt 3 w 18) (fieldAt 7 w 11) (fieldAt 7 w 4) (fieldAt 1 w 3) (fieldAt 3 w 0))
  else if fn = 3 then .ok (.icmpLe (bits w 31 1 == 1) (fieldAt 3 w 18) (fieldAt 7 w 11) (fieldAt 7 w 4) (fieldAt 1 w 3) (fieldAt 3 w 0))
  else if fn = 4 then .ok (.icmpLtu (bits w 31 1 == 1) (fieldAt 3 w 18) (fieldAt 7 w 11) (fieldAt 7 w 4) (fieldAt 1 w 3) (fieldAt 3 w 0))
  else if fn = 5 then .ok (.icmpLeu (bits w 31 1 == 1) (fieldAt 3 w 18) (fieldAt 7 w 11) (fieldAt 7 w 4) (fieldAt 1 w 3) (fieldAt 3 w 0))
  else if fn = 6 then .ok (.fcmpEq (bits w 31 1 == 1) (fieldAt 3 w 18) (fieldAt 7 w 11) (fieldAt 7 w 4) (fieldAt 1 w 3) (fieldAt 3 w 0))
  else if fn = 7 then .ok (.fcmpNe (bits w 31 1 == 1) (fieldAt 3 w 18) (fieldAt 7 w 11) (fieldAt 7 w 4) (fieldAt 1 w 3) (fieldAt 3 w 0))
  else if fn = 8 then .ok (.fcmpLt (bits w 31 1 == 1) (fieldAt 3 w 18) (fieldAt 7 w 11) (fieldAt 7 w 4) (fieldAt 1 w 3) (fieldAt 3 w 0))
  else if fn = 9 then .ok (.fcmpLe (bits w 31 1 == 1) (fieldAt 3 w 18) (fieldAt 7 w 11) (fieldAt 7 w 4) (fieldAt 1 w 3) (fieldAt 3 w 0))
  else if fn = 10 then .ok (.fcmpUn (bits w 31 1 == 1) (fieldAt 3 w 18) (fieldAt 7 w 11) (fieldAt 7 w 4) (fieldAt 1 w 3) (fieldAt 3 w 0))
  else if fn = 11 then .ok (.sel (bits w 31 1 == 1) (fieldAt 3 w 18) (fieldAt 7 w 11) (fieldAt 7 w 4) (fieldAt 1 w 3) (fieldAt 3 w 0))
  else if fn = 12 then .ok (.vscan (bits w 31 1 == 1) (fieldAt 3 w 18) (fieldAt 7 w 11) (fieldAt 7 w 4) (fieldAt 1 w 3) (fieldAt 3 w 0))
  else if fn = 13 then .ok (.vscanx (bits w 31 1 == 1) (fieldAt 3 w 18) (fieldAt 7 w 11) (fieldAt 7 w 4) (fieldAt 1 w 3) (fieldAt 3 w 0))
  else if fn = 14 then .ok (.vred (bits w 31 1 == 1) (fieldAt 3 w 18) (fieldAt 7 w 11) (fieldAt 7 w 4) (fieldAt 1 w 3) (fieldAt 3 w 0))
  else if fn = 15 then .ok (.vredmax (bits w 31 1 == 1) (fieldAt 3 w 18) (fieldAt 7 w 11) (fieldAt 7 w 4) (fieldAt 1 w 3) (fieldAt 3 w 0))
  else if fn = 16 then .ok (.vredmin (bits w 31 1 == 1) (fieldAt 3 w 18) (fieldAt 7 w 11) (fieldAt 7 w 4) (fieldAt 1 w 3) (fieldAt 3 w 0))
  else if fn = 17 ∧ bits w 3 8 = 0 then (if bits w 18 3 = 5 then .ok (.ballot (bits w 31 1 == 1) (fieldAt 7 w 11) (fieldAt 3 w 0)) else .illegalWidth)
  else if fn = 18 ∧ bits w 3 8 = 0 then .ok (.vpopc (bits w 31 1 == 1) (fieldAt 3 w 18) (fieldAt 7 w 11) (fieldAt 3 w 0))
  else if fn = 19 then .ok (.shfu (bits w 31 1 == 1) (fieldAt 3 w 18) (fieldAt 7 w 11) (fieldAt 7 w 4) (fieldAt 4 w 0))
  else if fn = 20 then .ok (.shfd (bits w 31 1 == 1) (fieldAt 3 w 18) (fieldAt 7 w 11) (fieldAt 7 w 4) (fieldAt 4 w 0))
  else if fn = 21 then .ok (.shfxor (bits w 31 1 == 1) (fieldAt 3 w 18) (fieldAt 7 w 11) (fieldAt 7 w 4) (fieldAt 4 w 0))
  else if fn = 22 ∧ bits w 7 4 = 0 ∧ bits w 14 4 = 0 then (if bits w 18 3 = 0 then .ok (.pand (bits w 31 1 == 1) (fieldAt 3 w 11) (fieldAt 3 w 4) (fieldAt 1 w 3) (fieldAt 3 w 0)) else .illegalWidth)
  else if fn = 23 ∧ bits w 7 4 = 0 ∧ bits w 14 4 = 0 then (if bits w 18 3 = 0 then .ok (.por (bits w 31 1 == 1) (fieldAt 3 w 11) (fieldAt 3 w 4) (fieldAt 1 w 3) (fieldAt 3 w 0)) else .illegalWidth)
  else if fn = 24 ∧ bits w 7 4 = 0 ∧ bits w 14 4 = 0 then (if bits w 18 3 = 0 then .ok (.pxor (bits w 31 1 == 1) (fieldAt 3 w 11) (fieldAt 3 w 4) (fieldAt 1 w 3) (fieldAt 3 w 0)) else .illegalWidth)
  else if fn = 25 ∧ bits w 3 8 = 0 ∧ bits w 14 4 = 0 then (if bits w 18 3 = 0 then .ok (.pnot (bits w 31 1 == 1) (fieldAt 3 w 11) (fieldAt 3 w 0)) else .illegalWidth)
  else if fn = 26 ∧ bits w 11 7 = 0 then .ok (.pmovv (bits w 31 1 == 1) (fieldAt 3 w 18) (fieldAt 7 w 4) (fieldAt 1 w 3) (fieldAt 3 w 0))
  else if fn = 27 ∧ bits w 3 8 = 0 then .ok (.vmovp (bits w 31 1 == 1) (fieldAt 3 w 18) (fieldAt 7 w 11) (fieldAt 3 w 0))
  else if fn = 28 ∧ bits w 3 8 = 0 then .ok (.vfirst (bits w 31 1 == 1) (fieldAt 3 w 18) (fieldAt 7 w 11) (fieldAt 3 w 0))
  else .illegalOp

/-- MEM words (R264). -/
def decodeMEM (w fn : Nat) : Decoded :=
  if fn = 0 then .ok (.ld (bits w 31 1 == 1) (fieldAt 3 w 18) (fieldAt 3 w 15) (fieldAt 7 w 8) (fieldAt 7 w 1) (fieldAt 1 w 0))
  else if fn = 1 then .ok (.st (bits w 31 1 == 1) (fieldAt 3 w 18) (fieldAt 3 w 15) (fieldAt 7 w 8) (fieldAt 7 w 1) (fieldAt 1 w 0))
  else if fn = 2 ∧ bits w 0 1 = 0 then .ok (.ldl (bits w 31 1 == 1) (fieldAt 3 w 18) (fieldAt 3 w 15) (fieldAt 7 w 8) (fieldAt 7 w 1))
  else if fn = 3 ∧ bits w 0 1 = 0 then .ok (.stc (bits w 31 1 == 1) (fieldAt 3 w 18) (fieldAt 3 w 15) (fieldAt 7 w 8) (fieldAt 7 w 1))
  else if fn = 4 then .ok (.lds (bits w 31 1 == 1) (fieldAt 3 w 18) (fieldAt 3 w 15) (fieldAt 7 w 8) (fieldAt 7 w 1) (fieldAt 1 w 0))
  else if fn = 5 then .ok (.sts (bits w 31 1 == 1) (fieldAt 3 w 18) (fieldAt 3 w 15) (fieldAt 7 w 8) (fieldAt 7 w 1) (fieldAt 1 w 0))
  else if fn = 6 ∧ bits w 0 1 = 0 ∧ bits w 8 10 = 0 then .ok (.pref (bits w 31 1 == 1) (fieldAt 3 w 18) (fieldAt 7 w 1))
  else if fn = 7 ∧ bits w 0 8 = 0 ∧ bits w 13 5 = 0 then .ok (.fence (bits w 31 1 == 1) (fieldAt 3 w 18) (fieldAt 3 w 10) (fieldAt 2 w 8))
  else .illegalOp

/-- ATOM words (R265). -/
def decodeATOM (w fn : Nat) : Decoded :=
  if fn = 0 then .ok (.atomAdd (bits w 31 1 == 1) (fieldAt 3 w 19) (fieldAt 3 w 16) (fieldAt 1 w 15) (fieldAt 7 w 8) (fieldAt 7 w 1) (fieldAt 1 w 0))
  else if fn = 1 then .ok (.atomMin (bits w 31 1 == 1) (fieldAt 3 w 19) (fieldAt 3 w 16) (fieldAt 1 w 15) (fieldAt 7 w 8) (fieldAt 7 w 1) (fieldAt 1 w 0))
  else if fn = 2 then .ok (.atomMax (bits w 31 1 == 1) (fieldAt 3 w 19) (fieldAt 3 w 16) (fieldAt 1 w 15) (fieldAt 7 w 8) (fieldAt 7 w 1) (fieldAt 1 w 0))
  else if fn = 3 then .ok (.atomMinu (bits w 31 1 == 1) (fieldAt 3 w 19) (fieldAt 3 w 16) (fieldAt 1 w 15) (fieldAt 7 w 8) (fieldAt 7 w 1) (fieldAt 1 w 0))
  else if fn = 4 then .ok (.atomMaxu (bits w 31 1 == 1) (fieldAt 3 w 19) (fieldAt 3 w 16) (fieldAt 1 w 15) (fieldAt 7 w 8) (fieldAt 7 w 1) (fieldAt 1 w 0))
  else if fn = 5 then .ok (.atomAnd (bits w 31 1 == 1) (fieldAt 3 w 19) (fieldAt 3 w 16) (fieldAt 1 w 15) (fieldAt 7 w 8) (fieldAt 7 w 1) (fieldAt 1 w 0))
  else if fn = 6 then .ok (.atomOr (bits w 31 1 == 1) (fieldAt 3 w 19) (fieldAt 3 w 16) (fieldAt 1 w 15) (fieldAt 7 w 8) (fieldAt 7 w 1) (fieldAt 1 w 0))
  else if fn = 7 then .ok (.atomXor (bits w 31 1 == 1) (fieldAt 3 w 19) (fieldAt 3 w 16) (fieldAt 1 w 15) (fieldAt 7 w 8) (fieldAt 7 w 1) (fieldAt 1 w 0))
  else if fn = 8 then .ok (.atomExch (bits w 31 1 == 1) (fieldAt 3 w 19) (fieldAt 3 w 16) (fieldAt 1 w 15) (fieldAt 7 w 8) (fieldAt 7 w 1) (fieldAt 1 w 0))
  else if fn = 9 then .ok (.atomCas (bits w 31 1 == 1) (fieldAt 3 w 19) (fieldAt 3 w 16) (fieldAt 1 w 15) (fieldAt 7 w 8) (fieldAt 7 w 1) (fieldAt 1 w 0))
  else if fn = 10 then .ok (.atomFadd (bits w 31 1 == 1) (fieldAt 3 w 19) (fieldAt 3 w 16) (fieldAt 1 w 15) (fieldAt 7 w 8) (fieldAt 7 w 1) (fieldAt 1 w 0))
  else if fn = 11 then .ok (.atomFmin (bits w 31 1 == 1) (fieldAt 3 w 19) (fieldAt 3 w 16) (fieldAt 1 w 15) (fieldAt 7 w 8) (fieldAt 7 w 1) (fieldAt 1 w 0))
  else if fn = 12 then .ok (.atomFmax (bits w 31 1 == 1) (fieldAt 3 w 19) (fieldAt 3 w 16) (fieldAt 1 w 15) (fieldAt 7 w 8) (fieldAt 7 w 1) (fieldAt 1 w 0))
  else if fn = 13 then .ok (.atomRedc (bits w 31 1 == 1) (fieldAt 3 w 19) (fieldAt 3 w 16) (fieldAt 1 w 15) (fieldAt 7 w 8) (fieldAt 7 w 1) (fieldAt 1 w 0))
  else if fn = 14 then .ok (.atomInc (bits w 31 1 == 1) (fieldAt 3 w 19) (fieldAt 3 w 16) (fieldAt 1 w 15) (fieldAt 7 w 8) (fieldAt 7 w 1) (fieldAt 1 w 0))
  else .illegalOp

/-- UNI words (R266). -/
def decodeUNI (w fn : Nat) : Decoded :=
  if fn = 0 ∧ bits w 0 2 = 0 then .ok (.sadd (bits w 31 1 == 1) (fieldAt 6 w 14) (fieldAt 6 w 8) (fieldAt 6 w 2))
  else if fn = 1 ∧ bits w 0 2 = 0 then .ok (.ssub (bits w 31 1 == 1) (fieldAt 6 w 14) (fieldAt 6 w 8) (fieldAt 6 w 2))
  else if fn = 2 ∧ bits w 0 2 = 0 then .ok (.smul (bits w 31 1 == 1) (fieldAt 6 w 14) (fieldAt 6 w 8) (fieldAt 6 w 2))
  else if fn = 3 ∧ bits w 0 2 = 0 then .ok (.smulh (bits w 31 1 == 1) (fieldAt 6 w 14) (fieldAt 6 w 8) (fieldAt 6 w 2))
  else if fn = 4 ∧ bits w 0 2 = 0 then .ok (.sand (bits w 31 1 == 1) (fieldAt 6 w 14) (fieldAt 6 w 8) (fieldAt 6 w 2))
  else if fn = 5 ∧ bits w 0 2 = 0 then .ok (.sor (bits w 31 1 == 1) (fieldAt 6 w 14) (fieldAt 6 w 8) (fieldAt 6 w 2))
  else if fn = 6 ∧ bits w 0 2 = 0 then .ok (.sxor (bits w 31 1 == 1) (fieldAt 6 w 14) (fieldAt 6 w 8) (fieldAt 6 w 2))
  else if fn = 7 ∧ bits w 0 2 = 0 then .ok (.sshl (bits w 31 1 == 1) (fieldAt 6 w 14) (fieldAt 6 w 8) (fieldAt 6 w 2))
  else if fn = 8 ∧ bits w 0 2 = 0 then .ok (.sshr (bits w 31 1 == 1) (fieldAt 6 w 14) (fieldAt 6 w 8) (fieldAt 6 w 2))
  else if fn = 9 ∧ bits w 0 2 = 0 then .ok (.ssra (bits w 31 1 == 1) (fieldAt 6 w 14) (fieldAt 6 w 8) (fieldAt 6 w 2))
  else if fn = 10 ∧ bits w 0 2 = 0 then .ok (.smin (bits w 31 1 == 1) (fieldAt 6 w 14) (fieldAt 6 w 8) (fieldAt 6 w 2))
  else if fn = 11 ∧ bits w 0 2 = 0 then .ok (.smax (bits w 31 1 == 1) (fieldAt 6 w 14) (fieldAt 6 w 8) (fieldAt 6 w 2))
  else if fn = 12 ∧ bits w 0 2 = 0 then .ok (.sminu (bits w 31 1 == 1) (fieldAt 6 w 14) (fieldAt 6 w 8) (fieldAt 6 w 2))
  else if fn = 13 ∧ bits w 0 2 = 0 then .ok (.smaxu (bits w 31 1 == 1) (fieldAt 6 w 14) (fieldAt 6 w 8) (fieldAt 6 w 2))
  else if fn = 14 ∧ bits w 0 2 = 0 then .ok (.seq (bits w 31 1 == 1) (fieldAt 6 w 14) (fieldAt 6 w 8) (fieldAt 6 w 2))
  else if fn = 15 ∧ bits w 0 2 = 0 then .ok (.slt (bits w 31 1 == 1) (fieldAt 6 w 14) (fieldAt 6 w 8) (fieldAt 6 w 2))
  else if fn = 16 ∧ bits w 0 2 = 0 then .ok (.sltu (bits w 31 1 == 1) (fieldAt 6 w 14) (fieldAt 6 w 8) (fieldAt 6 w 2))
  else if fn = 17 then .ok (.smovi (bits w 31 1 == 1) (fieldAt 6 w 14) (fieldAt 14 w 0))
  else if fn = 18 then .ok (.slui (bits w 31 1 == 1) (fieldAt 6 w 14) (fieldAt 14 w 0))
  else if fn = 19 ∧ bits w 0 8 = 0 then .ok (.spopc (bits w 31 1 == 1) (fieldAt 6 w 14) (fieldAt 6 w 8))
  else if fn = 20 ∧ bits w 0 8 = 0 then .ok (.sclz (bits w 31 1 == 1) (fieldAt 6 w 14) (fieldAt 6 w 8))
  else if fn = 21 ∧ bits w 0 8 = 0 then .ok (.sctz (bits w 31 1 == 1) (fieldAt 6 w 14) (fieldAt 6 w 8))
  else if fn = 22 ∧ bits w 0 2 = 0 then .ok (.sbfx (bits w 31 1 == 1) (fieldAt 6 w 14) (fieldAt 6 w 8) (fieldAt 6 w 2))
  else if fn = 23 ∧ bits w 0 2 = 0 then .ok (.sbfi (bits w 31 1 == 1) (fieldAt 6 w 14) (fieldAt 6 w 8) (fieldAt 6 w 2))
  else if fn = 24 ∧ bits w 0 8 = 0 then .ok (.sread (bits w 31 1 == 1) (fieldAt 6 w 14) (fieldAt 6 w 8))
  else if fn = 25 ∧ bits w 0 8 = 0 ∧ bits w 13 7 = 0 then .ok (.winImm (bits w 31 1 == 1) (fieldAt 5 w 8))
  else if fn = 25 ∧ bits w 0 8 = 1 ∧ bits w 14 6 = 0 then .ok (.winReg (bits w 31 1 == 1) (fieldAt 6 w 8))
  else if fn = 26 ∧ bits w 0 7 = 0 then .ok (.vtos (bits w 31 1 == 1) (fieldAt 6 w 14) (fieldAt 7 w 7))
  else if fn = 27 ∧ bits w 2 6 = 0 then .ok (.sld (bits w 31 1 == 1) (fieldAt 6 w 14) (fieldAt 6 w 8) (fieldAt 2 w 0))
  else if fn = 28 ∧ bits w 2 6 = 0 then .ok (.sst (bits w 31 1 == 1) (fieldAt 6 w 14) (fieldAt 6 w 8) (fieldAt 2 w 0))
  else if fn = 29 then .ok (.saddi (bits w 31 1 == 1) (fieldAt 6 w 14) (fieldAt 6 w 8) (fieldAt 8 w 0))
  else if fn = 30 ∧ bits w 0 2 = 0 then .ok (.csrr (bits w 31 1 == 1) (fieldAt 6 w 14) (fieldAt 12 w 2))
  else if fn = 31 ∧ bits w 0 2 = 0 then .ok (.csrw (bits w 31 1 == 1) (fieldAt 6 w 14) (fieldAt 12 w 2))
  else .illegalOp

/-- CTRL words (R267). -/
def decodeCTRL (w fn : Nat) : Decoded :=
  if fn = 0 ∧ bits w 18 4 = 14 then .ok (.bra (bits w 31 1 == 1) (fieldAt 18 w 0))
  else if fn = 1 then .ok (.cbr (bits w 31 1 == 1) (fieldAt 3 w 19) (fieldAt 1 w 18) (fieldAt 18 w 0))
  else if fn = 2 ∧ bits w 18 4 = 14 then .ok (.brz (bits w 31 1 == 1) (fieldAt 6 w 12) (fieldAt 12 w 0))
  else if fn = 3 ∧ bits w 18 4 = 14 then .ok (.brnz (bits w 31 1 == 1) (fieldAt 6 w 12) (fieldAt 12 w 0))
  else if fn = 4 ∧ bits w 18 4 = 14 then .ok (.call (bits w 31 1 == 1) (fieldAt 18 w 0))
  else if fn = 5 ∧ bits w 0 22 = 3670016 then .ok (.ret (bits w 31 1 == 1))
  else if fn = 6 ∧ bits w 6 16 = 57344 then .ok (.brx (bits w 31 1 == 1) (fieldAt 6 w 0))
  else if fn = 7 ∧ bits w 0 18 = 0 then .ok (.exit (bits w 31 1 == 1) (fieldAt 3 w 19) (fieldAt 1 w 18))
  else if fn = 8 ∧ bits w 18 4 = 14 then .ok (.yield (bits w 31 1 == 1) (fieldAt 18 w 0))
  else if fn = 9 ∧ bits w 18 4 = 14 then .ok (.joinw (bits w 31 1 == 1) (fieldAt 18 w 0))
  else if fn = 10 then .ok (.trap (bits w 31 1 == 1) (fieldAt 3 w 19) (fieldAt 1 w 18) (fieldAt 18 w 0))
  else if fn = 11 ∧ bits w 0 18 = 0 then .ok (.brk (bits w 31 1 == 1) (fieldAt 3 w 19) (fieldAt 1 w 18))
  else if fn = 12 ∧ bits w 0 22 = 3670016 then .ok (.rett (bits w 31 1 == 1))
  else if fn = 13 ∧ bits w 18 4 = 14 then .ok (.sleep (bits w 31 1 == 1) (fieldAt 18 w 0))
  else if fn = 14 ∧ bits w 0 22 = 0 then .ok (.nop (bits w 31 1 == 1))
  else .illegalOp

/-- ENG words (R268). -/
def decodeENG (w fn : Nat) : Decoded :=
  if fn = 0 ∧ bits w 0 8 = 0 then .ok (.binit (bits w 31 1 == 1) (fieldAt 6 w 14) (fieldAt 6 w 8))
  else if fn = 1 ∧ bits w 0 5 = 0 then .ok (.barv (bits w 31 1 == 1) (fieldAt 6 w 14) (fieldAt 6 w 8) (fieldAt 3 w 5))
  else if fn = 2 ∧ bits w 0 8 = 0 then .ok (.bwait (bits w 31 1 == 1) (fieldAt 6 w 14) (fieldAt 6 w 8))
  else if fn = 3 ∧ bits w 0 8 = 0 then .ok (.bexp (bits w 31 1 == 1) (fieldAt 6 w 14) (fieldAt 6 w 8))
  else if fn = 4 ∧ bits w 0 5 = 0 then .ok (.btest (bits w 31 1 == 1) (fieldAt 6 w 14) (fieldAt 6 w 8) (fieldAt 3 w 5))
  else if fn = 5 ∧ bits w 1 7 = 0 then .ok (.bstat (bits w 31 1 == 1) (fieldAt 6 w 14) (fieldAt 6 w 8) (fieldAt 1 w 0))
  else if fn = 6 ∧ bits w 0 2 = 0 then .ok (.cpy (bits w 31 1 == 1) (fieldAt 6 w 14) (fieldAt 6 w 8) (fieldAt 6 w 2))
  else if fn = 7 ∧ bits w 0 2 = 0 then .ok (.gath (bits w 31 1 == 1) (fieldAt 6 w 14) (fieldAt 6 w 8) (fieldAt 6 w 2))
  else if fn = 8 ∧ bits w 0 2 = 0 then .ok (.xfrm (bits w 31 1 == 1) (fieldAt 6 w 14) (fieldAt 6 w 8) (fieldAt 6 w 2))
  else if fn = 9 ∧ bits w 0 4 = 0 then .ok (.tld (bits w 31 1 == 1) (fieldAt 4 w 16) (fieldAt 6 w 10) (fieldAt 6 w 4))
  else if fn = 10 ∧ bits w 1 3 = 0 then .ok (.tst (bits w 31 1 == 1) (fieldAt 4 w 16) (fieldAt 6 w 10) (fieldAt 6 w 4) (fieldAt 1 w 0))
  else if fn = 11 ∧ bits w 0 12 = 0 then .ok (.tmov (bits w 31 1 == 1) (fieldAt 4 w 16) (fieldAt 4 w 12))
  else if fn = 12 ∧ bits w 0 10 = 0 then .ok (.thdr (bits w 31 1 == 1) (fieldAt 4 w 16) (fieldAt 6 w 10))
  else if fn = 13 ∧ bits w 0 10 = 0 then .ok (.thset (bits w 31 1 == 1) (fieldAt 4 w 16) (fieldAt 6 w 10))
  else if fn = 14 ∧ bits w 0 6 = 0 then .ok (.tcvt (bits w 31 1 == 1) (fieldAt 4 w 16) (fieldAt 4 w 12) (fieldAt 6 w 6))
  else if fn = 15 ∧ bits w 0 10 = 0 then .ok (.tfill (bits w 31 1 == 1) (fieldAt 4 w 16) (fieldAt 6 w 10))
  else if fn = 16 ∧ bits w 0 3 = 0 then .ok (.tdrn (bits w 31 1 == 1) (fieldAt 4 w 16) (fieldAt 7 w 9) (fieldAt 6 w 3))
  else if fn = 17 ∧ bits w 1 2 = 0 then .ok (.mma (bits w 31 1 == 1) (fieldAt 3 w 17) (fieldAt 4 w 13) (fieldAt 4 w 9) (fieldAt 6 w 3) (fieldAt 1 w 0))
  else if fn = 18 ∧ bits w 0 1 = 0 then .ok (.adrn (bits w 31 1 == 1) (fieldAt 3 w 17) (fieldAt 4 w 13) (fieldAt 6 w 7) (fieldAt 6 w 1))
  else if fn = 19 ∧ bits w 0 5 = 0 then .ok (.afill (bits w 31 1 == 1) (fieldAt 3 w 17) (fieldAt 6 w 11) (fieldAt 6 w 5))
  else if fn = 20 ∧ bits w 0 16 = 0 then .ok (.tbnd (bits w 31 1 == 1) (fieldAt 4 w 16))
  else if fn = 21 ∧ bits w 0 7 = 0 then .ok (.prune (bits w 31 1 == 1) (fieldAt 4 w 16) (fieldAt 6 w 10) (fieldAt 3 w 7))
  else if fn = 22 ∧ bits w 0 10 = 0 then .ok (.ldh (bits w 31 1 == 1) (fieldAt 4 w 16) (fieldAt 6 w 10))
  else if fn = 23 ∧ bits w 0 10 = 0 then .ok (.seth (bits w 31 1 == 1) (fieldAt 4 w 16) (fieldAt 6 w 10))
  else if fn = 24 ∧ bits w 0 10 = 0 then .ok (.sth (bits w 31 1 == 1) (fieldAt 4 w 16) (fieldAt 6 w 10))
  else if fn = 25 ∧ bits w 0 11 = 0 then .ok (.tbind (bits w 31 1 == 1) (fieldAt 3 w 17) (fieldAt 6 w 11))
  else if fn = 26 then .ok (.tget (bits w 31 1 == 1) (fieldAt 3 w 17) (fieldAt 7 w 10) (fieldAt 7 w 3) (fieldAt 3 w 0))
  else if fn = 27 then .ok (.tgetx (bits w 31 1 == 1) (fieldAt 3 w 17) (fieldAt 7 w 10) (fieldAt 7 w 3) (fieldAt 3 w 0))
  else if fn = 28 then .ok (.tins (bits w 31 1 == 1) (fieldAt 3 w 17) (fieldAt 7 w 10) (fieldAt 7 w 3) (fieldAt 3 w 0))
  else if fn = 29 then .ok (.tinsx (bits w 31 1 == 1) (fieldAt 3 w 17) (fieldAt 7 w 10) (fieldAt 7 w 3) (fieldAt 3 w 0))
  else if fn = 30 then .ok (.tups (bits w 31 1 == 1) (fieldAt 3 w 17) (fieldAt 7 w 10) (fieldAt 7 w 3) (fieldAt 3 w 0))
  else if fn = 31 ∧ bits w 10 7 = 0 then .ok (.tdel (bits w 31 1 == 1) (fieldAt 3 w 17) (fieldAt 7 w 3) (fieldAt 3 w 0))
  else if fn = 32 ∧ bits w 0 3 = 0 then .ok (.tscan (bits w 31 1 == 1) (fieldAt 3 w 17) (fieldAt 7 w 10) (fieldAt 7 w 3))
  else if fn = 33 then .ok (.tnext (bits w 31 1 == 1) (fieldAt 3 w 17) (fieldAt 7 w 10) (fieldAt 7 w 3) (fieldAt 3 w 0))
  else if fn = 34 ∧ bits w 0 3 = 0 then .ok (.tcnt (bits w 31 1 == 1) (fieldAt 3 w 17) (fieldAt 7 w 10) (fieldAt 7 w 3))
  else if fn = 35 ∧ bits w 0 3 = 0 then .ok (.tref (bits w 31 1 == 1) (fieldAt 3 w 17) (fieldAt 7 w 10) (fieldAt 7 w 3))
  else if fn = 36 ∧ bits w 0 6 = 0 then .ok (.href (bits w 31 1 == 1) (fieldAt 7 w 13) (fieldAt 7 w 6))
  else if fn = 37 ∧ bits w 0 13 = 0 then .ok (.hbnd (bits w 31 1 == 1) (fieldAt 7 w 13))
  else if fn = 38 then .ok (.spawn (bits w 31 1 == 1) (fieldAt 3 w 17) (fieldAt 7 w 10) (fieldAt 7 w 3) (fieldAt 3 w 0))
  else if fn = 39 ∧ bits w 10 7 = 0 then .ok (.qpush (bits w 31 1 == 1) (fieldAt 3 w 17) (fieldAt 7 w 3) (fieldAt 3 w 0))
  else if fn = 40 ∧ bits w 3 7 = 0 then .ok (.qpull (bits w 31 1 == 1) (fieldAt 3 w 17) (fieldAt 7 w 10) (fieldAt 3 w 0))
  else if fn = 41 ∧ bits w 0 17 = 0 then .ok (.qflush (bits w 31 1 == 1) (fieldAt 3 w 17))
  else if fn = 42 ∧ bits w 0 11 = 0 then .ok (.rsweep (bits w 31 1 == 1) (fieldAt 3 w 17) (fieldAt 6 w 11))
  else if fn = 43 ∧ bits w 10 7 = 0 then .ok (.rdue (bits w 31 1 == 1) (fieldAt 3 w 17) (fieldAt 7 w 3) (fieldAt 3 w 0))
  else if fn = 44 then .ok (.rvisit (bits w 31 1 == 1) (fieldAt 3 w 17) (fieldAt 7 w 10) (fieldAt 7 w 3) (fieldAt 3 w 0))
  else if fn = 45 ∧ bits w 0 3 = 0 then .ok (.rreadh (bits w 31 1 == 1) (fieldAt 3 w 17) (fieldAt 7 w 10) (fieldAt 7 w 3))
  else if fn = 46 ∧ bits w 0 3 = 0 then .ok (.rreadx (bits w 31 1 == 1) (fieldAt 3 w 17) (fieldAt 7 w 10) (fieldAt 7 w 3))
  else if fn = 47 ∧ bits w 0 3 = 0 then .ok (.rset (bits w 31 1 == 1) (fieldAt 3 w 17) (fieldAt 7 w 10) (fieldAt 7 w 3))
  else if fn = 48 ∧ bits w 0 8 = 0 then .ok (.pcnt (bits w 31 1 == 1) (fieldAt 6 w 14) (fieldAt 6 w 8))
  else if fn = 49 ∧ bits w 0 8 = 0 then .ok (.waite (bits w 31 1 == 1) (fieldAt 6 w 14) (fieldAt 6 w 8))
  else if fn = 50 ∧ bits w 0 8 = 0 then .ok (.sige (bits w 31 1 == 1) (fieldAt 6 w 14) (fieldAt 6 w 8))
  else if fn = 51 ∧ bits w 0 20 = 0 then .ok (.flushrc (bits w 31 1 == 1))
  else .illegalOp

/-- HINT words (R269). -/
def decodeHINT (w fn : Nat) : Decoded :=
  if bits w 31 1 = 1 then .illegalOp
  else if fn = 0 then .ok (.hintImm (fieldAt 21 w 0))
  else if fn = 1 then .ok (.hintImmhi (fieldAt 21 w 0))
  else if fn = 2 then (if bits w 4 17 = 0 then .ok (.hintGuard (fieldAt 1 w 3) (fieldAt 3 w 0)) else .badHint (fieldAt 5 w 21) (fieldAt 21 w 0))
  else if fn = 3 then (if bits w 3 18 = 0 then .ok (.hintRnd (fieldAt 3 w 0)) else .badHint (fieldAt 5 w 21) (fieldAt 21 w 0))
  else if fn = 4 then (if bits w 0 21 = 0 then .ok .hintSat else .badHint (fieldAt 5 w 21) (fieldAt 21 w 0))
  else if fn = 5 then (if bits w 5 16 = 0 then .ok (.hintOrd (fieldAt 3 w 2) (fieldAt 2 w 0)) else .badHint (fieldAt 5 w 21) (fieldAt 21 w 0))
  else if fn = 6 then (if bits w 2 19 = 0 then .ok (.hintCache (fieldAt 2 w 0)) else .badHint (fieldAt 5 w 21) (fieldAt 21 w 0))
  else if fn = 7 then .ok (.hintOffs (fieldAt 21 w 0))
  else if fn = 8 then (if bits w 0 21 = 0 then .ok .hintCheck else .badHint (fieldAt 5 w 21) (fieldAt 21 w 0))
  else if fn = 9 then (if bits w 2 19 = 0 then .ok (.hintPri (fieldAt 2 w 0)) else .badHint (fieldAt 5 w 21) (fieldAt 21 w 0))
  else .illegalOp

/-- Any word, as a number (R253: OP is bits [30:26]). -/
def decodeNat (w : Nat) : Decoded :=
  let op := bits w 26 5
  if op < 24 then decodeV3 w op
  else if op = 24 then decodeVU w (bits w 21 5)
  else if op = 25 then decodeVC w (bits w 21 5)
  else if op = 26 then decodeMEM w (bits w 21 5)
  else if op = 27 then decodeATOM w (bits w 22 4)
  else if op = 28 then decodeUNI w (bits w 20 6)
  else if op = 29 then decodeCTRL w (bits w 22 4)
  else if op = 30 then decodeENG w (bits w 20 6)
  else decodeHINT w (bits w 21 5)

/-- Any instruction word (R253). -/
def decode (w : IWord) : Decoded := decodeNat w.toNat

/-- The instruction read from an instruction of `nbits` bits numbered as the opcode table numbers them. Every coded row
is one 32-bit word, stored little-endian (R253), so bit 0 of the word is bit 0 of the number. -/
def decodeTableWord (_nbits w : Nat) : Option Instr :=
  match decodeNat (w % 2 ^ 32) with
  | .ok i => some i
  | _ => none

/-- A word built from its fixed bits and its fields, each a value and the place of its lowest bit. -/
def encFields (base : Nat) : List (Nat × Nat) → Nat
  | [] => base
  | (v, lo) :: rest => encFields (base + v * 2 ^ lo) rest

/-- The word of a coded instruction as a number; none for a row without an encoding (R261 to R269). -/
def encodeNat : Instr → Option Nat
  | .iadd sw w h d a b => some (encFields 0x0 [(sw.toNat, 31), (w.toNat, 23), (h.toNat, 21), (d.toNat, 14), (a.toNat, 7), (b.toNat, 0)])
  | .isub sw w h d a b => some (encFields 0x4000000 [(sw.toNat, 31), (w.toNat, 23), (h.toNat, 21), (d.toNat, 14), (a.toNat, 7), (b.toNat, 0)])
  | .imul sw w h d a b => some (encFields 0x8000000 [(sw.toNat, 31), (w.toNat, 23), (h.toNat, 21), (d.toNat, 14), (a.toNat, 7), (b.toNat, 0)])
  | .imulh sw w h d a b => some (encFields 0xC000000 [(sw.toNat, 31), (w.toNat, 23), (h.toNat, 21), (d.toNat, 14), (a.toNat, 7), (b.toNat, 0)])
  | .imulhu sw w h d a b => some (encFields 0x10000000 [(sw.toNat, 31), (w.toNat, 23), (h.toNat, 21), (d.toNat, 14), (a.toNat, 7), (b.toNat, 0)])
  | .imad sw w h d a b => some (encFields 0x14000000 [(sw.toNat, 31), (w.toNat, 23), (h.toNat, 21), (d.toNat, 14), (a.toNat, 7), (b.toNat, 0)])
  | .imin sw w h d a b => some (encFields 0x18000000 [(sw.toNat, 31), (w.toNat, 23), (h.toNat, 21), (d.toNat, 14), (a.toNat, 7), (b.toNat, 0)])
  | .iminu sw w h d a b => some (encFields 0x1C000000 [(sw.toNat, 31), (w.toNat, 23), (h.toNat, 21), (d.toNat, 14), (a.toNat, 7), (b.toNat, 0)])
  | .imax sw w h d a b => some (encFields 0x20000000 [(sw.toNat, 31), (w.toNat, 23), (h.toNat, 21), (d.toNat, 14), (a.toNat, 7), (b.toNat, 0)])
  | .imaxu sw w h d a b => some (encFields 0x24000000 [(sw.toNat, 31), (w.toNat, 23), (h.toNat, 21), (d.toNat, 14), (a.toNat, 7), (b.toNat, 0)])
  | .and sw w h d a b => some (encFields 0x28000000 [(sw.toNat, 31), (w.toNat, 23), (h.toNat, 21), (d.toNat, 14), (a.toNat, 7), (b.toNat, 0)])
  | .or sw w h d a b => some (encFields 0x2C000000 [(sw.toNat, 31), (w.toNat, 23), (h.toNat, 21), (d.toNat, 14), (a.toNat, 7), (b.toNat, 0)])
  | .xor sw w h d a b => some (encFields 0x30000000 [(sw.toNat, 31), (w.toNat, 23), (h.toNat, 21), (d.toNat, 14), (a.toNat, 7), (b.toNat, 0)])
  | .shl sw w h d a b => some (encFields 0x34000000 [(sw.toNat, 31), (w.toNat, 23), (h.toNat, 21), (d.toNat, 14), (a.toNat, 7), (b.toNat, 0)])
  | .shr sw w h d a b => some (encFields 0x38000000 [(sw.toNat, 31), (w.toNat, 23), (h.toNat, 21), (d.toNat, 14), (a.toNat, 7), (b.toNat, 0)])
  | .sra sw w h d a b => some (encFields 0x3C000000 [(sw.toNat, 31), (w.toNat, 23), (h.toNat, 21), (d.toNat, 14), (a.toNat, 7), (b.toNat, 0)])
  | .fadd sw w h d a b => some (encFields 0x40000000 [(sw.toNat, 31), (w.toNat, 23), (h.toNat, 21), (d.toNat, 14), (a.toNat, 7), (b.toNat, 0)])
  | .fsub sw w h d a b => some (encFields 0x44000000 [(sw.toNat, 31), (w.toNat, 23), (h.toNat, 21), (d.toNat, 14), (a.toNat, 7), (b.toNat, 0)])
  | .fmul sw w h d a b => some (encFields 0x48000000 [(sw.toNat, 31), (w.toNat, 23), (h.toNat, 21), (d.toNat, 14), (a.toNat, 7), (b.toNat, 0)])
  | .ffma sw w h d a b => some (encFields 0x4C000000 [(sw.toNat, 31), (w.toNat, 23), (h.toNat, 21), (d.toNat, 14), (a.toNat, 7), (b.toNat, 0)])
  | .fmin sw w h d a b => some (encFields 0x50000000 [(sw.toNat, 31), (w.toNat, 23), (h.toNat, 21), (d.toNat, 14), (a.toNat, 7), (b.toNat, 0)])
  | .fmax sw w h d a b => some (encFields 0x54000000 [(sw.toNat, 31), (w.toNat, 23), (h.toNat, 21), (d.toNat, 14), (a.toNat, 7), (b.toNat, 0)])
  | .shf sw w h d a b => some (encFields 0x58000000 [(sw.toNat, 31), (w.toNat, 23), (h.toNat, 21), (d.toNat, 14), (a.toNat, 7), (b.toNat, 0)])
  | .shfx sw w h d a b => some (encFields 0x5C000000 [(sw.toNat, 31), (w.toNat, 23), (h.toNat, 21), (d.toNat, 14), (a.toNat, 7), (b.toNat, 0)])
  | .mov sw w d a => some (encFields 0x60000000 [(sw.toNat, 31), (w.toNat, 18), (d.toNat, 11), (a.toNat, 4)])
  | .not sw w d a => some (encFields 0x60200000 [(sw.toNat, 31), (w.toNat, 18), (d.toNat, 11), (a.toNat, 4)])
  | .neg sw w d a f => some (encFields 0x60400000 [(sw.toNat, 31), (w.toNat, 18), (d.toNat, 11), (a.toNat, 4), (f.toNat, 0)])
  | .abs sw w d a f => some (encFields 0x60600000 [(sw.toNat, 31), (w.toNat, 18), (d.toNat, 11), (a.toNat, 4), (f.toNat, 0)])
  | .popc sw w d a => some (encFields 0x60800000 [(sw.toNat, 31), (w.toNat, 18), (d.toNat, 11), (a.toNat, 4)])
  | .clz sw w d a => some (encFields 0x60A00000 [(sw.toNat, 31), (w.toNat, 18), (d.toNat, 11), (a.toNat, 4)])
  | .ctz sw w d a => some (encFields 0x60C00000 [(sw.toNat, 31), (w.toNat, 18), (d.toNat, 11), (a.toNat, 4)])
  | .brev sw w d a => some (encFields 0x60E00000 [(sw.toNat, 31), (w.toNat, 18), (d.toNat, 11), (a.toNat, 4)])
  | .exts sw w d a x => some (encFields 0x61000000 [(sw.toNat, 31), (w.toNat, 18), (d.toNat, 11), (a.toNat, 4), (x.toNat, 0)])
  | .extz sw w d a x => some (encFields 0x61200000 [(sw.toNat, 31), (w.toNat, 18), (d.toNat, 11), (a.toNat, 4), (x.toNat, 0)])
  | .cvt sw w d a x => some (encFields 0x61400000 [(sw.toNat, 31), (w.toNat, 18), (d.toNat, 11), (a.toNat, 4), (x.toNat, 0)])
  | .cvts sw w d a x => some (encFields 0x61600000 [(sw.toNat, 31), (w.toNat, 18), (d.toNat, 11), (a.toNat, 4), (x.toNat, 0)])
  | .icvt sw w d a x => some (encFields 0x61800000 [(sw.toNat, 31), (w.toNat, 18), (d.toNat, 11), (a.toNat, 4), (x.toNat, 0)])
  | .ucvt sw w d a x => some (encFields 0x61A00000 [(sw.toNat, 31), (w.toNat, 18), (d.toNat, 11), (a.toNat, 4), (x.toNat, 0)])
  | .qhad sw w d a n r => some (encFields 0x61C00000 [(sw.toNat, 31), (w.toNat, 18), (d.toNat, 11), (a.toNat, 4), (n.toNat, 3), (r.toNat, 0)])
  | .frcp sw w d a => some (encFields 0x61E00000 [(sw.toNat, 31), (w.toNat, 18), (d.toNat, 11), (a.toNat, 4)])
  | .frsq sw w d a => some (encFields 0x62000000 [(sw.toNat, 31), (w.toNat, 18), (d.toNat, 11), (a.toNat, 4)])
  | .fsqrt sw w d a => some (encFields 0x62200000 [(sw.toNat, 31), (w.toNat, 18), (d.toNat, 11), (a.toNat, 4)])
  | .fexp2 sw w d a => some (encFields 0x62400000 [(sw.toNat, 31), (w.toNat, 18), (d.toNat, 11), (a.toNat, 4)])
  | .flog2 sw w d a => some (encFields 0x62600000 [(sw.toNat, 31), (w.toNat, 18), (d.toNat, 11), (a.toNat, 4)])
  | .fsin sw w d a => some (encFields 0x62800000 [(sw.toNat, 31), (w.toNat, 18), (d.toNat, 11), (a.toNat, 4)])
  | .fcos sw w d a => some (encFields 0x62A00000 [(sw.toNat, 31), (w.toNat, 18), (d.toNat, 11), (a.toNat, 4)])
  | .ftanh sw w d a => some (encFields 0x62C00000 [(sw.toNat, 31), (w.toNat, 18), (d.toNat, 11), (a.toNat, 4)])
  | .frnd sw w d a m => some (encFields 0x62E00000 [(sw.toNat, 31), (w.toNat, 18), (d.toNat, 11), (a.toNat, 4), (m.toNat, 0)])
  | .fcls sw w d a => some (encFields 0x63000000 [(sw.toNat, 31), (w.toNat, 18), (d.toNat, 11), (a.toNat, 4)])
  | .laneid sw w d => some (encFields 0x63200000 [(sw.toNat, 31), (w.toNat, 18), (d.toNat, 11)])
  | .movu sw w d u => some (encFields 0x63400000 [(sw.toNat, 31), (w.toNat, 18), (d.toNat, 11), (u.toNat, 4)])
  | .vmovi sw w d i => some (encFields 0x63600000 [(sw.toNat, 31), (w.toNat, 18), (d.toNat, 11), (i.toNat, 0)])
  | .shli sw w d a k => some (encFields 0x63800000 [(sw.toNat, 31), (w.toNat, 18), (d.toNat, 11), (a.toNat, 4), (k.toNat, 0)])
  | .shri sw w d a k => some (encFields 0x63A00000 [(sw.toNat, 31), (w.toNat, 18), (d.toNat, 11), (a.toNat, 4), (k.toNat, 0)])
  | .srai sw w d a k => some (encFields 0x63C00000 [(sw.toNat, 31), (w.toNat, 18), (d.toNat, 11), (a.toNat, 4), (k.toNat, 0)])
  | .addi sw w d a k => some (encFields 0x63E00000 [(sw.toNat, 31), (w.toNat, 18), (d.toNat, 11), (a.toNat, 4), (k.toNat, 0)])
  | .icmpEq sw w b a n p => some (encFields 0x64000000 [(sw.toNat, 31), (w.toNat, 18), (b.toNat, 11), (a.toNat, 4), (n.toNat, 3), (p.toNat, 0)])
  | .icmpNe sw w b a n p => some (encFields 0x64200000 [(sw.toNat, 31), (w.toNat, 18), (b.toNat, 11), (a.toNat, 4), (n.toNat, 3), (p.toNat, 0)])
  | .icmpLt sw w b a n p => some (encFields 0x64400000 [(sw.toNat, 31), (w.toNat, 18), (b.toNat, 11), (a.toNat, 4), (n.toNat, 3), (p.toNat, 0)])
  | .icmpLe sw w b a n p => some (encFields 0x64600000 [(sw.toNat, 31), (w.toNat, 18), (b.toNat, 11), (a.toNat, 4), (n.toNat, 3), (p.toNat, 0)])
  | .icmpLtu sw w b a n p => some (encFields 0x64800000 [(sw.toNat, 31), (w.toNat, 18), (b.toNat, 11), (a.toNat, 4), (n.toNat, 3), (p.toNat, 0)])
  | .icmpLeu sw w b a n p => some (encFields 0x64A00000 [(sw.toNat, 31), (w.toNat, 18), (b.toNat, 11), (a.toNat, 4), (n.toNat, 3), (p.toNat, 0)])
  | .fcmpEq sw w b a n p => some (encFields 0x64C00000 [(sw.toNat, 31), (w.toNat, 18), (b.toNat, 11), (a.toNat, 4), (n.toNat, 3), (p.toNat, 0)])
  | .fcmpNe sw w b a n p => some (encFields 0x64E00000 [(sw.toNat, 31), (w.toNat, 18), (b.toNat, 11), (a.toNat, 4), (n.toNat, 3), (p.toNat, 0)])
  | .fcmpLt sw w b a n p => some (encFields 0x65000000 [(sw.toNat, 31), (w.toNat, 18), (b.toNat, 11), (a.toNat, 4), (n.toNat, 3), (p.toNat, 0)])
  | .fcmpLe sw w b a n p => some (encFields 0x65200000 [(sw.toNat, 31), (w.toNat, 18), (b.toNat, 11), (a.toNat, 4), (n.toNat, 3), (p.toNat, 0)])
  | .fcmpUn sw w b a n p => some (encFields 0x65400000 [(sw.toNat, 31), (w.toNat, 18), (b.toNat, 11), (a.toNat, 4), (n.toNat, 3), (p.toNat, 0)])
  | .sel sw w d a n p => some (encFields 0x65600000 [(sw.toNat, 31), (w.toNat, 18), (d.toNat, 11), (a.toNat, 4), (n.toNat, 3), (p.toNat, 0)])
  | .vscan sw w d a f h => some (encFields 0x65800000 [(sw.toNat, 31), (w.toNat, 18), (d.toNat, 11), (a.toNat, 4), (f.toNat, 3), (h.toNat, 0)])
  | .vscanx sw w d a f h => some (encFields 0x65A00000 [(sw.toNat, 31), (w.toNat, 18), (d.toNat, 11), (a.toNat, 4), (f.toNat, 3), (h.toNat, 0)])
  | .vred sw w d a f h => some (encFields 0x65C00000 [(sw.toNat, 31), (w.toNat, 18), (d.toNat, 11), (a.toNat, 4), (f.toNat, 3), (h.toNat, 0)])
  | .vredmax sw w d a f h => some (encFields 0x65E00000 [(sw.toNat, 31), (w.toNat, 18), (d.toNat, 11), (a.toNat, 4), (f.toNat, 3), (h.toNat, 0)])
  | .vredmin sw w d a f h => some (encFields 0x66000000 [(sw.toNat, 31), (w.toNat, 18), (d.toNat, 11), (a.toNat, 4), (f.toNat, 3), (h.toNat, 0)])
  | .ballot sw d p => some (encFields 0x66340000 [(sw.toNat, 31), (d.toNat, 11), (p.toNat, 0)])
  | .vpopc sw w d p => some (encFields 0x66400000 [(sw.toNat, 31), (w.toNat, 18), (d.toNat, 11), (p.toNat, 0)])
  | .shfu sw w d a k => some (encFields 0x66600000 [(sw.toNat, 31), (w.toNat, 18), (d.toNat, 11), (a.toNat, 4), (k.toNat, 0)])
  | .shfd sw w d a k => some (encFields 0x66800000 [(sw.toNat, 31), (w.toNat, 18), (d.toNat, 11), (a.toNat, 4), (k.toNat, 0)])
  | .shfxor sw w d a k => some (encFields 0x66A00000 [(sw.toNat, 31), (w.toNat, 18), (d.toNat, 11), (a.toNat, 4), (k.toNat, 0)])
  | .pand sw f g n p => some (encFields 0x66C00000 [(sw.toNat, 31), (f.toNat, 11), (g.toNat, 4), (n.toNat, 3), (p.toNat, 0)])
  | .por sw f g n p => some (encFields 0x66E00000 [(sw.toNat, 31), (f.toNat, 11), (g.toNat, 4), (n.toNat, 3), (p.toNat, 0)])
  | .pxor sw f g n p => some (encFields 0x67000000 [(sw.toNat, 31), (f.toNat, 11), (g.toNat, 4), (n.toNat, 3), (p.toNat, 0)])
  | .pnot sw f p => some (encFields 0x67200000 [(sw.toNat, 31), (f.toNat, 11), (p.toNat, 0)])
  | .pmovv sw w a n p => some (encFields 0x67400000 [(sw.toNat, 31), (w.toNat, 18), (a.toNat, 4), (n.toNat, 3), (p.toNat, 0)])
  | .vmovp sw w d p => some (encFields 0x67600000 [(sw.toNat, 31), (w.toNat, 18), (d.toNat, 11), (p.toNat, 0)])
  | .vfirst sw w d p => some (encFields 0x67800000 [(sw.toNat, 31), (w.toNat, 18), (d.toNat, 11), (p.toNat, 0)])
  | .ld sw g w d a x => some (encFields 0x68000000 [(sw.toNat, 31), (g.toNat, 18), (w.toNat, 15), (d.toNat, 8), (a.toNat, 1), (x.toNat, 0)])
  | .st sw g w d a x => some (encFields 0x68200000 [(sw.toNat, 31), (g.toNat, 18), (w.toNat, 15), (d.toNat, 8), (a.toNat, 1), (x.toNat, 0)])
  | .ldl sw g w d a => some (encFields 0x68400000 [(sw.toNat, 31), (g.toNat, 18), (w.toNat, 15), (d.toNat, 8), (a.toNat, 1)])
  | .stc sw g w d a => some (encFields 0x68600000 [(sw.toNat, 31), (g.toNat, 18), (w.toNat, 15), (d.toNat, 8), (a.toNat, 1)])
  | .lds sw g w d a x => some (encFields 0x68800000 [(sw.toNat, 31), (g.toNat, 18), (w.toNat, 15), (d.toNat, 8), (a.toNat, 1), (x.toNat, 0)])
  | .sts sw g w d a x => some (encFields 0x68A00000 [(sw.toNat, 31), (g.toNat, 18), (w.toNat, 15), (d.toNat, 8), (a.toNat, 1), (x.toNat, 0)])
  | .pref sw g a => some (encFields 0x68C00000 [(sw.toNat, 31), (g.toNat, 18), (a.toNat, 1)])
  | .fence sw g c k => some (encFields 0x68E00000 [(sw.toNat, 31), (g.toNat, 18), (c.toNat, 10), (k.toNat, 8)])
  | .atomAdd sw c g w d a n => some (encFields 0x6C000000 [(sw.toNat, 31), (c.toNat, 19), (g.toNat, 16), (w.toNat, 15), (d.toNat, 8), (a.toNat, 1), (n.toNat, 0)])
  | .atomMin sw c g w d a n => some (encFields 0x6C400000 [(sw.toNat, 31), (c.toNat, 19), (g.toNat, 16), (w.toNat, 15), (d.toNat, 8), (a.toNat, 1), (n.toNat, 0)])
  | .atomMax sw c g w d a n => some (encFields 0x6C800000 [(sw.toNat, 31), (c.toNat, 19), (g.toNat, 16), (w.toNat, 15), (d.toNat, 8), (a.toNat, 1), (n.toNat, 0)])
  | .atomMinu sw c g w d a n => some (encFields 0x6CC00000 [(sw.toNat, 31), (c.toNat, 19), (g.toNat, 16), (w.toNat, 15), (d.toNat, 8), (a.toNat, 1), (n.toNat, 0)])
  | .atomMaxu sw c g w d a n => some (encFields 0x6D000000 [(sw.toNat, 31), (c.toNat, 19), (g.toNat, 16), (w.toNat, 15), (d.toNat, 8), (a.toNat, 1), (n.toNat, 0)])
  | .atomAnd sw c g w d a n => some (encFields 0x6D400000 [(sw.toNat, 31), (c.toNat, 19), (g.toNat, 16), (w.toNat, 15), (d.toNat, 8), (a.toNat, 1), (n.toNat, 0)])
  | .atomOr sw c g w d a n => some (encFields 0x6D800000 [(sw.toNat, 31), (c.toNat, 19), (g.toNat, 16), (w.toNat, 15), (d.toNat, 8), (a.toNat, 1), (n.toNat, 0)])
  | .atomXor sw c g w d a n => some (encFields 0x6DC00000 [(sw.toNat, 31), (c.toNat, 19), (g.toNat, 16), (w.toNat, 15), (d.toNat, 8), (a.toNat, 1), (n.toNat, 0)])
  | .atomExch sw c g w d a n => some (encFields 0x6E000000 [(sw.toNat, 31), (c.toNat, 19), (g.toNat, 16), (w.toNat, 15), (d.toNat, 8), (a.toNat, 1), (n.toNat, 0)])
  | .atomCas sw c g w d a n => some (encFields 0x6E400000 [(sw.toNat, 31), (c.toNat, 19), (g.toNat, 16), (w.toNat, 15), (d.toNat, 8), (a.toNat, 1), (n.toNat, 0)])
  | .atomFadd sw c g w d a n => some (encFields 0x6E800000 [(sw.toNat, 31), (c.toNat, 19), (g.toNat, 16), (w.toNat, 15), (d.toNat, 8), (a.toNat, 1), (n.toNat, 0)])
  | .atomFmin sw c g w d a n => some (encFields 0x6EC00000 [(sw.toNat, 31), (c.toNat, 19), (g.toNat, 16), (w.toNat, 15), (d.toNat, 8), (a.toNat, 1), (n.toNat, 0)])
  | .atomFmax sw c g w d a n => some (encFields 0x6F000000 [(sw.toNat, 31), (c.toNat, 19), (g.toNat, 16), (w.toNat, 15), (d.toNat, 8), (a.toNat, 1), (n.toNat, 0)])
  | .atomRedc sw c g w d a n => some (encFields 0x6F400000 [(sw.toNat, 31), (c.toNat, 19), (g.toNat, 16), (w.toNat, 15), (d.toNat, 8), (a.toNat, 1), (n.toNat, 0)])
  | .atomInc sw c g w d a n => some (encFields 0x6F800000 [(sw.toNat, 31), (c.toNat, 19), (g.toNat, 16), (w.toNat, 15), (d.toNat, 8), (a.toNat, 1), (n.toNat, 0)])
  | .sadd sw d a b => some (encFields 0x70000000 [(sw.toNat, 31), (d.toNat, 14), (a.toNat, 8), (b.toNat, 2)])
  | .ssub sw d a b => some (encFields 0x70100000 [(sw.toNat, 31), (d.toNat, 14), (a.toNat, 8), (b.toNat, 2)])
  | .smul sw d a b => some (encFields 0x70200000 [(sw.toNat, 31), (d.toNat, 14), (a.toNat, 8), (b.toNat, 2)])
  | .smulh sw d a b => some (encFields 0x70300000 [(sw.toNat, 31), (d.toNat, 14), (a.toNat, 8), (b.toNat, 2)])
  | .sand sw d a b => some (encFields 0x70400000 [(sw.toNat, 31), (d.toNat, 14), (a.toNat, 8), (b.toNat, 2)])
  | .sor sw d a b => some (encFields 0x70500000 [(sw.toNat, 31), (d.toNat, 14), (a.toNat, 8), (b.toNat, 2)])
  | .sxor sw d a b => some (encFields 0x70600000 [(sw.toNat, 31), (d.toNat, 14), (a.toNat, 8), (b.toNat, 2)])
  | .sshl sw d a b => some (encFields 0x70700000 [(sw.toNat, 31), (d.toNat, 14), (a.toNat, 8), (b.toNat, 2)])
  | .sshr sw d a b => some (encFields 0x70800000 [(sw.toNat, 31), (d.toNat, 14), (a.toNat, 8), (b.toNat, 2)])
  | .ssra sw d a b => some (encFields 0x70900000 [(sw.toNat, 31), (d.toNat, 14), (a.toNat, 8), (b.toNat, 2)])
  | .smin sw d a b => some (encFields 0x70A00000 [(sw.toNat, 31), (d.toNat, 14), (a.toNat, 8), (b.toNat, 2)])
  | .smax sw d a b => some (encFields 0x70B00000 [(sw.toNat, 31), (d.toNat, 14), (a.toNat, 8), (b.toNat, 2)])
  | .sminu sw d a b => some (encFields 0x70C00000 [(sw.toNat, 31), (d.toNat, 14), (a.toNat, 8), (b.toNat, 2)])
  | .smaxu sw d a b => some (encFields 0x70D00000 [(sw.toNat, 31), (d.toNat, 14), (a.toNat, 8), (b.toNat, 2)])
  | .seq sw d a b => some (encFields 0x70E00000 [(sw.toNat, 31), (d.toNat, 14), (a.toNat, 8), (b.toNat, 2)])
  | .slt sw d a b => some (encFields 0x70F00000 [(sw.toNat, 31), (d.toNat, 14), (a.toNat, 8), (b.toNat, 2)])
  | .sltu sw d a b => some (encFields 0x71000000 [(sw.toNat, 31), (d.toNat, 14), (a.toNat, 8), (b.toNat, 2)])
  | .smovi sw d i => some (encFields 0x71100000 [(sw.toNat, 31), (d.toNat, 14), (i.toNat, 0)])
  | .slui sw d i => some (encFields 0x71200000 [(sw.toNat, 31), (d.toNat, 14), (i.toNat, 0)])
  | .spopc sw d a => some (encFields 0x71300000 [(sw.toNat, 31), (d.toNat, 14), (a.toNat, 8)])
  | .sclz sw d a => some (encFields 0x71400000 [(sw.toNat, 31), (d.toNat, 14), (a.toNat, 8)])
  | .sctz sw d a => some (encFields 0x71500000 [(sw.toNat, 31), (d.toNat, 14), (a.toNat, 8)])
  | .sbfx sw d a b => some (encFields 0x71600000 [(sw.toNat, 31), (d.toNat, 14), (a.toNat, 8), (b.toNat, 2)])
  | .sbfi sw d a b => some (encFields 0x71700000 [(sw.toNat, 31), (d.toNat, 14), (a.toNat, 8), (b.toNat, 2)])
  | .sread sw d c => some (encFields 0x71800000 [(sw.toNat, 31), (d.toNat, 14), (c.toNat, 8)])
  | .winImm sw i => some (encFields 0x71900000 [(sw.toNat, 31), (i.toNat, 8)])
  | .winReg sw a => some (encFields 0x71900001 [(sw.toNat, 31), (a.toNat, 8)])
  | .vtos sw d v => some (encFields 0x71A00000 [(sw.toNat, 31), (d.toNat, 14), (v.toNat, 7)])
  | .sld sw d a x => some (encFields 0x71B00000 [(sw.toNat, 31), (d.toNat, 14), (a.toNat, 8), (x.toNat, 0)])
  | .sst sw d a x => some (encFields 0x71C00000 [(sw.toNat, 31), (d.toNat, 14), (a.toNat, 8), (x.toNat, 0)])
  | .saddi sw d a i => some (encFields 0x71D00000 [(sw.toNat, 31), (d.toNat, 14), (a.toNat, 8), (i.toNat, 0)])
  | .csrr sw d c => some (encFields 0x71E00000 [(sw.toNat, 31), (d.toNat, 14), (c.toNat, 2)])
  | .csrw sw d c => some (encFields 0x71F00000 [(sw.toNat, 31), (d.toNat, 14), (c.toNat, 2)])
  | .bra sw o => some (encFields 0x74380000 [(sw.toNat, 31), (o.toNat, 0)])
  | .cbr sw g n o => some (encFields 0x74400000 [(sw.toNat, 31), (g.toNat, 19), (n.toNat, 18), (o.toNat, 0)])
  | .brz sw r o => some (encFields 0x74B80000 [(sw.toNat, 31), (r.toNat, 12), (o.toNat, 0)])
  | .brnz sw r o => some (encFields 0x74F80000 [(sw.toNat, 31), (r.toNat, 12), (o.toNat, 0)])
  | .call sw o => some (encFields 0x75380000 [(sw.toNat, 31), (o.toNat, 0)])
  | .ret sw => some (encFields 0x75780000 [(sw.toNat, 31)])
  | .brx sw r => some (encFields 0x75B80000 [(sw.toNat, 31), (r.toNat, 0)])
  | .exit sw g n => some (encFields 0x75C00000 [(sw.toNat, 31), (g.toNat, 19), (n.toNat, 18)])
  | .yield sw o => some (encFields 0x76380000 [(sw.toNat, 31), (o.toNat, 0)])
  | .joinw sw o => some (encFields 0x76780000 [(sw.toNat, 31), (o.toNat, 0)])
  | .trap sw g n i => some (encFields 0x76800000 [(sw.toNat, 31), (g.toNat, 19), (n.toNat, 18), (i.toNat, 0)])
  | .brk sw g n => some (encFields 0x76C00000 [(sw.toNat, 31), (g.toNat, 19), (n.toNat, 18)])
  | .rett sw => some (encFields 0x77380000 [(sw.toNat, 31)])
  | .sleep sw c => some (encFields 0x77780000 [(sw.toNat, 31), (c.toNat, 0)])
  | .nop sw => some (encFields 0x77800000 [(sw.toNat, 31)])
  | .binit sw b a => some (encFields 0x78000000 [(sw.toNat, 31), (b.toNat, 14), (a.toNat, 8)])
  | .barv sw b a p => some (encFields 0x78100000 [(sw.toNat, 31), (b.toNat, 14), (a.toNat, 8), (p.toNat, 5)])
  | .bwait sw b a => some (encFields 0x78200000 [(sw.toNat, 31), (b.toNat, 14), (a.toNat, 8)])
  | .bexp sw b a => some (encFields 0x78300000 [(sw.toNat, 31), (b.toNat, 14), (a.toNat, 8)])
  | .btest sw b a p => some (encFields 0x78400000 [(sw.toNat, 31), (b.toNat, 14), (a.toNat, 8), (p.toNat, 5)])
  | .bstat sw b d l => some (encFields 0x78500000 [(sw.toNat, 31), (b.toNat, 14), (d.toNat, 8), (l.toNat, 0)])
  | .cpy sw d n b => some (encFields 0x78600000 [(sw.toNat, 31), (d.toNat, 14), (n.toNat, 8), (b.toNat, 2)])
  | .gath sw d n b => some (encFields 0x78700000 [(sw.toNat, 31), (d.toNat, 14), (n.toNat, 8), (b.toNat, 2)])
  | .xfrm sw d n b => some (encFields 0x78800000 [(sw.toNat, 31), (d.toNat, 14), (n.toNat, 8), (b.toNat, 2)])
  | .tld sw t p b => some (encFields 0x78900000 [(sw.toNat, 31), (t.toNat, 16), (p.toNat, 10), (b.toNat, 4)])
  | .tst sw t p b o => some (encFields 0x78A00000 [(sw.toNat, 31), (t.toNat, 16), (p.toNat, 10), (b.toNat, 4), (o.toNat, 0)])
  | .tmov sw t u => some (encFields 0x78B00000 [(sw.toNat, 31), (t.toNat, 16), (u.toNat, 12)])
  | .thdr sw t d => some (encFields 0x78C00000 [(sw.toNat, 31), (t.toNat, 16), (d.toNat, 10)])
  | .thset sw t d => some (encFields 0x78D00000 [(sw.toNat, 31), (t.toNat, 16), (d.toNat, 10)])
  | .tcvt sw t u f => some (encFields 0x78E00000 [(sw.toNat, 31), (t.toNat, 16), (u.toNat, 12), (f.toNat, 6)])
  | .tfill sw t v => some (encFields 0x78F00000 [(sw.toNat, 31), (t.toNat, 16), (v.toNat, 10)])
  | .tdrn sw t d i => some (encFields 0x79000000 [(sw.toNat, 31), (t.toNat, 16), (d.toNat, 9), (i.toNat, 3)])
  | .mma sw a t u b z => some (encFields 0x79100000 [(sw.toNat, 31), (a.toNat, 17), (t.toNat, 13), (u.toNat, 9), (b.toNat, 3), (z.toNat, 0)])
  | .adrn sw a t f b => some (encFields 0x79200000 [(sw.toNat, 31), (a.toNat, 17), (t.toNat, 13), (f.toNat, 7), (b.toNat, 1)])
  | .afill sw a v b => some (encFields 0x79300000 [(sw.toNat, 31), (a.toNat, 17), (v.toNat, 11), (b.toNat, 5)])
  | .tbnd sw t => some (encFields 0x79400000 [(sw.toNat, 31), (t.toNat, 16)])
  | .prune sw t m p => some (encFields 0x79500000 [(sw.toNat, 31), (t.toNat, 16), (m.toNat, 10), (p.toNat, 7)])
  | .ldh sw h p => some (encFields 0x79600000 [(sw.toNat, 31), (h.toNat, 16), (p.toNat, 10)])
  | .seth sw h d => some (encFields 0x79700000 [(sw.toNat, 31), (h.toNat, 16), (d.toNat, 10)])
  | .sth sw h p => some (encFields 0x79800000 [(sw.toNat, 31), (h.toNat, 16), (p.toNat, 10)])
  | .tbind sw b h => some (encFields 0x79900000 [(sw.toNat, 31), (b.toNat, 17), (h.toNat, 11)])
  | .tget sw b d k p => some (encFields 0x79A00000 [(sw.toNat, 31), (b.toNat, 17), (d.toNat, 10), (k.toNat, 3), (p.toNat, 0)])
  | .tgetx sw b d k p => some (encFields 0x79B00000 [(sw.toNat, 31), (b.toNat, 17), (d.toNat, 10), (k.toNat, 3), (p.toNat, 0)])
  | .tins sw b d k p => some (encFields 0x79C00000 [(sw.toNat, 31), (b.toNat, 17), (d.toNat, 10), (k.toNat, 3), (p.toNat, 0)])
  | .tinsx sw b d k p => some (encFields 0x79D00000 [(sw.toNat, 31), (b.toNat, 17), (d.toNat, 10), (k.toNat, 3), (p.toNat, 0)])
  | .tups sw b d k p => some (encFields 0x79E00000 [(sw.toNat, 31), (b.toNat, 17), (d.toNat, 10), (k.toNat, 3), (p.toNat, 0)])
  | .tdel sw b k p => some (encFields 0x79F00000 [(sw.toNat, 31), (b.toNat, 17), (k.toNat, 3), (p.toNat, 0)])
  | .tscan sw b c k => some (encFields 0x7A000000 [(sw.toNat, 31), (b.toNat, 17), (c.toNat, 10), (k.toNat, 3)])
  | .tnext sw b d c p => some (encFields 0x7A100000 [(sw.toNat, 31), (b.toNat, 17), (d.toNat, 10), (c.toNat, 3), (p.toNat, 0)])
  | .tcnt sw b d k => some (encFields 0x7A200000 [(sw.toNat, 31), (b.toNat, 17), (d.toNat, 10), (k.toNat, 3)])
  | .tref sw b d k => some (encFields 0x7A300000 [(sw.toNat, 31), (b.toNat, 17), (d.toNat, 10), (k.toNat, 3)])
  | .href sw d h => some (encFields 0x7A400000 [(sw.toNat, 31), (d.toNat, 13), (h.toNat, 6)])
  | .hbnd sw h => some (encFields 0x7A500000 [(sw.toNat, 31), (h.toNat, 13)])
  | .spawn sw q e g p => some (encFields 0x7A600000 [(sw.toNat, 31), (q.toNat, 17), (e.toNat, 10), (g.toNat, 3), (p.toNat, 0)])
  | .qpush sw q g p => some (encFields 0x7A700000 [(sw.toNat, 31), (q.toNat, 17), (g.toNat, 3), (p.toNat, 0)])
  | .qpull sw q d p => some (encFields 0x7A800000 [(sw.toNat, 31), (q.toNat, 17), (d.toNat, 10), (p.toNat, 0)])
  | .qflush sw q => some (encFields 0x7A900000 [(sw.toNat, 31), (q.toNat, 17)])
  | .rsweep sw b d => some (encFields 0x7AA00000 [(sw.toNat, 31), (b.toNat, 17), (d.toNat, 11)])
  | .rdue sw b k p => some (encFields 0x7AB00000 [(sw.toNat, 31), (b.toNat, 17), (k.toNat, 3), (p.toNat, 0)])
  | .rvisit sw b c k p => some (encFields 0x7AC00000 [(sw.toNat, 31), (b.toNat, 17), (c.toNat, 10), (k.toNat, 3), (p.toNat, 0)])
  | .rreadh sw b d k => some (encFields 0x7AD00000 [(sw.toNat, 31), (b.toNat, 17), (d.toNat, 10), (k.toNat, 3)])
  | .rreadx sw b d k => some (encFields 0x7AE00000 [(sw.toNat, 31), (b.toNat, 17), (d.toNat, 10), (k.toNat, 3)])
  | .rset sw b v k => some (encFields 0x7AF00000 [(sw.toNat, 31), (b.toNat, 17), (v.toNat, 10), (k.toNat, 3)])
  | .pcnt sw d e => some (encFields 0x7B000000 [(sw.toNat, 31), (d.toNat, 14), (e.toNat, 8)])
  | .waite sw p v => some (encFields 0x7B100000 [(sw.toNat, 31), (p.toNat, 14), (v.toNat, 8)])
  | .sige sw p v => some (encFields 0x7B200000 [(sw.toNat, 31), (p.toNat, 14), (v.toNat, 8)])
  | .flushrc sw => some (encFields 0x7B300000 [(sw.toNat, 31)])
  | .hintImm i => some (encFields 0x7C000000 [(i.toNat, 0)])
  | .hintImmhi i => some (encFields 0x7C200000 [(i.toNat, 0)])
  | .hintGuard n p => some (encFields 0x7C400000 [(n.toNat, 3), (p.toNat, 0)])
  | .hintRnd m => some (encFields 0x7C600000 [(m.toNat, 0)])
  | .hintSat => some (encFields 0x7C800000 [])
  | .hintOrd c o => some (encFields 0x7CA00000 [(c.toNat, 2), (o.toNat, 0)])
  | .hintCache c => some (encFields 0x7CC00000 [(c.toNat, 0)])
  | .hintOffs o => some (encFields 0x7CE00000 [(o.toNat, 0)])
  | .hintCheck => some (encFields 0x7D000000 [])
  | .hintPri p => some (encFields 0x7D200000 [(p.toNat, 0)])
  | .deviceReset => none
  | .registerWrite => none
  | .fwloadFirmware => none
  | .fwloadConfiguration => none
  | .fwloadComplete => none
  | .attestStart => none
  | .attestComplete => none
  | .lifetimeAppend => none
  | .thermalLimit105 => none
  | .thermalRecover => none
  | .thermalLimit115 => none
  | .powerCapStep => none
  | .dieIdle => none
  | .psReqPs3 => none
  | .psReqNone => none
  | .ps3EntryComplete => none
  | .ps3WakeComplete => none
  | .partitionCreate => none
  | .partitionDelete => none
  | .partitionDeleteComplete => none
  | .contextKill => none
  | .contextFree => none
  | .expertDisable => none
  | .cxlpSetEnable => none
  | .cxlpSetDisable => none
  | .cxlExpanderTimeout => none
  | .memoryErrorCorrected => none
  | .memoryErrorUncorrectable => none
  | .workgroupStateError => none
  | .hostMwinRead => none
  | .hostMwinWrite => none
  | .hostCompletionTimeout => none
  | .sessionOpen => none
  | .sessionClose => none
  | .flitReceive => none
  | .linkRetrainComplete => none
  | .stayPortDown => none
  | .peerRingTimeout => none
  | .queueEnable => none
  | .queueResume => none
  | .queueDisable => none
  | .hqStatusClear => none
  | .queueNotify => none
  | .recordFetch => none
  | .seqReadReturn => none
  | .seqRetryTimer => none
  | .seqStallTimeout => none
  | .recordPayloadReturn => none
  | .recordWaitPoll => none
  | .recordStart => none
  | .recordSignal => none
  | .workgroupPlace => none
  | .drainReservation => none
  | .coopDieReserve => none
  | .jibChunkComplete => none
  | .resourceRelease => none
  | .packFlushTimeout => none
  | .splitLift => none
  | .resultLands => none
  | .storeSettled => none
  | .yieldTimeout => none
  | .sleepExpiry => none
  | .waitePoll => none
  | .quadAtomicWriteback => none
  | .halyardCommit => none
  | .tableRetire => none
  | .nodeReadRetry => none
  | .tileLoadRetry => none
  | .journalApply => none
  | .sheetChunkComplete => none
  | .mainsailGrant => none
  | .engineOperationComplete => none
  | .barrierStarved => none
  | .contextSliceExpiry => none
  | .contextPreempt => none
  | .haltComplete => none
  | .exchangeComplete => none
  | .writebackComplete => none
  | .stagingComplete => none
  | .translationInvalidate => none
  | .xltinvComplete => none
  | .handleMint => none
  | .counterClear => none
  | .warpRungEntry => none
  | .workgroupRungEntry => none
  | .contextRungEntry => none
  | .contextResume => none
  | .workgroupEnd => none
  | .handlerTimeout => none
  | .hostResponseTimeout => none
  | .partitionReset => none
  | .partitionResetTimeout => none
  | .rowCacheEviction => none
  | .powerLoss => none
  | .stayPortTrained => none

/-- The word of a coded instruction (R253). -/
def encode (i : Instr) : Option IWord := (encodeNat i).map (BitVec.ofNat 32)

/-- The word that a fault record shows for an instruction (R209), zero for a row without an encoding. -/
def encodeWord (i : Instr) : IWord := (encode i).getD 0

end Sys2Proof
end

