-- ==== Sys2Proof/Machine/State.lean ====
section
/-! DEFINITION. The state of the device as plain data: everything the manual gives it (INVENTORY.md, '## State'), and
the few fields of the model's own that say which agent moves next. -/
namespace Sys2Proof.Machine

/-- Bytes by address, rising, none of them zero: an unlisted byte reads zero. -/
abbrev Cells := List Host.Cell

/-- Entries by number, rising, none of them the default. -/
abbrev Sparse (α : Type) := List (Nat × α)

/-- The fault codes of R209, in the order of their numbers 0x01 to 0x1F. -/
inductive FaultCode where
  | illegalOp | illegalWidth | illegalHint | window | runHazard | nullDeref | badSpace | xlate | prot
  | misalignAtomic | rangeLock | privViolation | hdrCheck | hdrMismatch | unsupCombo | tileTorn | dupKey | noRow
  | tableStale | handleStale | handleTenant | handleBounds | barrierOverflow | barrierStarved | eccUncorr
  | trap | brk | timeout | resource | storeLate | queue
  deriving DecidableEq, Repr

/-- A fault record (R129, R209). `split` is 0xFF for a record made from the retired-warp ring (R211). `first` is the
rung at which the fault was first raised (R217). -/
structure FaultRec where
  code : FaultCode
  rung : Nat := 1
  first : Nat := 1
  split : BitVec 8 := 0
  fmask : BitVec 32 := 0
  counter : Word := 0
  addr : Word := 0
  detail : Word := 0
  /-- `%serial` of the warp at fault, and whether a Jib prologue is (R217) -/
  serial : Word := 0
  prologue : Bool := false
  /-- first word of the run of a TRAP or BRK, which issues again where its fault is given up (R427) -/
  again : Word := 0
  deriving DecidableEq, Repr

/-- Where a register result lands (R255). -/
inductive Dest where
  | slices (lane start width : Nat)
  | pred (lane p : Nat)
  | ureg (n : Nat)
  | tbind (n : Nat)
  | tile (n : Nat)
  | shape (n : Nat)
  deriving DecidableEq, Repr

/-- Where the bytes of one sector part lie: a byte of row storage by physical address (targets 0x4 and 0x8 to 0xB of
partition p are kept apart by 2^48·p), a byte of a workgroup's scratchpad, a host bus address, an address of a pod
device. -/
inductive Place where
  | mem (key : Nat)
  | scr (wg off : Nat)
  | host (a : Nat)
  | peer (dev : BitVec 8) (a : Nat)
  deriving DecidableEq, Repr

/-- A load whose outcome is known and whose bytes are not read yet (R206): its sector parts in address order. -/
structure LoadReq where
  core : Nat
  lane : Option Nat
  pieces : List (Place × Nat)
  bypass : Bool := false
  stream : Bool := false
  /-- the parts already read, by number, with their bytes (R182) -/
  got : List (Nat × List Byte) := []
  deriving DecidableEq, Repr

/-- A register result that has not landed (R256): of split `split`. `fixed` marks a fixed-latency write that stands
behind a pending one on the same slices, so that writes land in program order. -/
structure Pending where
  split : Nat
  dest : Dest
  value : Nat
  fixed : Bool := false
  /-- the read that still has to give `value` -/
  load : Option LoadReq := none
  /-- the scope of a read that is an acquire over several sectors, whose outcome the split awaits (R182, R193) -/
  acq : Option Nat := none
  deriving DecidableEq, Repr

/-- A store of one lane, or of a split (`lane` none), that is neither performed nor dropped (R210). `seq` numbers the
instruction, the same for its lanes; `release` is the scope of a release store. -/
structure StoreReq where
  lane : Option Nat
  lanes : BitVec 32
  pc : Word
  ptr : Word
  data : List Byte
  inHandler : Bool := false
  release : Option Nat := none
  seq : Nat := 0
  /-- offsets of its sector parts already performed, dropped or sent (R182) -/
  did : List Nat := []
  deriving DecidableEq, Repr

/-- A dropped store instruction kept for STORE_LATE (R210): `addr` is the pointer of its lowest dropped lane. -/
structure Late where
  cause : FaultCode
  pc : Word
  addr : Word
  lanes : BitVec 32
  inHandler : Bool := false
  seq : Nat := 0
  deriving DecidableEq, Repr

/-- A HINT word of a run: its kind and payload (R269). -/
structure HintRec where
  kind : BitVec 5
  payload : BitVec 21
  deriving DecidableEq, Repr

/-- Why a split is not ready (R96). -/
inductive Wait where
  | ready
  /-- parked under the switch marker until its results have landed and the warp's stores are settled (R257, R210) -/
  | marker
  /-- parked at a FENCE until the warp's stores are settled; `acq` for an acquire side at QUAD scope or wider, which
  invalidates the row cache (R334) -/
  | fence (acq : Bool)
  /-- an interlocked register has a result pending (R259) -/
  | results
  /-- the outcome of a precise instruction is not known (R206) -/
  | outcome
  | bwait (ref : Word) (phase : BitVec 16)
  | waite (ptr value : Word)
  | sleep (deadline : Nat)
  | yield (deadline : Nat) (others : List (Nat × Nat))
  | joinw (target : Word)
  /-- an engine queue, a reservation table or a lock table is full (R96, R348) -/
  | full
  /-- stopped by a rung (R214, R215) -/
  | stopped
  deriving DecidableEq, Repr

/-- The lanes of a precise instruction whose outcome is awaited, those done, and the faults met (R206, R208). -/
structure OutRec where
  waiting : BitVec 32
  done : BitVec 32
  faults : List (Nat × FaultRec)
  sw : Bool
  deriving DecidableEq, Repr

/-- The walk of a TCNT under way (R371): the binding, the lanes with their ranges, read when it began, the counts so far, the key walked last, the
slice that the counts go to, and the invalid node reads so far (R169). -/
structure CountRun where
  bind : Nat
  ranges : List (Nat × Nat × Nat)
  counts : List Nat
  above : Option Nat := none
  dest : Nat
  retries : Nat := 0
  deriving DecidableEq, Repr

/-- An STC under way (R331): the lanes that have still to store, with the places and bytes read when it began; the lanes that have
stored; the number that its stores share (R210); and whether a pre-emption has halted it, so that its sources are read afresh. -/
structure StoreRun where
  todo : List (Nat × Word × List Byte)
  done : BitVec 32
  seq : Nat
  halted : Bool := false
  deriving DecidableEq, Repr

/-- A valid entry of the split table (R101, R129, R130). -/
structure Split where
  pc : Word
  mask : BitVec 32
  wb : BitVec 5 := 0
  sregs : Sparse Word := []
  written : Word := 0
  mconf : Word := 0
  tb : Sparse (BitVec 128) := []
  qb : Sparse (BitVec 128) := []
  /-- deferral stack, top first -/
  defer : List (BitVec 32 × Word) := []
  prog : Word := 0
  progValid : Bool := false
  progPc : Word := 0
  /-- hints of the run under way, oldest first (R271) -/
  hints : List HintRec := []
  wait : Wait := .ready
  /-- words of the run whose last instruction the split waits at, and its marker -/
  runLen : Nat := 1
  sw : Bool := false
  out : Option OutRec := none
  /-- instructions that the split has behind it, hints not counted (R119) -/
  count : Nat := 0
  /-- the walk of a TCNT under way (R371), and an STC under way (R331) -/
  walk : Option CountRun := none
  stc : Option StoreRun := none
  /-- the sector of a queue descriptor that a CSRW under way has read, and whether it is the upper one (R182, R293) -/
  seen : Option (Bool × List Byte) := none
  /-- its BWAIT at an object of another device has been told that the phase stands, and is to issue again (R345) -/
  asked : Bool := false
  /-- a TRAP or BRK behind which the split stands and whose fault is still to be raised (R257, R427) -/
  trap : Option FaultRec := none
  /-- the cycle at which the split last became ready, and whether SPLIT_LIFT has lifted it (R97) -/
  since : Nat := 0
  lifted : Bool := false
  deriving DecidableEq, Repr

/-- One lane's registers (R116, R124, R131): slice s is bits [4s+3:4s] of `slices`; bit n of `preds` is pn. -/
structure Lane where
  slices : BitVec 4096 := 0
  preds : BitVec 8 := 0
  fpflags : BitVec 5 := 0
  sr : Word := 0
  deriving DecidableEq, Repr

/-- A handler that runs in a warp (R214): its rung, the subject split, whether this warp runs the handler split (at the
WORKGROUP rung one warp of the workgroup does, R215), the splits as they were stopped, and the cycle of entry. -/
structure Handler where
  rung : Nat
  subject : Nat
  runs : Bool := true
  saved : List (Option Split)
  entered : Nat
  deriving DecidableEq, Repr

/-- A resident or swapped warp. `id` is the model's own name for it, unlike its slot the same for its whole life and
used by no other warp. -/
structure Warp where
  id : Nat := 0
  core : Nat
  slot : Nat
  wg : Nat
  num : Nat
  serial : Word := 1
  seed : Word := 0
  slicesA : Nat := 32
  tCount : Nat := 0
  cCount : Nat := 0
  hCount : Nat := 0
  prio : Nat := 0
  lanes : List Lane := List.replicate 32 {}
  splits : List (Option Split) := [none, none, none, none]
  tiles : List (BitVec 73984) := []
  accs : List (BitVec 131072) := []
  shapes : List (BitVec 512) := []
  pending : List Pending := []
  stores : List StoreReq := []
  late : List Late := []
  /-- late stores whose STORE_LATE is raised and not yet taken by a rung (R210) -/
  delivering : List Late := []
  fmask : BitVec 32 := 0
  frec : Option FaultRec := none
  raised : Option FaultRec := none
  handler : Option Handler := none
  /-- faults of other splits held while a rung runs (R427), oldest first -/
  held : List FaultRec := []
  /-- true once all four entries are free; the warp stays until its stores are settled (R211, R84) -/
  exited : Bool := false
  /-- its slot, slices, tiles and shapes are still reserved, and its accumulators are (R84) -/
  reserved : Bool := true
  accsReserved : Bool := true
  deriving DecidableEq, Repr

/-- A barrier object (R340). -/
structure Barrier where
  expected : BitVec 16 := 0
  fixed : Bool := false
  init : Bool := false
  arrived : BitVec 16 := 0
  phase : BitVec 16 := 0
  pending : BitVec 32 := 0
  current : BitVec 32 := 0
  last : BitVec 32 := 0
  registered : BitVec 16 := 0
  owed : BitVec 16 := 0
  owner : Word := 0
  /-- an engine delivered bytes to the present phase from an operation with a ROW or FAR destination, and the completed phases to which
  one did (R191) -/
  engNow : Bool := false
  engPhases : List (BitVec 16) := []
  /-- splits of other devices that wait at the phase in BWAIT, by device and the device's name for them, and those of them that a BINIT
  has released since (R341) -/
  away : List (BitVec 8 × Nat) := []
  freed : List (BitVec 8 × Nat) := []
  /-- arrivals of each other device at the present phase, and at the last completed one (R33) -/
  from_ : Sparse Nat := []
  fromLast : Sparse Nat := []
  deriving DecidableEq, Repr

/-- A transform binding or XFRM descriptor (R52). -/
structure Binding where
  src : Word := 0
  scratchOff : Nat := 0
  length : Nat := 0
  code : Nat := 0
  logChunk : Nat := 12
  params : List Byte := []
  deriving DecidableEq, Repr

/-- The resources one workgroup asks for (R52, R78, R89). -/
structure Template where
  warps : Nat := 1
  slices : Nat := 32
  tiles : Nat := 0
  accs : Nat := 0
  shapes : Nat := 0
  barGranules : Nat := 0
  scratchKiB : Nat := 0
  deriving DecidableEq, Repr

/-- A launch record after its fields are read (R52, R53). -/
structure LaunchRec where
  seq : BitVec 32 := 0
  kind : Nat := 0
  idempotent : Bool := false
  coopQuad : Bool := false
  coopDie : Bool := false
  expert : Bool := false
  entry : Word := 0
  gx : Nat := 1
  gy : Nat := 1
  gz : Nat := 1
  count : Nat := 0
  prio : Nat := 0
  dieMask : BitVec 8 := 0
  tmpl : Template := {}
  arg : Word := 0
  waits : List (Word × Word) := []
  signal : Word × Word := (0, 0)
  bindings : List Binding := []
  deriving DecidableEq, Repr

/-- A workgroup on a core. -/
structure Workgroup where
  id : Nat
  launch : Nat
  part : BitVec 2 := 0
  ctx : BitVec 6 := 0
  num : BitVec 32 := 0
  core : Nat := 0
  tmpl : Template := {}
  coopQuad : Bool := false
  scratch : Cells := []
  bars : Sparse Barrier := []
  /-- binding and chunk of the Jib prologue still to run (R139); none once it has finished -/
  prologue : Option (Nat × Nat) := none
  /-- failed attempts of the prologue's present tile load, the cycle of the last, and whether one is to be repeated
  (R180); and whether a host completion is awaited -/
  tornTries : Nat := 0
  tornAt : Nat := 0
  torn : Bool := false
  jibAsks : Bool := false
  /-- live warps that have not exited -/
  live : Nat := 1
  /-- cycle at which it was placed (R254) -/
  started : Nat := 0
  raised : Option FaultRec := none
  /-- true while a WORKGROUP handler runs, and the cycle of its entry (R215) -/
  handler : Option Nat := none
  /-- items of a packed warp, kept for a relaunch (R220) -/
  items : List (Word × Word) := []
  losses : Nat := 0
  deriving DecidableEq, Repr

/-- Engine operations (R107, R348, R383 to R396). -/
inductive JobKind where
  | cpy | gath | xfrm | tld | tst | mma | adrn | afill | copyRecord
  deriving DecidableEq, Repr

/-- An engine job record (R107). -/
structure Job where
  id : Nat
  kind : JobKind
  core : Nat
  part : BitVec 2
  ctx : BitVec 6
  wg : Nat
  warp : Nat := 0
  lanes : BitVec 32 := 0
  /-- place of the barrier object it completes into -/
  bar : Nat := 0
  prio : Nat := 1
  dst : Word := 0
  src : Word := 0
  /-- length in bytes (CPY, XFRM), elements (GATH) -/
  len : Nat := 0
  /-- bytes delivered on completion (R382) -/
  bytes : Nat := 0
  /-- accumulator, tile A or destination, tile B -/
  acc : Nat := 0
  tA : Nat := 0
  tB : Nat := 0
  /-- .z of MMA, .aon of TST, saturation of ADRN -/
  flag : Bool := false
  /-- target descriptor, fill value, GATH size code -/
  desc : Word := 0
  xf : Binding := {}
  next : Nat := 0
  total : Nat := 0
  status : BitVec 32 := 0
  done : Bool := false
  resumed : Bool := false
  retries : Nat := 0
  launch : Nat := 0
  /-- cycle of the last grant (R393), or of a failed tile-load attempt (R180) -/
  since : Nat := 0
  /-- what the chunk in progress has read, piece by piece, the piece being read, and what it is to write -/
  got : List (List Byte) := []
  cur : List Byte := []
  out : Option (List Byte) := none
  /-- an answer from outside the device is awaited -/
  asking : Bool := false
  /-- its context was killed while a chunk waited for an answer: it ends with that chunk (R113) -/
  killed : Bool := false
  /-- a tile-load attempt failed and is to be repeated (R180) -/
  torn : Bool := false
  /-- version of the tile found by a TST (R178) -/
  version : BitVec 32 := 0
  /-- scope of an acquire TLD (R383) -/
  acquire : Option Nat := none
  /-- chunks of a copy record whose ranges met earlier locks (R428); sectors of its tile that a plain TST has written (R178) -/
  clash : List Nat := []
  /-- runs of sectors of row storage that it has read or written, by first sector and number, the latest first (R221) -/
  touched : List (Nat × Nat) := []
  /-- peers lost while it was outstanding (R33) -/
  lost : List (BitVec 8) := []
  deriving DecidableEq, Repr

/-- What a range lock covers (R196 of Engines and range locks): `count` sectors of row storage from physical sector
`first`, the like of a workgroup's scratchpad, a tile register, an accumulator. -/
inductive LockOn where
  | sectors (first count : Nat)
  | scratch (wg first count : Nat)
  | tile (warp n : Nat)
  | acc (warp n : Nat)
  deriving DecidableEq, Repr

structure Lock where
  job : Nat
  write : Bool
  on : LockOn
  deriving DecidableEq, Repr

/-- Table operations that may still be under way (R167, R169). -/
inductive TableOp where
  | tins | tinsx | tups | tdel | tget | tgetx | tref | tnext | href
  deriving DecidableEq, Repr

/-- A mutation that a Halyard has begun (R164, R167): the row it writes and the nodes it rewrites, with the bytes that they held before
(R168), node writes still to come as node, length and bytes, and what it commits: the stripe's entry, the splits and the reference. -/
structure TableWork where
  row : Option (Nat × Nat) := none
  nodes : List (Nat × Nat) := []
  todo : List (Nat × Nat × Nat) := []
  stripe : Nat
  splits : Nat := 0
  ref : Option Nat := none
  deriving DecidableEq, Repr

/-- A mutation sent to a Halyard (R367), or a lookup being read again (R169), of one lane. -/
structure TableReq where
  op : TableOp
  core : Nat
  warp : Nat
  split : Nat
  lane : Nat
  part : BitVec 2
  ctx : BitVec 6
  /-- number of the instruction, the same for its lanes (R368) -/
  group : Nat
  binding : BitVec 128
  key : Nat
  pred : Nat := 7
  dest : Nat := 0
  cursor : Nat := 0
  /-- slice of the cursor of a TNEXT -/
  cdest : Nat := 0
  retries : Nat := 0
  /-- the scope of a lookup that is an acquire (R365, R372) -/
  acq : Option Nat := none
  /-- what the Halyard is writing for it, once it has begun (R164, R167) -/
  work : Option TableWork := none
  deriving DecidableEq, Repr

/-- A request to the host or to a peer whose answer is awaited (R32, R33, R148). -/
structure ExtReq where
  tag : Nat
  peer : Option (BitVec 8) := none
  part : BitVec 2 := 0
  core : Nat := 0
  warp : Nat := 0
  split : Nat := 0
  /-- 32 for a uniform access -/
  lane : Nat := 0
  /-- the lanes of a store (R210) -/
  lanes : BitVec 32 := 0
  /-- 0 load, 1 atomic, 2 store, 3 engine operation, 4 barrier of a peer, 5 the word of a WAITE, 6 an engine's delivery to
  a peer's barrier, 7 a workgroup's prologue (`job` names the workgroup), 8 a wait of a record (`job` names the queue and `dest`
  the wait), 9 a record's signal (`job` names the launch), 10 bytes of a ring -/
  use : Nat := 0
  job : Nat := 0
  ptr : Word := 0
  pc : Word := 0
  dest : Nat := 0
  width : Nat := 0
  inHandler : Bool := false
  seq : Nat := 0
  /-- its answer is an acquire at QUAD scope or wider (R193) -/
  acquire : Bool := false
  /-- a load over two pages of a peer is two requests (R26), which share this number (0 for another request); whether this one is for
  the upper page, the bytes that the other has brought, and the fault it has ended in -/
  pair : Nat := 0
  upper : Bool := false
  have_ : List Byte := []
  bad : Option (FaultCode × Nat) := none
  /-- the cycle at which its time runs out (R32, R148) -/
  deadline : Nat := 0
  deriving DecidableEq, Repr

/-- A valid sector of a core's row cache (R176), by physical sector. -/
structure CacheSector where
  core : Nat
  sector : Nat
  data : BitVec 256
  stream : Bool := false
  deriving DecidableEq, Repr

/-- A byte held by a quad atomic unit and not yet written back (R188). -/
structure HeldByte where
  quad : Nat
  addr : Nat
  byte : Byte
  /-- cycle of the operation, from which its 2 µs count -/
  since : Nat := 0
  deriving DecidableEq, Repr

/-- A committed entry of a home slice's journal (R179). -/
structure Journal where
  home : Nat
  addr : Nat
  data : List Byte
  version : BitVec 32
  /-- the TST that waits for it -/
  job : Nat
  /-- cycle of the commit point, from which its 1 µs counts (R179) -/
  since : Nat := 0
  deriving DecidableEq, Repr

/-- A store that a warp left behind undelivered (R211), with the context that its workgroup belongs to. -/
structure Retired where
  part : BitVec 2
  ctx : BitVec 6
  serial : Word
  pc : Word
  addr : Word
  lanes : BitVec 32
  cause : FaultCode
  wg : Nat
  wgNum : BitVec 32
  num : Nat
  deriving DecidableEq, Repr

/-- A bin of a packing unit (R92): a queue's descriptor, an entry point, its items in acceptance order, the cycle of
the first. -/
structure Bin where
  die : BitVec 2
  part : BitVec 2
  ctx : BitVec 6
  desc : Word
  entry : Word
  args : List Word
  first : Nat
  /-- PACK.FLUSH_NS when the bin was opened (R69) -/
  flushNs : Nat := 1000
  deriving DecidableEq, Repr

/-- A workgroup lost and to be placed again (R220): its number, its losses, the core it was on, a packed warp's items. -/
structure Relaunch where
  num : BitVec 32
  losses : Nat
  core : Nat
  items : List (Word × Word)
  deriving DecidableEq, Repr

/-- A launch that has Started (R70), or the endless launch of a packed queue (R93). -/
structure Launch where
  id : Nat
  part : BitVec 2
  ctx : BitVec 6
  /-- host queue it came from; none for packed warps -/
  queue : Option (BitVec 6) := none
  record : LaunchRec
  prio : Nat
  started : Nat := 0
  /-- cycle from which the starvation timer counts (R81) -/
  starve : Nat := 0
  nextWg : Nat := 0
  blockDie : Option (BitVec 2) := none
  /-- workgroups placed that have not ended -/
  live : Nat := 0
  /-- cycle since which the next workgroup finds no core (R82) -/
  noCore : Option Nat := none
  /-- packed warps waiting for a core: cycle of the flush, entry point and arguments (R93) -/
  packed : List (Nat × Word × List Word) := []
  desc : Word := 0
  /-- copy chunks finished, and whether an error has stopped the record (R428) -/
  chunksDone : Nat := 0
  copyStatus : BitVec 32 := 0
  /-- workgroups lost and to be placed again (R220) -/
  relaunch : List Relaunch := []
  deriving DecidableEq, Repr

/-- A reservation of a die (R82, R87): the launch that holds it, and the one core of a drain reservation. -/
structure Reservation where
  die : BitVec 2
  launch : Nat
  core : Option Nat
  deriving DecidableEq, Repr

/-- What a queue does with its next record (R56, R70). -/
inductive Fetch where
  | idle
  /-- the SEQ bytes are being read: the delay before this read, 0 for the first, the cycle of the first failure, and
  whether the stall has been reported -/
  | seqRead (delay start : Nat) (stalled : Bool)
  /-- SEQ did not match: cycle of the next read -/
  | retry (at_ delay start : Nat) (stalled : Bool)
  /-- the rest of the record is being read -/
  | payload
  /-- Waiting: the record, which waits are met, and the cycle of the last poll (R75) -/
  | waiting (r : LaunchRec) (met : List Bool) (polled : Nat)
  deriving DecidableEq, Repr

/-- A command queue (R49, R50). -/
structure Queue where
  irqEvery : BitVec 8 := 0
  ctx : BitVec 6 := 0
  priMax : BitVec 3 := 0
  logSize : BitVec 5 := 4
  en : Bool := false
  base : Word := 0
  headWb : Word := 0
  head : BitVec 32 := 0
  tail : BitVec 32 := 0
  err : BitVec 8 := 0
  stopped : Bool := false
  stSeq : BitVec 32 := 0
  /-- true once stopped until it is resumed or reset (R55) -/
  halted : Bool := false
  irqCount : Nat := 0
  fetch : Fetch := .idle
  deriving DecidableEq, Repr

/-- States of a context (R59). -/
inductive CtxState where
  | free | resident | swapped | faulted | killed
  deriving DecidableEq, Repr

/-- The summary of a fault at the CONTEXT rung (R217). -/
structure Summary where
  code : BitVec 8 := 0
  origin : BitVec 8 := 0
  pending : Bool := false
  fromRing : Bool := false
  fromPrologue : Bool := false
  noWorkgroup : Bool := false
  fmask : BitVec 32 := 0
  serial : Word := 0
  counter : Word := 0
  where_ : Word := 0
  /-- the workgroup named, for CMD 2 -/
  wg : Nat := 0
  raisedAt : Nat := 0
  deriving DecidableEq, Repr

/-- A context entry and its expert block (R59, R69, R291, R138, R412). -/
structure Ctx where
  tenant : BitVec 16 := 0
  placeDies : BitVec 4 := 0
  placeDef : BitVec 2 := 0
  state : CtxState := .free
  expertEn : Bool := false
  valid : Bool := false
  root : Word := 0
  tableDir : Word := 0
  shroud : Word := 0
  vecBase : Word := 0
  privKiB : BitVec 32 := 0
  privBase : BitVec 32 := 0
  ageLimit : Nat := 1024
  checked : Bool := false
  flushNs : Nat := 1000
  nodeCap : Nat := 62
  slotMap : BitVec 8 := 0x84
  reef : Word := 0
  /-- warps started so far (%serial) -/
  serials : Nat := 0
  summary : Summary := {}
  /-- a fault that climbed to the CONTEXT rung and is not yet entered (R217) -/
  raised : Option (FaultRec × Summary) := none
  lastResident : Nat := 0
  everResident : Bool := false
  /-- QUAD, DIE, PKG and POD barrier objects of the context (R339), by place -/
  nets : Sparse Barrier := []
  /-- the killed context's halt has ended and its storage is zeroed (R61, R113) -/
  zeroed : Bool := false
  deriving DecidableEq, Repr

/-- A peer session entry (R28). `state`: 0 closed, 1 opening, 2 open, 3 lost. -/
structure Session where
  gen : BitVec 16 := 0
  dev : BitVec 8 := 0
  part : BitVec 2 := 0
  ctx : BitVec 6 := 0
  state : BitVec 2 := 0
  open_ : Bool := false
  deriving DecidableEq, Repr

/-- The stages of a context switch (R110). -/
inductive Switch where
  | none
  /-- issue has stopped; the context to come in, or none (a kill, a CONTEXT rung) -/
  | halting (next : Option (BitVec 6))
  | exchanging (next : Option (BitVec 6))
  deriving DecidableEq, Repr

/-- A partition (R58, R108, R154, R219, R426, R46). -/
structure Part where
  psReq : BitVec 4 := 0
  /-- 0 deleted, 1 creating, 2 live, 3 deleting -/
  state : BitVec 4 := 0
  dies : BitVec 4 := 0
  /-- number of the draw of the Shroud's secret (R426) -/
  secret : Nat := 0
  sliceUs : BitVec 16 := 0x07D0
  minUs : BitVec 8 := 0xC8
  resident : Option (BitVec 6) := none
  /-- the context that became resident last (R138) -/
  lastIn : Option (BitVec 6) := none
  /-- cycle at which the resident context became resident -/
  residentAt : Nat := 0
  switch : Switch := .none
  /-- the image being written back, and whether the next image is staged (R110) -/
  writeback : Option (BitVec 6) := none
  staged : Bool := true
  xltVa : BitVec 41 := 0
  xltCtx : BitVec 6 := 0
  xltAll : Bool := false
  xltGo : Bool := false
  partMs : BitVec 16 := 0x64
  ctxMs : BitVec 16 := 0x0A
  wgUs : BitVec 16 := 0x3E8
  warpUs : BitVec 16 := 0xC8
  hmintIndex : BitVec 32 := 0
  hmintGen : BitVec 16 := 0
  mwBase : BitVec 48 := 0
  mwCtx : BitVec 6 := 0
  mwErr : Bool := false
  mwEn : Bool := false
  /-- a fault that climbed to the PARTITION rung with what its summaries will hold (R218), and the cycle of its entry -/
  raised : Option (FaultRec × Summary) := none
  resetAt : Option Nat := none
  /-- queue served last by the round robin (R72) -/
  rr : BitVec 6 := 0
  ctxs : Sparse Ctx := []
  queues : Sparse Queue := []
  sessions : Sparse Session := []
  /-- save regions of the partition's dies (R110), by context and offset -/
  save : Sparse Cells := []
  deriving DecidableEq, Repr

/-- A Stay port (R25, R44). `state`: 0 down, 1 training, 2 up, 3 retraining. -/
structure Port where
  state : BitVec 2 := 2
  en : Bool := true
  drops : Word := 0
  txSeq : BitVec 32 := 0
  rxSeq : BitVec 32 := 0
  /-- flits sent and not acknowledged, oldest first, at most 512 -/
  replay : List Flit := []
  /-- replays in a row of the oldest of them -/
  tries : Nat := 0
  /-- credits held per virtual channel (R25) -/
  credits : List Nat := [0, 0, 0]
  /-- flits that wait for a credit or for the port -/
  waiting : List Flit := []
  /-- credits to be returned with the next flit, per virtual channel -/
  owed : List Nat := [0, 0, 0]
  deriving DecidableEq, Repr

/-- A CXL port (R45). `state`: 0 none, 1 training, 2 up, 3 not responding. -/
structure CxlPort where
  state : BitVec 2 := 0
  lanes : BitVec 4 := 0
  cap : Word := 0
  deriving DecidableEq, Repr

/-- A far interleave set register (R45). -/
structure CxlSet where
  ports : BitVec 8 := 0
  part : BitVec 2 := 0
  num : BitVec 2 := 0
  en : Bool := false
  deriving DecidableEq, Repr

/-- What the base die counts for the lifetime record between appends (R66): by LPDDR-6 package or SRAM macro, die and temperature,
port, and stripe. Hours are fixed-point numbers with 32 fraction bits (DESIGN CHOICE, log 32). -/
structure LifeCounts where
  eccCorrected : Sparse Nat := []
  eccUncorrected : Sparse Nat := []
  thermalHours : Sparse Nat := []
  retrains : Sparse Nat := []
  relaunches : Nat := 0
  splitStorms : Sparse Nat := []
  deriving DecidableEq, Repr

/-- The kinds of entry of the lifetime record (R66), in its order. -/
inductive LifeKind where
  | ecc | thermal | link | relaunch | storm | rollback
  deriving DecidableEq, Repr

/-- An entry of the lifetime record (R66): its kind, what it counts for, and its one or two counts. -/
structure LifeEntry where
  kind : LifeKind
  unit : Nat
  a : Nat
  b : Nat := 0
  deriving DecidableEq, Repr

/-- A block of the lifetime record (R66): at most 60 entries, and in its trailer its number, the numbers that it stands for and its
signature. -/
structure LifeBlock where
  seq : Nat
  first : Nat
  last : Nat
  entries : List LifeEntry
  signature : List Byte
  deriving DecidableEq, Repr

/-- What a host read returned (R47, R426): the data, and whether the completion was marked poisoned. -/
structure HostReply where
  data : List Byte
  poisoned : Bool := false
  deriving DecidableEq, Repr

/-- A request of a peer that is not performed whole (R24, R182): where and how it is to be answered, the numbers of its sector parts
that are, with the bytes that they read, and the statuses of those that failed. -/
structure Inbound where
  port : Nat
  dev : BitVec 8
  gen : BitVec 16
  tag : Nat
  part : BitVec 2
  ctx : BitVec 6
  addr : BitVec 52
  op : PeerOp
  did : List (Nat × List Byte) := []
  bad : List (Nat × BitVec 8) := []
  deriving DecidableEq, Repr

/-- A host access through the memory window that is not performed whole (R47, R182): `data` holds what it writes, none for a read;
then the numbers of its sector parts that are performed, with the bytes that they read, and whether a page was missing or a sector
poisoned. -/
structure WindowAcc where
  part : BitVec 2
  ctx : BitVec 6
  va : Nat
  size : Nat
  data : Option (List Byte) := none
  did : List (Nat × List Byte) := []
  missing : Bool := false
  poisoned : Bool := false
  deriving DecidableEq, Repr

/-- An event whose turn it is, with what it brings. -/
structure Move where
  row : Instr
  args : EventArgs := {}
  deriving DecidableEq, Repr

/-- The split that issues: the warp's id and the split number. -/
structure SplitId where
  warp : Nat
  split : Nat
  deriving DecidableEq, Repr

/-- An entry of a slot-group's operand latch (R119, R120). A handler split, which has the number of its subject, goes by that number
and 4 here. -/
structure LatchEntry where
  core : Nat
  group : Nat
  warp : Nat
  split : Nat
  start : Nat
  width : Nat
  values : List Nat
  /-- how many instructions its split has behind it when it serves the last time -/
  last : Nat
  deriving DecidableEq, Repr

/-- A cached translation of a 64 KiB granule (R154, R155). -/
structure TlbEntry where
  part : BitVec 2
  ctx : BitVec 6
  granule : Nat
  key : Nat
  w : Bool
  x : Bool
  krow : Nat
  far : Bool
  /-- of a 2 MiB page -/
  big : Bool := false
  deriving DecidableEq, Repr

/-- A non-leaf table entry that the walkers of a die hold (R154): its level and the address bits above the next level. -/
structure WalkEntry where
  die : BitVec 2
  part : BitVec 2
  ctx : BitVec 6
  level : Nat
  index : Nat
  entry : Nat
  deriving DecidableEq, Repr

/-- The context that a 64 KiB frame of row storage belongs to, and the granule at which it maps the frame (R62): `gone`
once the context has been freed. -/
structure Owner where
  frame : Nat
  part : BitVec 2
  ctx : BitVec 6
  granule : Nat
  gone : Bool := false
  deriving DecidableEq, Repr

/-- A descriptor that a Halyard has made live (R158): its context, its pointer and its place (R159). -/
structure LiveDesc where
  part : BitVec 2
  ctx : BitVec 6
  ptr : Nat
  key : Nat
  deriving DecidableEq, Repr

/-- A word of row storage overwritten while workgroups ran: its place, the word it held, the cycle (R254). -/
structure StaleWord where
  key : Nat
  old : IWord
  at_ : Nat
  deriving DecidableEq, Repr

structure State where
  /- which agent moves next (the model's own) -/
  agenda : List Move := []
  /-- accesses that woke the package and complete once it is in PS0 (R37) -/
  deferred : List Move := []
  args : EventArgs := {}
  cur : Option SplitId := none
  turn : Nat := 0
  free : Nat := 0
  /- time -/
  cycle : Nat := 0
  /- the device and its control window -/
  bootStage : BitVec 3 := 5
  bootErr : BitVec 8 := 0
  devEvt : Word := 0
  cfgVersion : BitVec 32 := 0
  fwVersion : BitVec 32 := 0
  fwRollback : BitVec 32 := 0
  cfgRollback : BitVec 32 := 0
  fwPtr : Word := 0
  fwLen : Word := 0
  fwGo : Bool := false
  fwKind : Bool := false
  fwResult : BitVec 8 := 0
  flashFw : List Byte := []
  flashCfg : List Byte := []
  attNonce : BitVec 512 := 0
  attGo : Bool := false
  attLen : BitVec 16 := 0
  attReport : List Byte := []
  pwrCap : BitVec 16 := 3300
  capMax : BitVec 16 := 3300
  pkgState : BitVec 2 := 0
  ps1Cap : BitVec 4 := 0
  ps1Heat : BitVec 4 := 0
  ps2 : BitVec 4 := 0
  pwrRefused : Bool := false
  clk : List (BitVec 16) := [1700, 1700, 1700, 1700]
  off : Bool := false
  podIndex : BitVec 8 := 0
  ringTimeout : BitVec 16 := 0x32
  ports : List Port := List.replicate 18 {}
  /-- ports down at a peer's end of their plane, by pod index of the peer and plane (R26) -/
  peerDown : List (BitVec 8 × Nat) := []
  /-- what the configuration image sets (R63): enabled dies, clock limits, the plane of each Stay port -/
  dieOn : BitVec 4 := 0xF
  clkMax : List (BitVec 16) := [1700, 1700, 1700, 1700]
  planes : List Nat := List.range 18
  cxlPorts : List CxlPort := List.replicate 8 {}
  cxlSets : List CxlSet := List.replicate 8 {}
  msix : Sparse Word := []
  irqs : List Nat := []
  hostReply : Option HostReply := none
  life : List LifeBlock := []
  lifeNow : LifeCounts := {}
  lifeSeq : Nat := 0
  /-- blocks of the log area, its reserve of 16 not counted (DESIGN CHOICE, log 68) -/
  lifeCap : Nat := 4096
  /-- cycle of the last append -/
  lifeAt : Nat := 0
  /-- node splits of a stripe within the millisecond that began at a cycle: start and count (R66) -/
  stormNow : Sparse (Nat × Nat) := []
  coreCounters : Sparse Word := []
  tableCounters : Sparse Word := []
  parts : List Part := List.replicate 4 {}
  draws : Nat := 0
  /- memory -/
  mem : Cells := []
  /-- the host's memory (DESIGN CHOICE, log 7) -/
  host : Cells := []
  /-- host ranges that give no completion (DESIGN CHOICE, log 69) -/
  hostDead : List (Nat × Nat) := []
  poison : List Nat := []
  pool : Sparse Nat := []
  poolBack : List (Nat × Nat) := []
  cache : List CacheSector := []
  held : List HeldByte := []
  journal : List Journal := []
  latch : List LatchEntry := []
  tlb : List TlbEntry := []
  walks : List WalkEntry := []
  owners : List Owner := []
  /-- words that atomics, signals and SIGEs of this device have changed in this step (R75, R300) -/
  nudged : List (Place × Nat) := []
  /-- descriptors made live and not yet retired -/
  descs : List LiveDesc := []
  stale : List StaleWord := []
  locks : List Lock := []
  stamps : Nat := 0
  /- work -/
  launches : List Launch := []
  reservations : List Reservation := []
  bins : List Bin := []
  wgs : List Workgroup := []
  warps : List Warp := []
  jobs : List Job := []
  tableReqs : List TableReq := []
  lookups : List TableReq := []
  /-- descriptors whose STATE an atomic has changed from 2 to 3, by partition, context and pointer (R159) -/
  retiring : List (BitVec 2 × BitVec 6 × Nat) := []
  exts : List ExtReq := []
  /-- requests of peers and accesses of the host that are not performed whole, oldest first (R24, R47, R182) -/
  inbox : List Inbound := []
  windows : List WindowAcc := []
  /-- peers that no plane was found to reach in this step, whose loss is declared behind it (R32) -/
  lost : List (BitVec 2 × BitVec 8) := []
  /-- objects of other devices found initialised for an operation that issues again (R340): warp, split, reference -/
  probed : List (Nat × Nat × Word) := []
  retired : List (Nat × Retired) := []
  nextId : Nat := 1
  deriving DecidableEq, Repr

/-- Why the machine stops. Every fault the manual describes is taken as a trap and is a next state; this one names a
state that is no state of the device. -/
inductive Fault where
  /-- A coded instruction was asked to run while no valid split is chosen to issue it. Raised by every coded meaning;
  safe: the device issues only from a valid split. -/
  | noIssuingSplit
  deriving DecidableEq, Repr

/-- Why an instruction has no meaning in the model. -/
inductive Refusal where
  /-- An arm of the dispatch that is not modelled yet. Raised by the dispatch alone; safe. -/
  | notModelled (mnemonic : String)
  deriving DecidableEq, Repr

/-- The device right after boot stage 5 (R63): every field at its value after reset (DEDUCED, log 4, DESIGN CHOICE, log 5). -/
def State.reset : State := {}

end Sys2Proof.Machine
end

