-- ==== Sys2Proof/Machine/Bits.lean ====
section
/-! DEFINITION. Numbers as the pseudocode of R8 uses them (`sext`, `trunc`), sparse maps in their one canonical form,
and little-endian bytes (R4). -/
namespace Sys2Proof.Machine

/-- `sext(x, b)`: a b-bit pattern read as signed (R8). -/
def sext (x b : Nat) : Int :=
  let y := x % 2 ^ b
  if 2 ^ (b - 1) ≤ y then (y : Int) - 2 ^ b else y

/-- `trunc(x, b)` of an integer (R8). -/
def trunc (x : Int) (b : Nat) : Nat := (x % ((2 ^ b : Nat) : Int)).toNat

/-- Bit `i` of a number. -/
def bitAt (x i : Nat) : Bool := x.testBit i

/-- A number whose bits `[lo+n-1:lo]` are replaced. -/
def setBits (x lo n v : Nat) : Nat :=
  x - bits x lo n * 2 ^ lo + (v % 2 ^ n) * 2 ^ lo

/-- The places of the ones of a 32-bit mask, ascending. -/
def lanesOf (m : BitVec 32) : List Nat := (List.range 32).filter (fun i => m.getLsbD i)

/-- The mask of a list of lanes. -/
def maskOf (ls : List Nat) : BitVec 32 := ls.foldl (fun m i => m ||| (1#32 <<< i)) 0

/-- The lowest lane of a mask. -/
def lowestLane (m : BitVec 32) : Option Nat := (lanesOf m).head?

/-- Number of ones. -/
def popcount (x n : Nat) : Nat := ((List.range n).filter (fun i => x.testBit i)).length

/-! Sparse maps: the entry of `k`, and the map with it replaced; an entry equal to the default is not listed. -/

def Sparse.get {α : Type} (d : α) : Sparse α → Nat → α
  | [], _ => d
  | (k', v) :: rest, k => if k' = k then v else if k < k' then d else Sparse.get d rest k

/-- Insert or replace, keeping the order. -/
def Sparse.put {α : Type} (k : Nat) (v : α) : Sparse α → Sparse α
  | [] => [(k, v)]
  | (k', v') :: rest =>
    if k' = k then (k, v) :: rest
    else if k < k' then (k, v) :: (k', v') :: rest
    else (k', v') :: Sparse.put k v rest

/-- Remove an entry. -/
def Sparse.del {α : Type} (k : Nat) : Sparse α → Sparse α
  | [] => []
  | (k', v') :: rest => if k' = k then rest else if k < k' then (k', v') :: rest else (k', v') :: Sparse.del k rest

/-- The map with entry `k` replaced by `v`, in canonical form. -/
def Sparse.set {α : Type} [DecidableEq α] (d : α) (m : Sparse α) (k : Nat) (v : α) : Sparse α :=
  if v = d then Sparse.del k m else Sparse.put k v m

/-- Keys rise strictly from above `lo`, and no entry is the default. -/
def Sparse.wfFrom {α : Type} [DecidableEq α] (d : α) : Nat → Sparse α → Bool
  | _, [] => true
  | lo, (k, v) :: rest => decide (lo ≤ k) && decide (v ≠ d) && Sparse.wfFrom d (k + 1) rest

/-- The canonical form. -/
def Sparse.wf {α : Type} [DecidableEq α] (d : α) (m : Sparse α) : Bool := Sparse.wfFrom d 0 m

/-- The one form of a memory: addresses strictly rising and no zero byte listed. -/
def Memory.wf (m : Cells) : Bool := Sparse.wf (0 : Byte) m

/-- A byte; what an unlisted address reads as is zero (R63 stage 4, R62). -/
def Cells.byte (m : Cells) (a : Nat) : Byte := Sparse.get 0 m a

/-- A byte written. -/
def Cells.setByte (m : Cells) (a : Nat) (v : Byte) : Cells := Sparse.set 0 m a v

/-- `n` bytes from `a`, out of entries that none lies below `a`. -/
def Cells.bytesFrom : Nat → Nat → Cells → List Byte
  | 0, _, _ => []
  | n + 1, a, [] => 0 :: Cells.bytesFrom n (a + 1) []
  | n + 1, a, (k, v) :: rest =>
    if k = a then v :: Cells.bytesFrom n (a + 1) rest else 0 :: Cells.bytesFrom n (a + 1) ((k, v) :: rest)

/-- `n` bytes from `a`. -/
def Cells.bytes (m : Cells) (a n : Nat) : List Byte := Cells.bytesFrom n a (m.dropWhile fun e => decide (e.1 < a))

/-- Bytes written from `a` on, over entries that none lies below `a`. -/
def Cells.setFrom : List Byte → Nat → Cells → Cells
  | [], _, m => m
  | b :: bs, a, m =>
    let rest := match m with
      | [] => []
      | (k, v) :: r => if k = a then r else (k, v) :: r
    if b = 0 then Cells.setFrom bs (a + 1) rest else (a, b) :: Cells.setFrom bs (a + 1) rest

/-- Bytes written from `a` on, in ascending order. -/
def Cells.setBytes (m : Cells) (a : Nat) (bs : List Byte) : Cells :=
  (m.takeWhile fun e => decide (e.1 < a)) ++ Cells.setFrom bs a (m.dropWhile fun e => decide (e.1 < a))

/-- A little-endian number (R4). -/
def leNat : List Byte → Nat
  | [] => 0
  | b :: bs => b.toNat + 256 * leNat bs

/-- The `n` little-endian bytes of a number (R4). -/
def leBytes (n v : Nat) : List Byte := (List.range n).map (fun i => BitVec.ofNat 8 (v / 2 ^ (8 * i)))

/-- A list with entry `i` replaced by a function of it. -/
def modifyAt {α : Type} (f : α → α) : List α → Nat → List α
  | [], _ => []
  | x :: xs, 0 => f x :: xs
  | x :: xs, i + 1 => x :: modifyAt f xs i

/-- A list without entry `i`. -/
def removeAt {α : Type} : List α → Nat → List α
  | [], _ => []
  | _ :: xs, 0 => xs
  | x :: xs, i + 1 => x :: removeAt xs i

/-- The splitmix finaliser of R165. -/
def mix64 (key : Nat) : Nat :=
  let k := key % 2 ^ 64
  let z := k ^^^ (k >>> 30)
  let z := z * 0xBF58476D1CE4E5B9 % 2 ^ 64
  let z := z ^^^ (z >>> 27)
  let z := z * 0x94D049BB133111EB % 2 ^ 64
  z ^^^ (z >>> 31)

/-- The step of the stochastic-rounding stream (R232). -/
def golden : Nat := 0x9E3779B97F4A7C15

/-- A fault code's number (R209). -/
def FaultCode.num : FaultCode → Nat
  | .illegalOp => 0x01 | .illegalWidth => 0x02 | .illegalHint => 0x03 | .window => 0x04 | .runHazard => 0x05
  | .nullDeref => 0x06 | .badSpace => 0x07 | .xlate => 0x08 | .prot => 0x09 | .misalignAtomic => 0x0A
  | .rangeLock => 0x0B | .privViolation => 0x0C | .hdrCheck => 0x0D | .hdrMismatch => 0x0E | .unsupCombo => 0x0F
  | .tileTorn => 0x10 | .dupKey => 0x11 | .noRow => 0x12 | .tableStale => 0x13 | .handleStale => 0x14
  | .handleTenant => 0x15 | .handleBounds => 0x16 | .barrierOverflow => 0x17 | .barrierStarved => 0x18
  | .eccUncorr => 0x19 | .trap => 0x1A | .brk => 0x1B | .timeout => 0x1C | .resource => 0x1D | .storeLate => 0x1E
  | .queue => 0x1F

end Sys2Proof.Machine
end

