-- ==== Sys2Proof/Machine/Num.lean ====
section
/-! DEFINITION. Number formats, rounding, flags and conversions (R224 to R235), on exact values: a finite float is a
signed dyadic number, and every rounding starts from an exact magnitude, or from the floor of one at a finer place with
a sticky bit. -/
namespace Sys2Proof.Machine

/-- The floating-point formats of R226 and R227. -/
inductive FloatFmt where
  | f64 | f32 | f16 | bf16 | e5m2 | e4m3 | e2m1
  deriving DecidableEq, Repr

/-- Exponent bits, fraction bits and bias (R226). -/
def FloatFmt.expBits : FloatFmt → Nat
  | .f64 => 11 | .f32 => 8 | .f16 => 5 | .bf16 => 8 | .e5m2 => 5 | .e4m3 => 4 | .e2m1 => 2

def FloatFmt.fracBits : FloatFmt → Nat
  | .f64 => 52 | .f32 => 23 | .f16 => 10 | .bf16 => 7 | .e5m2 => 2 | .e4m3 => 3 | .e2m1 => 1

def FloatFmt.bias : FloatFmt → Int
  | .f64 => 1023 | .f32 => 127 | .f16 => 15 | .bf16 => 127 | .e5m2 => 15 | .e4m3 => 7 | .e2m1 => 1

/-- Width in bits, and in slices (R224, R225). -/
def FloatFmt.bits (f : FloatFmt) : Nat := 1 + f.expBits + f.fracBits

def FloatFmt.width (f : FloatFmt) : Nat := f.bits / 4

/-- Formats with an infinity (R226). -/
def FloatFmt.hasInf : FloatFmt → Bool
  | .e4m3 => false | .e2m1 => false | _ => true

/-- Formats whose NaNs may be signalling (R226). -/
def FloatFmt.hasSignalling : FloatFmt → Bool
  | .f64 => true | .f32 => true | .f16 => true | .bf16 => true | _ => false

/-- The pattern above the fraction with an all-ones exponent: the positive infinity where there is one. -/
def FloatFmt.infCode (f : FloatFmt) : Nat := (2 ^ f.expBits - 1) * 2 ^ f.fracBits

/-- The pattern of the largest finite value (R226). -/
def FloatFmt.maxCode : FloatFmt → Nat
  | .e4m3 => 0x7E
  | .e2m1 => 0x7
  | f => f.infCode - 1

/-- The canonical NaN (R229); E2M1 has none. -/
def FloatFmt.nanCode : FloatFmt → Nat
  | .e4m3 => 0x7F
  | .e2m1 => 0
  | f => f.infCode + 2 ^ (f.fracBits - 1)

/-- The sign bit's weight. -/
def FloatFmt.signBit (f : FloatFmt) : Nat := 2 ^ (f.expBits + f.fracBits)

/-- A decoded value: `fin neg m e` is (−1)^neg · m · 2^e. -/
inductive FVal where
  | nan (signalling : Bool)
  | inf (neg : Bool)
  | fin (neg : Bool) (m : Nat) (e : Int)
  deriving DecidableEq, Repr

/-- The value of a pattern (R226, R227). -/
def FloatFmt.decode (f : FloatFmt) (x : Nat) : FVal :=
  let e := Sys2Proof.bits x f.fracBits f.expBits
  let m := Sys2Proof.bits x 0 f.fracBits
  let s := x.testBit (f.expBits + f.fracBits)
  if f.hasInf && e == 2 ^ f.expBits - 1 then
    if m = 0 then .inf s else .nan (f.hasSignalling && decide (m < 2 ^ (f.fracBits - 1)))
  else if f = .e4m3 ∧ e = 15 ∧ m = 7 then .nan false
  else if e = 0 then .fin s m (1 - f.bias - f.fracBits)
  else .fin s (m + 2 ^ f.fracBits) (e - f.bias - f.fracBits)

def FVal.isNaN : FVal → Bool
  | .nan _ => true
  | _ => false

def FVal.isSignalling : FVal → Bool
  | .nan s => s
  | _ => false

def FVal.isZero : FVal → Bool
  | .fin _ m _ => m == 0
  | _ => false

def FVal.neg : FVal → Bool
  | .nan _ => false
  | .inf n => n
  | .fin n _ _ => n

/-- Rounding modes (R230). -/
inductive Mode where
  | rne | rz | ru | rd | sr
  deriving DecidableEq, Repr

/-- The mode of a code 0 to 4 (R230). -/
def Mode.ofCode : Nat → Mode
  | 0 => .rne | 1 => .rz | 2 => .ru | 3 => .rd | _ => .sr

/-- Flag bits (R233). -/
def flInvalid : Nat := 1
def flDivZero : Nat := 2
def flOverflow : Nat := 4
def flUnderflow : Nat := 8
def flInexact : Nat := 16

/-- A rounded result: its pattern, the flags raised, and whether a draw of the stream was taken. -/
structure Rounded where
  code : Nat
  flags : Nat := 0
  drew : Bool := false
  deriving DecidableEq, Repr

/-- How to round: mode, saturation (R234), and the 16-bit draw that SR would take (R231). -/
structure Rounding where
  mode : Mode := .rne
  sat : Bool := false
  draw : Nat := 0
  deriving DecidableEq, Repr

/-- A pattern with a sign. -/
def FloatFmt.signed (f : FloatFmt) (neg : Bool) (c : Nat) : Nat := if neg then c + f.signBit else c

/-- What an overflow gives (R234): the largest finite value, or the infinity (E4M3: the NaN) of the sign. -/
def FloatFmt.overflow (f : FloatFmt) (r : Rounding) (neg : Bool) : Nat :=
  let top := match f with
    | .e4m3 => 0x7F
    | .e2m1 => 0x7
    | _ => f.infCode
  if r.sat then f.maxCode
  else match r.mode with
    | .rne => top
    | .sr => top
    | .rz => f.maxCode
    | .ru => if neg then f.maxCode else top
    | .rd => if neg then top else f.maxCode

/-- Does the magnitude `n + rest`, with `rest` of `r` in `2^s` parts and perhaps a little more, go up? (R230, R231) -/
def roundsUp (rd : Rounding) (neg : Bool) (n r s : Nat) (sticky : Bool) : Bool :=
  if r = 0 ∧ sticky = false then false
  else match rd.mode with
    | .rne => decide (2 ^ s < 2 * r) || (decide (2 * r = 2 ^ s) && (sticky || n % 2 == 1))
    | .rz => false
    | .ru => !neg
    | .rd => neg
    | .sr => decide (rd.draw < r * 2 ^ 16 / 2 ^ s)

/-- Round a non-zero magnitude that lies in [m·2^e, (m+1)·2^e), at its lower end exactly when `sticky` is false.
When `sticky` is true, m has at least 20 bits more than the format keeps (R230, R231, R233, R234). -/
def FloatFmt.roundMag (f : FloatFmt) (rd : Rounding) (neg : Bool) (m : Nat) (e : Int) (sticky : Bool) : Rounded :=
  let lead : Int := (Nat.log2 m : Int) + e
  let least : Int := 1 - f.bias - f.fracBits
  let q : Int := max (lead - f.fracBits) least
  let s : Nat := (q - e).toNat
  let n : Nat := m * 2 ^ (e - q).toNat / 2 ^ s
  let r : Nat := m * 2 ^ (e - q).toNat % 2 ^ s
  let inexact := r != 0 || sticky
  let n' := if roundsUp rd neg n r s sticky then n + 1 else n
  let code := (q - least).toNat * 2 ^ f.fracBits + n'
  let drew := inexact && rd.mode == .sr
  if f.maxCode < code then
    ⟨f.signed neg (f.overflow rd neg), flOverflow + flInexact, drew⟩
  else
    ⟨f.signed neg code,
      (if inexact then flInexact else 0) + (if inexact && decide (lead < 1 - f.bias) then flUnderflow else 0), drew⟩

/-- Round a finite value (R234); a zero keeps its sign. -/
def FloatFmt.roundFin (f : FloatFmt) (rd : Rounding) (neg : Bool) (m : Nat) (e : Int) : Rounded :=
  if m = 0 then ⟨f.signed neg 0, 0, false⟩ else f.roundMag rd neg m e false

/-- Round the quotient num·2^e ÷ den, den positive. -/
def FloatFmt.roundQuot (f : FloatFmt) (rd : Rounding) (neg : Bool) (num den : Nat) (e : Int) : Rounded :=
  if num = 0 then ⟨f.signed neg 0, 0, false⟩
  else
    let k := Nat.log2 den + f.fracBits + 64
    f.roundMag rd neg (num * 2 ^ k / den) (e - k) (num * 2 ^ k % den != 0)

/-- Conversion of a value to a floating-point format (R234). -/
def FloatFmt.ofVal (f : FloatFmt) (rd : Rounding) : FVal → Rounded
  | .nan sig =>
    if f = .e2m1 then ⟨0, flInvalid, false⟩ else ⟨f.nanCode, if sig then flInvalid else 0, false⟩
  | .inf n =>
    match f with
    | .e2m1 => ⟨f.signed n 0x7, flOverflow, false⟩
    | .e4m3 => if rd.sat then ⟨f.signed n 0x7E, flOverflow, false⟩ else ⟨f.signed n 0x7F, 0, false⟩
    | _ => if rd.sat then ⟨f.signed n f.maxCode, flOverflow, false⟩ else ⟨f.signed n f.infCode, 0, false⟩
  | .fin n m e => f.roundFin { rd with sat := rd.sat || f == .e2m1 } n m e

/-- The canonical NaN as a result, invalid raised or not. -/
def FloatFmt.nan (f : FloatFmt) (invalid : Bool) : Rounded := ⟨f.nanCode, if invalid then flInvalid else 0, false⟩

/-! ## Exact arithmetic -/

/-- A signed integer times a power of two. -/
structure Dyadic where
  n : Int
  e : Int
  deriving DecidableEq, Repr

def Dyadic.ofFin (neg : Bool) (m : Nat) (e : Int) : Dyadic := ⟨if neg then -(m : Int) else m, e⟩

def Dyadic.add (a b : Dyadic) : Dyadic :=
  let e := min a.e b.e
  ⟨a.n * 2 ^ (a.e - e).toNat + b.n * 2 ^ (b.e - e).toNat, e⟩

def Dyadic.mul (a b : Dyadic) : Dyadic := ⟨a.n * b.n, a.e + b.e⟩

/-- Is a below b? -/
def Dyadic.lt (a b : Dyadic) : Bool :=
  let e := min a.e b.e
  decide (a.n * 2 ^ (a.e - e).toNat < b.n * 2 ^ (b.e - e).toNat)

def Dyadic.abs (a : Dyadic) : Dyadic := ⟨a.n.natAbs, a.e⟩

/-- Floor of a dyadic. -/
def Dyadic.floor (a : Dyadic) : Int :=
  if 0 ≤ a.e then a.n * 2 ^ a.e.toNat else Int.fdiv a.n (2 ^ (-a.e).toNat)

/-- Round a dyadic that is not zero, or give a zero of the sign named. -/
def FloatFmt.roundDy (f : FloatFmt) (rd : Rounding) (zeroNeg : Bool) (d : Dyadic) : Rounded :=
  if d.n = 0 then ⟨f.signed zeroNeg 0, 0, false⟩ else f.roundMag rd (decide (d.n < 0)) d.n.natAbs d.e false

/-- Sum of two values rounded (R308): an exact zero of operands of opposite sign is −0 under RD, else +0. -/
def FloatFmt.addVal (f : FloatFmt) (rd : Rounding) (a b : FVal) : Rounded :=
  match a, b with
  | .nan s, y => f.nan (s || y.isSignalling)
  | _, .nan s => f.nan s
  | .inf m, .inf n => if m = n then ⟨f.signed m f.infCode, 0, false⟩ else f.nan true
  | .inf m, .fin _ _ _ => ⟨f.signed m f.infCode, 0, false⟩
  | .fin _ _ _, .inf n => ⟨f.signed n f.infCode, 0, false⟩
  | .fin sa ma ea, .fin sb mb eb =>
    f.roundDy rd (if sa = sb then sa else rd.mode == .rd) ((Dyadic.ofFin sa ma ea).add (Dyadic.ofFin sb mb eb))

/-- A value with its sign changed. -/
def FVal.negate : FVal → FVal
  | .nan s => .nan s
  | .inf n => .inf (!n)
  | .fin n m e => .fin (!n) m e

/-- Exact product; none for an infinity times a zero or a NaN. -/
def FVal.mul : FVal → FVal → Option FVal
  | .nan _, _ => none
  | _, .nan _ => none
  | .inf a, .inf b => some (.inf (a != b))
  | .inf a, .fin b m _ => if m = 0 then none else some (.inf (a != b))
  | .fin a m _, .inf b => if m = 0 then none else some (.inf (a != b))
  | .fin a m e, .fin b n k => some (.fin (a != b) (m * n) (e + k))

/-- Product rounded (R308). -/
def FloatFmt.mulVal (f : FloatFmt) (rd : Rounding) (a b : FVal) : Rounded :=
  if a.isNaN || b.isNaN then f.nan (a.isSignalling || b.isSignalling)
  else match FVal.mul a b with
    | none => f.nan true
    | some v => f.ofVal rd v

/-- Product and sum with one rounding (R308). -/
def FloatFmt.fmaVal (f : FloatFmt) (rd : Rounding) (a b c : FVal) : Rounded :=
  let sig := a.isSignalling || b.isSignalling || c.isSignalling
  if a.isNaN || b.isNaN then f.nan sig
  else match FVal.mul a b with
    | none => f.nan true
    | some p => if c.isNaN then f.nan sig else f.addVal rd p c

/-- Order of values other than NaN, −0 below +0 (R309). -/
def FVal.below : FVal → FVal → Bool
  | .inf a, .inf b => a && !b
  | .inf a, _ => a
  | _, .inf b => !b
  | .fin sa ma ea, .fin sb mb eb =>
    if ma = 0 ∧ mb = 0 then sa && !sb else (Dyadic.ofFin sa ma ea).lt (Dyadic.ofFin sb mb eb)
  | _, _ => false

/-- Numeric order, −0 equal to +0 (R317). -/
def FVal.ltNum : FVal → FVal → Bool
  | .inf a, .inf b => a && !b
  | .inf a, .fin _ _ _ => a
  | .fin _ _ _, .inf b => !b
  | .fin sa ma ea, .fin sb mb eb => (Dyadic.ofFin sa ma ea).lt (Dyadic.ofFin sb mb eb)
  | _, _ => false

/-- Numeric equality (R317). -/
def FVal.eqNum (a b : FVal) : Bool :=
  !a.isNaN && !b.isNaN && !FVal.ltNum a b && !FVal.ltNum b a

/-- FMIN and FMAX on patterns (R309); `least` chooses the minimum. -/
def FloatFmt.minMax (f : FloatFmt) (least : Bool) (x y : Nat) : Rounded :=
  let a := f.decode x
  let b := f.decode y
  let fl := if a.isSignalling || b.isSignalling then flInvalid else 0
  if a.isNaN && b.isNaN then ⟨f.nanCode, fl, false⟩
  else if a.isNaN then ⟨y, fl, false⟩
  else if b.isNaN then ⟨x, fl, false⟩
  else if (FVal.below a b) = least then ⟨x, fl, false⟩ else ⟨y, fl, false⟩

/-- The integral value nearest m·2^e under a mode: its magnitude and whether it differs. -/
def integralMag (rd : Rounding) (neg : Bool) (m : Nat) (e : Int) : Nat × Bool :=
  let s := (-e).toNat
  let n := m * 2 ^ e.toNat / 2 ^ s
  let r := m * 2 ^ e.toNat % 2 ^ s
  (if roundsUp rd neg n r s false then n + 1 else n, r != 0)

/-- Conversion to an integer in [lo, hi] of `b` bits (R235). -/
def intOfVal (rd : Rounding) (lo hi : Int) (b : Nat) : FVal → Rounded
  | .nan _ => ⟨0, flInvalid, false⟩
  | .inf n => ⟨trunc (if n then lo else hi) b, flInvalid, false⟩
  | .fin n m e =>
    let p := integralMag rd n m e
    let v : Int := if n then -(p.1 : Int) else p.1
    let drew := p.2 && rd.mode == .sr
    if v < lo then ⟨trunc lo b, flInvalid, drew⟩
    else if hi < v then ⟨trunc hi b, flInvalid, drew⟩
    else ⟨trunc v b, if p.2 then flInexact else 0, drew⟩

/-- An integer as a value. -/
def FVal.ofInt (x : Int) : FVal := .fin (decide (x < 0)) x.natAbs 0

/-- FRND (R314): rounding to an integral value of the same format. -/
def FloatFmt.toIntegral (f : FloatFmt) (mode : Mode) (x : Nat) : Rounded :=
  match f.decode x with
  | .nan s => f.nan s
  | .inf _ => ⟨x, 0, false⟩
  | .fin n m e =>
    if m = 0 then ⟨x, 0, false⟩
    else
      let p := integralMag { mode := mode } n m e
      ⟨(f.roundFin {} n p.1 0).code, 0, false⟩

/-- Class mask of FCLS (R315). -/
def FloatFmt.classMask (f : FloatFmt) (x : Nat) : Nat :=
  match f.decode x with
  | .nan true => 0x100
  | .nan false => 0x200
  | .inf true => 0x001
  | .inf false => 0x080
  | .fin n _ _ =>
    let e := Sys2Proof.bits x f.fracBits f.expBits
    let m := Sys2Proof.bits x 0 f.fracBits
    if e = 0 ∧ m = 0 then (if n then 0x008 else 0x010)
    else if e = 0 then (if n then 0x004 else 0x020)
    else (if n then 0x002 else 0x040)

/-! ## Element codes (R224) -/

/-- The float format of an element code. -/
def elemFloat : Nat → Option FloatFmt
  | 0x6 => some .e2m1
  | 0x8 => some .e4m3
  | 0x9 => some .e5m2
  | 0xA => some .f16
  | 0xB => some .bf16
  | 0xC => some .f32
  | 0xD => some .f64
  | _ => none

/-- Bits of an element (R224). -/
def elemBits : Nat → Nat
  | 0x0 => 4 | 0x1 => 4 | 0x2 => 8 | 0x3 => 8 | 0x4 => 16 | 0x5 => 32 | 0x6 => 4 | 0x7 => 4 | 0x8 => 8 | 0x9 => 8
  | 0xA => 16 | 0xB => 16 | 0xC => 32 | 0xD => 64 | 0xE => 64 | _ => 0

/-- Is the code an unsigned integer format? -/
def elemUnsigned (c : Nat) : Bool := c == 1 || c == 3

/-- A value to an element code (R234, R235). -/
def convertTo (code : Nat) (rd : Rounding) (v : FVal) : Rounded :=
  match elemFloat code with
  | some f => f.ofVal rd v
  | none =>
    let b := elemBits code
    if elemUnsigned code then intOfVal rd 0 (2 ^ b - 1) b v
    else intOfVal rd (-(2 ^ (b - 1))) (2 ^ (b - 1) - 1) b v

/-- The float format of a W code (R260). -/
def fmtOfW : Nat → FloatFmt
  | 3 => .f16
  | 4 => .bf16
  | 5 => .f32
  | _ => .f64

/-! ## The stochastic-rounding stream (R232) -/

/-- The state after a draw, and mix of it. -/
def drawNext (state : Nat) : Nat := (state + golden) % 2 ^ 64

/-- The 16-bit number that a draw yields. -/
def drawValue (state : Nat) : Nat := bits (mix64 (drawNext state)) 48 16

/-! ## Roots -/

/-- The greatest r built from bits `n−1 .. 0` above `r0` with r² ≤ x. -/
def sqrtGo (x : Nat) : Nat → Nat → Nat
  | 0, r => r
  | n + 1, r => if (r + 2 ^ n) * (r + 2 ^ n) ≤ x then sqrtGo x n (r + 2 ^ n) else sqrtGo x n r

/-- Floor of the square root. -/
def isqrt (x : Nat) : Nat := sqrtGo x (Nat.log2 x / 2 + 1) 0

/-- FRCP (R313). -/
def FloatFmt.rcp (f : FloatFmt) (x : Nat) : Rounded :=
  match f.decode x with
  | .nan s => f.nan s
  | .inf n => ⟨f.signed n 0, 0, false⟩
  | .fin n m e => if m = 0 then ⟨f.signed n f.infCode, flDivZero, false⟩ else f.roundQuot {} n 1 m (-e)

/-- FSQRT (R313): with the exponent made even and at least 2·(fraction + 64) bits under the root. -/
def FloatFmt.sqrt (f : FloatFmt) (rd : Rounding) (x : Nat) : Rounded :=
  match f.decode x with
  | .nan s => f.nan s
  | .inf n => if n then f.nan true else ⟨x, 0, false⟩
  | .fin n m e =>
    if m = 0 then ⟨x, 0, false⟩
    else if n then f.nan true
    else
      let k := 2 * (f.fracBits + 64) + (e % 2).toNat
      let y := m * 2 ^ k
      let r := isqrt y
      f.roundMag rd false r ((e - k) / 2) (r * r != y)

/-- FRSQ (R313). -/
def FloatFmt.rsqrt (f : FloatFmt) (x : Nat) : Rounded :=
  match f.decode x with
  | .nan s => f.nan s
  | .inf n => if n then f.nan true else ⟨0, 0, false⟩
  | .fin n m e =>
    if m = 0 then ⟨f.signed n f.infCode, flDivZero, false⟩
    else if n then f.nan true
    else
      let odd := (e % 2).toNat
      let m' := m * 2 ^ odd
      let k := 2 * (f.fracBits + 64 + Nat.log2 m')
      let r := isqrt (2 ^ k / m')
      f.roundMag {} false r (-((e - odd) / 2) - k / 2) (r * r * m' != 2 ^ k)

/-! ## Transcendental functions (R313)

The exact function value, correctly rounded: a fixed-point value with `fxBits` bits after the point, far finer than any
distance that the values of these functions at F16, BF16 and F32 arguments keep from a rounding boundary; a value that
is not one of the exact cases is never representable, so its sticky bit is set. -/

/-- Bits after the point. -/
def fxBits : Nat := 640

/-- Σ over k < n of z^(2k+1)/(2k+1), with signs alternating when `alt`: `t` is z^(2k+1), `zz` is z², at `p` bits. -/
def oddSeries (alt : Bool) (p : Nat) (zz : Int) : Nat → Nat → Int → Int → Int
  | 0, _, _, acc => acc
  | n + 1, k, t, acc =>
    let term := t / (2 * k + 1)
    oddSeries alt p zz n (k + 1) (t * zz / 2 ^ p) (if alt && k % 2 == 1 then acc - term else acc + term)

/-- π at `p` bits: 16·atan(1/5) − 4·atan(1/239). -/
def piFx (p : Nat) : Int :=
  let one : Int := 2 ^ (p + 32)
  let a := oddSeries true (p + 32) (one / 25) (p / 4 + 16) 0 (one / 5) 0
  let b := oddSeries true (p + 32) (one / 57121) (p / 15 + 16) 0 (one / 239) 0
  (16 * a - 4 * b) / 2 ^ 32

/-- ln 2 at `p` bits: 2·atanh(1/3). -/
def ln2Fx (p : Nat) : Int :=
  let one : Int := 2 ^ (p + 32)
  2 * oddSeries false (p + 32) (one / 9) (p / 3 + 16) 0 (one / 3) 0 / 2 ^ 32

/-- Σ of x^k/k! for k from `k`, `t` the term k−1, at `fxBits`. -/
def expSeries (x : Int) : Nat → Nat → Int → Int → Int
  | 0, _, _, acc => acc
  | n + 1, k, t, acc =>
    let t' := t * x / 2 ^ fxBits / (k : Int)
    expSeries x n (k + 1) t' (acc + t')

/-- e^x for x in [0, 1), at `fxBits`. -/
def expFx (x : Int) : Int := expSeries x 200 1 (2 ^ fxBits) (2 ^ fxBits)

/-- Alternating Taylor series of sine (`odd`) or cosine of x in [−1, 1], at `fxBits`. -/
def trigSeries (xx : Int) : Nat → Nat → Int → Int → Int
  | 0, _, _, acc => acc
  | n + 1, k, t, acc =>
    let t' := -(t * xx / 2 ^ fxBits / ((k : Int) * (k + 1)))
    trigSeries xx n (k + 2) t' (acc + t')

def sinFx (x : Int) : Int := trigSeries (x * x / 2 ^ fxBits) 90 2 x x

def cosFx (x : Int) : Int := trigSeries (x * x / 2 ^ fxBits) 90 1 (2 ^ fxBits) (2 ^ fxBits)

/-- Round a fixed-point value that is no exact case. -/
def FloatFmt.roundFx (f : FloatFmt) (x : Int) : Rounded :=
  if x = 0 then ⟨0, 0, false⟩ else f.roundMag {} (decide (x < 0)) x.natAbs (-(fxBits : Int)) true

/-- m·2^e at `p` bits, rounded down; exact when e ≥ −p. -/
def toFx (p : Nat) (neg : Bool) (m : Nat) (e : Int) : Int :=
  let v : Int := m * 2 ^ (e + p).toNat / 2 ^ (-(e + p)).toNat
  if neg then -v else v

/-- FEXP2 (R313). An argument of magnitude 2^12 or more overflows or underflows whatever its value. -/
def FloatFmt.exp2 (f : FloatFmt) (x : Nat) : Rounded :=
  match f.decode x with
  | .nan s => f.nan s
  | .inf n => if n then ⟨0, 0, false⟩ else ⟨f.infCode, 0, false⟩
  | .fin n m e =>
    if m = 0 then f.roundFin {} false 1 0
    else if 12 < (Nat.log2 m : Int) + e then f.roundFin {} false 1 (if n then -8192 else 8192)
    else
      let v := toFx fxBits n m e
      let k := Int.fdiv v (2 ^ fxBits)
      let r := v - k * 2 ^ fxBits
      if r = 0 then f.roundFin {} false 1 k
      else f.roundMag {} false (expFx (r * ln2Fx fxBits / 2 ^ fxBits)).toNat (k - fxBits) true

/-- ln of y in [1, 2) at `fxBits`: 2·atanh((y − 1)/(y + 1)). -/
def lnFx (y : Int) : Int :=
  let z := (y - 2 ^ fxBits) * 2 ^ fxBits / (y + 2 ^ fxBits)
  2 * oddSeries false fxBits (z * z / 2 ^ fxBits) 230 0 z 0

/-- FLOG2 (R313). -/
def FloatFmt.log2 (f : FloatFmt) (x : Nat) : Rounded :=
  match f.decode x with
  | .nan s => f.nan s
  | .inf n => if n then f.nan true else ⟨x, 0, false⟩
  | .fin n m e =>
    if m = 0 then ⟨f.signed true f.infCode, flDivZero, false⟩
    else if n then f.nan true
    else
      let k : Int := (Nat.log2 m : Int) + e
      if m = 2 ^ Nat.log2 m then f.roundFin {} (decide (k < 0)) k.natAbs 0
      else
        let y : Int := m * 2 ^ fxBits / 2 ^ Nat.log2 m
        f.roundFx (k * 2 ^ fxBits + lnFx y * 2 ^ fxBits / ln2Fx fxBits)

/-- Sine or cosine of a finite non-zero argument: the nearest multiple of π/2 is taken off first. -/
def FloatFmt.trig (f : FloatFmt) (cosine : Bool) (n : Bool) (m : Nat) (e : Int) : Rounded :=
  let p := fxBits + 160
  let half := piFx p
  let v := 2 * toFx p n m e
  let k := Int.fdiv (2 * v + half) (2 * half)
  let r := (v - k * half) / 2 / 2 ^ 160
  let q := ((k + (if cosine then 1 else 0)) % 4).toNat
  match q with
  | 0 => f.roundFx (sinFx r)
  | 1 => f.roundFx (cosFx r)
  | 2 => f.roundFx (-sinFx r)
  | _ => f.roundFx (-cosFx r)

/-- FSIN (R313); the sine of a zero is that zero (DEDUCED, log 42). -/
def FloatFmt.sin (f : FloatFmt) (x : Nat) : Rounded :=
  match f.decode x with
  | .nan s => f.nan s
  | .inf _ => f.nan true
  | .fin n m e => if m = 0 then ⟨x, 0, false⟩ else f.trig false n m e

/-- FCOS (R313). -/
def FloatFmt.cos (f : FloatFmt) (x : Nat) : Rounded :=
  match f.decode x with
  | .nan s => f.nan s
  | .inf _ => f.nan true
  | .fin n m e => if m = 0 then f.roundFin {} false 1 0 else f.trig true n m e

/-- FTANH (R313): (E − 1)/(E + 1) with E = e^(2x); beyond 64 it lies just below 1 (DEDUCED, log 42). -/
def FloatFmt.tanh (f : FloatFmt) (x : Nat) : Rounded :=
  match f.decode x with
  | .nan s => f.nan s
  | .inf n => f.roundFin {} n 1 0
  | .fin n m e =>
    if m = 0 then ⟨x, 0, false⟩
    else if 6 < (Nat.log2 m : Int) + e then f.roundMag {} n (2 ^ fxBits - 1) (-(fxBits : Int)) true
    else
      let t := 2 * toFx fxBits false m e
      let l := ln2Fx fxBits
      let k := Int.fdiv t l
      let big := expFx (t - k * l) * 2 ^ k.toNat
      let v := (big - 2 ^ fxBits) * 2 ^ fxBits / (big + 2 ^ fxBits)
      f.roundFx (if n then -v else v)

/-! ## The Hadamard step (R245, R246), on 32 F32 patterns -/

/-- Butterfly stage `s`: pairs i, i + 2^s with bit s of i clear. -/
def butterfly (s : Nat) (xs : List Nat) : List (Nat × Nat) :=
  let f := FloatFmt.f32
  (List.range 32).map fun i =>
    let j := i ^^^ (2 ^ s)
    let a := f.decode (xs.getD i 0)
    let b := f.decode (xs.getD j 0)
    let r := if i.testBit s then f.addVal {} b a.negate else f.addVal {} a b
    (r.code, r.flags)

/-- Stages 0 to 4, with the OR of the flags. -/
def butterflies : List Nat → List Nat → Nat → List Nat × Nat
  | [], xs, fl => (xs, fl)
  | s :: ss, xs, fl =>
    let r := butterfly s xs
    butterflies ss (r.map (·.1)) (r.foldl (fun a p => a ||| p.2) fl)

/-- The sign changes that a seed asks for: bit i of the low 32 bits of its first draw. -/
def hadamardSigns (seed : Nat) (xs : List Nat) : List Nat :=
  if seed = 0 then xs
  else
    let z := mix64 (drawNext seed)
    (List.range 32).map fun i => if z.testBit i then xs.getD i 0 ^^^ 0x80000000 else xs.getD i 0

/-- Each value times 2^−k, rounded. -/
def scaleAll (k : Int) (xs : List Nat) : List (Nat × Nat) :=
  xs.map fun x =>
    let r := FloatFmt.f32.mulVal {} (FloatFmt.f32.decode x) (.fin false 1 (-k))
    (r.code, r.flags)

/-- The forward or the inverse step, with the OR of the flags raised (R245, R246). A NaN keeps its sign change out of
its value, since every later stage makes it canonical. -/
def hadamard (inverse : Bool) (seed : Nat) (xs : List Nat) : List Nat × Nat :=
  let b := butterflies [0, 1, 2, 3, 4] (if inverse then xs else hadamardSigns seed xs) 0
  let r := scaleAll (if inverse then 2 else 3) (if inverse then hadamardSigns seed b.1 else b.1)
  (r.map (·.1), r.foldl (fun a p => a ||| p.2) b.2)

end Sys2Proof.Machine
end

