-- ==== Sys2Proof/Machine/Access.lean ====
section
/-! DEFINITION. Accessors: partitions, contexts, launches, workgroups, warps, splits, lanes, slices, predicates and
uniform registers of the state, each read and written in one place. -/
namespace Sys2Proof.Machine

/-! ## Partitions and contexts -/

def State.part (s : State) (p : BitVec 2) : Part := s.parts.getD p.toNat {}

def State.modPart (s : State) (p : BitVec 2) (f : Part → Part) : State :=
  { s with parts := modifyAt f s.parts p.toNat }

def Part.ctx (x : Part) (c : BitVec 6) : Ctx := Sparse.get {} x.ctxs c.toNat

def Part.setCtx (x : Part) (c : BitVec 6) (v : Ctx) : Part := { x with ctxs := Sparse.set {} x.ctxs c.toNat v }

def State.ctx (s : State) (p : BitVec 2) (c : BitVec 6) : Ctx := (s.part p).ctx c

def State.modCtx (s : State) (p : BitVec 2) (c : BitVec 6) (f : Ctx → Ctx) : State :=
  s.modPart p fun x => x.setCtx c (f (x.ctx c))

def Part.queue (x : Part) (q : BitVec 6) : Queue := Sparse.get {} x.queues q.toNat

def State.modQueue (s : State) (p : BitVec 2) (q : BitVec 6) (f : Queue → Queue) : State :=
  s.modPart p fun x => { x with queues := Sparse.set {} x.queues q.toNat (f (x.queue q)) }

def Part.session (x : Part) (i : Nat) : Session := Sparse.get {} x.sessions i

def State.modSession (s : State) (p : BitVec 2) (i : Nat) (f : Session → Session) : State :=
  s.modPart p fun x => { x with sessions := Sparse.set {} x.sessions i (f (x.session i)) }

/-- Numbers of the dies of a mask, ascending. -/
def diesOf (m : Nat) : List Nat := (List.range 4).filter (fun d => m.testBit d)

/-- Every partition number. -/
def allParts : List (BitVec 2) := [0, 1, 2, 3]

/-- A management cause bit, whose vector is raised with it (R48) (DEDUCED, log 64). -/
def State.raiseEvt (s : State) (bit : Nat) : State :=
  { s with devEvt := s.devEvt ||| (1#64 <<< bit), irqs := s.irqs ++ [bit] }

/-! ## Work -/

def State.launch? (s : State) (id : Nat) : Option Launch := s.launches.find? (fun l => l.id == id)

def State.modLaunch (s : State) (id : Nat) (f : Launch → Launch) : State :=
  { s with launches := s.launches.map fun l => if l.id = id then f l else l }

def State.wg? (s : State) (id : Nat) : Option Workgroup := s.wgs.find? (fun g => g.id == id)

def State.modWg (s : State) (id : Nat) (f : Workgroup → Workgroup) : State :=
  { s with wgs := s.wgs.map fun g => if g.id = id then f g else g }

def State.warp? (s : State) (id : Nat) : Option Warp := s.warps.find? (fun w => w.id == id)

def State.modWarp (s : State) (id : Nat) (f : Warp → Warp) : State :=
  { s with warps := s.warps.map fun w => if w.id = id then f w else w }

/-- Warps of a workgroup, in ascending number. -/
def State.warpsOf (s : State) (wg : Nat) : List Warp := s.warps.filter (fun w => w.wg == wg)

def Warp.split (w : Warp) (n : Nat) : Option Split := w.splits.getD n none

def Warp.setSplit (w : Warp) (n : Nat) (v : Option Split) : Warp :=
  { w with splits := modifyAt (fun _ => v) w.splits n }

def Warp.modSplit (w : Warp) (n : Nat) (f : Split → Split) : Warp :=
  { w with splits := modifyAt (Option.map f) w.splits n }

def State.modSplit (s : State) (id : SplitId) (f : Split → Split) : State :=
  s.modWarp id.warp fun w => w.modSplit id.split f

/-- Numbers of the valid splits, ascending (R101). -/
def Warp.valid (w : Warp) : List Nat := (List.range 4).filter fun n => (w.split n).isSome

/-- Lanes of a split: active, or on its deferral stack. -/
def Split.lanesAll (p : Split) : BitVec 32 := p.defer.foldl (fun m d => m ||| d.1) p.mask

/-- Every live lane of a list of splits. -/
def liveLanes (sp : List (Option Split)) : BitVec 32 :=
  sp.foldl (fun m o => match o with | some p => m ||| p.lanesAll | none => m) 0

/-- The slot-group of a warp slot (R79). -/
def slotGroup (slot : Nat) : Nat := slot / 128

/-- Die, quad and quad rank of a core (R114). -/
def dieOf (core : Nat) : Nat := core / 32
def quadOf (core : Nat) : Nat := core / 4
def rankOf (core : Nat) : Nat := core % 4

/-! ## Lanes -/

def Warp.lane (w : Warp) (l : Nat) : Lane := w.lanes.getD l {}

def Warp.modLane (w : Warp) (l : Nat) (f : Lane → Lane) : Warp := { w with lanes := modifyAt f w.lanes l }

/-- V(L, start, width) as it stands in the register file (R8, R116). -/
def Lane.get (l : Lane) (start width : Nat) : Nat := bits l.slices.toNat (4 * start) (4 * width)

def Lane.put (l : Lane) (start width v : Nat) : Lane :=
  { l with slices := BitVec.ofNat 4096 (setBits l.slices.toNat (4 * start) (4 * width) v) }

/-- P(L, n); p7 reads as true (R124). -/
def Lane.pred (l : Lane) (n : Nat) : Bool := if n = 7 then true else l.preds.getLsbD n

/-- A write to p7 is discarded (R124). -/
def Lane.setPred (l : Lane) (n : Nat) (v : Bool) : Lane :=
  if n = 7 then l else { l with preds := BitVec.ofNat 8 (setBits l.preds.toNat n 1 v.toNat) }

/-- S(n); s0 reads as zero (R121). -/
def Split.ureg (p : Split) (n : Nat) : Word := if n = 0 then 0 else Sparse.get 0 p.sregs n

/-- Write S(n): s0 discards; with more than one valid split the written mask records it (R121, R122). -/
def Split.setUreg (p : Split) (many : Bool) (n : Nat) (v : Word) : Split :=
  if n = 0 then p
  else { p with sregs := Sparse.set 0 p.sregs n v, written := if many then p.written ||| (1#64 <<< n) else p.written }

/-- Bindings of a split (R125). -/
def Split.tbind (p : Split) (n : Nat) : BitVec 128 := Sparse.get 0 p.tb n
def Split.qbind (p : Split) (n : Nat) : BitVec 128 := Sparse.get 0 p.qb n

def Warp.tile (w : Warp) (n : Nat) : BitVec 73984 := w.tiles.getD n 0
def Warp.acc (w : Warp) (n : Nat) : BitVec 131072 := w.accs.getD n 0
def Warp.shape (w : Warp) (n : Nat) : BitVec 512 := w.shapes.getD n 0

def Warp.setTile (w : Warp) (n : Nat) (v : BitVec 73984) : Warp := { w with tiles := modifyAt (fun _ => v) w.tiles n }
def Warp.setAcc (w : Warp) (n : Nat) (v : BitVec 131072) : Warp := { w with accs := modifyAt (fun _ => v) w.accs n }
def Warp.setShape (w : Warp) (n : Nat) (v : BitVec 512) : Warp :=
  { w with shapes := modifyAt (fun _ => v) w.shapes n }

/-! ## Register results and their landing (R255, R256) -/

/-- Does one destination meet another? -/
def Dest.overlaps : Dest → Dest → Bool
  | .slices l s w, .slices l' s' w' => l == l' && decide (s < s' + w') && decide (s' < s + w)
  | .pred l p, .pred l' p' => l == l' && p == p'
  | .ureg n, .ureg n' => n == n'
  | .tbind n, .tbind n' => n == n'
  | .tile n, .tile n' => n == n'
  | .shape n, .shape n' => n == n'
  | _, _ => false

/-- Uniform registers and bindings belong to one split; the other destinations to the warp. -/
def Dest.perSplit : Dest → Bool
  | .ureg _ => true
  | .tbind _ => true
  | _ => false

/-- Does a pending result stand before a write of split `split` to `d`? -/
def Pending.blocks (x : Pending) (split : Nat) (d : Dest) : Bool :=
  x.dest.overlaps d && (!d.perSplit || x.split == split)

/-- Write a value to its destination in the registers. -/
def Warp.land (w : Warp) (split : Nat) (d : Dest) (v : Nat) : Warp :=
  match d with
  | .slices l s n => w.modLane l fun x => x.put s n v
  | .pred l p => w.modLane l fun x => x.setPred p (v % 2 == 1)
  | .ureg n => w.modSplit split fun p => p.setUreg (decide (1 < w.valid.length)) n (BitVec.ofNat 64 v)
  | .tbind n => w.modSplit split fun p => { p with tb := Sparse.set 0 p.tb n (BitVec.ofNat 128 v) }
  | .tile n => w.setTile n (BitVec.ofNat 73984 v)
  | .shape n => w.setShape n (BitVec.ofNat 512 v)

/-- A variable-latency result: it lands later (R255). -/
def Warp.later (w : Warp) (split : Nat) (d : Dest) (v : Nat) : Warp :=
  { w with pending := w.pending ++ [{ split := split, dest := d, value := v }] }

/-- A fixed-latency result at one place: visible at once, or behind the pending results of that place, in program order. -/
def Warp.write1 (w : Warp) (split : Nat) (d : Dest) (v : Nat) : Warp :=
  if w.pending.any (fun x => x.blocks split d) then { w with pending := w.pending ++ [{ split := split, dest := d, value := v, fixed := true }] }
  else w.land split d v

/-- A fixed-latency result: visible at once, but for the slices on which results are pending, behind which it stands (R255,
R256). -/
def Warp.write (w : Warp) (split : Nat) (d : Dest) (v : Nat) : Warp :=
  if w.pending.any (fun x => x.blocks split d) then match d with
    | .slices l s n => (List.range n).foldl (fun w i => w.write1 split (.slices l (s + i) 1) (bits v (4 * i) 4)) w
    | _ => w.write1 split d v
  else w.land split d v

/-- The values that slice `n` of lane `l` takes from now on as its pending results land: the present one first. -/
def Warp.sliceValues (w : Warp) (l n : Nat) : List Nat :=
  (w.lane l).get n 1 :: w.pending.filterMap fun x =>
    match x.dest with
    | .slices l' s k => if l' = l ∧ s ≤ n ∧ n < s + k then some (bits x.value (4 * (n - s)) 4) else none
    | _ => none

/-- Is a variable-latency result pending on a slice? -/
def Warp.slicePending (w : Warp) (l n : Nat) : Bool := w.pending.any fun x => !x.fixed && x.dest.overlaps (.slices l n 1)

/-- The value of a source slice (R256): while results are pending on it, one of the sequence, chosen freely (DESIGN CHOICE, log 1). -/
def Warp.readSlice (w : Warp) (time operand l n : Nat) : Nat :=
  match w.sliceValues l n with
  | [v] => v
  | vs => vs.getD (Config.pick time operand l n % vs.length) 0

/-- The value of a source operand at issue, slice by slice where results are pending. -/
def Warp.readV (w : Warp) (time operand l start width : Nat) : Nat :=
  if w.pending.isEmpty then (w.lane l).get start width
  else (List.range width).foldr (fun i acc => w.readSlice time operand l (start + i) + 16 * acc) 0

/-! ## Who runs -/

/-- Does the workgroup's context run: resident, and no switch under way (R110)? -/
def State.running (s : State) (g : Workgroup) : Bool :=
  (s.part g.part).resident == some g.ctx && (s.part g.part).switch == .none

/-- Partition that a core's die belongs to. -/
def State.partOfDie (s : State) (d : Nat) : Option (BitVec 2) :=
  allParts.find? fun p => (s.part p).state == 2 && (s.part p).dies.getLsbD d

end Sys2Proof.Machine
end

