-- ==== Sys2Proof/Machine/Memory.lean ====
section
/-! DEFINITION. Memory: physical bytes and poison, pointers and their checks (R145 to R148), translation (R149 to R155),
the row cache (R176), the quad atomic units (R188), traffic counters (R67, R415), and what a sector part of an access
reads and writes. -/
namespace Sys2Proof.Machine

/-! ## Physical row storage -/

/-- Bytes `n` from a physical key as the home slices hold them. -/
def State.homeBytes (s : State) (key n : Nat) : List Byte := s.mem.bytes key n

/-- A little-endian number of `n` bytes at a physical key. -/
def State.homeNat (s : State) (key n : Nat) : Nat := leNat (s.homeBytes key n)

/-- The byte at a key as the cores of quad `q` see it: held by the quad atomic unit, or at home (R186, R188). -/
def State.quadByte (s : State) (q key : Nat) : Byte :=
  match s.held.find? (fun h => h.quad == q && h.addr == key) with
  | some h => h.byte
  | none => s.mem.byte key

def State.quadBytes (s : State) (q key n : Nat) : List Byte :=
  if s.held.isEmpty then s.homeBytes key n else (List.range n).map fun i => s.quadByte q (key + i)

/-- The words of `[key, key + n)` before a write, kept while a workgroup runs (R254). -/
def State.staleOf (s : State) (key n : Nat) : List StaleWord :=
  if s.wgs.isEmpty then []
  else (List.range ((key + n + 3) / 4 - key / 4)).map fun i =>
    let k := 4 * (key / 4 + i)
    ⟨k, BitVec.ofNat 32 (s.homeNat k 4), s.cycle⟩

/-- Bytes written at their home slice. A write of a whole sector clears its poison; a partial one leaves it (R17). -/
def State.writeHome (s : State) (key : Nat) (data : List Byte) : State :=
  { s with
    mem := s.mem.setBytes key data
    stale := s.staleOf key data.length ++ s.stale
    poison := if data.length = 32 then s.poison.filter (· != key / 32) else s.poison }

/-- The copies of a core's row cache follow its own stores (R176). -/
def State.updateCache (s : State) (core key : Nat) (data : List Byte) : State :=
  { s with cache := s.cache.map fun c =>
      if c.core = core ∧ c.sector = key / 32 then
        { c with data := BitVec.ofNat 256 (setBits c.data.toNat (8 * (key % 32)) (8 * data.length) (leNat data)) }
      else c }

/-- Bytes that a quad atomic unit holds follow a write of its own quad. -/
def State.updateHeld (s : State) (q key : Nat) (data : List Byte) : State :=
  { s with held := s.held.map fun h =>
      if h.quad = q ∧ key ≤ h.addr ∧ h.addr < key + data.length then { h with byte := data.getD (h.addr - key) 0 }
      else h }

/-- Discard a core's row cache (R176). -/
def State.dropCache (s : State) (core : Nat) : State := { s with cache := s.cache.filter (fun c => c.core != core) }

/-- Invalidate the 128-byte lines of a core's row cache that `[key, key + n)` touches (R176, R191). -/
def State.dropLines (s : State) (core key n : Nat) : State :=
  { s with cache := s.cache.filter fun c =>
      !(c.core == core && decide (key / 128 ≤ c.sector / 4) && decide (c.sector / 4 ≤ (key + n - 1) / 128)) }

/-- A word has been changed by an atomic, a signal or a SIGE: those who wait for it read it again (R75, R300). -/
def State.nudge (s : State) (pl : Place) (n : Nat) : State := { s with nudged := (pl, n) :: s.nudged }

/-- Bytes that a quad atomic unit has held reach their home slices, where those who wait for a word of them read it again (R188, R300). -/
def State.bringHome (s : State) (hs : List HeldByte) : State :=
  hs.foldl (fun t h => (t.writeHome h.addr [h.byte]).nudge (.mem h.addr) 1) s

/-- The quad atomic unit writes its lines back (R188). -/
def State.writeBack (s : State) (q : Nat) : State :=
  let mine := s.held.filter (fun h => h.quad == q)
  State.bringHome { s with held := s.held.filter (fun h => h.quad != q) } mine

/-- The unit takes bytes of an atomic (R186, R188). -/
def State.hold (s : State) (q key : Nat) (data : List Byte) : State :=
  let rest := s.held.filter fun h => !(h.quad == q && decide (key ≤ h.addr) && decide (h.addr < key + data.length))
  { s with held := rest ++ (List.range data.length).map fun i => ⟨q, key + i, data.getD i 0, s.cycle⟩ }

/-- Row storage `[key, key + n)` zeroed, past every copy of it (R62). -/
def State.zeroFrames (s : State) (key n : Nat) : State :=
  { s with
    mem := s.mem.filter fun c => !(decide (key ≤ c.1) && decide (c.1 < key + n))
    held := s.held.filter fun h => !(decide (key ≤ h.addr) && decide (h.addr < key + n))
    cache := s.cache.filter fun c => !(decide (key ≤ 32 * c.sector) && decide (32 * c.sector < key + n))
    poison := s.poison.filter fun x => !(decide (key ≤ 32 * x) && decide (32 * x < key + n)) }

/-! ## Far sets and dies -/

/-- The enabled far interleave set NUM of a partition (R45). -/
def State.farSet (s : State) (p : BitVec 2) (n : Nat) : Option CxlSet :=
  s.cxlSets.find? fun x => x.en && x.part == p && x.num.toNat == n

/-- Ports of a set, ascending. -/
def CxlSet.portList (x : CxlSet) : List Nat := (List.range 8).filter fun i => x.ports.getLsbD i

/-- Capacity of a set: its port count times the smallest CAP, at most 2 TiB a port (R45). -/
def State.farCapacity (s : State) (x : CxlSet) : Nat :=
  let caps := x.portList.map fun i => min ((s.cxlPorts.getD i {}).cap.toNat) (2 ^ 41)
  x.portList.length * caps.foldl min (2 ^ 41)

/-- The CXL port of an offset of a set: 4 KiB interleave (R19). -/
def CxlSet.portOf (x : CxlSet) (off : Nat) : Nat := x.portList.getD (off / 4096 % max 1 x.portList.length) 0

/-- A physical address of partition p as a key. -/
def physKey (p : BitVec 2) (phys : Nat) : Nat := if phys / 2 ^ 44 < 4 then phys else phys + 2 ^ 48 * p.toNat

/-- Target nibble and partition of a key. -/
def keyTarget (key : Nat) : Nat := key / 2 ^ 44 % 16
def keyPart (key : Nat) : BitVec 2 := BitVec.ofNat 2 (key / 2 ^ 48)

/-- Is the byte on the far tier? -/
def keyFar (key : Nat) : Bool := decide (8 ≤ keyTarget key)

/-- Home die of a byte: for SPREAD the (i mod n)-th die of the partition for 4 KiB block i (R150); for the far tier the
die of the port (R18). -/
def State.homeDie (s : State) (key : Nat) : Nat :=
  let t := keyTarget key
  if t < 4 then t
  else if t = 4 then
    let ds := diesOf (s.part (keyPart key)).dies.toNat
    ds.getD (key % 2 ^ 44 / 4096 % max 1 ds.length) 0
  else match s.farSet (keyPart key) (t - 8) with
    | some x => x.portOf (key % 2 ^ 44) / 2
    | none => 0

/-- Is the expander of a far byte not responding (R19)? -/
def State.farDead (s : State) (key : Nat) : Bool :=
  keyFar key && match s.farSet (keyPart key) (keyTarget key - 8) with
    | some x => (s.cxlPorts.getD (x.portOf (key % 2 ^ 44)) {}).state == 3
    | none => true

/-- Does a leaf's physical page lie where there is memory of the partition (R150, R151)? -/
def State.leafTarget (s : State) (p : BitVec 2) (pa size : Nat) : Bool :=
  let t := pa / 2 ^ 44
  let off := pa % 2 ^ 44
  if t < 4 then (s.part p).dies.getLsbD t && decide (off + size ≤ 768 * 2 ^ 30)
  else if t = 4 then decide (off + size ≤ (diesOf (s.part p).dies.toNat).length * (768 * 2 ^ 30))
  else if 8 ≤ t ∧ t ≤ 11 then match s.farSet p (t - 8) with
    | some x => decide (off + size ≤ s.farCapacity x)
    | none => false
  else false

/-! ## Traffic counters (R67, R415) -/

/-- Counter class of a byte homed on `key` for a core: 0 local, 2 cross-die, 4 far (R15, R67). -/
def State.classOf (s : State) (core key : Nat) : Nat :=
  if keyFar key then 4 else if s.homeDie key = dieOf core then 0 else 2

/-- The class of a byte reached by a pointer that is not FAR: by its home die alone, for the far class goes by the pointer (R13, R15,
R153). -/
def State.rowClass (s : State) (core key : Nat) : Nat := if s.homeDie key = dieOf core then 0 else 2

/-- Add `n` bytes to counter `c` of set `k`. -/
def addCount (m : Sparse Word) (k c n : Nat) : Sparse Word :=
  Sparse.set 0 m (8 * k + c) (Sparse.get 0 m (8 * k + c) + BitVec.ofNat 64 n)

/-- Count `n` bytes of class `cls` on a core's set. -/
def State.countCore (s : State) (core cls : Nat) (write : Bool) (n : Nat) : State :=
  { s with coreCounters := addCount s.coreCounters core (cls + write.toNat) n }

/-- Count `n` bytes on table set `set` of a partition; set 0 means not counted (DESIGN CHOICE, log 43). -/
def State.countTable (s : State) (p : BitVec 2) (set cls : Nat) (write : Bool) (n : Nat) : State :=
  if set = 0 then s
  else { s with tableCounters := addCount s.tableCounters (256 * p.toNat + set) (cls + write.toNat) n }

/-- Count an access at a place, and in the counter set `tab` of a partition for a table's row (R67); scratchpad and host bytes have no
counter. -/
def State.count (s : State) (core : Nat) (p : BitVec 2) (tab : Nat) (pl : Place) (write : Bool) (n : Nat) : State :=
  match pl with
  | .mem key =>
    let cls := s.classOf core key
    (s.countCore core cls write n).countTable p tab cls write n
  | .peer _ _ => s.countCore core 6 write n
  | _ => s

/-! ## Translation (R149 to R155) -/

/-- What a walk finds. -/
inductive Walk where
  | leaf (e : TlbEntry)
  /-- a leaf position to back: the entry's key, the entry, and whether it maps 2 MiB (R152) -/
  | demand (key entry : Nat) (big : Bool)
  | fail (level : Nat)
  deriving DecidableEq, Repr

/-- A valid leaf entry at level `lvl` (2 or 3), of page size `size` (R150, R151). KROW codes above 12 and set low
bits of a 2 MiB leaf fail like a reserved bit (DEDUCED, log 9). -/
def State.leafOf (s : State) (p : BitVec 2) (c : BitVec 6) (va e lvl size : Nat) : Walk :=
  let pa := bits e 16 32 * 2 ^ 16
  if 12 < bits e 4 4 ∨ pa % size ≠ 0 ∨ ¬ s.leafTarget p pa size then .fail lvl
  else .leaf ⟨p, c, va / 2 ^ 16, physKey p pa + va % size / 2 ^ 16 * 2 ^ 16, e.testBit 2, e.testBit 3, bits e 4 4,
    decide (8 ≤ pa / 2 ^ 44), decide (lvl = 2)⟩

/-- One level: `lvl` from 0, the table's physical address, and the (low bit, index bits) of the levels left. A level
below the present one is read only through a valid non-leaf entry. `seen` gives the entry used at a level for the one in memory; the
non-leaf entries used are returned, the last first. -/
def State.walkGo (s : State) (p : BitVec 2) (c : BitVec 6) (va : Nat) (seen : Nat → Nat → Nat) :
    List (Nat × Nat) → Nat → Nat → List (Nat × Nat) → Walk × List (Nat × Nat)
  | [], lvl, _, acc => (.fail lvl, acc)
  | (lo, n) :: rest, lvl, table, acc =>
    let key := physKey p (table + 8 * bits va lo n)
    let e := seen lvl (s.homeNat key 8)
    let leafPos := lvl = 3 ∨ (lvl = 2 ∧ e.testBit 1)
    if bits e 48 16 ≠ 0 ∨ (leafPos ∧ bits e 13 3 ≠ 0) then (.fail lvl, acc)
    else if lvl < 2 ∧ e.testBit 1 then (.fail lvl, acc)
    else if e.testBit 0 = false then
      (if leafPos ∧ 1 ≤ bits e 8 3 ∧ bits e 8 3 ≤ 4 then .demand key e (decide (lvl = 2)) else .fail lvl, acc)
    else if leafPos then (s.leafOf p c va e lvl (2 ^ lo), acc)
    else if bits e 2 6 ≠ 0 then (.fail lvl, acc)
    else State.walkGo s p c va seen rest (lvl + 1) (bits e 8 40 * 2 ^ 8) ((lvl, e) :: acc)

/-- The four levels (R149). -/
def levels : List (Nat × Nat) := [(45, 12), (33, 12), (21, 12), (16, 5)]

/-- A walk; a root of 0 fails at level 0 and reads nothing (R149). -/
def State.walkBy (s : State) (p : BitVec 2) (c : BitVec 6) (va : Nat) (seen : Nat → Nat → Nat) : Walk × List (Nat × Nat) :=
  let root := (s.ctx p c).root.toNat
  if root = 0 then (.fail 0, []) else s.walkGo p c va seen levels 0 root []

/-- A walk of the tables as they stand. -/
def State.walk (s : State) (p : BitVec 2) (c : BitVec 6) (va : Nat) : Walk := (s.walkBy p c va fun _ e => e).1

/-- The address bits that a non-leaf entry of a level stands for. -/
def walkIndex (lvl va : Nat) : Nat := va / 2 ^ (levels.getD lvl (0, 0)).1

/-- The entry that the walkers of a die use at a level above L3: the one in memory, or another that they hold and that has not been
invalidated, chosen freely (R154, R155; DESIGN CHOICE, log 1). -/
def State.seenEntry (s : State) (die : BitVec 2) (p : BitVec 2) (c : BitVec 6) (va lvl now : Nat) : Nat :=
  match s.walks.find? fun x => x.die == die && x.part == p && x.ctx == c && x.level == lvl && x.index == walkIndex lvl va with
  | some x => if lvl < 3 ∧ x.entry ≠ now ∧ Config.pick s.free 15 lvl (va / 2 ^ 16) % 2 = 0 then x.entry else now
  | none => now

/-- The walkers of a die keep the non-leaf entries of a walk (R154). -/
def State.keepWalk (s : State) (die : BitVec 2) (p : BitVec 2) (c : BitVec 6) (va : Nat) (es : List (Nat × Nat)) : State :=
  { s with walks := es.foldl (fun ws e =>
      ⟨die, p, c, e.1, walkIndex e.1 va, e.2⟩ :: ws.filter fun x =>
        !(x.die == die && x.part == p && x.ctx == c && x.level == e.1 && x.index == walkIndex e.1 va)) s.walks }

/-- First offset and end of the frames that the free pool of a target hands out (DESIGN CHOICE, log 6). -/
def State.poolRange (s : State) (p : BitVec 2) (t : Nat) : Nat × Nat :=
  if t < 4 then (384 * 2 ^ 30, 768 * 2 ^ 30)
  else if t = 4 then
    let n := (diesOf (s.part p).dies.toNat).length
    (n * (384 * 2 ^ 30), n * (768 * 2 ^ 30))
  else match s.farSet p (t - 8) with
    | some x => (s.farCapacity x / 2 / 2 ^ 21 * 2 ^ 21, s.farCapacity x)
    | none => (0, 0)

/-- Pool number of a target of a partition: the dies are shared by all. -/
def poolId (p : BitVec 2) (t : Nat) : Nat := if t < 4 then t else 16 * (p.toNat + 1) + t

/-- Take a page from the pool of a target, zeroed: a returned frame for a 64 KiB page, else the lowest frame never handed
out (R152; DESIGN CHOICE, log 6). -/
def State.poolTake (s : State) (p : BitVec 2) (t : Nat) (big : Bool) : Option (State × Nat) :=
  let id := poolId p t
  let size := if big then 2 ^ 21 else 2 ^ 16
  match if big then none else s.poolBack.find? (fun x => x.1 == id) with
  | some x => some ({ s with poolBack := s.poolBack.filter (· != x) }.zeroFrames (physKey p x.2) size, x.2)
  | none =>
    let r := s.poolRange p t
    let off := (r.1 + Sparse.get 0 s.pool id * 2 ^ 16 + size - 1) / size * size
    if r.2 < off + size then none
    else some ({ s with pool := Sparse.set 0 s.pool id ((off + size - r.1) / 2 ^ 16) }.zeroFrames (physKey p (t * 2 ^ 44 + off)) size,
      t * 2 ^ 44 + off)

/-- Dies a context may use: PLACE_DIES within the partition (R59, R60). -/
def State.placeDies (s : State) (p : BitVec 2) (c : BitVec 6) : Nat :=
  ((s.ctx p c).placeDies &&& (s.part p).dies).toNat

/-- The die that FIRST-TOUCH chooses (R60). -/
def State.touchDie (s : State) (p : BitVec 2) (c : BitVec 6) (core : Option Nat) : Nat :=
  let m := s.placeDies p c
  let ok := diesOf (if m = 0 then (s.part p).dies.toNat else m)
  match core with
  | some k => if ok.contains (dieOf k) then dieOf k else ok.headD 0
  | none => ok.headD 0

/-- The target that a demand entry asks for (R152); none where the partition has none. -/
def State.demandTarget (s : State) (p : BitVec 2) (c : BitVec 6) (core : Option Nat) (e : Nat) : Option Nat :=
  let d := bits e 11 2
  match bits e 8 3 with
  | 1 => if (s.part p).dies.getLsbD d then some d else none
  | 2 => some 4
  | 3 => (s.farSet p d).map fun _ => 8 + d
  | _ => some (s.touchDie p c core)

/-- Who makes an access. `lane` is none for a uniform access, an engine and the host; `core` none for an access made on
behalf of no core. -/
structure Agent where
  part : BitVec 2
  ctx : BitVec 6
  core : Option Nat := none
  wg : Nat := 0
  warp : Nat := 0
  slot : Nat := 0
  lane : Option Nat := none
  handler : Bool := false
  engine : Bool := false
  deriving DecidableEq, Repr

/-- Why an access fails: fault code and detail (R209). -/
structure MErr where
  code : FaultCode
  detail : Nat := 0
  deriving DecidableEq, Repr

/-- Does an owner's context still map its frame? -/
def State.maps (s : State) (o : Owner) : Bool :=
  !o.gone && match s.walk o.part o.ctx (o.granule * 2 ^ 16) with
    | .leaf x => x.key == o.frame
    | _ => false

/-- A context reaches a frame through its tables: one that passes to it from another context, which maps it no longer, is zeroed
first; one that both map is shared (R62; DEDUCED, log 78). -/
def State.claim (s : State) (e : TlbEntry) : State :=
  let mine : Owner := ⟨e.key, e.part, e.ctx, e.granule, false⟩
  let rest := s.owners.filter fun o => o.frame != e.key
  match s.owners.find? fun o => o.frame == e.key with
  | none => { s with owners := mine :: s.owners }
  | some o =>
    if o = mine then s
    else if o.part = e.part ∧ o.ctx = e.ctx ∧ o.gone = false then { s with owners := mine :: rest }
    else if s.maps o then s
    else { s.zeroFrames e.key 65536 with owners := mine :: rest }

/-- The die whose walkers serve an agent: its core's, or the lowest of the partition for one without a core (R154). -/
def State.walkDie (s : State) (ag : Agent) : BitVec 2 :=
  BitVec.ofNat 2 (ag.core.elim ((diesOf (s.part ag.part).dies.toNat).headD 0) dieOf)

/-- Walk, backing the page where the entry asks for it (R151, R152). -/
def State.walkBack (s : State) (ag : Agent) (va : Nat) : State × Except MErr TlbEntry :=
  let die := s.walkDie ag
  let x := s.walkBy ag.part ag.ctx va (s.seenEntry die ag.part ag.ctx va)
  let s := s.keepWalk die ag.part ag.ctx va x.2
  match x.1 with
  | .leaf e => (s.claim e, .ok e)
  | .fail lvl => (s, .error ⟨.xlate, 256 * lvl⟩)
  | .demand key e big =>
    let lvl := if big then 2 else 3
    match s.demandTarget ag.part ag.ctx ag.core e with
    | none => (s, .error ⟨.xlate, 256 * lvl⟩)
    | some t =>
      match s.poolTake ag.part t big with
      | none => (s, .error ⟨.xlate, 1 + 256 * lvl⟩)
      | some (s1, pa) =>
        let e' := setBits (setBits (setBits e 16 32 (pa / 2 ^ 16)) 8 3 0) 0 1 1
        let s2 := s1.writeHome key (leBytes 8 e')
        match s2.leafOf ag.part ag.ctx va e' lvl (if big then 2 ^ 21 else 2 ^ 16) with
        | .leaf x => (s2.claim x, .ok x)
        | _ => (s2, .error ⟨.xlate, 256 * lvl⟩)

/-- Keep a translation. -/
def State.tlbFill (s : State) (e : TlbEntry) : State :=
  { s with tlb := e :: s.tlb.filter fun x => !(x.part == e.part && x.ctx == e.ctx && x.granule == e.granule) }

/-- Translate: where the tables have changed under a cached translation that is not invalidated, the old or the new one
is used, chosen freely (R155; DESIGN CHOICE, log 1). -/
def State.translate (s : State) (ag : Agent) (va : Nat) : State × Except MErr TlbEntry :=
  let old := s.tlb.find? fun x => x.part == ag.part && x.ctx == ag.ctx && x.granule == va / 2 ^ 16
  let new := s.walkBack ag va
  match old with
  | some e =>
    match new.2 with
    | .ok e' => if e' = e then new else if Config.pick s.free 8 0 (va / 2 ^ 16) % 2 = 0 then (s, .ok e)
        else (new.1.tlbFill e', .ok e')
    | .error x => if Config.pick s.free 8 0 (va / 2 ^ 16) % 2 = 0 then (s, .ok e) else (new.1, .error x)
  | none =>
    match new.2 with
    | .ok e' => (new.1.tlbFill e', .ok e')
    | .error x => (new.1, .error x)

/-! ## Range locks (Engines and range locks, R196 to R201) -/

/-- Do two locks cover something in common? -/
def LockOn.meets : LockOn → LockOn → Bool
  | .sectors a n, .sectors b m => decide (a < b + m) && decide (b < a + n)
  | .scratch g a n, .scratch h b m => g == h && decide (a < b + m) && decide (b < a + n)
  | x, y => x == y

/-- The strongest lock that jobs of a context hold on something: none, read (some false) or write (some true). -/
def State.lockOn (s : State) (p : BitVec 2) (c : BitVec 6) (on : LockOn) : Option Bool :=
  let ls := s.locks.filter fun l => l.on.meets on &&
    match s.jobs.find? (fun j => j.id == l.job) with
    | some j => j.part == p && j.ctx == c
    | none => false
  if ls.isEmpty then none else some (ls.any (·.write))

/-- The lock name of a place's sector; host and peer ranges are not locked. -/
def Place.lockName : Place → Option LockOn
  | .mem key => some (.sectors (key / 32) 1)
  | .scr wg off => some (.scratch wg (off / 32) 1)
  | _ => none

/-- A lock name joined to a list whose first may end where it begins. -/
def LockOn.join (on : LockOn) : List LockOn → List LockOn
  | [] => [on]
  | y :: ys => match on, y with
    | .sectors a n, .sectors b m => if a = b + m then .sectors b (m + n) :: ys else on :: y :: ys
    | .scratch g a n, .scratch h b m => if g = h ∧ a = b + m then .scratch h b (m + n) :: ys else on :: y :: ys
    | _, _ => on :: y :: ys

/-! ## Pointers and places (R145 to R148) -/

/-- What an access does. -/
inductive Use where
  | load | store | atomic | fetch
  deriving DecidableEq, Repr

def Use.writes : Use → Bool
  | .store => true
  | .atomic => true
  | _ => false

/-- Bits of the directory field: pointer and entry count (R156). -/
def Ctx.dirBase (c : Ctx) : Nat := c.tableDir.toNat / 64 * 64
def Ctx.dirCount (c : Ctx) : Nat := if c.tableDir.toNat % 64 ≤ 24 then 2 ^ (c.tableDir.toNat % 64) else 0

/-- Does a thread or engine store of `n` bytes at row address `va`, placed at `key`, touch a byte other than STATE of a
live descriptor (R159): of one in the directory of its context, or of one that a Halyard has made live, by whatever mapping? -/
def State.liveDescriptor (s : State) (ag : Agent) (va key n : Nat) : Bool :=
  let c := s.ctx ag.part ag.ctx
  let base := c.dirBase % 2 ^ 57
  (decide (c.tableDir ≠ 0) && (List.range n).any fun i =>
    decide (base ≤ va + i) && decide (va + i < base + 64 * c.dirCount) &&
    s.mem.byte (key + i - (va + i - base) % 64 + 1) == 2 && decide ((va + i - base) % 64 ≠ 1)) ||
  s.descs.any fun x => s.mem.byte (x.key + 1) == 2 && (List.range n).any fun i =>
    decide (x.key ≤ key + i) && decide (key + i < x.key + 64) && decide (key + i ≠ x.key + 1)

/-- Checks that follow a translation: the space agrees with the home (R153), W and X (R151), key bytes (R161), a live
descriptor (R159), range locks (R198 of Engines and range locks), poison and a silent expander (R17, R19). A thread's store to a silent
expander, of which R19 does not speak, is not performed either (DESIGN CHOICE, log 31). -/
def State.rowCheck (s : State) (ag : Agent) (use : Use) (far : Bool) (e : TlbEntry) (va n : Nat) : Except MErr Place :=
  let key := e.key + va % 2 ^ 16
  let width := 32 * 2 ^ (e.krow - 1)
  if e.far ≠ far then .error ⟨.prot, 6⟩
  else if use.writes ∧ e.w = false then .error ⟨.prot, 0⟩
  else if use = .fetch ∧ e.x = false then .error ⟨.prot, 1⟩
  else if use.writes ∧ e.krow ≠ 0 ∧ (List.range n).any (fun i => decide ((key + i) % width < 8)) then
    .error ⟨.prot, 2⟩
  else if use = .store ∧ s.liveDescriptor ag va key n then .error ⟨.prot, 8⟩
  else
    let lk := if ag.engine ∨ use = .fetch then none else s.lockOn ag.part ag.ctx (.sectors (key / 32) 1)
    match lk, use with
    | some true, _ => .error ⟨.rangeLock, 1⟩
    | some false, .store => .error ⟨.rangeLock, 0⟩
    | some false, .atomic => .error ⟨.rangeLock, 0⟩
    | _, _ =>
      if s.farDead key then .error ⟨.eccUncorr, 1⟩
      else if use ≠ .store ∧ s.poison.contains (key / 32) then .error ⟨.eccUncorr, if keyFar key then 1 else 0⟩
      else .ok (.mem key)

/-- A part of `n` bytes at row address `va` (DEDUCED, log 45). -/
def State.rowPlace (s : State) (ag : Agent) (use : Use) (far : Bool) (va n : Nat) : State × Except MErr Place :=
  match s.translate ag va with
  | (s1, .ok e) => (s1, s1.rowCheck ag use far e va n)
  | (s1, .error x) => (s1, .error x)

/-- The private region of a lane slot: its row address, and its size in bytes (R146). A region that runs past row address 2^57, which
R146 does not rule out, goes on at 0 (`State.place`; DESIGN CHOICE, log 96). -/
def Ctx.privRegion (c : Ctx) (core slot lane : Nat) : Nat × Nat :=
  let size := c.privKiB.toNat * 1024
  (c.privBase.toNat * 2 ^ 25 + ((core * 512 + slot) * 32 + lane) * size, size)

/-- The workgroup that a SCRATCH pointer of rank `k` reaches (R147). -/
def State.scratchOf (s : State) (ag : Agent) (k : Nat) : Option Workgroup :=
  match s.wg? ag.wg with
  | none => none
  | some g =>
    if k = rankOf g.core then some g
    else if g.coopQuad = false then none
    else s.wgs.find? fun h => h.launch == g.launch && h.num.toNat / 4 == g.num.toNat / 4 && rankOf h.core == k

/-- The place of the part `[i, i + len)` of an access of `total` bytes at generic pointer `p`, a part that lies within
one 32-byte sector. Each space is checked as R145 to R148 and R27 lay down. -/
def State.place (s : State) (ag : Agent) (use : Use) (p i len total : Nat) : State × Except MErr Place :=
  match bits p 60 4 with
  | 0 => (s, .error ⟨.nullDeref, 0⟩)
  | 1 =>
    match ag.lane with
    | none => (s, .error ⟨.badSpace, 0⟩)
    | some l =>
      let r := (s.ctx ag.part ag.ctx).privRegion (ag.core.getD 0) ag.slot l
      if bits p 32 28 ≠ 0 then (s, .error ⟨.badSpace, 0⟩)
      else if r.2 < bits p 0 32 + total then (s, .error ⟨.prot, 3⟩)
      else s.rowPlace ag use false ((r.1 + bits p 0 32 + i) % 2 ^ 57) len
  | 2 =>
    if bits p 20 38 ≠ 0 then (s, .error ⟨.badSpace, 0⟩)
    else match s.scratchOf ag (bits p 58 2) with
      | none => (s, .error ⟨.prot, 4⟩)
      | some g =>
        let off := bits p 0 20 + i
        if 1024 * g.tmpl.scratchKiB < bits p 0 20 + total then (s, .error ⟨.prot, 4⟩)
        else
          match if ag.engine then none else s.lockOn ag.part ag.ctx (.scratch g.id (off / 32) 1), use with
          | some true, _ => (s, .error ⟨.rangeLock, 1⟩)
          | some false, .store => (s, .error ⟨.rangeLock, 0⟩)
          | some false, .atomic => (s, .error ⟨.rangeLock, 0⟩)
          | _, _ => (s, .ok (.scr g.id off))
  | 3 =>
    if bits p 57 3 ≠ 0 ∨ 2 ^ 57 < bits p 0 57 + i + len then (s, .error ⟨.badSpace, 0⟩)
    else s.rowPlace ag use false (bits p 0 57 + i) len
  | 4 =>
    if bits p 57 3 ≠ 0 ∨ 2 ^ 57 < bits p 0 57 + i + len then (s, .error ⟨.badSpace, 0⟩)
    else (s, .ok (.host (bits p 0 57 + i)))
  | 5 =>
    if bits p 57 3 ≠ 0 ∨ 2 ^ 57 < bits p 0 57 + i + len then (s, .error ⟨.badSpace, 0⟩)
    else s.rowPlace ag use true (bits p 0 57 + i) len
  | 6 =>
    if 2 ^ 52 < bits p 0 52 + i + len then (s, .error ⟨.badSpace, 0⟩)
    else if bits p 52 8 = s.podIndex.toNat then s.rowPlace ag use false (bits p 0 52 + i) len
    else if ((s.part ag.part).session (bits p 52 8)).state = 2 then
      (s, .ok (.peer (BitVec.ofNat 8 (bits p 52 8)) (bits p 0 52 + i)))
    else (s, .error ⟨.xlate, 2⟩)
  | 7 =>
    match ag.lane with
    | none => (s, .error ⟨.badSpace, 0⟩)
    | some _ =>
      let r := (s.ctx ag.part ag.ctx).privRegion (bits p 53 7) (bits p 44 9) (bits p 39 5)
      if bits p 32 7 ≠ 0 then (s, .error ⟨.badSpace, 0⟩)
      else if ag.handler = false then (s, .error ⟨.privViolation, 0⟩)
      else if r.2 < bits p 0 32 + total then (s, .error ⟨.prot, 3⟩)
      else s.rowPlace ag use false ((r.1 + bits p 0 32 + i) % 2 ^ 57) len
  | _ => (s, .error ⟨.badSpace, 0⟩)

/-- Cut `[i, i + n)` of an access at `p` at sector boundaries (R182): offsets and lengths. The fuel is the length. -/
def sectorParts (p : Nat) : Nat → Nat → Nat → List (Nat × Nat)
  | 0, _, _ => []
  | fuel + 1, i, n =>
    if n = 0 then []
    else
      let k := min n (32 - (p + i) % 32)
      (i, k) :: sectorParts p fuel (i + k) (n - k)

/-- Pointer arithmetic modulo 2^64. -/
def ptrAdd (p i : Nat) : Nat := (p + i) % 2 ^ 64

/-- The sector parts of `n` bytes at `p`. -/
def partsOf (p n : Nat) : List (Nat × Nat) := sectorParts p n 0 n

/-- Places of every part of an access, with the first error there is. -/
def State.placesGo (ag : Agent) (use : Use) (p n : Nat) :
    List (Nat × Nat) → State → List (Place × Nat) → State × Except MErr (List (Place × Nat))
  | [], s, acc => (s, .ok acc.reverse)
  | (i, k) :: rest, s, acc =>
    match s.place ag use p i k n with
    | (s1, .ok pl) => State.placesGo ag use p n rest s1 ((pl, k) :: acc)
    | (s1, .error e) => (s1, .error e)

/-- Places of an access of `n` bytes at `p`, or the first error: precise accesses (R206). -/
def State.places (s : State) (ag : Agent) (use : Use) (p n : Nat) : State × Except MErr (List (Place × Nat)) :=
  State.placesGo ag use p n (partsOf p n) s []

/-- The bytes of places that two accesses share? -/
def Place.overlaps (a : Place) (n : Nat) (b : Place) (m : Nat) : Bool :=
  match a, b with
  | .mem x, .mem y => decide (x < y + m) && decide (y < x + n)
  | .scr g x, .scr h y => g == h && decide (x < y + m) && decide (y < x + n)
  | .host x, .host y => decide (x < y + m) && decide (y < x + n)
  | .peer d x, .peer e y => d == e && decide (x < y + m) && decide (y < x + n)
  | _, _ => false

def placesOverlap (xs ys : List (Place × Nat)) : Bool :=
  xs.any fun a => ys.any fun b => a.1.overlaps a.2 b.1 b.2

/-! ## Reading and writing a place -/

/-- Bytes of a scratchpad reservation. -/
def State.scratchBytes (s : State) (wg off n : Nat) : List Byte :=
  match s.wg? wg with
  | some g => g.scratch.bytes off n
  | none => List.replicate n 0

/-- Bytes of a place as quad `q` sees them, past every row cache; a peer's bytes come by message. -/
def State.readPlace (s : State) (q : Nat) (pl : Place) (n : Nat) : List Byte :=
  match pl with
  | .mem key => s.quadBytes q key n
  | .scr wg off => s.scratchBytes wg off n
  | .host a => s.host.bytes a n
  | .peer _ _ => List.replicate n 0

/-- Bytes of a place written by an engine, the host or an atomic's home. -/
def State.writePlace (s : State) (pl : Place) (data : List Byte) : State :=
  match pl with
  | .mem key => s.writeHome key data
  | .scr wg off => s.modWg wg fun g => { g with scratch := g.scratch.setBytes off data }
  | .host a => { s with host := s.host.setBytes a data }
  | .peer _ _ => s

/-- Bytes of a place written by a core: its own row cache and the bytes its quad holds follow (R176). -/
def State.coreWrite (s : State) (core : Nat) (pl : Place) (data : List Byte) : State :=
  match pl with
  | .mem key => ((s.writeHome key data).updateCache core key data).updateHeld (quadOf core) key data
  | _ => s.writePlace pl data

/-- A row cache holds 4,096 lines of 128 bytes, 512 KiB (R114, R176): where a new line finds it full, another leaves it, chosen freely
among those filled under stream if there are any (DESIGN CHOICE, log 1). -/
def State.makeRoom (s : State) (core sector : Nat) : State :=
  let mine := s.cache.filter fun c => c.core == core
  if mine.length < 4096 then s
  else
    let lines := (mine.map fun c => c.sector / 4).eraseDups
    let streamed := ((mine.filter (·.stream)).map fun c => c.sector / 4).eraseDups
    if lines.length < 4096 ∨ lines.contains (sector / 4) then s
    else
      let from_ := if streamed.isEmpty then lines else streamed
      s.dropLines core (128 * from_.getD (Config.pick s.free 16 0 sector % from_.length) 0) 1

/-- A load's bytes of one part: through the row cache for row storage (R176, R328). A bypassing load takes its bytes
from home and discards the copy of the sector, so that no later load of the core reads an older one. -/
def State.loadPart (s : State) (r : LoadReq) (pl : Place) (n : Nat) : State × List Byte :=
  match pl with
  | .mem key =>
    let hit := s.cache.find? fun c => c.core == r.core && c.sector == key / 32
    match r.bypass, hit with
    | false, some c => (s, leBytes n (bits c.data.toNat (8 * (key % 32)) (8 * n)))
    | false, none =>
      let d := s.quadBytes (quadOf r.core) (key / 32 * 32) 32
      let c : CacheSector := ⟨r.core, key / 32, BitVec.ofNat 256 (leNat d), r.stream⟩
      let s1 := s.makeRoom r.core (key / 32)
      ({ s1 with cache := s1.cache ++ [c] }, (d.drop (key % 32)).take n)
    | true, _ =>
      ({ s with cache := s.cache.filter fun c => !(c.core == r.core && c.sector == key / 32) },
        s.quadBytes (quadOf r.core) key n)
  | _ => (s, s.readPlace (quadOf r.core) pl n)

/-- Numbers of the sector parts of a load that are not read yet, and the places of those parts (R182). -/
def LoadReq.left (r : LoadReq) : List Nat := (List.range r.pieces.length).filter fun k => !(r.got.any fun x => x.1 == k)
def LoadReq.unread (r : LoadReq) : List (Place × Nat) := r.left.filterMap fun k => r.pieces[k]?

/-- The bytes of a load whose parts are all read. -/
def LoadReq.bytes (r : LoadReq) : List Byte := (List.range r.pieces.length).flatMap fun k => (r.got.lookup k).getD []

/-- Sector part `k` of a load is read. -/
def State.readPart (s : State) (r : LoadReq) (k : Nat) : State × LoadReq :=
  match r.pieces[k]? with
  | some (pl, n) =>
    let y := s.loadPart r pl n
    (y.1, { r with got := r.got ++ [(k, y.2)] })
  | none => (s, r)

/-- The bytes of a load: those of the parts already read, and the rest now. -/
def State.loadBytes (s : State) (r : LoadReq) : State × List Byte :=
  let x := r.left.foldl (fun (a : State × LoadReq) k => a.1.readPart a.2 k) (s, r)
  (x.1, x.2.bytes)

/-- The row address that a pointer of an agent names; none for the spaces that page tables do not serve. -/
def State.rowVa (s : State) (ag : Agent) (ptr : Nat) : Option Nat :=
  let priv := fun core slot lane => some (((s.ctx ag.part ag.ctx).privRegion core slot lane).1 + bits ptr 0 32)
  match bits ptr 60 4 with
  | 1 => priv (ag.core.getD 0) ag.slot (ag.lane.getD 0)
  | 3 => some (bits ptr 0 57)
  | 5 => some (bits ptr 0 57)
  | 6 => if bits ptr 52 8 = s.podIndex.toNat then some (bits ptr 0 52) else none
  | 7 => priv (bits ptr 53 7) (bits ptr 44 9) (bits ptr 39 5)
  | _ => none

/-- The counter set of the table whose rows a pointer of an agent names: that of a live descriptor of its context; 0 for none (R67). -/
def State.tableSet (s : State) (ag : Agent) (ptr : Nat) : Nat :=
  if s.descs.isEmpty then 0
  else match s.rowVa ag ptr with
  | none => 0
  | some va =>
    ((s.descs.find? fun x => x.part == ag.part && x.ctx == ag.ctx &&
      let base := bits (s.homeNat (x.key + 8) 8) 0 57
      decide (base ≤ va % 2 ^ 57) && decide (va % 2 ^ 57 < base + s.homeNat (x.key + 16) 8 * (32 * 2 ^ s.homeNat (x.key + 2) 1))).map
      fun x => s.homeNat (x.key + 6) 1).getD 0

/-- A load's bytes leave the core, and are counted, where the row cache does not hold them (R415). -/
def State.countLoad (s : State) (ag : Agent) (ptr : Nat) (r : LoadReq) : State :=
  let tab := s.tableSet ag ptr
  r.pieces.foldl (fun t x => match x.1 with
    | .mem key => if !r.bypass && s.cache.any (fun c => c.core == r.core && c.sector == key / 32) then t
        else t.count r.core ag.part tab x.1 false x.2
    | pl => t.count r.core ag.part 0 pl false x.2) s

/-- Count one sector part of an access that faults or is dropped. -/
def State.countBadPart (s : State) (ag : Agent) (ptr n : Nat) (write : Bool) : State :=
  let core := ag.core.getD 0
  let some_ := 2 * (Config.pick s.free 9 0 ptr % 2)
  let add := fun (cls : Nat) => (s.countCore core cls write n).countTable ag.part (s.tableSet ag ptr) cls write n
  match bits ptr 60 4 with
  | 2 => s
  | 4 => s
  | 5 => add 4
  | _ =>
    match s.rowVa ag ptr with
    | none => add (if bits ptr 60 4 = 6 then 6 else some_)
    | some va => match s.walk ag.part ag.ctx (va % 2 ^ 57) with
      | .leaf e => add (s.rowClass core (e.key + va % 2 ^ 16))
      | _ => add some_

/-- A faulting load or a dropped store is counted too (R415): each part by the home of its bytes where the page is mapped, else in the
class of its space; a row address without a home in one of the two row classes, chosen freely (DESIGN CHOICE, log 1). -/
def State.countBad (s : State) (ag : Agent) (ptr n : Nat) (write : Bool) : State :=
  (partsOf ptr n).foldl (fun t x => t.countBadPart ag (ptrAdd ptr x.1) x.2 write) s

/-- The quad whose view an agent has; the host and the Mast see the home slices, as no quad 32 holds anything. -/
def Agent.quad (ag : Agent) : Nat := ag.core.elim 32 quadOf

/-- Read precisely past the row cache: engines, descriptors, index nodes, event words. -/
def State.readDirect (s : State) (ag : Agent) (p n : Nat) : State × Except MErr (List Byte) :=
  match s.places ag .load p n with
  | (s1, .ok ps) => (s1, .ok (ps.flatMap fun x => s1.readPlace ag.quad x.1 x.2))
  | (s1, .error e) => (s1, .error e)

/-- Number of a direct read. -/
def State.readNat (s : State) (ag : Agent) (p n : Nat) : State × Except MErr Nat :=
  match s.readDirect ag p n with
  | (s1, .ok bs) => (s1, .ok (leNat bs))
  | (s1, .error e) => (s1, .error e)

/-- Write bytes to their places in order. -/
def State.writeParts (core : Option Nat) : List (Place × Nat) → List Byte → State → State
  | [], _, s => s
  | (pl, n) :: rest, data, s =>
    let s1 := match core with
      | some k => s.coreWrite k pl (data.take n)
      | none => s.writePlace pl (data.take n)
    State.writeParts core rest (data.drop n) s1

/-- Write whole or not at all, past the row cache. -/
def State.writeDirect (s : State) (ag : Agent) (p : Nat) (data : List Byte) : State × Except MErr Unit :=
  match s.places ag .store p data.length with
  | (s1, .ok ps) => (State.writeParts none ps data s1, .ok ())
  | (s1, .error e) => (s1, .error e)

/-- Write whole or not at all, as a store of the agent's core does: its row cache follows (R176, R213). -/
def State.writeCore (s : State) (ag : Agent) (p : Nat) (data : List Byte) : State × Except MErr Unit :=
  match s.places ag .store p data.length with
  | (s1, .ok ps) => (State.writeParts ag.core ps data s1, .ok ())
  | (s1, .error e) => (s1, .error e)

end Sys2Proof.Machine
end

