-- ==== Sys2Proof/Machine/Ops.lean ====
section
/-! DEFINITION. The shared operations over warps: binding loads, settling stores, landing results, barrier objects,
taking a fault at its rung and returning from a handler (R205 to R223, R427), ending lanes, forking and merging splits
(R101 to R105). -/
namespace Sys2Proof.Machine

/-! ## Agents and requests -/

/-- The agent of a split of a warp, for lane `lane` or for the split as a whole. -/
def Warp.agent (w : Warp) (g : Workgroup) (split : Nat) (lane : Option Nat) : Agent :=
  { part := g.part, ctx := g.ctx, core := some w.core, wg := g.id, warp := w.id, slot := w.slot, lane := lane,
    handler := match w.handler with
      | some h => h.runs && h.subject == split
      | none => false }

/-- Does the handler split of a warp bear this number? -/
def Warp.inHandler (w : Warp) (split : Nat) : Bool :=
  match w.handler with
  | some h => h.runs && h.subject == split
  | none => false

/-- Is a host address in a range that gives no completion (R148)? -/
def State.hostSilent (s : State) (a n : Nat) : Bool := s.hostDead.any fun r => decide (a < r.2) && decide (r.1 < a + n)

/-! ## Stay links: flits and the queueing of requests (R23 to R26) -/

/-- One step of the CRC of R23 for a bit. -/
def crcBit (c : Nat) (b : Bool) : Nat :=
  let x := c / 2
  if (c.testBit 0) != b then x ^^^ 0xEDB88320 else x

/-- The CRC-32 of IEEE 802.3 of bytes (R23). -/
def crc32 (bs : List Byte) : Nat :=
  (bs.foldl (fun c b => (List.range 8).foldl (fun c i => crcBit c (b.getLsbD i)) c) 0xFFFFFFFF) ^^^ 0xFFFFFFFF

/-- The bytes that a flit's CRC covers: header bytes 0 to 27, and the whole payload of 224 bytes. -/
def flitCovered (f : Flit) : List Byte :=
  [f.type, f.dst, f.src, f.vc] ++ leBytes 2 f.gen.toNat ++ leBytes 2 f.len.toNat ++ leBytes 4 f.seq.toNat ++ leBytes 4 f.ack.toNat ++
    leBytes 4 f.credit.toNat ++ List.replicate 8 0 ++ (f.payload ++ List.replicate 224 0).take 224

/-- Does a flit's CRC agree? -/
def flitSound (f : Flit) : Bool := f.crc.toNat == crc32 (flitCovered f)

/-- Can a port carry traffic, at once or, while it retrains, later (R25, R26)? -/
def Port.alive (x : Port) : Bool := x.en && (x.state == 2 || x.state == 3)

/-- The port for traffic to `dev` at an address: that of plane addr[51:12] mod 18, or of the next plane upward that is up at
both ends (R26). A port that retrains is not down. -/
def State.plane (s : State) (dev : BitVec 8) (addr : Nat) : Option Nat :=
  (List.range 18).findSome? fun i =>
    let p := (addr / 4096 + i) % 18
    if s.peerDown.contains (dev, p) then none
    else (List.range 18).find? fun k => s.planes.getD k 18 == p && (s.ports.getD k {}).alive

/-- A write of bytes at an address as whole sectors, with a byte mask for each (R24). -/
def peerWrite (a : Nat) (d : List Byte) : PeerOp :=
  let k := (a % 32 + d.length + 31) / 32
  .write ((List.range k).map fun i => maskOf ((List.range 32).filter fun j =>
      decide (a % 32 ≤ 32 * i + j) && decide (32 * i + j < a % 32 + d.length)))
    ((List.replicate (a % 32) 0 ++ d ++ List.replicate 32 0).take (32 * k))

/-- Bytes of payload that a message takes, in whole 32-byte units (R24; DESIGN CHOICE, log 8). -/
def peerMsgSize : PeerMsg → Nat
  | .request _ _ _ _ (.write masks _) => 32 + 32 * masks.length
  | .request _ _ _ _ (.atomic _ _ _ _) => 64
  | .response _ _ _ _ lead d => 32 + (lead + d.length + 31) / 32 * 32
  | _ => 32

/-- A flit that carries one message; SEQ, ACK, CREDIT and the CRC are filled in when it is sent. The payload's layout is not
given (DESIGN CHOICE, log 8). -/
def flitOf (src dst : BitVec 8) (vc : Nat) (gen : BitVec 16) (m : PeerMsg) : Flit :=
  { type := BitVec.ofNat 8 (if vc = 0 then 1 else if vc = 1 then 2 else 4), dst := dst, src := src,
    vc := BitVec.ofNat 8 vc, gen := gen, len := BitVec.ofNat 16 (peerMsgSize m), seq := 0, ack := 0, credit := 0,
    payload := (List.range 224).map fun k => if k < peerMsgSize m then Config.payloadByte [m] k else 0
    crc := 0, msgs := [m] }

/-- May a port send a flit: a credit-only flit always, another with a credit for its channel (R25; DESIGN CHOICE, log 8)? -/
def Port.maySend (x : Port) (f : Flit) : Bool := f.type == 3 || decide (0 < x.credits.getD (f.vc.toNat % 16) 0)

/-- A port sends a flit: it takes its number, the acknowledgement and as many of the owed credits as the field holds, and its CRC;
it stays in the replay buffer (R23, R25). A credit-only flit takes a number too (DESIGN CHOICE, log 8). -/
def Port.send (x : Port) (f : Flit) : Port :=
  let give := [0, 1, 2].map fun v => min 1023 (x.owed.getD v 0)
  let f1 := { f with
    seq := x.txSeq, ack := x.rxSeq - 1, crc := 0
    credit := BitVec.ofNat 32 (give.getD 0 0 + 2 ^ 10 * give.getD 1 0 + 2 ^ 20 * give.getD 2 0) }
  { x with
    waiting := x.waiting.erase f
    txSeq := x.txSeq + 1
    owed := [0, 1, 2].map fun v => x.owed.getD v 0 - give.getD v 0
    replay := x.replay ++ [{ f1 with crc := BitVec.ofNat 32 (crc32 (flitCovered f1)) }]
    credits := if f.type = 3 then x.credits else modifyAt (fun c => c - 1) x.credits (f.vc.toNat % 16) }

/-- Send what waits: the oldest flit that may go, as long as there is one and the replay buffer has room, so that a channel
without credits blocks no other (R25). The fuel is the number of waiting flits. -/
def Port.pump : Nat → Port → Port
  | 0, x => x
  | n + 1, x =>
    if x.state ≠ 2 ∨ x.en = false ∨ 512 ≤ x.replay.length then x
    else match x.waiting.find? x.maySend with
      | some f => Port.pump n (x.send f)
      | none => x

/-- Queue a message on a port. -/
def State.sendMsg (s : State) (port : Nat) (dst : BitVec 8) (vc : Nat) (gen : BitVec 16) (m : PeerMsg) : State :=
  { s with ports := modifyAt (fun x =>
      let y := { x with waiting := x.waiting ++ [flitOf s.podIndex dst vc gen m] }
      Port.pump y.waiting.length y) s.ports port }

/-- Remember a request outside the device, with the time at which it is given up: the ring timeout of a peer (R32), or 10 ms
(R148). -/
def State.addExt (s : State) (r : ExtReq) : State :=
  let us := if r.peer.isSome then max 1 s.ringTimeout.toNat else 10000
  { s with nextId := s.nextId + 1, exts := s.exts ++ [{ r with tag := s.nextId, deadline := s.cycle + us * Config.cyclesPerUs }] }

/-- Send a request to the peer of an open session and remember it (R27). Where no plane reaches the peer there is no answer, and
the peer is lost (R32). -/
def State.peerRequest (s : State) (part : BitVec 2) (dev : BitVec 8) (addr : Nat) (op : PeerOp) (r : ExtReq) :
    Option State :=
  match s.plane dev addr with
  | none => none
  | some pl =>
    let se := (s.part part).session dev.toNat
    let s1 := s.addExt { r with peer := some dev, part := part }
    some (s1.sendMsg pl dev 0 se.gen (.request s.nextId se.part se.ctx (BitVec.ofNat 52 addr) op))

/-! ## Loads that wait for their bytes, and outstanding stores (R206, R210) -/

/-- A read that is an acquire at QUAD scope or wider invalidates the core's row cache before each of its parts is read, so that no line
filled meanwhile outlives it (R176, R193). -/
def State.acquireFor (s : State) (x : Pending) : State :=
  match x.acq, x.load with
  | some sc, some r => if 1 ≤ sc then s.dropCache r.core else s
  | _, _ => s

/-- Read the bytes of pending result `k` of a warp now. -/
def State.bindAt (s : State) (wid k : Nat) : State :=
  match s.warp? wid with
  | none => s
  | some w =>
    match w.pending[k]? with
    | some x =>
      match x.load with
      | some r =>
        let y := (s.acquireFor x).loadBytes r
        y.1.modWarp wid fun w => { w with pending := modifyAt (fun x => { x with value := leNat y.2, load := none }) w.pending k }
      | none => s
    | none => s

/-- Read a sector part of pending result `k` of a warp, where more than one is left: whichever a free value names, for the parts of an
access are accesses of their own, in no order (R182; DESIGN CHOICE, log 1). -/
def State.bindPart (s : State) (wid k : Nat) : State :=
  match s.warp? wid with
  | none => s
  | some w =>
    match w.pending[k]? with
    | some x => match x.load with
      | some r =>
        let y := (s.acquireFor x).readPart r (r.left.getD (Config.pick s.free 20 wid k % r.left.length) 0)
        y.1.modWarp wid fun w => { w with pending := modifyAt (fun x => { x with load := some y.2 }) w.pending k }
      | none => s
    | none => s

/-- Bind, in issue order, the loads of a warp that satisfy a test. -/
def State.bindIf (s : State) (wid : Nat) (f : LoadReq → Bool) : State :=
  match s.warp? wid with
  | none => s
  | some w =>
    (List.range w.pending.length).foldl (fun t k =>
      match (w.pending[k]?).bind (·.load) with
      | some r => if f r then t.bindAt wid k else t
      | none => t) s

/-- The peer address of an access, if it goes to another device. -/
def peerOf (ps : List (Place × Nat)) : Option (BitVec 8 × Nat) := match ps with
  | (.peer dev a, _) :: _ => some (dev, a)
  | _ => none

/-- The 4 KiB pages of peers that an access goes to. -/
def pagesOf (ps : List (Place × Nat)) : List (BitVec 8 × Nat) := (ps.filterMap fun x => match x.1 with
  | .peer dev a => some (dev, a / 4096)
  | _ => none).eraseDups

/-- Places of an outstanding store, sector by sector, those that would fail left out. -/
def State.storePlaces (s : State) (w : Warp) (g : Workgroup) (q : StoreReq) : List (Place × Nat) :=
  (partsOf q.ptr.toNat q.data.length).filterMap fun x =>
    match (s.place { w.agent g 0 q.lane with handler := q.inHandler } .store q.ptr.toNat x.1 x.2 q.data.length).2 with
    | .ok pl => some (pl, x.2)
    | .error _ => none

/-- The 4 KiB pages of peers that a store goes to. -/
def State.peerPages (s : State) (w : Warp) (g : Workgroup) (q : StoreReq) : List (BitVec 8 × Nat) := pagesOf (s.storePlaces w g q)

/-- Record a dropped store (R210): the lanes of one instruction stand in one record, and the records stand in issue order
(DEDUCED, log 14). -/
def Warp.addLate (w : Warp) (q : StoreReq) (e : MErr) : Warp :=
  let new : Late := ⟨e.code, q.pc, q.ptr, q.lanes, q.inHandler, q.seq⟩
  match w.late.find? fun l => l.seq == q.seq && l.pc == q.pc with
  | some l =>
    let low := decide ((lowestLane q.lanes).getD 32 < (lowestLane l.lanes).getD 32)
    let m := { (if low then new else l) with lanes := l.lanes ||| q.lanes }
    { w with late := w.late.map fun x => if x = l then m else x }
  | none => { w with late := w.late.filter (fun l => l.seq ≤ q.seq) ++ [new] ++ w.late.filter (fun l => q.seq < l.seq) }

/-- One sector part of a store: performed, dropped, or sent (R210, R27, R148). -/
def State.storePart (s : State) (w : Warp) (g : Workgroup) (q : StoreReq) (i n : Nat) : State :=
  let ag := { w.agent g 0 q.lane with handler := q.inHandler }
  let data := (q.data.drop i).take n
  match s.place ag .store q.ptr.toNat i n q.data.length with
  | (s1, .error e) =>
    s1.modWarp w.id fun x => x.addLate q e
  | (s1, .ok (.peer dev a)) =>
    let r : ExtReq :=
      { tag := 0, core := w.core, warp := w.id, use := 2, ptr := q.ptr, pc := q.pc, seq := q.seq,
        lane := q.lane.getD 32, lanes := q.lanes, inHandler := q.inHandler }
    match s1.peerRequest g.part dev a (peerWrite a data) r with
    | some s2 => s2
    | none => s1.modWarp w.id fun x => x.addLate q ⟨.timeout, 0⟩
  | (s1, .ok (.host a)) =>
    if s1.hostSilent a n then
      let r : ExtReq :=
        { tag := 0, part := g.part, core := w.core, warp := w.id, use := 2, ptr := q.ptr, pc := q.pc, seq := q.seq,
          lane := q.lane.getD 32, lanes := q.lanes, inHandler := q.inHandler }
      s1.addExt r
    else s1.writePlace (.host a) data
  | (s1, .ok pl) => s1.coreWrite w.core pl data

/-- The bytes of a store are counted at its issue (R415). -/
def State.countStore (s : State) (w : Warp) (g : Workgroup) (q : StoreReq) : State :=
  let ag := { w.agent g 0 q.lane with handler := q.inHandler }
  let tab := s.tableSet ag q.ptr.toNat
  (partsOf q.ptr.toNat q.data.length).foldl (fun t x =>
    match t.place ag .store q.ptr.toNat x.1 x.2 q.data.length with
    | (t1, .ok pl) => t1.count w.core g.part tab pl true x.2
    | (t1, .error _) => t1.countBad ag (q.ptr.toNat + x.1) x.2 true) s

/-- What comes before a part of outstanding store `q` of a warp: earlier loads of its lane at its bytes are bound, all of them
before a release store, for which the quad also writes back at DIE or wider (R188, R328). -/
def State.beforeStore (s : State) (w : Warp) (g : Workgroup) (q : StoreReq) : State :=
  let ps := s.storePlaces w g q
  let s1 := s.bindIf w.id fun r => (r.lane == q.lane || r.lane.isNone || q.lane.isNone) && (q.release.isSome || placesOverlap r.unread ps)
  match q.release with
  | some sc => if 2 ≤ sc then s1.writeBack (quadOf w.core) else s1
  | none => s1

/-- Sector parts of a store that are still to be performed, dropped or sent. -/
def StoreReq.left (q : StoreReq) : List (Nat × Nat) := (partsOf q.ptr.toNat q.data.length).filter fun x => !q.did.contains x.1

/-- Perform, drop or send what is left of outstanding store `k` of a warp. Every agent sees what is performed at once (DESIGN CHOICE, log
76). -/
def State.settleOne (s : State) (wid k : Nat) : State :=
  match s.warp? wid with
  | none => s
  | some w =>
    match s.wg? w.wg, w.stores[k]? with
    | some g, some q =>
      let s1 := q.left.foldl (fun t x => t.storePart w g q x.1 x.2) (s.beforeStore w g q)
      s1.modWarp wid fun x => { x with stores := removeAt x.stores k }
    | _, _ => s

/-- Perform, drop or send a sector part of outstanding store `k`, where more than one is left: whichever a free value names (R182; DESIGN
CHOICE, log 1). Those of a store to peers go in order, as requests to a page do (R26). -/
def State.settlePart (s : State) (wid k : Nat) : State :=
  match s.warp? wid with
  | none => s
  | some w =>
    match s.wg? w.wg, w.stores[k]? with
    | some g, some q =>
      match q.left with
      | x :: y :: rest =>
        let z := (x :: y :: rest).getD (if (s.peerPages w g q).isEmpty then Config.pick s.free 21 wid k % (rest.length + 2) else 0) x
        ((s.beforeStore w g q).storePart w g q z.1 z.2).modWarp wid fun v =>
          { v with stores := modifyAt (fun q => { q with did := q.did ++ [z.1] }) v.stores k }
      | _ => s.settleOne wid k
    | _, _ => s

/-- Stores sent outside the device by lanes of a mask and not answered yet: not performed (R192, R193). -/
def State.sentStores (s : State) (wid : Nat) (lanes : BitVec 32) : Bool :=
  s.exts.any fun r => r.warp == wid && r.use == 2 && (r.lanes &&& lanes) != 0

/-- May outstanding store `k` of a warp be performed as far as its lanes' own order goes: not before an earlier store of its lanes at
its bytes, nor, for a release, before any earlier store of its lanes, one that is sent and not answered included (R192, R193)? -/
def State.inOrder (s : State) (w : Warp) (g : Workgroup) (k : Nat) : Bool :=
  match w.stores[k]? with
  | none => false
  | some q => ((w.stores.take k).all fun x =>
      (x.lanes &&& q.lanes) == 0 || (q.release.isNone && !placesOverlap (s.storePlaces w g x) (s.storePlaces w g q))) &&
      (q.release.isNone || !s.sentStores w.id q.lanes)

/-- Is no store of an earlier instruction to these pages of a peer outstanding: such stores travel in issue order (R26)? -/
def State.peerFirst (s : State) (q : StoreReq) (pages : List (BitVec 8 × Nat)) : Bool :=
  pages.isEmpty || s.warps.all fun v => match s.wg? v.wg with
    | some h => v.stores.all fun x => decide (q.seq ≤ x.seq) || !(s.peerPages v h x).any pages.contains
    | none => true

/-- May outstanding store `k` of a warp settle now: its lanes' own order and that of the peer's pages it goes to allow it (R26, R193). -/
def State.settleable (s : State) (w : Warp) (g : Workgroup) (k : Nat) : Bool :=
  s.inOrder w g k && match w.stores[k]? with
    | some q => s.peerFirst q (s.peerPages w g q)
    | none => false

/-- Settle, of the first `n` stores in the list, those that satisfy a test and may be performed; a release store whose turn has not come
stays (R328). -/
def State.settleIf (s : State) (wid : Nat) (f : StoreReq → Bool) : Nat → Nat → State
  | 0, _ => s
  | n + 1, k =>
    match s.warp? wid with
    | none => s
    | some w =>
      match w.stores[k]? with
      | none => s
      | some q =>
        if f q && (s.wg? w.wg).any fun g => s.settleable w g k then (s.settleOne wid k).settleIf wid f n k
        else s.settleIf wid f n (k + 1)

/-- Settle the stores of `lane` up to the last one that meets any of `ps`: what a load, an atomic or an engine of the
lane at these bytes must not overtake (DEDUCED, log 46). -/
def State.settleMeeting (s : State) (wid : Nat) (lane : Option Nat) (ps : List (Place × Nat)) : State :=
  match s.warp? wid with
  | none => s
  | some w =>
    match s.wg? w.wg with
    | none => s
    | some g =>
      let mine := w.stores.filter fun q => q.lane == lane || q.lane.isNone || lane.isNone
      let last := (List.range mine.length).foldl (fun m i =>
        match mine[i]? with
        | some q => if placesOverlap (s.storePlaces w g q) ps then i + 1 else m
        | none => m) 0
      (mine.take last).foldl (fun t q => t.settleIf wid (· == q) w.stores.length 0) s

/-- Has a warp accesses of some lanes that are not performed: stores outstanding, or sent and not answered? -/
def State.unperformed (s : State) (wid : Nat) (lanes : BitVec 32) : Bool :=
  s.sentStores wid lanes || match s.warp? wid with
    | some w => w.stores.any fun q => (q.lanes &&& lanes) != 0
    | none => false

/-- Has a warp stores that are not performed, dropped or sent? -/
def State.storesLeft (s : State) (wid : Nat) : Bool := (s.warp? wid).any fun w => !w.stores.isEmpty

/-- Does an outstanding store go where an answer must come from: a peer, or a host range that gives none? -/
def State.goesOut (s : State) (w : Warp) (g : Workgroup) (q : StoreReq) : Bool := (s.storePlaces w g q).any fun x => match x.1 with
  | .peer _ _ => true
  | .host a => s.hostSilent a x.2
  | _ => false

/-- Does outstanding store `k` of a warp, a release, wait for an earlier store of its lanes that has no answer (R193, R328)? -/
def State.storeWaits (s : State) (w : Warp) (g : Workgroup) (k : Nat) (q : StoreReq) : Bool :=
  q.release.isSome && (s.sentStores w.id q.lanes || (w.stores.take k).any fun x => (x.lanes &&& q.lanes) != 0 && s.goesOut w g x)

/-- Some release store of a warp waits that meets a test. -/
def State.anyWaits (s : State) (w : Warp) (f : Workgroup → StoreReq → Bool) : Bool :=
  !w.stores.isEmpty && match s.wg? w.wg with
    | some g => (List.range w.stores.length).any fun k => match w.stores[k]? with
        | some q => f g q && s.storeWaits w g k q
        | none => false
    | none => false

/-- Must an access by some lanes of a warp wait for such a store: one of those lanes, or one of any warp to a peer, whose page others
must not overtake (R26)? -/
def State.releaseWaits (s : State) (w : Warp) (lanes : BitVec 32) : Bool :=
  s.anyWaits w (fun _ q => (q.lanes &&& lanes) != 0) || s.warps.any fun v => s.anyWaits v fun g q => !(s.peerPages v g q).isEmpty

/-- Send, oldest first, the outstanding stores of every warp to the 4 KiB page of `dev` that holds address `a`: requests to one page of
a peer travel in issue order (R26). The fuel is the number of stores. -/
def State.sendEarlier (dev : BitVec 8) (a : Nat) : Nat → State → State
  | 0, s => s
  | n + 1, s =>
    let mine := s.warps.flatMap fun w => match s.wg? w.wg with
      | some g => w.stores.filterMap fun q =>
          if (s.peerPages w g q).contains (dev, a / 4096) then some (w.id, q) else none
      | none => []
    match mine.foldl (fun (o : Option (Nat × StoreReq)) x => match o with
        | some y => if x.2.seq < y.2.seq then some x else o
        | none => some x) none with
    | some (wid, q) => State.sendEarlier dev a n (s.settleIf wid (fun x => (x.lanes &&& q.lanes) != 0 && x.seq ≤ q.seq) ((s.warp? wid).elim 0 (·.stores.length)) 0)
    | none => s

/-- The stores to a peer's page that come before a request to it. -/
def State.beforePeer (s : State) (dev : BitVec 8) (a : Nat) : State :=
  if s.warps.all (·.stores.isEmpty) then s
  else State.sendEarlier dev a ((s.warps.map (·.stores.length)).sum) s

/-- The stores to the pages of an access that come before it. -/
def State.beforePages (s : State) (ps : List (Place × Nat)) : State :=
  (pagesOf ps).foldl (fun t x => t.beforePeer x.1 (4096 * x.2)) s

/-- Perform everything that the lanes of a mask did before: loads bound, stores settled (a release, an arrival, an
engine issue). -/
def State.drain (s : State) (wid : Nat) (lanes : BitVec 32) : State :=
  let s1 := s.bindIf wid fun r => match r.lane with
    | some l => lanes.getLsbD l
    | none => true
  match s1.warp? wid with
  | some w =>
    let mine := fun (q : StoreReq) => (q.lanes &&& lanes) != 0
    let s2 := match s1.wg? w.wg with
      | some g => (w.stores.filter mine).foldl (fun (t : State) q => t.beforePages (t.storePlaces w g q)) s1
      | none => s1
    s2.settleIf wid mine w.stores.length 0
  | none => s1

/-- A release at a scope code: the lanes' accesses are performed, and at DIE or wider the quad unit writes back. -/
def State.release (s : State) (wid core : Nat) (lanes : BitVec 32) (scope : Nat) : State :=
  let s1 := s.drain wid lanes
  if 2 ≤ scope then s1.writeBack (quadOf core) else s1

/-- An acquire at a scope code: at QUAD or wider the core's row cache is invalidated (R176). -/
def State.acquire (s : State) (core : Nat) (scope : Nat) : State := if 1 ≤ scope then s.dropCache core else s

/-- Is every store of a warp performed or dropped (R210)? -/
def State.storesSettled (s : State) (wid : Nat) : Bool :=
  (match s.warp? wid with
    | some w => w.stores.isEmpty
    | none => true) && !(s.exts.any fun r => r.warp == wid && r.use == 2)

/-! ## The operand latch (R119, R120) -/

/-- Drop latch entries. -/
def State.dropLatch (s : State) (f : LatchEntry → Bool) : State := { s with latch := s.latch.filter fun e => !f e }

/-- A write landed on a destination: entries over its slices are invalid. -/
def State.latchLanded (s : State) (wid : Nat) (d : Dest) : State :=
  match d with
  | .slices _ st n => s.dropLatch fun e => e.warp == wid && decide (st < e.start + e.width) && decide (e.start < st + n)
  | _ => s

/-- Is a split midway through an instruction that goes on in steps: the walk of a TCNT, or an STC (R106)? -/
def Split.midway (p : Split) : Bool := p.walk.isSome || p.stc.any fun r => !r.halted

/-- An STC of a split stops between lanes for a pre-emption: the lanes that have stored go to `%prog` (R106, R331). -/
def Split.stopStc (p : Split) : Split := match p.stc with
  | some r => if r.halted then p else { p with
      stc := some { r with todo := [], halted := true }
      prog := r.done.zeroExtend 64, progValid := true, progPc := p.pc - BitVec.ofNat 64 (4 * p.hints.length) }
  | none => p

/-- The walk of a TCNT of split `n` stops (R106, R371): what it has counted goes to the destination, and its progress to `%prog`; an STC
stops too. -/
def Warp.stopWalk (w : Warp) (n : Nat) : Warp :=
  let w := w.modSplit n Split.stopStc
  match (w.split n).bind (·.walk) with
  | none => w
  | some run =>
    let w1 := w.modSplit n fun p => { p with walk := none }
    match run.above with
    | none => w1
    | some k => ((run.ranges.zip run.counts).foldl (fun w y => w.write n (.slices y.1.1 run.dest 16) y.2) w1).modSplit n fun p =>
        { p with prog := BitVec.ofNat 64 k, progValid := true, progPc := p.pc - BitVec.ofNat 64 (4 * p.hints.length) }

/-- What a warp's splits are midway in stops for a pre-emption (R106). -/
def State.stopWalks (s : State) (wid : Nat) : State :=
  match s.warp? wid with
  | none => s
  | some w =>
    if w.splits.all fun o => (o.map Split.midway).getD false = false then s
    else
      let ds := w.splits.filterMap fun o => (o.bind (·.walk)).map (·.dest)
      (s.modWarp wid fun x => [0, 1, 2, 3].foldl Warp.stopWalk x).dropLatch fun e =>
        e.warp == wid && ds.any fun d => decide (d < e.start + e.width) && decide (e.start < d + 16)

/-! ## Barrier objects (R338 to R347) -/

/-- Which object a reference reaches. -/
inductive BarAt where
  | core (wg index : Nat)
  | net (part : BitVec 2) (ctx : BitVec 6) (place scope : Nat)
  | pod (part : BitVec 2) (dev : BitVec 8) (index : Nat)
  deriving DecidableEq, Repr

/-- Scope code of an object: 0 CORE to 4 POD. -/
def BarAt.scope : BarAt → Nat
  | .core _ _ => 0
  | .net _ _ _ sc => sc
  | .pod _ _ _ => 4

/-- The object that a reference names, by R338 and the table of R339; none where it breaks either. -/
def State.barAt (s : State) (g : Workgroup) (ref : Nat) : Option BarAt :=
  let i := bits ref 0 8
  let dev := bits ref 52 8
  if bits ref 8 44 ≠ 0 ∨ ref.testBit 60 ∨ (bits ref 61 3 ≠ 4 ∧ dev ≠ 0) then none
  else match bits ref 61 3 with
    | 0 => if i < 8 * g.tmpl.barGranules then some (.core g.id i) else none
    | 1 => if i < 64 then some (.net g.part g.ctx (64 * quadOf g.core + i) 1) else none
    | 2 => some (.net g.part g.ctx (4096 + 256 * dieOf g.core + i) 2)
    | 3 => if i < 64 ∧ (s.part g.part).dies.getLsbD (i / 16) then some (.net g.part g.ctx (8192 + i) 3) else none
    | 4 =>
      if 16 ≤ i then none
      else if dev = s.podIndex.toNat then
        if (s.part g.part).dies.getLsbD (i / 4) then some (.net g.part g.ctx (16384 + i) 4) else none
      else some (.pod g.part (BitVec.ofNat 8 dev) i)
    | _ => none

/-- The object itself. -/
def State.bar (s : State) : BarAt → Barrier
  | .core wg i => match s.wg? wg with
    | some g => Sparse.get {} g.bars i
    | none => {}
  | .net p c i _ => Sparse.get {} (s.ctx p c).nets i
  | .pod _ _ _ => {}

def State.setBar (s : State) (b : BarAt) (v : Barrier) : State :=
  match b with
  | .core wg i => s.modWg wg fun g => { g with bars := Sparse.set {} g.bars i v }
  | .net p c i _ => s.modCtx p c fun x => { x with nets := Sparse.set {} x.nets i v }
  | .pod _ _ _ => s

/-- An observation of the completed phase `ph` (R345, R191). -/
def State.observe (s : State) (core : Nat) (b : BarAt) (ph : Nat) : State :=
  let x := s.bar b
  let s1 := s.setBar b { x with owed := if x.owed = 0 then 0 else x.owed - 1 }
  if x.engPhases.contains (BitVec.ofNat 16 ph) then s1.dropCache core else s1.acquire core b.scope

/-- A waiting split goes on behind its run: the counter moves past it, and its marker parks it (R257). Its age counts from cycle `now`
(R97; DEDUCED, log 39). -/
def Split.wake (p : Split) (now : Nat) : Split :=
  { p with
    pc := p.pc + BitVec.ofNat 64 (4 * p.runLen)
    count := p.count + 1
    asked := false
    wait := if p.sw then .marker else .ready
    since := now
    progValid := false
    lifted := false }

/-- Splits parked in BWAIT on an object: warp, split, core, and the phase that each waits on. -/
def State.parkedOn (s : State) (b : BarAt) : List (Nat × Nat × Nat × Nat) :=
  s.warps.flatMap fun w =>
    match s.wg? w.wg with
    | none => []
    | some g => (List.range 4).filterMap fun n =>
      match w.split n with
      | some p => match p.wait with
        | .bwait r ph => if s.barAt g r.toNat = some b then some (w.id, n, w.core, ph.toNat) else none
        | _ => none
      | none => none

/-! ## Frames (R129, R213) -/

/-- Bytes of a split entry of the warp header (R129). -/
def splitEntry : Option Split → List Byte
  | none => List.replicate 32 0
  | some p =>
    leBytes 8 p.pc.toNat ++ leBytes 4 p.mask.toNat ++ [BitVec.ofNat 8 p.wb.toNat, BitVec.ofNat 8 p.progValid.toNat,
      BitVec.ofNat 8 p.defer.length, 0] ++ leBytes 8 p.prog.toNat ++ leBytes 8 p.progPc.toNat

/-- Bytes of a fault record (R129). -/
def FaultRec.bytes (r : FaultRec) : List Byte :=
  [BitVec.ofNat 8 r.code.num, BitVec.ofNat 8 r.rung, r.split, 0] ++ leBytes 4 r.fmask.toNat ++ leBytes 8 r.counter.toNat ++
    leBytes 8 r.addr.toNat ++ leBytes 8 r.detail.toNat ++ List.replicate 32 0

/-- The 256 bytes of a warp header, of the splits given and a record or none (R129). -/
def Warp.header (w : Warp) (g : Workgroup) (sp : List (Option Split)) (r : Option FaultRec) : List Byte :=
  let valid := (List.range 4).foldl (fun m n => if (sp.getD n none).isSome then m + 2 ^ n else m) 0
  leBytes 8 w.serial.toNat ++ leBytes 4 g.num.toNat ++ leBytes 2 w.num ++
    [BitVec.ofNat 8 (slotGroup w.slot), BitVec.ofNat 8 valid] ++ leBytes 2 w.slicesA ++
    [BitVec.ofNat 8 w.tCount, BitVec.ofNat 8 w.cCount, BitVec.ofNat 8 w.hCount, BitVec.ofNat 8 w.prio] ++
    List.replicate 2 0 ++ leBytes 8 w.seed.toNat ++ List.replicate 32 0 ++
    (List.range 4).flatMap (fun n => splitEntry (sp.getD n none)) ++
    (match r with
      | some r => r.bytes
      | none => List.replicate 64 0)

/-- Row pointer of the frame of rung `r` of a warp (R213). -/
def frameAddr (base core slot r : Nat) : Nat := base + 0x1000 + 512 * (512 * core + slot) + 256 * (r - 1)

/-- A split entry read back from frame bytes onto the split it belongs to (R216). A progress record made at another counter is
discarded (R106, R208). -/
def Split.reload (p : Split) (e : List Byte) : Split :=
  let pc := BitVec.ofNat 64 (leNat (e.take 8))
  let at_ := BitVec.ofNat 64 (leNat ((e.drop 24).take 8))
  { p with
    pc := pc
    mask := BitVec.ofNat 32 (leNat ((e.drop 8).take 4))
    wb := BitVec.ofNat 5 ((e.getD 12 0).toNat)
    progValid := (e.getD 13 0).toNat % 2 == 1 && at_ == pc
    prog := BitVec.ofNat 64 (leNat ((e.drop 16).take 8))
    progPc := at_
    hints := [], wait := .ready, out := none }

/-- Stopped splits with the frame's fields of the splits that its valid-split byte names (R216). -/
def reloadAll (sp : List (Option Split)) (frame : List Byte) : List (Option Split) :=
  let v := (frame.getD 15 0).toNat
  (List.range 4).map fun n =>
    match sp.getD n none with
    | some p => if v.testBit n then some (p.reload ((frame.drop (64 + 32 * n)).take 32)) else some p
    | none => none

/-- The splits that a rung stopped, as they stand: results that landed meanwhile are in them. The subject is the one saved at entry,
with the handler's uniform file, bindings and conflicts (R214, R216). -/
def Handler.stopped (h : Handler) (w : Warp) : List (Option Split) :=
  if h.runs = false then w.splits
  else modifyAt (fun o => match h.saved.getD h.subject none, o with
    | some p, some x => some { p with sregs := x.sregs, written := x.written, mconf := x.mconf, tb := x.tb, qb := x.qb }
    | p, _ => p) w.splits h.subject

/-- The trap vector base of a context. -/
def State.vecBase (s : State) (g : Workgroup) : Nat := (s.ctx g.part g.ctx).vecBase.toNat

/-! ## Stopping (R214 step 1) -/

/-- May a split stop now? One parked under the marker or at a fence, or whose outcome is not known, first waits for its
results (R214); so does one that yields under the marker (R257), for which `landed` says that nothing is outstanding. One midway through
an instruction is at no issue boundary: it ends it first, for only a pre-emption halts it there (R106, R214). -/
def Split.canStop (p : Split) (landed : Bool) : Bool :=
  !p.midway && match p.wait with
  | .marker => false
  | .fence _ => false
  | .outcome => false
  | .yield _ _ => !p.sw || landed
  | _ => true

/-- A stopped split: between the words of a run it stops before the first hint (R271). -/
def Split.stop (p : Split) : Split :=
  { p with pc := p.pc - BitVec.ofNat 64 (4 * p.hints.length), hints := [], wait := .stopped, seen := none, asked := false, lifted := false }

/-- Has a split results outstanding? -/
def Warp.resultsOut (w : Warp) (split : Nat) : Bool := w.pending.any fun x => x.split == split

/-- Every split of a warp can stop. -/
def State.canStop (s : State) (w : Warp) : Bool := (List.range 4).all fun n => match w.split n with
  | some p => p.canStop (!w.resultsOut n && s.storesSettled w.id)
  | none => true

/-- A TRAP or BRK whose fault is given up issues again (R427). -/
def Split.retrap (p : Split) : Split := match p.trap with
  | some r => { p with pc := r.again, trap := none }
  | none => p

/-- Splits that a frame left without active lanes: the top deferral entry resumes, or the split becomes free (R103). -/
def Warp.freeEmpty (w : Warp) : Warp :=
  let w1 := { w with splits := w.splits.map fun o => o.bind fun p =>
    if p.mask ≠ 0 then some p
    else match p.defer with
      | (m, pc) :: rest => some { p with mask := m, pc := pc, defer := rest, progValid := false }
      | [] => none }
  if w1.valid.length = 1 then { w1 with splits := w1.splits.map (Option.map fun p => { p with written := 0 }) } else w1

/-- A fault of a warp that cannot be raised now: late stores are late stores again, a TRAP or BRK stays with its split, and another is
held (R210, R427). -/
def Warp.putOff (w : Warp) (r : FaultRec) : Warp :=
  match r.code with
  | .storeLate => { w with late := w.delivering ++ w.late, delivering := [] }
  | .trap => w.modSplit r.split.toNat fun p => { p with trap := some r }
  | .brk => w.modSplit r.split.toNat fun p => { p with trap := some r }
  | _ => { w with held := w.held ++ [r] }

/-- The fault that a warp has raised, and that no rung has taken, is put off. -/
def Warp.unraise (w : Warp) : Warp := match w.raised with
  | some r => ({ w with raised := none }).putOff r
  | none => w

/-- The rungs are climbed past: what a warp holds is given up, its instructions issue again, and late stores stay (R210, R427). -/
def Warp.giveUp (w : Warp) : Warp :=
  let x := w.unraise
  { x with held := [], splits := x.splits.map (Option.map fun p => { p.retrap with wait := .ready, hints := [] }) }

/-- Give up a handler: the splits go back to what its frame in memory says, or, where that cannot be read, to what they
were when they stopped (R212, R215) (DEDUCED, log 73). -/
def State.abandon (s : State) (wid : Nat) : State :=
  match s.warp? wid with
  | none => s
  | some w =>
    match s.wg? w.wg, w.handler with
    | some g, some h =>
      let kept := h.stopped w
      let rd := s.readDirect (w.agent g 0 none) (frameAddr (s.vecBase g) w.core w.slot h.rung) 256
      let sp := match rd.2 with
        | .ok fr => reloadAll kept fr
        | .error _ => kept
      let s1 := rd.1.modWarp wid fun x =>
        let y := x.unraise
        ({ y with
          splits := sp.map (Option.map fun p => { (Split.retrap p) with wait := .stopped })
          late := y.late.map fun (l : Late) => { l with inHandler := false }
          handler := none, held := [] }).freeEmpty
      -- a deferral pop invalidates the operands that the warp holds (R120)
      if sp.any fun o => o.any fun p => p.mask == 0 && !p.defer.isEmpty then s1.dropLatch fun e => e.warp == wid else s1
    | _, _ => s

/-! ## The CONTEXT rung and above (R217, R218) -/

/-- A fault that reaches the PARTITION rung: firmware is to reset the partition (R218). -/
def State.raisePart (s : State) (p : BitVec 2) (r : FaultRec) (m : Summary) : State :=
  s.modPart p fun x => if x.raised.isSome then x else { x with raised := some ({ r with rung := 4 }, m), resetAt := some s.cycle }

/-- Summary of a fault (R217) (DEDUCED, log 37). -/
def summaryOf (r : FaultRec) (origin : Nat) (serial : Word) (ring prologue noWg : Bool) (wg now : Nat) : Summary :=
  { code := BitVec.ofNat 8 r.code.num, origin := BitVec.ofNat 8 origin, pending := true, fromRing := ring,
    fromPrologue := prologue, noWorkgroup := noWg, fmask := r.fmask, serial := serial, counter := r.counter,
    where_ := if r.addr ≠ 0 then r.addr else r.detail, wg := wg, raisedAt := now }

/-- A fault reaches the CONTEXT rung: entered by CONTEXT_RUNG_ENTRY; one raised while the summary is pending, or while
another waits to be entered, climbs straight to the PARTITION rung (R217). -/
def State.raiseCtx (s : State) (p : BitVec 2) (c : BitVec 6) (r : FaultRec) (m : Summary) : State :=
  let x := s.ctx p c
  if x.summary.pending ∨ x.raised.isSome then s.raisePart p r m
  else s.modCtx p c fun x => { x with raised := some ({ r with rung := 3 }, m) }

/-! ## The WORKGROUP rung (R215) -/

/-- Give up the handlers of a workgroup: its splits go on from where they were stopped. -/
def State.abandonWg (s : State) (x : Workgroup) : State :=
  let s1 := ((s.warpsOf x.id).filter fun w => w.handler.isSome).foldl (fun t w => (t.abandon w.id).modWarp w.id fun y =>
    { y with splits := y.splits.map (Option.map fun p => { p with wait := .ready }) }) s
  s1.modWg x.id fun y => { y with handler := none }

/-- A fault above the WARP rung is a fault that the warp at fault has taken: its `%fmask` names the lanes (R115). -/
def State.noteFmask (s : State) (gid : Nat) (r : FaultRec) : State :=
  if r.split = 0xFF then s
  else { s with warps := s.warps.map fun w => if w.wg = gid ∧ w.serial = r.serial then { w with fmask := r.fmask } else w }

/-- The other workgroups of a workgroup's context that run a handler. -/
def State.othersInHandlers (s : State) (g : Workgroup) : List Workgroup :=
  s.wgs.filter fun x => x.id != g.id && x.part == g.part && x.ctx == g.ctx &&
    (x.handler.isSome || (s.warpsOf x.id).any fun w => w.handler.isSome)

/-- Climb from the WORKGROUP rung: every handler of the context is abandoned (R212) (DEDUCED, log 73). The summary names the warp,
the ring and the prologue as the record does (R217). -/
def State.climbCtx (s : State) (gid : Nat) (r : FaultRec) : State :=
  match s.wg? gid with
  | none => s
  | some g =>
    let s0 := (s.othersInHandlers g).foldl State.abandonWg s
    let s1 := (s0.warpsOf gid).foldl (fun t w => t.abandon w.id) s0
    let s2 := s1.modWg gid fun x => { x with raised := none, handler := none }
    let s3 := ((s2.warpsOf gid).foldl (fun t w => t.modWarp w.id Warp.giveUp) s2).noteFmask gid r
    s3.raiseCtx g.part g.ctx r (summaryOf r r.first r.serial (r.split == 0xFF) r.prologue false gid s.cycle)

/-- Write the WORKGROUP frame of each warp; none where a write fails. -/
def State.writeFrames (g : Workgroup) (first : Nat) (r : FaultRec) : List Warp → State → Option State
  | [], s => some s
  | w :: ws, s =>
    let data := w.header g w.splits (if w.id = first then some r else none)
    match s.writeCore (w.agent g 0 none) (frameAddr (s.vecBase g) w.core w.slot 2) data with
    | (s1, .ok _) => State.writeFrames g first r ws s1
    | (_, .error _) => none

/-- The handler split of a warp (R214): the subject's entry, counter at the vector, every lane of the warp. -/
def handlerSplit (p : Split) (vector : Nat) (lanes : BitVec 32) (now : Nat) : Split :=
  { p with pc := BitVec.ofNat 64 vector, mask := lanes, defer := [], prog := 0, progValid := false, progPc := 0,
           hints := [], wait := .ready, out := none, trap := none, seen := none, asked := false, walk := none, stc := none, since := now, lifted := false }

/-- The operands that an earlier handler split of a warp held are dropped where a new one begins (R119). -/
def State.dropOwn (s : State) (wid : Nat) : State := s.dropLatch fun e => e.warp == wid && decide (4 ≤ e.split)

/-- Read the vector of a code for a rung (R213); none where there is no handler. -/
def State.vector (s : State) (ag : Agent) (base rung code : Nat) : Option (State × Nat) :=
  if base = 0 then none
  else match s.readNat ag (base + 0x100 * (rung - 1) + 8 * code) 8 with
    | (s1, .ok v) => if v = 0 then none else some (s1, v)
    | (_, .error _) => none

/-- Can every warp of a workgroup that has not exited stop? -/
def State.wgCanStop (s : State) (gid : Nat) : Bool := (s.warpsOf gid).all fun w => w.exited || s.canStop w

/-- Enter the WORKGROUP rung (R215): the warps stop, each writes its frame, and the handler runs in the lowest-numbered
live warp on its lowest-numbered valid split. Without a handler the fault climbs (R212, R213). -/
def State.enterWg (s : State) (gid : Nat) : State :=
  match s.wg? gid with
  | none => s
  | some g =>
    match g.raised with
    | none => s
    | some r =>
      let s1 := (s.warpsOf gid).foldl (fun t w => t.abandon w.id) s
      let s2 := (s1.warpsOf gid).foldl (fun t w => t.modWarp w.id fun x =>
        let y := x.unraise
        { y with splits := y.splits.map (Option.map Split.stop) }) s1
      let live := (s2.warpsOf gid).filter fun w => !w.exited && !w.valid.isEmpty
      match live.foldl (fun (o : Option Warp) w => match o with
          | some v => if w.num < v.num then some w else some v
          | none => some w) none with
      | none => s2.climbCtx gid r
      | some w =>
        let r2 := { r with rung := 2 }
        let subject := w.valid.headD 0
        match s2.vector (w.agent g subject none) (s2.vecBase g) 2 r.code.num with
        | none => s2.climbCtx gid r
        | some (s3, v) =>
          match State.writeFrames g w.id r2 live s3 with
          | none => s3.climbCtx gid r
          | some s4 =>
            let s5 := live.foldl (fun t x => t.modWarp x.id fun y =>
              { y with handler := some ⟨2, y.valid.headD 0, y.id == w.id, y.splits, s.cycle⟩ }) s4
            let s6 := (s5.noteFmask gid r).modWarp w.id fun y =>
              { y with fmask := r.fmask, frec := some r2, late := y.late.map fun l => { l with inHandler := false }
                       splits := modifyAt (Option.map fun p => handlerSplit p v (liveLanes y.splits) (s.cycle + 1)) y.splits subject }
            (s6.dropOwn w.id).modWg gid fun x => { x with raised := none, handler := some s.cycle }

/-- Raise a fault at the WORKGROUP rung; it is entered at once if every warp can stop, else by WORKGROUP_RUNG_ENTRY. One raised inside
its handler climbs. While an entry is pending no other is raised: a warp's fault is put off (`State.warpEnters`, R427). -/
def State.raiseWg (s : State) (gid : Nat) (r : FaultRec) : State :=
  match s.wg? gid with
  | none => s
  | some g =>
    if g.handler.isSome then s.climbCtx gid r
    else if g.raised.isSome then s
    else
      let s1 := s.modWg gid fun x => { x with raised := some { r with rung := 2 } }
      if s1.running g ∧ s1.wgCanStop gid then s1.enterWg gid else s1

/-! ## The WARP rung (R214) -/

/-- Enter the WARP rung for the fault that a warp has raised: the splits stop, the frame is written, and the handler runs
as the handler split in place of the subject's entry. Without a handler, or where the vector or the frame cannot be
reached, the fault climbs with its own record (R212, R213). -/
def State.enterWarp (s : State) (wid : Nat) : State :=
  match s.warp? wid with
  | none => s
  | some w =>
    match s.wg? w.wg, w.raised with
    | some g, some r =>
      let r1 := { r with rung := 1 }
      let subject := if (w.split r.split.toNat).isSome then r.split.toNat else w.valid.headD 0
      let s1 := s.modWarp wid fun x => { x with raised := none, delivering := [], splits := x.splits.map (Option.map Split.stop) }
      match s1.vector (w.agent g subject none) (s1.vecBase g) 1 r.code.num with
      | none => s1.raiseWg g.id r
      | some (s2, v) =>
        match s2.warp? wid with
        | none => s2
        | some w2 =>
          match s2.writeCore (w.agent g subject none) (frameAddr (s2.vecBase g) w.core w.slot 1)
              (w2.header g w2.splits (some r1)) with
          | (s3, .error _) => s3.raiseWg g.id r
          | (s3, .ok _) => (s3.dropOwn wid).modWarp wid fun x =>
            { x with
              fmask := r.fmask, frec := some r1, late := x.late.map fun l => { l with inHandler := false }
              handler := some ⟨1, subject, true, x.splits, s.cycle⟩
              splits := modifyAt (Option.map fun p => handlerSplit p v (liveLanes x.splits) (s.cycle + 1)) x.splits subject }
    | _, _ => s

/-- A fault of the handler split climbs from the handler's rung to the next one (R212). A failed RETT is first raised there, another
fault at its own first rung, WARP (R209). -/
def State.climbFrom (s : State) (gid : Nat) (h : Handler) (r : FaultRec) : State :=
  if h.rung = 1 then s.raiseWg gid r else s.climbCtx gid r

/-- Is the fault that a warp has raised to be taken now: its context runs, and every split can stop, or the handler split itself is
at fault (R214, R223)? -/
def State.warpDue (s : State) (w : Warp) : Bool :=
  w.raised.isSome && (s.wg? w.wg).any s.running && match w.handler with
    | some h => h.runs
    | none => s.canStop w

/-- The fault that a warp has raised is taken once it can be: its WARP rung is entered, or, out of a handler, it climbs; while its
context is not running it waits (R214, R223), and while its workgroup's rung is being entered it is put off, a handler's own with the
handler that the entry gives up (R212, R427). -/
def State.warpEnters (s : State) (wid : Nat) : State :=
  match s.warp? wid with
  | none => s
  | some w =>
    if s.warpDue w then
      if (s.wg? w.wg).any fun g => g.raised.isSome then s.modWarp wid Warp.unraise
      else match w.handler, w.raised with
        | some h, some r => (s.modWarp wid fun x => { x with raised := none, delivering := [] }).climbFrom w.wg h r
        | _, _ => s.enterWarp wid
    else s

/-- TAKING AN EXCEPTION (R205, R212, R214, R427): split `id` stops with its counter at `stop`, and the record `r` is
raised at the WARP rung. A fault of the handler split itself climbs to the rung above; a fault of a stopped split while a
rung is being entered or its handler runs is held. While the context halts, the fault waits for its resumption (R223). -/
def State.takeFault (s : State) (id : SplitId) (stop : Word) (r : FaultRec) : State :=
  match s.warp? id.warp with
  | none => s
  | some w =>
    match s.wg? w.wg with
    | none => s
    | some g =>
      let r := { r with split := if r.split = 0xFF then 0xFF else BitVec.ofNat 8 id.split, serial := w.serial }
      let s1 := s.modSplit id fun p => { p with pc := stop, hints := [], wait := .stopped, out := none, seen := none, asked := false, walk := none, stc := none, lifted := false }
      match w.handler with
      | some h =>
        if h.runs ∧ h.subject = id.split then
          (s1.modWarp w.id fun x => { x with raised := some r }).warpEnters w.id
        else s1.modWarp w.id fun x => { x with held := x.held ++ [r] }
      | none =>
        if w.raised.isSome ∨ g.raised.isSome ∨ g.handler.isSome then s1.modWarp w.id fun x => x.putOff r
        else
          let s2 := s1.modWarp w.id fun x => { x with raised := some r }
          s2.warpEnters w.id

/-- The fault that split `n` of a warp holds: that of a TRAP or BRK behind which it stands, or one decided while a rung ran (R427). -/
def Warp.heldBy (w : Warp) (n : Nat) : Option FaultRec :=
  (w.split n).bind fun p => p.trap.orElse fun _ => w.held.find? fun r => r.split.toNat == n

/-- Raise the fault that split `n` of a warp holds (R427). -/
def State.raiseAt (s : State) (wid n : Nat) : State :=
  match s.warp? wid with
  | none => s
  | some w =>
    match w.split n, w.heldBy n with
    | some p, some r =>
      (s.modWarp wid fun x =>
        { (x.modSplit n fun p => { p with trap := none }) with held := x.held.filter (· != r) }).takeFault ⟨wid, n⟩ p.pc r
    | _, _ => s

/-- Raise the first of the faults that a warp holds, by split number; one of a split that is valid no longer is gone with it (R427). -/
def State.raiseHeld (s : State) (wid : Nat) : State :=
  match s.warp? wid with
  | none => s
  | some w =>
    let s1 := s.modWarp wid fun x => { x with held := x.held.filter fun r => (w.split r.split.toNat).isSome }
    match (List.range 4).find? fun n => (w.heldBy n).isSome with
    | none => s1
    | some n => s1.raiseAt wid n

/-! ## Parked splits (R257, R210) -/

/-- The split that holds the lanes of a late store, or split 0 (R210); where split 0 is not valid, the parked split
(DESIGN CHOICE, log 10). -/
def Warp.holder (w : Warp) (lanes : BitVec 32) (parked : Nat) : Nat :=
  match (List.range 4).find? fun n => match w.split n with
      | some p => (p.lanesAll &&& lanes) != 0
      | none => false with
  | some n => n
  | none => if (w.split 0).isSome then 0 else parked

/-- May late stores be delivered at a marker or fence of split `n`? Those of a handler may, those of the stopped code not before the
handler has returned (R210, R427). -/
def State.mayDeliver (s : State) (w : Warp) (n : Nat) : Bool :=
  w.inHandler n || (w.raised.isNone && w.handler.isNone && (s.wg? w.wg).all fun g => g.raised.isNone && g.handler.isNone)

/-- The late stores that a marker or fence of split `n` delivers: a handler's own, those of the stopped code, or, with no handler, all. -/
def Warp.lateAt (w : Warp) (n : Nat) : List Late :=
  if w.handler.isNone then w.late else w.late.filter fun l => l.inHandler == w.inHandler n

/-- Deliver the late stores of a warp at a marker or fence where split `n` stands behind its instruction (R210): the split that holds
the lanes takes the fault, once it and the others have stopped (R214). -/
def State.deliverLate (s : State) (wid n : Nat) : State :=
  match s.warp? wid with
  | none => s
  | some w =>
    let inH := w.inHandler n
    let ls := w.lateAt n
    match ls with
    | [] => s
    | l :: rest =>
      let r : FaultRec :=
        { code := .storeLate, split := BitVec.ofNat 8 (if inH then n else w.holder l.lanes n), fmask := l.lanes, counter := l.pc
          addr := l.addr, detail := BitVec.ofNat 64 (l.cause.num + 256 * min 255 rest.length + 2 ^ 16 * w.num), serial := w.serial }
      let s1 := s.modSplit ⟨wid, n⟩ fun p => { p with wait := .ready, since := s.cycle + 1 }
      (s1.modWarp wid fun x => { x with late := x.late.filter (!ls.contains ·), delivering := ls, raised := some r }).warpEnters wid

/-- Unpark split `n` of a warp if what it waits for has come (R257, R210, R334). -/
def State.unpark1 (s : State) (wid n : Nat) : State :=
  match s.warp? wid with
  | none => s
  | some w =>
    match w.split n with
    | none => s
    | some p =>
      let go := match p.wait with
        | .marker => !w.resultsOut n && s.storesSettled wid
        | .fence _ => s.storesSettled wid && (!p.sw || !w.resultsOut n)
        | _ => false
      if go then
        let s := if p.wait = .fence true then s.dropCache w.core else s
        if s.mayDeliver w n && !(w.lateAt n).isEmpty then s.deliverLate wid n
        else
          let s1 := s.modSplit ⟨wid, n⟩ fun p => { p with wait := .ready, since := s.cycle + 1 }
          if s.mayDeliver w n && p.trap.isSome then s1.raiseAt wid n else s1.warpEnters wid
      else if p.wait = .results then s.modSplit ⟨wid, n⟩ fun p => { p with wait := .ready, since := s.cycle + 1 }
      else s

/-- After a result has landed or a store has settled: the splits of the warp that can go on do. -/
def State.unpark (s : State) (wid : Nat) : State := ((List.range 4).foldl (fun t n => t.unpark1 wid n) s).warpEnters wid

/-- Is a split parked, under the switch marker or at a fence? -/
def Split.parked (p : Split) : Bool := match p.wait with
  | .marker => true
  | .fence _ => true
  | _ => false

/-- Parked splits for which everything has come go on, at the end of a step: no instruction is under way then, so that every split stands
at an issue boundary (R210, R214, R257). -/
def State.unparkDue (s : State) : State :=
  (s.warps.flatMap fun w => w.valid.map fun n => (w.id, n)).foldl (fun t x =>
    if ((t.warp? x.1).bind fun w => w.split x.2).any Split.parked then t.unpark1 x.1 x.2 else t) s

/-- Splits of a warp that waited for a result or for an answer may try again. -/
def State.wakeResults (s : State) (wid : Nat) : State :=
  s.modWarp wid fun w => { w with splits := w.splits.map (Option.map fun p =>
    if p.wait = .results then { p with wait := .ready, since := s.cycle + 1 } else p) }

/-- A split's own wait is over: it is ready, or parked under the marker of the instruction it waited at. -/
def Split.goOn (p : Split) (now : Nat) : Split :=
  { p with wait := if p.sw then .marker else .ready, since := now, lifted := false }

/-- A waiting split goes on as `f` says; where its instruction carries the switch marker it parks under it, until the step's end at the
least (`State.unparkDue`), and the operands that its slot-group held are dropped (R120, R257). -/
def State.resume (s : State) (id : SplitId) (f : Split → Split) : State :=
  let s1 := s.modSplit id f
  match s.warp? id.warp with
  | some w => match w.split id.split with
    | some p => if p.sw then s1.dropLatch fun e => e.core == w.core && e.group == slotGroup w.slot else s1
    | none => s1
  | none => s1

/-! ## Barrier objects: completion (R343, R344) -/

/-- Release every split parked in BWAIT on an object; `seen` makes each an observation. -/
def State.releaseParked (s : State) (b : BarAt) (seen : Bool) : State :=
  (s.parkedOn b).foldl (fun t x =>
    let t1 := if seen then t.observe x.2.2.1 b x.2.2.2 else t
    t1.resume ⟨x.1, x.2.1⟩ fun p => p.wake (t1.cycle + 1)) s

/-- The completion test of R344 after an arrival, a withdrawal, a BEXP or a delivery. -/
def State.testBar (s : State) (b : BarAt) : State :=
  let x := s.bar b
  if x.init ∧ x.arrived = x.expected ∧ x.pending.toInt ≤ 0 then
    let y := { x with
      last := x.current ||| (if x.pending.toInt < 0 then 0x17000000#32 else 0)
      current := 0, pending := 0, arrived := 0
      owner := if x.fixed then x.owner else 0
      owed := x.registered
      phase := x.phase + 1
      engPhases := (if x.engNow then [x.phase] else []) ++ x.engPhases.filter (· != x.phase + 1), engNow := false, from_ := [], fromLast := x.from_ }
    (s.setBar b y).releaseParked b true
  else s

/-- A warp withdraws from the AUTO objects of its workgroup (R343). The last one to leave completes no phase, as R377 counts them
(DEDUCED, log 77). -/
def State.withdraw (s : State) (g : Workgroup) (num : Nat) : State :=
  g.bars.foldl (fun t e =>
    let b := BarAt.core g.id e.1
    let x := t.bar b
    if x.init ∧ x.fixed = false then
      let y := if x.owner.getLsbD num then
          { x with owner := x.owner &&& ~~~(1#64 <<< num), arrived := x.arrived - 1, expected := x.expected - 1 }
        else { x with expected := x.expected - 1 }
      let t1 := t.setBar b y
      if y.expected = 0 then t1 else t1.testBar b
    else t) s

/-- An engine delivers bytes and status bits into an object (R344). `rowDest` says that its destination lies in row
storage (R191). -/
def State.deliver (s : State) (b : BarAt) (bytes : Nat) (status : BitVec 32) (rowDest : Bool) : State :=
  let x := s.bar b
  let y := { x with
    pending := x.pending - BitVec.ofNat 32 bytes
    current := x.current ||| status
    engNow := x.engNow || rowDest }
  (s.setBar b y).testBar b

/-! ## Results that land (R256) -/

/-- A result of a warp lands (R256): the oldest of those at its place. One whose lane has exited meanwhile lands too (DESIGN CHOICE,
log 103). -/
def State.landAt (s : State) (wid k : Nat) : State :=
  let s0 := s.bindAt wid k
  match s0.warp? wid with
  | none => s0
  | some w =>
    match w.pending[k]? with
    | none => s0
    | some x =>
      ((s0.modWarp wid fun w => { (w.land x.split x.dest x.value) with pending := removeAt w.pending k }).latchLanded wid
        x.dest).unpark wid

/-! ## Waiting for other splits (R280, R281) -/

/-- The join point that a split waits for (R280). -/
def Split.joins (p : Split) : Option Word := match p.wait with
  | .joinw j => some j
  | _ => none

/-- When every valid split of a warp waits at a JOINW for one join point, they all go there (R280). -/
def State.joinCheck (s : State) (wid : Nat) : State :=
  match s.warp? wid with
  | none => s
  | some w =>
    match w.splits.filterMap id with
    | [] => s
    | p :: ps =>
      match p.joins with
      | none => s
      | some j =>
        if ps.all fun q => q.joins == some j then
          (List.range 4).foldl (fun t n => t.resume ⟨wid, n⟩ fun q => { q.goOn (s.cycle + 1) with pc := j, count := q.count + 1 }) s
        else s

/-- A split that yields goes on once each split it waits for has issued or is no longer valid (R281). `issued` names one
that issues. -/
def State.yieldSweep (s : State) (issued : Option SplitId) : State :=
  let left := fun (x : Nat × Nat) => (issued != some ⟨x.1, x.2⟩) &&
    match s.warp? x.1 with
    | some w => (w.split x.2).isSome
    | none => false
  s.warps.foldl (fun t w => (List.range 4).foldl (fun t n =>
    match w.split n with
    | some p => match p.wait with
      | .yield d os =>
        let os' := os.filter left
        if os'.isEmpty then t.resume ⟨w.id, n⟩ fun p => p.goOn (s.cycle + 1)
        else if os' = os then t
        else t.modSplit ⟨w.id, n⟩ fun p => { p with wait := .yield d os' }
      | _ => t
    | none => t) t) s

/-! ## Ending lanes and warps (R103, R211, R282) -/

/-- The record of a retired-warp ring entry (R211): split 0xFF. -/
def Retired.fault (e : Retired) : FaultRec :=
  { code := .storeLate, first := 2, split := 0xFF, fmask := e.lanes, counter := e.pc, addr := e.addr,
    detail := BitVec.ofNat 64 (e.cause.num + 2 ^ 16 * e.num), serial := e.serial }

/-- An entry of the retired-warp ring is raised and leaves the ring when its rung takes it: at the WORKGROUP rung while
its workgroup has a warp that has not exited, else at the CONTEXT rung (R211). While that rung has a fault in hand the
entry stays (DEDUCED, log 25). -/
def State.takeRetired1 (s : State) (x : Nat × Retired) : State :=
  let e := x.2
  let out := { s with retired := s.retired.erase x }
  let k := s.ctx e.part e.ctx
  let climb := out.raiseCtx e.part e.ctx e.fault (summaryOf e.fault 3 e.serial true false false e.wg s.cycle)
  if k.summary.pending ∨ k.raised.isSome then s
  else match s.wg? e.wg with
  | none => climb
  | some g =>
    if 0 < g.live then (if g.raised.isSome ∨ g.handler.isSome then s else out.raiseWg g.id e.fault)
    else climb

/-- Every entry of the ring whose rung is free is raised, the oldest first. -/
def State.raiseRetired (s : State) : State := s.retired.foldl (fun t x => t.takeRetired1 x) s

/-- A warp whose entries are all free leaves once its stores are settled (R211): undelivered late stores enter the core's
ring as far as it has room; with none left, the warp has exited, and its AUTO barriers go on without it (R343). -/
def State.leave (s : State) (wid : Nat) : State :=
  match s.warp? wid with
  | none => s
  | some w =>
    match s.wg? w.wg with
    | none => s
    | some g =>
      if w.exited ∨ ¬ w.valid.isEmpty ∨ s.storesSettled wid = false then s
      else
        let room := 64 - (s.retired.filter fun r => r.1 == w.core).length
        let ring : List (Nat × Retired) := (w.late.take room).map fun l =>
          (w.core, ⟨g.part, g.ctx, w.serial, l.pc, l.addr, l.lanes, l.cause, g.id, g.num, w.num⟩)
        let s1 : State := { s with retired := s.retired ++ ring }
        if room < w.late.length then s1.modWarp wid fun x => { x with late := x.late.drop room }
        else
          let s2 := s1.modWarp wid fun x => { x with exited := true, late := [], pending := [] }
          let s3 := (s2.modWg g.id fun x => { x with live := x.live - 1 }).withdraw g w.num
          -- the last warp is gone: a fault that its workgroup still had to take goes on to the CONTEXT rung
          match g.raised with
          | some r => if g.live ≤ 1 then s3.climbCtx g.id r else s3
          | none => s3

/-- Raise the entries of the ring whose rung is free, and let warps that a full ring kept go on leaving, as often as that brings in
entries (R211). The fuel is the number of warps and one. -/
def State.takeRetiredGo : Nat → State → State
  | 0, s => s
  | n + 1, s =>
    let s1 := s.raiseRetired
    let s2 := (s1.warps.filter fun w => !w.late.isEmpty && w.valid.isEmpty && !w.exited).foldl (fun t w => t.leave w.id) s1
    if s2.retired = s1.retired then s2 else State.takeRetiredGo n s2

/-- The retired-warp rings go on as far as they can (R211). -/
def State.takeRetired (s : State) : State := State.takeRetiredGo (s.warps.length + 1) s

/-- A warp exits if it can, and what it leaves in its core's ring is raised at once (R211). -/
def State.tryExit (s : State) (wid : Nat) : State := (s.leave wid).takeRetired

/-- A split without active lanes resumes its top deferral entry or becomes free (R103). -/
def State.emptied (s : State) (id : SplitId) : State :=
  match (s.warp? id.warp).bind fun w => w.split id.split with
  | none => s
  | some p =>
    if p.mask ≠ 0 then s
    else match p.defer with
      | (m, pc) :: rest =>
        (s.modSplit id fun p => { p with mask := m, pc := pc, defer := rest, progValid := false }).dropLatch fun e => e.warp == id.warp
      | [] =>
        let s1 := s.modWarp id.warp fun w =>
          let w1 := w.setSplit id.split none
          if w1.valid.length = 1 then { w1 with splits := w1.splits.map (Option.map fun p => { p with written := 0 }) } else w1
        ((s1.tryExit id.warp).joinCheck id.warp).yieldSweep none

/-! ## Returning (R216) -/

/-- What RETT finds wrong with a warp's frame: 1 a named split was not valid at entry, 2 masks overlap or name lanes
that are deferred or not live, 3 a counter is not 4-byte aligned. -/
def rettCause (saved : List (Option Split)) (frame : List Byte) : Option Nat :=
  let v := (frame.getD 15 0).toNat % 16
  let named := (List.range 4).filter fun n => v.testBit n
  let new := reloadAll saved frame
  let masks := new.filterMap (Option.map (·.mask))
  let deferred := saved.foldl (fun m o => match o with
    | some p => p.defer.foldl (fun a d => a ||| d.1) m
    | none => m) 0
  let sum := masks.foldl (fun a m => a + popcount m.toNat 32) 0
  let union := masks.foldl (fun a m => a ||| m) (0 : BitVec 32)
  if named.any fun n => (saved.getD n none).isNone then some 1
  else if sum ≠ popcount union.toNat 32 ∨ (union &&& deferred) ≠ 0 ∨ (union &&& ~~~(liveLanes saved)) ≠ 0 then some 2
  else if new.any fun o => match o with
    | some p => p.pc.toNat % 4 != 0
    | none => false then some 3
  else none

/-- Frames of the warps that the rung of a handler stopped, read from memory. -/
def State.readFrames (g : Workgroup) (rung : Nat) :
    List Warp → State → List (Warp × List Byte) → State × Except MErr (List (Warp × List Byte))
  | [], s, acc => (s, .ok acc.reverse)
  | w :: ws, s, acc =>
    match s.readDirect (w.agent g 0 none) (frameAddr (s.vecBase g) w.core w.slot rung) 256 with
    | (s1, .ok fr) => State.readFrames g rung ws s1 ((w, fr) :: acc)
    | (s1, .error e) => (s1, .error e)

/-- RETURNING FROM A HANDLER (R216): every split of every warp that the rung stopped is reloaded from the frame in memory
and made ready, one without lanes resumes a deferral or becomes free (R103), and the faults held are raised; a frame that fails its
checks makes the RETT a fault in the handler (DEDUCED, log 44). -/
def State.returnFrom (s : State) (id : SplitId) (pc : Word) (word : IWord) : State :=
  -- the handler's own stores come first
  let s := s.drain id.warp 0xFFFFFFFF
  match s.warp? id.warp with
  | none => s
  | some w =>
    match s.wg? w.wg, w.handler with
    | some g, some h =>
      let ws := if h.rung = 1 then [w] else (s.warpsOf g.id).filter fun x => x.handler.isSome
      match State.readFrames g h.rung ws s [] with
      | (s1, .error e) => s1.takeFault id pc { code := e.code, fmask := (w.split id.split).elim 0 (·.mask), counter := pc, detail := BitVec.ofNat 64 e.detail }
      | (s1, .ok frs) =>
        match frs.findSome? fun x => match x.1.handler with
            | some k => rettCause (k.stopped x.1) x.2
            | none => none with
        | some cause => s1.takeFault id pc
            { code := .illegalOp, first := h.rung + 1, fmask := (w.split id.split).elim 0 (·.mask), counter := pc,
              detail := BitVec.ofNat 64 (word.toNat + 2 ^ 32 * cause) }
        | none =>
          let s2 := frs.foldl (fun t x => t.modWarp x.1.id fun y =>
            match y.handler with
            | some k => { y with
                splits := (reloadAll (k.stopped y) x.2).map (Option.map fun p => { p with wait := .ready, since := s.cycle + 1, hints := [] })
                handler := none }
            | none => y) s1
          let s3 := if h.rung = 2 then s2.modWg g.id fun x => { x with handler := none } else s2
          let s4 := ws.foldl (fun t x => (List.range 4).foldl (fun t n => t.emptied ⟨x.id, n⟩) t) s3
          ws.foldl (fun t x => t.raiseHeld x.id) s4
    | _, _ => s

/-! ## Forks and merges (R102, R104, R123) -/

/-- The lowest free split number. -/
def Warp.freeSplit (w : Warp) : Option Nat := (List.range 4).find? fun n => (w.split n).isNone

/-- Merged uniform registers (R123): X's values, those only Y wrote, and on a conflict those of the split with the lower
lane. -/
def mergeUregs (x y : Split) : Sparse Word × Word :=
  let xLow := decide ((lowestLane x.mask).getD 32 < (lowestLane y.mask).getD 32)
  (List.range 64).foldl (fun acc n =>
    let wx := x.written.getLsbD n
    let wy := y.written.getLsbD n
    let vx := x.ureg n
    let vy := y.ureg n
    if wx && wy then
      if vx = vy then acc else (Sparse.set 0 acc.1 n (if xLow then vx else vy), acc.2 ||| (1#64 <<< n))
    else if wy then (Sparse.set 0 acc.1 n vy, acc.2)
    else acc) (x.sregs, x.mconf ||| y.mconf)

/-- Bindings at a merge take the value of the split with the lower lane (R294, R362). -/
def mergeSplits (x y : Split) : Split :=
  let u := mergeUregs x y
  let xLow := decide ((lowestLane x.mask).getD 32 < (lowestLane y.mask).getD 32)
  { x with
    mask := x.mask ||| y.mask
    defer := if x.defer.isEmpty then y.defer else x.defer
    sregs := u.1, mconf := u.2, written := x.written ||| y.written
    tb := if xLow then x.tb else y.tb
    qb := if xLow then x.qb else y.qb }

/-- May Y merge into X (R104)? -/
def Warp.mergeable (w : Warp) (nx ny : Nat) : Bool :=
  match w.split nx, w.split ny with
  | some x, some y =>
    x.pc == y.pc && x.wb == y.wb && !w.resultsOut nx && !w.resultsOut ny && x.wait == .ready && y.wait == .ready &&
    !x.progValid && !y.progValid && x.walk.isNone && y.walk.isNone && x.stc.isNone && y.stc.isNone && x.seen.isNone && y.seen.isNone && !x.asked && !y.asked && (x.defer.isEmpty || y.defer.isEmpty) && x.hints.isEmpty && y.hints.isEmpty
  | _, _ => false

/-- Merge into split `n` every other valid split that may, in ascending number; the number of the merged split. -/
def Warp.mergeInto (w : Warp) (n : Nat) : Warp × Nat :=
  [0, 1, 2, 3].foldl (fun (a : Warp × Nat) m =>
    if m ≠ a.2 ∧ a.1.mergeable a.2 m then
      match a.1.split a.2, a.1.split m with
      | some x, some y =>
        let lo := min a.2 m
        let hi := max a.2 m
        let w1 : Warp := (a.1.setSplit hi none).setSplit lo (some { mergeSplits x y with since := x.since, lifted := x.lifted })
        let w2 : Warp := { w1 with pending := w1.pending.map fun q => if q.split = hi then { q with split := lo } else q }
        (if w2.valid.length = 1 then { w2 with splits := w2.splits.map (Option.map fun p => { p with written := 0 }) } else w2, lo)
      | _, _ => a
    else a) (w, n)

/-- Pop the deferral entries whose target is the counter (R103). The fuel is the depth of the stack. -/
def Split.popDue : Nat → Split → Split
  | 0, p => p
  | n + 1, p =>
    match p.defer with
    | (m, pc) :: rest => if pc = p.pc then Split.popDue n { p with mask := p.mask ||| m, defer := rest } else p
    | [] => p

/-! ## What the issuing split has done -/

/-- The issuing split and what stands around it, as at issue. -/
structure Issue where
  id : SplitId
  w : Warp
  g : Workgroup
  p : Split
  /-- address of the instruction word -/
  pc : Word
  /-- address of the first word of its run -/
  start : Word
  sw : Bool
  deriving DecidableEq, Repr

/-- The split that `cur` names, with its surroundings. -/
def State.issue? (s : State) (sw : Bool) : Option Issue :=
  match s.cur with
  | none => none
  | some id =>
    match s.warp? id.warp with
    | none => none
    | some w =>
      match s.wg? w.wg, w.split id.split with
      | some g, some p => some ⟨id, w, g, p, p.pc, p.pc - BitVec.ofNat 64 (4 * p.hints.length), sw⟩
      | _, _ => none

/-- Number of valid splits above one: the written mask records (R122). -/
def Issue.many (c : Issue) : Bool := decide (1 < c.w.valid.length)

/-- The agent of the issuing split. -/
def Issue.agent (c : Issue) (lane : Option Nat) : Agent := c.w.agent c.g c.id.split lane

/-- The issuing split stands behind its instruction, at `target`: ready, or, under the marker, parked, with the operands that its
slot-group held dropped (R120, R257). -/
def State.stepTo (s : State) (c : Issue) (target : Word) : State :=
  let s1 := s.modSplit c.id fun p =>
    { p with pc := target, hints := [], progValid := false, seen := none, asked := false, walk := none, stc := none, count := p.count + 1,
             since := s.cycle + 1, lifted := false, wait := if c.sw then .marker else .ready }
  if c.sw then s1.dropLatch fun e => e.core == c.w.core && e.group == slotGroup c.w.slot else s1

/-- The issuing split goes on at `target`; under the marker it parks until its results have landed (R257). -/
def State.goTo (s : State) (c : Issue) (target : Word) : State :=
  if c.sw then (s.stepTo c target).unpark c.id.warp else s.stepTo c target

/-- The instruction is complete and the counter advances by 4 (R276). -/
def State.complete (s : State) (c : Issue) : State := s.goTo c (c.pc + 4)

/-- The issuing split waits at its instruction (R129): the counter stays at the first word of the run. -/
def State.waitAt (s : State) (c : Issue) (w : Wait) : State :=
  s.modSplit c.id fun p =>
    { p with pc := c.start, hints := [], wait := w, runLen := p.hints.length + 1, sw := c.sw, since := s.cycle + 1, lifted := false }

/-- A release of the issuing split's lanes: they have performed everything before it goes on as `k` says. While a store of theirs to
a peer, or to the host, has no answer yet, or another waits for that, the split waits at the instruction (R192, R193, R197, R328). -/
def State.afterStores (s : State) (c : Issue) (lanes : BitVec 32) (k : State → State) : State :=
  let s1 := s.drain c.id.warp lanes
  if s1.unperformed c.id.warp lanes then s1.waitAt c .results else k s1

/-- A TRAP or BRK raises its fault behind the instruction (R205, R283); under the marker its split first parks until its results have
landed, and the late stores of its warp are delivered there (R210, R257). -/
def State.trapAt (s : State) (c : Issue) (r : FaultRec) : State :=
  let r1 := { r with again := c.start }
  if c.sw then (s.modSplit c.id fun p => { p with trap := some { r1 with split := BitVec.ofNat 8 c.id.split, serial := c.w.serial } }).complete c
  else (s.modSplit c.id fun p => { p with count := p.count + 1 }).takeFault c.id (c.pc + 4) r1

/-- A release at a scope code by lanes of the issuing split, which then goes on as `k` says: their accesses are performed, and at DIE or
wider the quad unit writes back (R188, R193). -/
def State.releaseTo (s : State) (c : Issue) (lanes : BitVec 32) (scope : Nat) (k : State → State) : State :=
  s.afterStores c lanes fun t => k (if 2 ≤ scope then t.writeBack (quadOf c.w.core) else t)

/-- A precise fault of the issuing split: it stops at the first word of the run (R271); the record names the
instruction. -/
def State.faultAt (s : State) (c : Issue) (code : FaultCode) (lanes : BitVec 32) (addr : Word) (detail : Nat) : State :=
  s.takeFault c.id c.start { code := code, fmask := lanes, counter := c.pc, addr := addr, detail := BitVec.ofNat 64 detail }

/-- Lanes of a precise instruction that end in a fault, with the record that each would have. -/
abbrev LaneFaults := List (Nat × FaultRec)

/-- The lanes' fault with the lowest lane (R208). -/
def firstFault (fs : LaneFaults) : Option FaultRec :=
  (fs.foldl (fun (o : Option (Nat × FaultRec)) x => match o with
    | some y => if x.1 < y.1 then some x else some y
    | none => some x) none).map (·.2)

/-- A precise instruction whose outcome is known in every lane: complete, or stop with the progress record of R208.
`done` names the lanes that completed, those of an earlier attempt included; active lanes that its guard kept from executing do not
count among them (DESIGN CHOICE, log 98). -/
def State.outcome (s : State) (c : Issue) (done : BitVec 32) (fs : LaneFaults) : State :=
  match firstFault fs with
  | none => s.complete c
  | some r =>
    let s1 := if done = 0 then s
      else s.modSplit c.id fun p => { p with prog := done.zeroExtend 64, progValid := true, progPc := c.start }
    s1.takeFault c.id c.start { r with fmask := maskOf (fs.map (·.1)), counter := c.pc }

/-- A precise instruction with lanes whose outcome is not known yet: the split waits (R206). -/
def State.awaitOutcome (s : State) (c : Issue) (waiting done : BitVec 32) (fs : LaneFaults) : State :=
  if waiting = 0 then s.outcome c done fs
  else
    (s.waitAt c .outcome).modSplit c.id fun p => { p with out := some ⟨waiting, done, fs, c.sw⟩ }

/-- The outcome of one lane of a waiting instruction arrives (R206, R208); lane 32 stands for a uniform instruction, whose
fault names the active mask (DEDUCED, log 15). -/
def State.laneOutcome (s : State) (id : SplitId) (lane : Nat) (f : Option FaultRec) : State :=
  match s.warp? id.warp with
  | none => s
  | some w =>
    match s.wg? w.wg, w.split id.split with
    | some g, some p =>
      match p.out with
      | none => s
      | some o =>
        let m := if lane = 32 then o.waiting else 1#32 <<< lane
        let o' := { o with
          waiting := o.waiting &&& ~~~m
          done := if f.isNone then o.done ||| m else o.done
          faults := match f with
            | some r => o.faults ++ (if lane = 32 then (lanesOf p.mask).map fun l => (l, r) else [(lane, r)])
            | none => o.faults }
        let s1 := s.modSplit id fun p => { p with out := some o' }
        if o'.waiting ≠ 0 then s1
        else
          let c : Issue := ⟨id, w, g, p, p.pc + BitVec.ofNat 64 (4 * (p.runLen - 1)), p.pc, o.sw⟩
          let s2 := (s1.modSplit id fun p => { p with out := none, wait := .ready }).outcome c o'.done o'.faults
          s2.warpEnters id.warp
    | _, _ => s

/-- Splits that waited for room in a queue or a table may try again (R96). -/
def State.freeFull (s : State) : State :=
  { s with warps := s.warps.map fun w => { w with splits := w.splits.map (Option.map fun p =>
      if p.wait = .full then { p with wait := .ready, since := s.cycle + 1 } else p) } }

end Sys2Proof.Machine
end

