-- ==== Sys2Proof/Machine/Operands.lean ====
section
/-! DEFINITION. Operand forms and the issue of a coded instruction: what a word reads, names and may be preceded by, the
checks of R273 in their order, the interlock of R259, the hazards of R256 and R258, the guard of R270, the hold of R119,
and the writing of results. -/
namespace Sys2Proof.Machine

/-- W codes of a floating-point format (R260), element codes of one (R262, R312), and the control registers that R290
assigns, as the meanings check them. -/
def fmtW (w : BitVec 3) : Bool := isFmt w
def floatCode (x : BitVec 4) : Bool := isFloatCode x
def csrCode (c : BitVec 12) : Bool := isCsr c

/-- What one word says about its operands. Slice operands are (field, width in slices). -/
structure Uses where
  /-- no reserved code or bit pattern (R272) -/
  okOp : Bool := true
  /-- W and element codes allowed (R272) -/
  okWidth : Bool := true
  /-- hint kinds that fit, CHECK always among them (R269) -/
  fits : List Nat := []
  /-- the instruction's own immediate is zero (R270) -/
  immZero : Bool := true
  /-- rounding code 4 is allowed (R230) -/
  srOk : Bool := true
  /-- orderings allowed under HINT.ORD, and the scope they must name if it is fixed (R189, R270) -/
  ords : List Nat := []
  ordScope : Option Nat := none
  /-- the G field of a MEM or ATOM word (R264) -/
  guard : Option (BitVec 3) := none
  /-- slice operands in the order of the word -/
  vs : List (Nat × Nat) := []
  /-- those read in executing lanes, those read in the lanes `allLanes`, executing or not (R305), and those read in lane `lane1`
  alone -/
  src : List (Nat × Nat) := []
  srcAll : List (Nat × Nat) := []
  allLanes : BitVec 32 := 0xFFFFFFFF
  src1 : List (Nat × Nat) := []
  lane1 : Nat := 0
  /-- no hazard is raised (PREF, R333) -/
  unchecked : Bool := false
  /-- only the lowest active lane is read (VTOS, R288) -/
  lowestOnly : Bool := false
  uregs : List Nat := []
  preds : List Nat := []
  tbs : List Nat := []
  /-- the split must have no uniform result pending (R259, CBR) -/
  allUregs : Bool := false
  tiles : List Nat := []
  accs : List Nat := []
  shapes : List Nat := []
  /-- an access of memory, which keeps the order of its lanes' stores (R193, R328) -/
  orders : Bool := false
  /-- the uniform register whose target format must take the rounding mode of HINT.RND (TCVT, R388) -/
  target : Option (BitVec 6) := none
  /-- the progress record is no mask of lanes (TCNT, R371) -/
  keyProg : Bool := false
  deriving DecidableEq, Repr

/-! ## Hints (R269 to R271) -/

/-- The word of a hint. -/
def HintRec.word (h : HintRec) : Nat := 0x7C000000 + h.kind.toNat * 2 ^ 21 + h.payload.toNat

/-- Payload bits marked zero are zero and the value is none of those R269 and R230 refuse. -/
def HintRec.payloadOk (h : HintRec) : Bool :=
  let p := h.payload.toNat
  match h.kind.toNat with
  | 2 => decide (p < 16)
  | 3 => decide (p < 5)
  | 4 => p == 0
  | 5 => decide (p < 24)
  | 6 => decide (p < 3)
  | 8 => p == 0
  | 9 => decide (p < 4)
  | _ => true

/-- The payload of the hint of a kind in the run. -/
def hintOf (hs : List HintRec) (kind : Nat) : Option Nat :=
  (hs.find? fun h => h.kind.toNat == kind).map (·.payload.toNat)

/-- Does the hint at place `i` of the run break R271 before this instruction? -/
def Uses.hintBad (u : Uses) (hs : List HintRec) (i : Nat) (h : HintRec) : Bool :=
  let k := h.kind.toNat
  let p := h.payload.toNat
  !h.payloadOk || (hs.take i).any (fun x => x.kind == h.kind) || !(k == 8 || u.fits.contains k) ||
  (k == 1 && (hintOf hs 0).isNone) || (k == 0 && !u.immZero) ||
  (k == 2 && match u.guard with
    | some g => g != 7
    | none => false) ||
  (k == 3 && p == 4 && !u.srOk) ||
  (k == 5 && (!u.ords.contains (p % 4) || match u.ordScope with
    | some sc => p / 4 != sc
    | none => false))

/-- The first hint that breaks R271, as the fault's detail: its word, and its place in [33:32]. -/
def Uses.hintFault (u : Uses) (hs : List HintRec) : Option Nat :=
  (List.range hs.length).findSome? fun i =>
    match hs[i]? with
    | some h => if u.hintBad hs i h then some (h.word + 2 ^ 32 * i) else none
    | none => none

/-- The immediate that HINT.IMM and HINT.IMMHI give (R270). -/
def immOf (hs : List HintRec) : Option Int :=
  match hintOf hs 0 with
  | none => none
  | some lo => match hintOf hs 1 with
    | some hi => some (sext (lo + hi * 2 ^ 21) 42)
    | none => some (sext lo 21)

/-- The pointer offset of HINT.OFFS (R270). -/
def offsOf (hs : List HintRec) : Int := match hintOf hs 7 with
  | some p => sext p 21
  | none => 0

/-- Ordering code and scope of HINT.ORD: 0 relaxed, 1 acquire, 2 release, 3 acq_rel (R189, R269). -/
def ordOf (hs : List HintRec) : Option (Nat × Nat) := (hintOf hs 5).map fun p => (p % 4, p / 4)

/-- Rounding mode code of HINT.RND, RNE without one (R230). -/
def modeOf (hs : List HintRec) : Mode := Mode.ofCode ((hintOf hs 3).getD 0)

/-- Is HINT.SAT present (R234)? -/
def satOf (hs : List HintRec) : Bool := (hintOf hs 4).isSome

/-! ## Checks (R272, R273) -/

/-- Absolute slice of a field (R117). -/
def Issue.abs (c : Issue) (field : Nat) : Nat := 32 * c.p.wb.toNat + field

/-- The first slice or register index at fault, as the WINDOW detail (R117, R126). -/
def Uses.windowFault (u : Uses) (c : Issue) : Option Nat :=
  match u.vs.findSome? fun v =>
      if c.w.slicesA < c.abs v.1 + v.2 then some (max (c.abs v.1) c.w.slicesA % 2 ^ 16) else none with
  | some d => some d
  | none =>
    match u.tiles.find? fun n => decide (c.w.tCount ≤ n) with
    | some n => some (n + 2 ^ 16)
    | none =>
      match u.accs.find? fun n => decide (c.w.cCount ≤ n) with
      | some n => some (n + 2 * 2 ^ 16)
      | none => (u.shapes.find? fun n => decide (c.w.hCount ≤ n)).map fun n => n + 3 * 2 ^ 16

/-- The hint fault of a TCVT whose target does not take its rounding mode (R388, R230, R239). -/
def tcvtHint (hs : List HintRec) (fmt : Nat) : Option Nat :=
  (List.range hs.length).findSome? fun i => match hs[i]? with
    | some h =>
      if h.kind = 3 ∧ ((h.payload = 4 ∧ 16 < elemBits fmt) ∨ (h.payload ≠ 0 ∧ fmt = 7)) then some (h.word + 2 ^ 32 * i)
      else none
    | none => none

/-- Is the register of the target format still to land (R259)? -/
def Uses.targetWaits (u : Uses) (c : Issue) : Bool := u.target.any fun r =>
  c.w.pending.any fun x => x.dest == .ureg r.toNat && x.split == c.id.split

/-- The checks of a run in the order of R273: fault code and detail. A hint that a register decides is checked in its turn once the
register has landed (DEDUCED, log 51). -/
def Uses.check (u : Uses) (c : Issue) (i : Instr) : Option (FaultCode × Nat) :=
  if u.okOp = false then some (.illegalOp, (encodeWord i).toNat)
  else if u.okWidth = false then some (.illegalWidth, (encodeWord i).toNat)
  else match u.hintFault c.p.hints with
    | some d => some (.illegalHint, d)
    | none =>
      if u.targetWaits c then none
      else match u.target.bind fun r => tcvtHint c.p.hints (bits (c.p.ureg r.toNat).toNat 0 4) with
        | some d => some (.illegalHint, d)
        | none => (u.windowFault c).map fun d => (.window, d)

/-- The guard: predicate and negation (R270). -/
def Uses.guardOf (u : Uses) (c : Issue) : Nat × Bool :=
  match hintOf c.p.hints 2 with
  | some p => (p % 8, decide (8 ≤ p))
  | none => match u.guard with
    | some g => (g.toNat, false)
    | none => (7, false)

/-- Is P(L, p) xor n true? -/
def Issue.predIs (c : Issue) (g : Nat × Bool) (l : Nat) : Bool := (c.w.lane l).pred g.1 != g.2

/-- The lanes that execute: active, with a true guard (R8, R304). -/
def Uses.lanes (u : Uses) (c : Issue) : BitVec 32 :=
  maskOf ((lanesOf c.p.mask).filter fun l => c.predIs (u.guardOf c) l)

/-- Lanes that an earlier attempt at the same counter completed (R208); a record made elsewhere is discarded. -/
def Issue.doneBefore (c : Issue) : BitVec 32 :=
  if c.p.progValid ∧ c.p.progPc = c.start then c.p.prog.truncate 32 else 0

/-- Does the instruction read a register, predicate or binding that has a result pending (R259, R362)? -/
def Uses.pendingIn (u : Uses) (c : Issue) : Bool :=
  c.w.pending.any fun x => match x.dest with
    | .ureg n => x.split == c.id.split && (u.allUregs || u.uregs.contains n)
    | .tbind n => x.split == c.id.split && u.tbs.contains n
    | .pred l p => c.p.mask.getLsbD l && ((u.guardOf c).1 :: u.preds).contains p
    | .tile n => u.tiles.contains n
    | .shape n => u.shapes.contains n
    | .slices _ _ _ => false

/-- Is the instruction kept from issuing: by the interlock, or, an access, by a release store that waits for an answer? -/
def Uses.stalled (u : Uses) (s : State) (c : Issue) : Bool :=
  u.pendingIn c || (u.orders && s.releaseWaits c.w (u.lanes c))

/-- The first of some source slices of a lane with a variable-latency result pending (R258). -/
def Issue.hazardIn (c : Issue) (vs : List (Nat × Nat)) (l : Nat) : Option Nat :=
  vs.findSome? fun v =>
    (List.range v.2).findSome? fun k => if c.w.slicePending l (c.abs v.1 + k) then some (c.abs v.1 + k) else none

/-- The hazard of the lowest lane that has one, its first such slice (R258): in the lanes that execute, in those a cross-lane source is
read from (R305), or in the one lane whose operand is read. -/
def Uses.hazard (u : Uses) (c : Issue) (lanes : BitVec 32) : Option Nat :=
  if lanes = 0 ∨ u.unchecked then none
  else
    let own := if u.lowestOnly then (lanesOf lanes).take 1 else lanesOf lanes
    match own.findSome? fun l => c.hazardIn u.src l with
    | some n => some n
    | none => match (lanesOf u.allLanes).findSome? fun l => c.hazardIn u.srcAll l with
      | some n => some n
      | none => c.hazardIn u.src1 u.lane1

/-- Is checked mode on (R258)? -/
def State.checkedMode (s : State) (c : Issue) : Bool :=
  (s.ctx c.g.part c.g.ctx).checked || (hintOf c.p.hints 8).isSome

/-- Loads that wait for their bytes and stand before a source slice are bound now: the value read is one that the slice
takes (R256). -/
def State.bindSources (s : State) (u : Uses) (c : Issue) : State :=
  if c.w.pending.isEmpty then s
  else (List.range c.w.pending.length).foldl (fun t k =>
    match c.w.pending[k]? with
    | some x => match x.dest with
      | .slices _ st n =>
        if (u.src ++ u.srcAll ++ u.src1).any fun v => decide (st < c.abs v.1 + v.2) && decide (c.abs v.1 < st + n) then t.bindAt c.id.warp k
        else t
      | _ => t
    | none => t) s

/-! ## The operand latch (R119) -/

/-- The name of the issuing split in the latch: a handler split is another than its subject (R214). -/
def Issue.latchName (c : Issue) : Nat := if c.w.inHandler c.id.split then c.id.split + 4 else c.id.split

/-- Does a latch entry supply a source of the issuing instruction (R119)? -/
def LatchEntry.serves (e : LatchEntry) (u : Uses) (c : Issue) : Bool :=
  e.warp == c.id.warp && e.split == c.latchName && (u.src ++ u.srcAll ++ u.src1).any fun v => e.start == c.abs v.1 && e.width == v.2

/-- An instruction of a split issues: entries of the split that have served its two instructions go, and those that supply it a source
stand last, as the ones used most recently (R119). One that goes on in steps, or has found no room, is the same instruction still. -/
def State.latchTick (s : State) (u : Uses) (c : Issue) : State :=
  let kept := s.latch.filter fun e => !(e.warp == c.id.warp && e.split == c.latchName && decide (e.last < c.p.count))
  { s with latch := (kept.filter fun e => !e.serves u c) ++ kept.filter fun e => e.serves u c }

/-- Hold an operand: it takes a free entry of the slot-group, or else the one used least recently, which stands first (R119). -/
def State.latchHold (s : State) (c : Issue) (operand field width : Nat) : State :=
  let g := slotGroup c.w.slot
  let e : LatchEntry :=
    { core := c.w.core, group := g, warp := c.id.warp, split := c.latchName, start := c.abs field, width := width, last := c.p.count + 2,
      values := (List.range 32).map fun l => c.w.readV s.free operand l (c.abs field) width }
  let mine := s.latch.filter fun x => x.core == c.w.core && x.group == g
  let rest := s.latch.filter fun x => !(x.core == c.w.core && x.group == g)
  { s with latch := rest ++ (if mine.length < 3 then mine else mine.drop 1) ++ [e] }

/-! ## Issue -/

/-- Issue of a coded instruction: the checks of R273, the interlock of R259, checked mode, and then its own effect. A RUN_HAZARD names the
executing lanes that are not yet done (DEDUCED, log 49). -/
def State.issueWith (s : State) (i : Instr) (sw : Bool) (u : Uses) (body : Issue → State → State) :
    Host.Outcome State Fault Refusal :=
  match s.issue? sw with
  | none => .fault .noIssuingSplit
  | some c =>
    match u.check c i with
    | some (code, detail) => .next (s.faultAt c code c.p.mask 0 detail)
    | none =>
      if u.stalled s c then .next (s.waitAt c .results)
      else
        let todo := u.lanes c &&& ~~~(if u.keyProg then 0 else c.doneBefore)
        match if s.checkedMode c then u.hazard c todo else none with
        | some n => .next (s.faultAt c .runHazard todo 0 (n % 1024))
        | none =>
          let s1 := (s.bindSources u c).latchTick u c
          match s1.warp? c.id.warp with
          | some w => .next (body { c with w := w } s1)
          | none => .next s1

/-- The lanes that the executing lanes of the issuing split read, one for each (R305). -/
def State.readLanes (s : State) (sw : Bool) (u : Uses) (src : Issue → Nat → Nat) : BitVec 32 :=
  match s.issue? sw with
  | some c => maskOf ((lanesOf (u.lanes c)).map (src c))
  | none => 0

/-- A source value of lane `l`, operand number `k` of the instruction (R256). -/
def State.src (s : State) (c : Issue) (k l field width : Nat) : Nat := c.w.readV s.free k l (c.abs field) width

/-- Results of the issuing split at fixed latency (R255). -/
def State.put (s : State) (c : Issue) (xs : List (Dest × Nat)) : State :=
  let s1 := s.modWarp c.id.warp fun w => xs.foldl (fun w x => w.write c.id.split x.1 x.2) w
  xs.foldl (fun t x => t.latchLanded c.id.warp x.1) s1

/-- Results at variable latency (R255). -/
def State.putLater (s : State) (c : Issue) (xs : List (Dest × Nat)) : State :=
  s.modWarp c.id.warp fun w => xs.foldl (fun w x => w.later c.id.split x.1 x.2) w

/-- The slices of lane `l` at a field. -/
def Issue.dst (c : Issue) (l field width : Nat) : Dest := .slices l (c.abs field) width

/-- One result per executing lane, written at fixed latency, and the instruction is complete: the form of the vector
instructions (R304). -/
def State.vec (s : State) (c : Issue) (lanes : BitVec 32) (field width : Nat) (f : Nat → Nat) : State :=
  (s.put c ((lanesOf lanes).map fun l => (c.dst l field width, trunc (f l) (4 * width)))).complete c

/-- S(n) of the issuing split. -/
def Issue.ureg (c : Issue) (n : BitVec 6) : Nat := (c.p.ureg n.toNat).toNat

/-- Slices of a width code (R260). -/
def wSlices (w : BitVec 3) : Nat :=
  match w.toNat with
  | 0 => 1 | 1 => 2 | 2 => 3 | 3 => 4 | 4 => 6 | 5 => 8 | 6 => 12 | _ => 16

/-- The format of a W code, and its slices: BF16 is 16 bits, the width of its code 24 (R260, R308). -/
def wFmt (w : BitVec 3) : FloatFmt := fmtOfW w.toNat
def fSlices (w : BitVec 3) : Nat := (wFmt w).width

/-- Slices where a bit of the word chooses the reading of W. -/
def wfSlices (float : Bool) (w : BitVec 3) : Nat := if float then fSlices w else wSlices w

end Sys2Proof.Machine
end

