-- ==== Sys2Proof/Machine/Flags.lean ====
section
/-! DEFINITION. `%fpflags` (R233) and the stochastic-rounding streams of lanes (R231, R232): how a floating-point result
of a lane leaves its flags and its draw. -/
namespace Sys2Proof.Machine

/-- OR flags into lane `l`; they are sticky (R233). -/
def Warp.addFlags (w : Warp) (l fl : Nat) : Warp :=
  w.modLane l fun x => { x with fpflags := x.fpflags ||| BitVec.ofNat 5 fl }

/-- Lane `l` takes one draw of its stream (R232). -/
def Warp.advanceStream (w : Warp) (l : Nat) : Warp :=
  w.modLane l fun x => { x with sr := BitVec.ofNat 64 (drawNext x.sr.toNat) }

/-- How lane `l` rounds under the run's hints: the draw is the one that SR would take. -/
def Issue.rounding (c : Issue) (l : Nat) : Rounding :=
  { mode := modeOf c.p.hints, sat := satOf c.p.hints, draw := drawValue (c.w.lane l).sr.toNat }

/-- Flags and draws of rounded results, lane by lane. -/
def State.flagLanes (s : State) (c : Issue) (rs : List (Nat × Rounded)) : State :=
  s.modWarp c.id.warp fun w => rs.foldl (fun w x =>
    let w1 := w.addFlags x.1 x.2.flags
    if x.2.drew then w1.advanceStream x.1 else w1) w

/-- One rounded result per executing lane: flags, draws, slices, and the instruction is complete. `later` gives the
results variable latency (R306). -/
def State.vecF (s : State) (c : Issue) (later : Bool) (lanes : BitVec 32) (field width : Nat) (f : Nat → Rounded) : State :=
  let rs := (lanesOf lanes).map fun l => (l, f l)
  let s1 := s.flagLanes c rs
  let xs := rs.map fun x => (c.dst x.1 field width, trunc x.2.code (4 * width))
  (if later then s1.putLater c xs else s1.put c xs).complete c

/-- Reseed every lane's stream from `%seed` (R232). -/
def Warp.reseed (w : Warp) (seed : Word) : Warp :=
  { w with
    seed := seed
    lanes := (List.range 32).map fun l => { w.lane l with sr := seed ^^^ BitVec.ofNat 64 (l * golden) } }

/-- The state of lane `l` at warp start and after a write of `%seed` is `%seed` xor l · 0x9E37_79B9_7F4A_7C15 (R232). -/
def streamStart (seed : Word) (l : Nat) : Word := seed ^^^ BitVec.ofNat 64 (l * golden)

end Sys2Proof.Machine
end

