-- ==== Sys2Proof/Machine/Vector.lean ====
section
/-! DEFINITION. Vector arithmetic: the V3 and VU instructions (R303 to R316). -/
namespace Sys2Proof.Machine

/-- Hints of the run that the issuing split has gathered. -/
def State.hintsNow (s : State) : List HintRec := match s.issue? false with
  | some c => c.p.hints
  | none => []

/-! ## V3 (R261) -/

/-- Operands of a V3 word: d and a at `n` slices, b at `m` unless HINT.IMM replaces it; d is a source too for a
multiply-add (R261, R270). -/
def v3Uses (hs : List HintRec) (h : BitVec 2) (d a b : BitVec 7) (n m : Nat) (addend : Bool) : Uses :=
  let im := (hintOf hs 0).isSome
  { fits := [0, 1, 2]
    immZero := b == 0 && !h.getLsbD 1
    vs := [(d.toNat, n), (a.toNat, n)] ++ (if im then [] else [(b.toNat, m)])
    src := [(a.toNat, n)] ++ (if im then [] else [(b.toNat, m)]) ++ (if addend then [(d.toNat, n)] else []) }

/-- Operand b of lane `l`: the slices, or the hint's immediate truncated (R270). -/
def State.opB (s : State) (c : Issue) (l : Nat) (b : BitVec 7) (m : Nat) : Nat :=
  match immOf c.p.hints with
  | some v => trunc v (4 * m)
  | none => s.src c 1 l b.toNat m

/-- The hold field (R119). -/
def State.holdOps (s : State) (c : Issue) (h : BitVec 2) (a b : BitVec 7) (n m : Nat) : State :=
  let s1 := if h.getLsbD 0 then s.latchHold c 0 a.toNat n else s
  if h.getLsbD 1 then s1.latchHold c 1 b.toNat m else s1

/-- A V3 integer instruction: `f` has the saturation, the bit count, and the values of a, b and the old d (R307). -/
def State.v3Int (s : State) (i : Instr) (sw : Bool) (w : BitVec 3) (h : BitVec 2) (d a b : BitVec 7)
    (sat addend : Bool) (f : Bool → Nat → Nat → Nat → Nat → Int) : Host.Outcome State Fault Refusal :=
  let n := wSlices w
  let u := v3Uses s.hintsNow h d a b n n addend
  let u := { u with fits := if sat then 4 :: u.fits else u.fits }
  s.issueWith i sw u fun c t => (t.holdOps c h a b n n).vec c (u.lanes c) d.toNat n fun l =>
    trunc (f (satOf c.p.hints) (4 * n) (t.src c 0 l a.toNat n) (t.opB c l b n) (t.src c 2 l d.toNat n)) (4 * n)

/-- Clamp to the signed range of `n` bits (R307). -/
def clampS (n : Nat) (x : Int) : Int := max (-(2 ^ (n - 1))) (min x (2 ^ (n - 1) - 1))

/-- Signed and unsigned order of patterns. -/
def sle (n a b : Nat) : Bool := decide (sext a n ≤ sext b n)

/-- Left, logical right and arithmetic right shift by any count (R307). -/
def shlN (n a k : Nat) : Nat := if n ≤ k then 0 else a * 2 ^ k % 2 ^ n
def shrN (n a k : Nat) : Nat := if n ≤ k then 0 else a / 2 ^ k
def sraN (n a k : Nat) : Int := sext a n / 2 ^ (min k (n - 1))

def execIadd (sw : Bool) (w : BitVec 3) (h : BitVec 2) (d a b : BitVec 7) (s : State) :
    Host.Outcome State Fault Refusal :=
  s.v3Int (.iadd sw w h d a b) sw w h d a b true false fun sat n x y _ =>
    if sat then clampS n (sext x n + sext y n) else (x : Int) + y

def execIsub (sw : Bool) (w : BitVec 3) (h : BitVec 2) (d a b : BitVec 7) (s : State) :
    Host.Outcome State Fault Refusal :=
  s.v3Int (.isub sw w h d a b) sw w h d a b true false fun sat n x y _ =>
    if sat then clampS n (sext x n - sext y n) else (x : Int) - y

def execImul (sw : Bool) (w : BitVec 3) (h : BitVec 2) (d a b : BitVec 7) (s : State) :
    Host.Outcome State Fault Refusal :=
  s.v3Int (.imul sw w h d a b) sw w h d a b false false fun _ _ x y _ => ((x * y : Nat) : Int)

def execImulh (sw : Bool) (w : BitVec 3) (h : BitVec 2) (d a b : BitVec 7) (s : State) :
    Host.Outcome State Fault Refusal :=
  s.v3Int (.imulh sw w h d a b) sw w h d a b false false fun _ n x y _ => sext x n * sext y n / 2 ^ n

def execImulhu (sw : Bool) (w : BitVec 3) (h : BitVec 2) (d a b : BitVec 7) (s : State) :
    Host.Outcome State Fault Refusal :=
  s.v3Int (.imulhu sw w h d a b) sw w h d a b false false fun _ n x y _ => ((x * y / 2 ^ n : Nat) : Int)

def execImad (sw : Bool) (w : BitVec 3) (h : BitVec 2) (d a b : BitVec 7) (s : State) :
    Host.Outcome State Fault Refusal :=
  s.v3Int (.imad sw w h d a b) sw w h d a b false true fun _ _ x y z => ((x * y + z : Nat) : Int)

def execImin (sw : Bool) (w : BitVec 3) (h : BitVec 2) (d a b : BitVec 7) (s : State) :
    Host.Outcome State Fault Refusal :=
  s.v3Int (.imin sw w h d a b) sw w h d a b false false fun _ n x y _ => if sle n x y then x else y

def execIminu (sw : Bool) (w : BitVec 3) (h : BitVec 2) (d a b : BitVec 7) (s : State) :
    Host.Outcome State Fault Refusal :=
  s.v3Int (.iminu sw w h d a b) sw w h d a b false false fun _ _ x y _ => ((min x y : Nat) : Int)

def execImax (sw : Bool) (w : BitVec 3) (h : BitVec 2) (d a b : BitVec 7) (s : State) :
    Host.Outcome State Fault Refusal :=
  s.v3Int (.imax sw w h d a b) sw w h d a b false false fun _ n x y _ => if sle n x y then y else x

def execImaxu (sw : Bool) (w : BitVec 3) (h : BitVec 2) (d a b : BitVec 7) (s : State) :
    Host.Outcome State Fault Refusal :=
  s.v3Int (.imaxu sw w h d a b) sw w h d a b false false fun _ _ x y _ => ((max x y : Nat) : Int)

def execAnd (sw : Bool) (w : BitVec 3) (h : BitVec 2) (d a b : BitVec 7) (s : State) :
    Host.Outcome State Fault Refusal :=
  s.v3Int (.and sw w h d a b) sw w h d a b false false fun _ _ x y _ => ((x &&& y : Nat) : Int)

def execOr (sw : Bool) (w : BitVec 3) (h : BitVec 2) (d a b : BitVec 7) (s : State) :
    Host.Outcome State Fault Refusal :=
  s.v3Int (.or sw w h d a b) sw w h d a b false false fun _ _ x y _ => ((x ||| y : Nat) : Int)

def execXor (sw : Bool) (w : BitVec 3) (h : BitVec 2) (d a b : BitVec 7) (s : State) :
    Host.Outcome State Fault Refusal :=
  s.v3Int (.xor sw w h d a b) sw w h d a b false false fun _ _ x y _ => ((x ^^^ y : Nat) : Int)

def execShl (sw : Bool) (w : BitVec 3) (h : BitVec 2) (d a b : BitVec 7) (s : State) :
    Host.Outcome State Fault Refusal :=
  s.v3Int (.shl sw w h d a b) sw w h d a b false false fun _ n x y _ => (shlN n x y : Int)

def execShr (sw : Bool) (w : BitVec 3) (h : BitVec 2) (d a b : BitVec 7) (s : State) :
    Host.Outcome State Fault Refusal :=
  s.v3Int (.shr sw w h d a b) sw w h d a b false false fun _ n x y _ => (shrN n x y : Int)

def execSra (sw : Bool) (w : BitVec 3) (h : BitVec 2) (d a b : BitVec 7) (s : State) :
    Host.Outcome State Fault Refusal :=
  s.v3Int (.sra sw w h d a b) sw w h d a b false false fun _ n x y _ => sraN n x y

/-- A V3 floating-point instruction: `f` has the format, the rounding of the lane, and the patterns of a, b and the old
d (R308, R309). `rnd` says that HINT.RND fits. -/
def State.v3Fp (s : State) (i : Instr) (sw : Bool) (w : BitVec 3) (h : BitVec 2) (d a b : BitVec 7)
    (rnd addend : Bool) (f : FloatFmt → Rounding → Nat → Nat → Nat → Rounded) : Host.Outcome State Fault Refusal :=
  let n := fSlices w
  let u := v3Uses s.hintsNow h d a b n n addend
  let u := { u with
    okWidth := fmtW w
    fits := if rnd then 3 :: u.fits else u.fits
    srOk := w == 3 || w == 4 }
  s.issueWith i sw u fun c t => (t.holdOps c h a b n n).vecF c false (u.lanes c) d.toNat n fun l =>
    f (wFmt w) (c.rounding l) (t.src c 0 l a.toNat n) (t.opB c l b n) (t.src c 2 l d.toNat n)

def execFadd (sw : Bool) (w : BitVec 3) (h : BitVec 2) (d a b : BitVec 7) (s : State) :
    Host.Outcome State Fault Refusal :=
  s.v3Fp (.fadd sw w h d a b) sw w h d a b true false fun f rd x y _ => f.addVal rd (f.decode x) (f.decode y)

def execFsub (sw : Bool) (w : BitVec 3) (h : BitVec 2) (d a b : BitVec 7) (s : State) :
    Host.Outcome State Fault Refusal :=
  s.v3Fp (.fsub sw w h d a b) sw w h d a b true false fun f rd x y _ => f.addVal rd (f.decode x) (f.decode y).negate

def execFmul (sw : Bool) (w : BitVec 3) (h : BitVec 2) (d a b : BitVec 7) (s : State) :
    Host.Outcome State Fault Refusal :=
  s.v3Fp (.fmul sw w h d a b) sw w h d a b true false fun f rd x y _ => f.mulVal rd (f.decode x) (f.decode y)

def execFfma (sw : Bool) (w : BitVec 3) (h : BitVec 2) (d a b : BitVec 7) (s : State) :
    Host.Outcome State Fault Refusal :=
  s.v3Fp (.ffma sw w h d a b) sw w h d a b true true fun f rd x y z =>
    f.fmaVal rd (f.decode x) (f.decode y) (f.decode z)

def execFmin (sw : Bool) (w : BitVec 3) (h : BitVec 2) (d a b : BitVec 7) (s : State) :
    Host.Outcome State Fault Refusal :=
  s.v3Fp (.fmin sw w h d a b) sw w h d a b false false fun f _ x y _ => f.minMax true x y

def execFmax (sw : Bool) (w : BitVec 3) (h : BitVec 2) (d a b : BitVec 7) (s : State) :
    Host.Outcome State Fault Refusal :=
  s.v3Fp (.fmax sw w h d a b) sw w h d a b false false fun f _ x y _ => f.minMax false x y

/-- SHF (R321): every lane names its source lane in 4 slices at b. -/
def execShf (sw : Bool) (w : BitVec 3) (h : BitVec 2) (d a b : BitVec 7) (s : State) :
    Host.Outcome State Fault Refusal :=
  let n := wSlices w
  let v := v3Uses s.hintsNow h d a b n 4 false
  let u := { v with
    src := v.src.drop 1, srcAll := [(a.toNat, n)], allLanes := s.readLanes sw v fun c l => s.opB c l b 4 % 32 }
  s.issueWith (.shf sw w h d a b) sw u fun c t => (t.holdOps c h a b n 4).vec c (u.lanes c) d.toNat n fun l =>
    t.src c 0 (t.opB c l b 4 % 32) a.toNat n

/-- SHFX (R322): an element of the span of 64 slices in all 32 lanes, whose number operand b, or the hint's immediate as b, gives. -/
def execShfx (sw : Bool) (w : BitVec 3) (h : BitVec 2) (d a b : BitVec 7) (s : State) :
    Host.Outcome State Fault Refusal :=
  let n := wSlices w
  let m := 64 / n
  let v := v3Uses s.hintsNow h d a b n 4 false
  let u := { v with
    vs := (d.toNat, n) :: (a.toNat, 64) :: v.vs.drop 2
    src := v.src.drop 1
    srcAll := [(a.toNat, 64)] }
  s.issueWith (.shfx sw w h d a b) sw u fun c t => (t.holdOps c h a b 64 4).vec c (u.lanes c) d.toNat n fun l =>
    let e := t.opB c l b 4 % (32 * m)
    t.src c 0 (e / m) (a.toNat + n * (e % m)) n

/-! ## VU (R262, R310 to R315) -/

/-- A one-source instruction of fixed latency: `f` has the lane and the source value. `n` slices are written and `m`
read. -/
def State.vuInt (s : State) (i : Instr) (sw : Bool) (u : Uses) (d a : BitVec 7) (n m : Nat) (f : Issue → Nat → Nat → Int) :
    Host.Outcome State Fault Refusal :=
  let u := { u with vs := [(d.toNat, n), (a.toNat, m)], src := [(a.toNat, m)], fits := 2 :: u.fits }
  s.issueWith i sw u fun c t => t.vec c (u.lanes c) d.toNat n fun l =>
    trunc (f c l (t.src c 0 l a.toNat m)) (4 * n)

/-- A one-source floating-point instruction; `later` gives it variable latency (R306). -/
def State.vuFp (s : State) (i : Instr) (sw later : Bool) (u : Uses) (d a : BitVec 7) (n m : Nat)
    (f : Rounding → Nat → Rounded) : Host.Outcome State Fault Refusal :=
  let u := { u with vs := [(d.toNat, n), (a.toNat, m)], src := [(a.toNat, m)], fits := 2 :: u.fits }
  s.issueWith i sw u fun c t => t.vecF c later (u.lanes c) d.toNat n fun l =>
    f (c.rounding l) (t.src c 0 l a.toNat m)

def execMov (sw : Bool) (w : BitVec 3) (d a : BitVec 7) (s : State) : Host.Outcome State Fault Refusal :=
  s.vuInt (.mov sw w d a) sw {} d a (wSlices w) (wSlices w) fun _ _ x => (x : Int)

def execNot (sw : Bool) (w : BitVec 3) (d a : BitVec 7) (s : State) : Host.Outcome State Fault Refusal :=
  s.vuInt (.not sw w d a) sw {} d a (wSlices w) (wSlices w) fun _ _ x => -(x : Int) - 1

/-- NEG (R310): the integer, or a float with its sign flipped; a NaN gives the canonical NaN and no flag. -/
def execNeg (sw : Bool) (w : BitVec 3) (d a : BitVec 7) (f : BitVec 1) (s : State) : Host.Outcome State Fault Refusal :=
  s.vuInt (.neg sw w d a f) sw { okWidth := f == 0 || fmtW w } d a (wfSlices (f == 1) w) (wfSlices (f == 1) w) fun _ _ x =>
    if f = 0 then -(x : Int)
    else if ((wFmt w).decode x).isNaN then ((wFmt w).nanCode : Int) else ((x ^^^ (wFmt w).signBit : Nat) : Int)

/-- ABS (R310). -/
def execAbs (sw : Bool) (w : BitVec 3) (d a : BitVec 7) (f : BitVec 1) (s : State) : Host.Outcome State Fault Refusal :=
  s.vuInt (.abs sw w d a f) sw { okWidth := f == 0 || fmtW w } d a (wfSlices (f == 1) w) (wfSlices (f == 1) w) fun _ _ x =>
    if f = 0 then ((sext x (4 * wSlices w)).natAbs : Int)
    else if ((wFmt w).decode x).isNaN then ((wFmt w).nanCode : Int) else ((x % (wFmt w).signBit : Nat) : Int)

/-- Leading and trailing zeros of an n-bit number. -/
def clzN (n x : Nat) : Nat := ((List.range n).find? fun i => x.testBit (n - 1 - i)).getD n
def ctzN (n x : Nat) : Nat := ((List.range n).find? fun i => x.testBit i).getD n

def execPopc (sw : Bool) (w : BitVec 3) (d a : BitVec 7) (s : State) : Host.Outcome State Fault Refusal :=
  s.vuInt (.popc sw w d a) sw {} d a (wSlices w) (wSlices w) fun _ _ x => (popcount x (4 * wSlices w) : Int)

def execClz (sw : Bool) (w : BitVec 3) (d a : BitVec 7) (s : State) : Host.Outcome State Fault Refusal :=
  s.vuInt (.clz sw w d a) sw {} d a (wSlices w) (wSlices w) fun _ _ x => (clzN (4 * wSlices w) x : Int)

def execCtz (sw : Bool) (w : BitVec 3) (d a : BitVec 7) (s : State) : Host.Outcome State Fault Refusal :=
  s.vuInt (.ctz sw w d a) sw {} d a (wSlices w) (wSlices w) fun _ _ x => (ctzN (4 * wSlices w) x : Int)

/-- BREV: bit i moves to bit n − 1 − i (R310). -/
def execBrev (sw : Bool) (w : BitVec 3) (d a : BitVec 7) (s : State) : Host.Outcome State Fault Refusal :=
  let n := 4 * wSlices w
  s.vuInt (.brev sw w d a) sw {} d a (wSlices w) (wSlices w) fun _ _ x =>
    (((List.range n).foldl (fun acc i => if x.testBit i then acc + 2 ^ (n - 1 - i) else acc) 0 : Nat) : Int)

/-- EXTS (R311): the source code must lie below W (DEDUCED, log 41). -/
def execExts (sw : Bool) (w : BitVec 3) (d a : BitVec 7) (x : BitVec 3) (s : State) : Host.Outcome State Fault Refusal :=
  s.vuInt (.exts sw w d a x) sw { okWidth := decide (x < w) } d a (wSlices w) (wSlices x) fun _ _ v =>
    sext v (4 * wSlices x)

/-- DEDUCED, log 41. -/
def execExtz (sw : Bool) (w : BitVec 3) (d a : BitVec 7) (x : BitVec 3) (s : State) : Host.Outcome State Fault Refusal :=
  s.vuInt (.extz sw w d a x) sw { okWidth := decide (x < w) } d a (wSlices w) (wSlices x) fun _ _ v => (v : Int)

/-- A conversion between formats; between equal ones the source returns, a NaN made canonical (R312). -/
def convertFmt (f : FloatFmt) (code : Nat) (rd : Rounding) (x : Nat) : Rounded :=
  match f.decode x with
  | .nan sig => convertTo code rd (.nan sig)
  | v => if elemFloat code = some f then ⟨x, 0, false⟩ else convertTo code rd v

def execCvt (sw : Bool) (w : BitVec 3) (d a : BitVec 7) (x : BitVec 4) (s : State) : Host.Outcome State Fault Refusal :=
  s.vuFp (.cvt sw w d a x) sw false
    { okWidth := fmtW w && x != 7 && x != 15, fits := [3, 4], srOk := decide (elemBits x.toNat ≤ 16) }
    d a (elemBits x.toNat / 4) (fSlices w) fun rd v => convertFmt (wFmt w) x.toNat rd v

/-- Element code of a format code (R224, R260). -/
def codeOfW (w : BitVec 3) : Nat := match w.toNat with
  | 3 => 0xA
  | 4 => 0xB
  | 5 => 0xC
  | _ => 0xD

def execCvts (sw : Bool) (w : BitVec 3) (d a : BitVec 7) (x : BitVec 4) (s : State) : Host.Outcome State Fault Refusal :=
  s.vuFp (.cvts sw w d a x) sw false
    { okWidth := fmtW w && floatCode x, fits := [3, 4], srOk := w == 3 || w == 4 }
    d a (fSlices w) (elemBits x.toNat / 4) fun rd v => convertFmt ((elemFloat x.toNat).getD .f64) (codeOfW w) rd v

def execIcvt (sw : Bool) (w : BitVec 3) (d a : BitVec 7) (x : BitVec 4) (s : State) : Host.Outcome State Fault Refusal :=
  s.vuFp (.icvt sw w d a x) sw false
    { okWidth := floatCode x, fits := [3, 4], srOk := decide (elemBits x.toNat ≤ 16) }
    d a (elemBits x.toNat / 4) (wSlices w) fun rd v => convertTo x.toNat rd (.ofInt (sext v (4 * wSlices w)))

def execUcvt (sw : Bool) (w : BitVec 3) (d a : BitVec 7) (x : BitVec 4) (s : State) : Host.Outcome State Fault Refusal :=
  s.vuFp (.ucvt sw w d a x) sw false
    { okWidth := floatCode x, fits := [3, 4], srOk := decide (elemBits x.toNat ≤ 16) }
    d a (elemBits x.toNat / 4) (wSlices w) fun rd v => convertTo x.toNat rd (.ofInt v)

/-- QHAD (R316): the 32 lanes are one group; lanes that do not execute give +0. A signalling NaN that is widened raises invalid (R233)
(DEDUCED, log 50). -/
def execQhad (sw : Bool) (w : BitVec 3) (d a : BitVec 7) (n : BitVec 1) (r : BitVec 3) (s : State) :
    Host.Outcome State Fault Refusal :=
  let k := fSlices w
  let u : Uses :=
    { okWidth := fmtW w && w != 7, fits := [2], vs := [(d.toNat, k), (a.toNat, k)], srcAll := [(a.toNat, k)],
      uregs := [r.toNat] }
  s.issueWith (.qhad sw w d a n r) sw u fun c t =>
    let ls := u.lanes c
    let xs := (List.range 32).map fun l =>
      if ls.getLsbD l then (FloatFmt.f32.ofVal {} ((wFmt w).decode (t.src c 0 l a.toNat k))).code else 0
    let y := hadamard (n == 1) (c.p.ureg r.toNat).toNat xs
    let rs := (List.range 32).map fun l => if w = 5 then ⟨y.1.getD l 0, 0, false⟩
      else (wFmt w).ofVal {} (FloatFmt.f32.decode (y.1.getD l 0))
    -- every lane that executes takes the flags of the widenings, of every rounding of the step and of the results' own
    let sn := (lanesOf ls).any fun l => ((wFmt w).decode (t.src c 0 l a.toNat k)).isSignalling
    let fl := (List.range 32).foldl (fun m l => if ls.getLsbD l then m ||| (rs.getD l ⟨0, 0, false⟩).flags else m)
      (if sn then y.2 ||| flInvalid else y.2)
    t.vecF c true ls d.toNat k fun l => { rs.getD l ⟨0, 0, false⟩ with flags := fl }

def execFrcp (sw : Bool) (w : BitVec 3) (d a : BitVec 7) (s : State) : Host.Outcome State Fault Refusal :=
  s.vuFp (.frcp sw w d a) sw true { okWidth := fmtW w } d a (fSlices w) (fSlices w) fun _ x => (wFmt w).rcp x

def execFrsq (sw : Bool) (w : BitVec 3) (d a : BitVec 7) (s : State) : Host.Outcome State Fault Refusal :=
  s.vuFp (.frsq sw w d a) sw true { okWidth := fmtW w } d a (fSlices w) (fSlices w) fun _ x => (wFmt w).rsqrt x

def execFsqrt (sw : Bool) (w : BitVec 3) (d a : BitVec 7) (s : State) : Host.Outcome State Fault Refusal :=
  s.vuFp (.fsqrt sw w d a) sw true { okWidth := fmtW w, fits := [3], srOk := w == 3 || w == 4 }
    d a (fSlices w) (fSlices w) fun rd x => (wFmt w).sqrt rd x

def execFexp2 (sw : Bool) (w : BitVec 3) (d a : BitVec 7) (s : State) : Host.Outcome State Fault Refusal :=
  s.vuFp (.fexp2 sw w d a) sw true { okWidth := fmtW w && w != 7 } d a (fSlices w) (fSlices w) fun _ x => (wFmt w).exp2 x

def execFlog2 (sw : Bool) (w : BitVec 3) (d a : BitVec 7) (s : State) : Host.Outcome State Fault Refusal :=
  s.vuFp (.flog2 sw w d a) sw true { okWidth := fmtW w && w != 7 } d a (fSlices w) (fSlices w) fun _ x => (wFmt w).log2 x

def execFsin (sw : Bool) (w : BitVec 3) (d a : BitVec 7) (s : State) : Host.Outcome State Fault Refusal :=
  s.vuFp (.fsin sw w d a) sw true { okWidth := fmtW w && w != 7 } d a (fSlices w) (fSlices w) fun _ x => (wFmt w).sin x

def execFcos (sw : Bool) (w : BitVec 3) (d a : BitVec 7) (s : State) : Host.Outcome State Fault Refusal :=
  s.vuFp (.fcos sw w d a) sw true { okWidth := fmtW w && w != 7 } d a (fSlices w) (fSlices w) fun _ x => (wFmt w).cos x

def execFtanh (sw : Bool) (w : BitVec 3) (d a : BitVec 7) (s : State) : Host.Outcome State Fault Refusal :=
  s.vuFp (.ftanh sw w d a) sw true { okWidth := fmtW w && w != 7 } d a (fSlices w) (fSlices w) fun _ x => (wFmt w).tanh x

/-- FRND (R314): its mode stands in the word; 4 to 7 are ILLEGAL_OP. -/
def execFrnd (sw : Bool) (w : BitVec 3) (d a : BitVec 7) (m : BitVec 3) (s : State) : Host.Outcome State Fault Refusal :=
  s.vuFp (.frnd sw w d a m) sw false { okOp := decide (m < 4), okWidth := fmtW w } d a (fSlices w) (fSlices w)
    fun _ x => (wFmt w).toIntegral (Mode.ofCode m.toNat) x

/-- FCLS (R315): 3 slices at d, whatever W is. -/
def execFcls (sw : Bool) (w : BitVec 3) (d a : BitVec 7) (s : State) : Host.Outcome State Fault Refusal :=
  s.vuInt (.fcls sw w d a) sw { okWidth := fmtW w } d a 3 (fSlices w) fun _ _ x => ((wFmt w).classMask x : Int)

/-- A VU instruction without a slice source: `f` has the issuing split and the lane. -/
def State.vuNone (s : State) (i : Instr) (sw : Bool) (u : Uses) (d : BitVec 7) (n : Nat) (f : Issue → Nat → Int) :
    Host.Outcome State Fault Refusal :=
  let u := { u with vs := [(d.toNat, n)], fits := 2 :: u.fits }
  s.issueWith i sw u fun c t => t.vec c (u.lanes c) d.toNat n fun l => trunc (f c l) (4 * n)

def execLaneid (sw : Bool) (w : BitVec 3) (d : BitVec 7) (s : State) : Host.Outcome State Fault Refusal :=
  s.vuNone (.laneid sw w d) sw {} d (wSlices w) fun _ l => (l : Int)

def execMovu (sw : Bool) (w : BitVec 3) (d : BitVec 7) (u : BitVec 6) (s : State) : Host.Outcome State Fault Refusal :=
  s.vuNone (.movu sw w d u) sw { uregs := [u.toNat] } d (wSlices w) fun c _ => (c.ureg u : Int)

/-- VMOVI (R310): the 11 bits are signed; HINT.IMM replaces them. -/
def execVmovi (sw : Bool) (w : BitVec 3) (d : BitVec 7) (i : BitVec 11) (s : State) : Host.Outcome State Fault Refusal :=
  s.vuNone (.vmovi sw w d i) sw { immZero := i == 0, fits := [0, 1] } d (wSlices w) fun c _ =>
    (immOf c.p.hints).getD (sext i.toNat 11)

/-- The shift count of SHLI, SHRI and SRAI: the field, or the hint's immediate truncated as a register count is
(DEDUCED, log 12). -/
def shiftCount (c : Issue) (n : Nat) (k : BitVec 4) : Nat :=
  match immOf c.p.hints with
  | some v => trunc v n
  | none => k.toNat

def execShli (sw : Bool) (w : BitVec 3) (d a : BitVec 7) (k : BitVec 4) (s : State) : Host.Outcome State Fault Refusal :=
  s.vuInt (.shli sw w d a k) sw { immZero := k == 0, fits := [0, 1] } d a (wSlices w) (wSlices w) fun c _ x =>
    (shlN (4 * wSlices w) x (shiftCount c (4 * wSlices w) k) : Int)

def execShri (sw : Bool) (w : BitVec 3) (d a : BitVec 7) (k : BitVec 4) (s : State) : Host.Outcome State Fault Refusal :=
  s.vuInt (.shri sw w d a k) sw { immZero := k == 0, fits := [0, 1] } d a (wSlices w) (wSlices w) fun c _ x =>
    (shrN (4 * wSlices w) x (shiftCount c (4 * wSlices w) k) : Int)

def execSrai (sw : Bool) (w : BitVec 3) (d a : BitVec 7) (k : BitVec 4) (s : State) : Host.Outcome State Fault Refusal :=
  s.vuInt (.srai sw w d a k) sw { immZero := k == 0, fits := [0, 1] } d a (wSlices w) (wSlices w) fun c _ x =>
    sraN (4 * wSlices w) x (shiftCount c (4 * wSlices w) k)

def execAddi (sw : Bool) (w : BitVec 3) (d a : BitVec 7) (k : BitVec 4) (s : State) : Host.Outcome State Fault Refusal :=
  s.vuInt (.addi sw w d a k) sw { immZero := k == 0, fits := [0, 1] } d a (wSlices w) (wSlices w) fun c _ x =>
    (x : Int) + (immOf c.p.hints).getD (sext k.toNat 4)

end Sys2Proof.Machine
end

