-- ==== Sys2Proof/Machine/Cross.lean ====
section
/-! DEFINITION. Compares, predicates, selection, shuffles, scans, reductions and ballots: the VC instructions (R317 to
R324). -/
namespace Sys2Proof.Machine

/-- Write a predicate in the executing lanes, or AND it in (R317, R318). -/
def State.putPreds (s : State) (c : Issue) (lanes : BitVec 32) (n : BitVec 1) (p : BitVec 3) (f : Nat → Bool) : State :=
  (s.put c ((lanesOf lanes).map fun l =>
    (.pred l p.toNat, (f l && (n == 0 || (c.w.lane l).pred p.toNat)).toNat))).complete c

/-- An integer compare: `f` has the bit count and the values of a and b (R317). -/
def State.icmp (s : State) (i : Instr) (sw : Bool) (w : BitVec 3) (b a : BitVec 7) (n : BitVec 1) (p : BitVec 3)
    (f : Nat → Nat → Nat → Bool) : Host.Outcome State Fault Refusal :=
  let k := wSlices w
  let u : Uses :=
    { fits := [2], vs := [(b.toNat, k), (a.toNat, k)], src := [(a.toNat, k), (b.toNat, k)],
      preds := if n = 1 then [p.toNat] else [] }
  s.issueWith i sw u fun c t => t.putPreds c (u.lanes c) n p fun l =>
    f (4 * k) (t.src c 0 l a.toNat k) (t.src c 1 l b.toNat k)

def execIcmpEq (sw : Bool) (w : BitVec 3) (b a : BitVec 7) (n : BitVec 1) (p : BitVec 3) (s : State) :
    Host.Outcome State Fault Refusal :=
  s.icmp (.icmpEq sw w b a n p) sw w b a n p fun _ x y => x == y

def execIcmpNe (sw : Bool) (w : BitVec 3) (b a : BitVec 7) (n : BitVec 1) (p : BitVec 3) (s : State) :
    Host.Outcome State Fault Refusal :=
  s.icmp (.icmpNe sw w b a n p) sw w b a n p fun _ x y => x != y

def execIcmpLt (sw : Bool) (w : BitVec 3) (b a : BitVec 7) (n : BitVec 1) (p : BitVec 3) (s : State) :
    Host.Outcome State Fault Refusal :=
  s.icmp (.icmpLt sw w b a n p) sw w b a n p fun k x y => decide (sext x k < sext y k)

def execIcmpLe (sw : Bool) (w : BitVec 3) (b a : BitVec 7) (n : BitVec 1) (p : BitVec 3) (s : State) :
    Host.Outcome State Fault Refusal :=
  s.icmp (.icmpLe sw w b a n p) sw w b a n p fun k x y => sle k x y

def execIcmpLtu (sw : Bool) (w : BitVec 3) (b a : BitVec 7) (n : BitVec 1) (p : BitVec 3) (s : State) :
    Host.Outcome State Fault Refusal :=
  s.icmp (.icmpLtu sw w b a n p) sw w b a n p fun _ x y => decide (x < y)

def execIcmpLeu (sw : Bool) (w : BitVec 3) (b a : BitVec 7) (n : BitVec 1) (p : BitVec 3) (s : State) :
    Host.Outcome State Fault Refusal :=
  s.icmp (.icmpLeu sw w b a n p) sw w b a n p fun _ x y => decide (x ≤ y)

/-- A floating-point compare: `quiet` says that a quiet NaN raises nothing (R317). -/
def State.fcmp (s : State) (i : Instr) (sw quiet : Bool) (w : BitVec 3) (b a : BitVec 7) (n : BitVec 1) (p : BitVec 3)
    (f : FVal → FVal → Bool) : Host.Outcome State Fault Refusal :=
  let k := fSlices w
  let u : Uses :=
    { okWidth := fmtW w, fits := [2], vs := [(b.toNat, k), (a.toNat, k)], src := [(a.toNat, k), (b.toNat, k)],
      preds := if n = 1 then [p.toNat] else [] }
  s.issueWith i sw u fun c t =>
    let x := fun l => (wFmt w).decode (t.src c 0 l a.toNat k)
    let y := fun l => (wFmt w).decode (t.src c 1 l b.toNat k)
    let bad := fun l => (x l).isSignalling || (y l).isSignalling || (!quiet && ((x l).isNaN || (y l).isNaN))
    let t1 := t.flagLanes c ((lanesOf (u.lanes c)).map fun l => (l, ⟨0, if bad l then flInvalid else 0, false⟩))
    t1.putPreds c (u.lanes c) n p fun l => f (x l) (y l)

def execFcmpEq (sw : Bool) (w : BitVec 3) (b a : BitVec 7) (n : BitVec 1) (p : BitVec 3) (s : State) :
    Host.Outcome State Fault Refusal :=
  s.fcmp (.fcmpEq sw w b a n p) sw true w b a n p fun x y => x.eqNum y

def execFcmpNe (sw : Bool) (w : BitVec 3) (b a : BitVec 7) (n : BitVec 1) (p : BitVec 3) (s : State) :
    Host.Outcome State Fault Refusal :=
  s.fcmp (.fcmpNe sw w b a n p) sw true w b a n p fun x y => !x.eqNum y

def execFcmpLt (sw : Bool) (w : BitVec 3) (b a : BitVec 7) (n : BitVec 1) (p : BitVec 3) (s : State) :
    Host.Outcome State Fault Refusal :=
  s.fcmp (.fcmpLt sw w b a n p) sw false w b a n p fun x y => x.ltNum y

def execFcmpLe (sw : Bool) (w : BitVec 3) (b a : BitVec 7) (n : BitVec 1) (p : BitVec 3) (s : State) :
    Host.Outcome State Fault Refusal :=
  s.fcmp (.fcmpLe sw w b a n p) sw false w b a n p fun x y => x.ltNum y || x.eqNum y

def execFcmpUn (sw : Bool) (w : BitVec 3) (b a : BitVec 7) (n : BitVec 1) (p : BitVec 3) (s : State) :
    Host.Outcome State Fault Refusal :=
  s.fcmp (.fcmpUn sw w b a n p) sw true w b a n p fun x y => x.isNaN || y.isNaN

/-- SEL (R318): a where the predicate chooses it; elsewhere d keeps its value. It reads no value of d, so that d is no source of R258
(DESIGN CHOICE, log 102). -/
def execSel (sw : Bool) (w : BitVec 3) (d a : BitVec 7) (n : BitVec 1) (p : BitVec 3) (s : State) :
    Host.Outcome State Fault Refusal :=
  let k := wSlices w
  let u : Uses := { fits := [2], vs := [(d.toNat, k), (a.toNat, k)], src := [(a.toNat, k)], preds := [p.toNat] }
  s.issueWith (.sel sw w d a n p) sw u fun c t =>
    let ls := (lanesOf (u.lanes c)).filter fun l => (c.w.lane l).pred p.toNat != (n == 1)
    t.vec c (maskOf ls) d.toNat k fun l => t.src c 0 l a.toNat k

/-- The segments of the executing lanes (R323): each list ascending. -/
def segments (c : Issue) (p : Nat) (ls : List Nat) : List (List Nat) :=
  (ls.foldl (fun (acc : List (List Nat)) l =>
    match acc with
    | [] => [[l]]
    | g :: gs => if p ≠ 7 ∧ (c.w.lane l).pred p then [l] :: g :: gs else (l :: g) :: gs) []).reverse.map List.reverse

/-- One addition or choice of a fold: integers of n bits, or a format's patterns (R323). -/
inductive Fold where
  | sum | max | min
  deriving DecidableEq, Repr

/-- Combine two values; the flags that it raises. -/
def Fold.step (k : Fold) (float : Bool) (w : BitVec 3) (x y : Nat) : Nat × Nat :=
  let n := 4 * wSlices w
  let f := wFmt w
  match k, float with
  | .sum, false => ((x + y) % 2 ^ n, 0)
  | .max, false => (if sle n x y then y else x, 0)
  | .min, false => (if sle n x y then x else y, 0)
  | .sum, true => let r := f.addVal {} (f.decode x) (f.decode y); (r.code, r.flags)
  | .max, true => let r := f.minMax false x y; (r.code, r.flags)
  | .min, true => let r := f.minMax true x y; (r.code, r.flags)

/-- The fold of a list of values as one chain from the first, a NaN made canonical (R304, R323; DEDUCED, log 13); the identity for
none. -/
def Fold.over (k : Fold) (float : Bool) (w : BitVec 3) : List Nat → Nat × Nat
  | [] => (0, 0)
  | x :: xs =>
    let x0 := if float then let r := (wFmt w).ofVal {} ((wFmt w).decode x); (r.code, r.flags) else (x, 0)
    xs.foldl (fun acc y => let r := k.step float w acc.1 y; (r.1, acc.2 ||| r.2)) x0

/-- A scan or reduction: `part` picks, of the lanes of a lane's segment, those it folds (R323). A lane takes the flags of
its own fold (DEDUCED, log 13). -/
def State.scan (s : State) (i : Instr) (sw : Bool) (w : BitVec 3) (d a : BitVec 7) (f : BitVec 1) (h : BitVec 3)
    (k : Fold) (part : Nat → Nat → Bool) : Host.Outcome State Fault Refusal :=
  let n := wfSlices (f == 1) w
  let u : Uses :=
    { okWidth := f == 0 || fmtW w, fits := [2], vs := [(d.toNat, n), (a.toNat, n)], src := [(a.toNat, n)],
      preds := [h.toNat] }
  s.issueWith i sw u fun c t =>
    let gs := segments c h.toNat (lanesOf (u.lanes c))
    let val := fun l => k.over (f == 1) w
      (((gs.find? fun g => g.contains l).getD []).filter (part l) |>.map fun x => t.src c 0 x a.toNat n)
    t.vecF c false (u.lanes c) d.toNat n fun l => ⟨(val l).1, (val l).2, false⟩

def execVscan (sw : Bool) (w : BitVec 3) (d a : BitVec 7) (f : BitVec 1) (h : BitVec 3) (s : State) :
    Host.Outcome State Fault Refusal :=
  s.scan (.vscan sw w d a f h) sw w d a f h .sum fun l x => decide (x ≤ l)

def execVscanx (sw : Bool) (w : BitVec 3) (d a : BitVec 7) (f : BitVec 1) (h : BitVec 3) (s : State) :
    Host.Outcome State Fault Refusal :=
  s.scan (.vscanx sw w d a f h) sw w d a f h .sum fun l x => decide (x < l)

def execVred (sw : Bool) (w : BitVec 3) (d a : BitVec 7) (f : BitVec 1) (h : BitVec 3) (s : State) :
    Host.Outcome State Fault Refusal :=
  s.scan (.vred sw w d a f h) sw w d a f h .sum fun _ _ => true

def execVredmax (sw : Bool) (w : BitVec 3) (d a : BitVec 7) (f : BitVec 1) (h : BitVec 3) (s : State) :
    Host.Outcome State Fault Refusal :=
  s.scan (.vredmax sw w d a f h) sw w d a f h .max fun _ _ => true

def execVredmin (sw : Bool) (w : BitVec 3) (d a : BitVec 7) (f : BitVec 1) (h : BitVec 3) (s : State) :
    Host.Outcome State Fault Refusal :=
  s.scan (.vredmin sw w d a f h) sw w d a f h .min fun _ _ => true

/-- Executing lanes whose predicate is true (R324). -/
def votes (c : Issue) (lanes : BitVec 32) (p : Nat) : BitVec 32 :=
  maskOf ((lanesOf lanes).filter fun l => (c.w.lane l).pred p)

/-- A mask or count function: every executing lane receives the same value (R324). -/
def State.ballotOf (s : State) (i : Instr) (sw : Bool) (d : BitVec 7) (n : Nat) (p : BitVec 3) (f : BitVec 32 → Nat) :
    Host.Outcome State Fault Refusal :=
  let u : Uses := { fits := [2], vs := [(d.toNat, n)], preds := [p.toNat] }
  s.issueWith i sw u fun c t => t.vec c (u.lanes c) d.toNat n fun _ => f (votes c (u.lanes c) p.toNat)

def execBallot (sw : Bool) (d : BitVec 7) (p : BitVec 3) (s : State) : Host.Outcome State Fault Refusal :=
  s.ballotOf (.ballot sw d p) sw d 8 p fun m => m.toNat

def execVpopc (sw : Bool) (w : BitVec 3) (d : BitVec 7) (p : BitVec 3) (s : State) : Host.Outcome State Fault Refusal :=
  s.ballotOf (.vpopc sw w d p) sw d (wSlices w) p fun m => popcount m.toNat 32

/-- VFIRST: the lowest such lane, or all ones at the width (R324). -/
def execVfirst (sw : Bool) (w : BitVec 3) (d : BitVec 7) (p : BitVec 3) (s : State) : Host.Outcome State Fault Refusal :=
  s.ballotOf (.vfirst sw w d p) sw d (wSlices w) p fun m => (lowestLane m).getD (2 ^ (4 * wSlices w) - 1)

/-- The delta of a fixed shuffle: x, or the immediate of HINT.IMM, modulo 32 (R320). -/
def shuffleDelta (c : Issue) (k : BitVec 4) : Nat := match immOf c.p.hints with
  | some v => (v % 32).toNat
  | none => k.toNat

/-- A fixed shuffle: `f` gives the source lane of a lane for the delta (R320). -/
def State.shuffle (s : State) (i : Instr) (sw : Bool) (w : BitVec 3) (d a : BitVec 7) (k : BitVec 4) (f : Nat → Nat → Nat) :
    Host.Outcome State Fault Refusal :=
  let n := wSlices w
  let v : Uses :=
    { immZero := k == 0, fits := [0, 1, 2], vs := [(d.toNat, n), (a.toNat, n)], srcAll := [(a.toNat, n)] }
  let u := { v with allLanes := s.readLanes sw v fun c l => f l (shuffleDelta c k) }
  s.issueWith i sw u fun c t => t.vec c (u.lanes c) d.toNat n fun l => t.src c 0 (f l (shuffleDelta c k)) a.toNat n

def execShfu (sw : Bool) (w : BitVec 3) (d a : BitVec 7) (k : BitVec 4) (s : State) : Host.Outcome State Fault Refusal :=
  s.shuffle (.shfu sw w d a k) sw w d a k fun l m => if l < m then l else l - m

def execShfd (sw : Bool) (w : BitVec 3) (d a : BitVec 7) (k : BitVec 4) (s : State) : Host.Outcome State Fault Refusal :=
  s.shuffle (.shfd sw w d a k) sw w d a k fun l m => if 31 < l + m then l else l + m

def execShfxor (sw : Bool) (w : BitVec 3) (d a : BitVec 7) (k : BitVec 4) (s : State) : Host.Outcome State Fault Refusal :=
  s.shuffle (.shfxor sw w d a k) sw w d a k fun l m => l ^^^ m

/-- A predicate function: `f` has the first and the second predicate (R319). -/
def State.predFn (s : State) (i : Instr) (sw : Bool) (ps : List Nat) (p : BitVec 3) (f : Lane → Bool) :
    Host.Outcome State Fault Refusal :=
  let u : Uses := { fits := [2], preds := ps }
  s.issueWith i sw u fun c t => t.putPreds c (u.lanes c) 0 p fun l => f (c.w.lane l)

def execPand (sw : Bool) (f g : BitVec 3) (n : BitVec 1) (p : BitVec 3) (s : State) : Host.Outcome State Fault Refusal :=
  s.predFn (.pand sw f g n p) sw [f.toNat, g.toNat] p fun x => x.pred f.toNat && (x.pred g.toNat != (n == 1))

def execPor (sw : Bool) (f g : BitVec 3) (n : BitVec 1) (p : BitVec 3) (s : State) : Host.Outcome State Fault Refusal :=
  s.predFn (.por sw f g n p) sw [f.toNat, g.toNat] p fun x => x.pred f.toNat || (x.pred g.toNat != (n == 1))

def execPxor (sw : Bool) (f g : BitVec 3) (n : BitVec 1) (p : BitVec 3) (s : State) : Host.Outcome State Fault Refusal :=
  s.predFn (.pxor sw f g n p) sw [f.toNat, g.toNat] p fun x => x.pred f.toNat != (x.pred g.toNat != (n == 1))

def execPnot (sw : Bool) (f p : BitVec 3) (s : State) : Host.Outcome State Fault Refusal :=
  s.predFn (.pnot sw f p) sw [f.toNat] p fun x => !x.pred f.toNat

def execPmovv (sw : Bool) (w : BitVec 3) (a : BitVec 7) (n : BitVec 1) (p : BitVec 3) (s : State) :
    Host.Outcome State Fault Refusal :=
  let k := wSlices w
  let u : Uses :=
    { fits := [2], vs := [(a.toNat, k)], src := [(a.toNat, k)], preds := if n = 1 then [p.toNat] else [] }
  s.issueWith (.pmovv sw w a n p) sw u fun c t => t.putPreds c (u.lanes c) n p fun l => t.src c 0 l a.toNat k != 0

def execVmovp (sw : Bool) (w : BitVec 3) (d : BitVec 7) (p : BitVec 3) (s : State) : Host.Outcome State Fault Refusal :=
  let u : Uses := { fits := [2], vs := [(d.toNat, wSlices w)], preds := [p.toNat] }
  s.issueWith (.vmovp sw w d p) sw u fun c t => t.vec c (u.lanes c) d.toNat (wSlices w) fun l =>
    ((c.w.lane l).pred p.toNat).toNat

end Sys2Proof.Machine
end

