-- ==== Sys2Proof/Machine/Peer.lean ====
section
/-! DEFINITION. How a request to the host or to a peer ends: with its bytes, or with a failure (R27, R32, R33, R148),
and the loss of a peer. -/
namespace Sys2Proof.Machine

/-- Forget a request. -/
def State.extDrop (s : State) (r : ExtReq) : State := { s with exts := s.exts.filter (· != r) }

/-- A store outside the device ends: the warp may have waited for it. -/
def State.extStoreEnd (s : State) (r : ExtReq) : State := ((s.extDrop r).wakeResults r.warp).tryExit r.warp

/-- An error of a workgroup's prologue (R144): raised at the WORKGROUP rung, the binding and chunk in the detail. The
prologue ends there (DEDUCED, log 20). Where it climbs to the CONTEXT rung its summary names no warp, and SERIAL reads 0 (DESIGN CHOICE,
log 100). -/
def State.prologueFault (s : State) (gid : Nat) (code : FaultCode) (detail : Nat) (addr : Word) : State :=
  match s.wg? gid with
  | none => s
  | some g =>
    let at_ := g.prologue.getD (0, 0)
    let d := BitVec.ofNat 64 (at_.1 + 256 * (at_.2 % 2 ^ 32) + 2 ^ 40 * (detail % 2 ^ 16))
    (s.raiseWg gid { code := code, first := 2, addr := addr, detail := d, prologue := true }).modWg gid fun g => { g with prologue := none, torn := false }

/-! ## Queues that stop (R55) -/

/-- A queue stops with an error code; its vector is raised (R48). What it has asked for of its ring and of a record's waits is given
up with the record (R55). -/
def State.stopQueue (s : State) (p : BitVec 2) (q : BitVec 6) (code : Nat) (seq : BitVec 32) : State :=
  { s.modQueue p q fun x =>
      { x with err := BitVec.ofNat 8 code, stopped := true, stSeq := seq, halted := true, fetch := .idle } with
    exts := s.exts.filter fun r => !((r.use == 8 || r.use == 10) && r.part == p && r.job == q.toNat)
    irqs := s.irqs ++ [128 + 128 * p.toNat + q.toNat] }

/-- A queue stops and its context receives a fault at the CONTEXT rung that names no workgroup (R55, R217): `more` stands
above the SEQ and the error code of a QUEUE fault's detail (R428). -/
def State.failQueue (s : State) (p : BitVec 2) (q : BitVec 6) (c : BitVec 6) (code : Nat) (seq : BitVec 32) (more : Nat) : State :=
  let r : FaultRec :=
    if 3 ≤ code ∧ code ≤ 5 then { code := .resource, detail := BitVec.ofNat 64 (4 + 256 * code) }
    else { code := .queue, detail := BitVec.ofNat 64 (seq.toNat + 2 ^ 32 * code + 2 ^ 40 * more) }
  (s.stopQueue p q code seq).raiseCtx p c r (summaryOf r 3 0 false false true 0 s.cycle)

/-- SEQ of the record that a queue fetches or holds (R51). -/
def Queue.seq (x : Queue) : BitVec 32 := x.head + 1

/-- A launch is over and forgotten, with its reservations. -/
def State.dropLaunch (s : State) (id : Nat) : State :=
  { s with launches := s.launches.filter (·.id != id), reservations := s.reservations.filter (·.launch != id) }

/-- A record's signal has failed (R54): its work stays complete, and the queue stops with code 0x08. -/
def State.signalFailed (s : State) (id : Nat) : State :=
  match s.launch? id with
  | none => s
  | some l =>
    match l.queue with
    | some q => (s.dropLaunch id).failQueue l.part q l.ctx 8 l.record.seq 0
    | none => s.dropLaunch id

/-- A load over two pages of a peer has an answer for one: what it brought waits in the request for the other, if that is still out. -/
def State.halfDone (s : State) (r : ExtReq) (d : List Byte) (bad : Option (FaultCode × Nat)) : Option State :=
  if r.pair = 0 ∨ s.exts.all (fun x => x.pair != r.pair || x.tag == r.tag) then none
  else
    let t := s.extDrop r
    some { t with exts := t.exts.map fun x => if x.pair = r.pair then { x with have_ := d, bad := bad } else x }

def State.modJob (s : State) (id : Nat) (f : Job → Job) : State :=
  { s with jobs := s.jobs.map fun j => if j.id = id then f j else j }

/-- A job stops with a status bit, and with bit 9 too where its context was killed (R113, R221, R222): what it has completed stays, it
writes no more, and its whole byte count is still delivered (`State.completeJob`). The record of a copy has the bit at once, so that no
further chunk starts (R428). -/
def State.stopJob (s : State) (id bit : Nat) : State :=
  let s1 := s.modJob id fun j =>
    { j with status := j.status ||| (1#32 <<< bit) ||| (if j.killed then 0x200 else 0), done := true, asking := false, got := [], cur := [], out := none }
  match s.jobs.find? fun j => j.id == id with
  | some j => if j.kind = .copyRecord then s1.modLaunch j.launch fun l => { l with copyStatus := l.copyStatus ||| (1#32 <<< bit) } else s1
  | none => s1

/-- A request fails with a fault code, a detail and the status bit an engine reports (R33, R148, R221). -/
def State.extFail (s : State) (r : ExtReq) (code : FaultCode) (detail bit : Nat) : State :=
  match r.use with
  | 2 =>
    let q : StoreReq :=
      { lane := if r.lane = 32 then none else some r.lane, lanes := r.lanes
        pc := r.pc, ptr := r.ptr, data := [], inHandler := r.inHandler, seq := r.seq }
    (s.modWarp r.warp fun w => w.addLate q ⟨code, detail⟩).extStoreEnd r
  | 3 => (s.extDrop r).stopJob r.job bit
  | 5 =>
    -- the word of a WAITE (R300)
    let s1 := s.extDrop r
    match (s1.warp? r.warp).bind fun w => w.split r.split with
    | some p => match p.wait with
      | .waite _ _ => s1.takeFault ⟨r.warp, r.split⟩ p.pc
          { code := code, fmask := p.mask, counter := r.pc, addr := r.ptr, detail := BitVec.ofNat 64 detail }
      | _ => s1
    | none => s1
  | 6 => s.extDrop r
  | 8 =>
    let q := BitVec.ofNat 6 r.job
    let x := (s.part r.part).queue q
    (s.extDrop r).failQueue r.part q x.ctx 8 x.seq 0
  | 9 => (s.extDrop r).signalFailed r.job
  | 10 =>
    let q := BitVec.ofNat 6 r.job
    let x := (s.part r.part).queue q
    (s.extDrop r).failQueue r.part q x.ctx 7 x.seq 0
  | 7 => ((s.extDrop r).modWg r.job fun g => { g with jibAsks := false }).prologueFault r.job code detail r.ptr
  | _ =>
    (s.halfDone r [] (some (code, detail))).getD ((s.extDrop r).laneOutcome ⟨r.warp, r.split⟩ r.lane
      (some { code := code, counter := r.pc, addr := r.ptr, detail := BitVec.ofNat 64 detail }))

/-- The result of a load or an atomic of a lane, of a uniform load or of an LDH, is on its way (R206); an acquire takes place here, where
the read does (R193). -/
def State.extValue (s : State) (r : ExtReq) (v : Nat) : State :=
  let s := if r.acquire then s.dropCache r.core else s
  if r.lane = 32 then
    s.modWarp r.warp fun w => w.later r.split (if r.width = 64 then .shape r.dest else .ureg r.dest) v
  else if r.width = 0 then s
  else s.modWarp r.warp fun w => w.later r.split (.slices r.lane r.dest r.width) v

/-- Arrivals at POD object `i` of a context that a lost peer still owes the present phase (R33): what it made at the last phase beyond
what it has made at this one, or any number where none has completed, chosen freely; no more than are missing (DESIGN CHOICE, log 16). -/
def State.podOwed (s : State) (x : Barrier) (dev : BitVec 8) (i : Nat) : Nat :=
  let left := x.expected.toNat - x.arrived.toNat
  let last := Sparse.get 0 x.fromLast dev.toNat
  if x.fromLast.isEmpty then Config.pick s.free 17 dev.toNat i % (left + 1)
  else min left (last - Sparse.get 0 x.from_ dev.toNat)

/-- The arrivals that a lost peer owes the POD objects of a partition count as complete, with PEER_LOST in the status (R33). Bytes that
no operation of this device is to deliver are no longer waited for (DESIGN CHOICE, log 16). -/
def State.podLost (s : State) (p : BitVec 2) (dev : BitVec 8) : State :=
  (List.range 64).foldl (fun t c => (List.range 16).foldl (fun t i =>
    let b := BarAt.net p (BitVec.ofNat 6 c) (16384 + i) 4
    let x := { t.bar b with away := (t.bar b).away.filter (·.1 != dev), freed := (t.bar b).freed.filter (·.1 != dev) }
    let owed := t.podOwed x dev i
    if x.init = false ∨ owed = 0 then t.setBar b x
    else
      let mine := t.jobs.any fun j => j.part == p && j.ctx.toNat == c && bits j.bar 61 3 == 4 && bits j.bar 0 8 == i
      (t.setBar b { x with
        arrived := x.arrived + BitVec.ofNat 16 owed, current := x.current ||| 0x20
        pending := if mine then x.pending else 0 }).testBar b) t) s

/-- A split that waits on a word of a lost peer faults TIMEOUT (R300, R33). -/
def State.waiteLost (s : State) (p : BitVec 2) (dev : BitVec 8) : State :=
  s.warps.foldl (fun t w => (List.range 4).foldl (fun t n =>
    match (t.warp? w.id).bind fun w => w.split n with
    | some q => match q.wait with
      | .waite ptr _ =>
        if (t.wg? w.wg).any (fun g => g.part == p) && bits ptr.toNat 60 4 == 6 && bits ptr.toNat 52 8 == dev.toNat &&
            dev != t.podIndex then
          t.takeFault ⟨w.id, n⟩ q.pc
            { code := .timeout, fmask := q.mask, addr := ptr, counter := q.pc + BitVec.ofNat 64 (4 * (q.runLen - 1)) }
        else t
      | _ => t
    | none => t) t) s

/-- Does a pointer name bytes of peer `dev`? -/
def toPeer (dev : BitVec 8) (p : Nat) : Bool := bits p 60 4 == 6 && bits p 52 8 == dev.toNat

/-- Engine operations of a partition towards a lost peer stop with PEER_LOST, those that are queued or between chunks too; one that is
yet to meet an address of the peer, an element of a list, stops when it does (R33, `Job.lostAt`). -/
def State.jobsLost (s : State) (p : BitVec 2) (dev : BitVec 8) : State :=
  (s.jobs.filter fun j => j.part == p && !j.done).foldl (fun t j =>
    if toPeer dev j.dst.toNat || toPeer dev j.src.toNat then t.stopJob j.id 5
    else t.modJob j.id fun j => { j with lost := j.lost ++ [dev] }) s

/-- A peer is declared lost (R32, R33). -/
def State.peerLost (s : State) (p : BitVec 2) (dev : BitVec 8) : State :=
  let s1 := (s.modSession p dev.toNat fun x => { x with state := 3 }).raiseEvt 1
  let s2 := (s1.exts.filter fun r => r.peer == some dev && r.part == p).foldl (fun t r => t.extFail r .timeout 0 5) s1
  ((s2.jobsLost p dev).waiteLost p dev).podLost p dev

/-- No plane reaches a peer that an instruction under way asks: its loss is declared behind this step (R32). -/
def State.losePeer (s : State) (p : BitVec 2) (dev : BitVec 8) : State :=
  if s.lost.contains (p, dev) then s else { s with lost := s.lost ++ [(p, dev)] }

/-- The peers found lost in this step are declared so (R32, R33). -/
def State.lostDue (s : State) : State := s.lost.foldl (fun t x => t.peerLost x.1 x.2) { s with lost := [] }

end Sys2Proof.Machine
end

