-- ==== Sys2Proof/Machine/Mem.lean ====
section
/-! DEFINITION. Loads, stores, line loads, compress-stores, spills, prefetches and fences: the MEM instructions (R326 to
R334), and the uniform loads and stores made of the same operations (R289). -/
namespace Sys2Proof.Machine

/-! ## Loads -/

/-- What is known of one lane's access at issue. -/
inductive LaneAns where
  | done
  | waits
  | bad (e : MErr)
  deriving DecidableEq, Repr

/-- Lanes of a precise instruction after its issue. -/
structure LaneRun where
  st : State
  done : BitVec 32 := 0
  waiting : BitVec 32 := 0
  faults : LaneFaults := []

/-- Add one lane's answer. -/
def LaneRun.add (r : LaneRun) (l : Nat) (addr : Word) (x : State × LaneAns) : LaneRun :=
  match x.2 with
  | .done => { r with st := x.1, done := r.done ||| (1#32 <<< l) }
  | .waits => { r with st := x.1, waiting := r.waiting ||| (1#32 <<< l) }
  | .bad e => { r with st := x.1, faults := r.faults ++ [(l, { code := e.code, addr := addr, detail := BitVec.ofNat 64 e.detail })] }

/-- The instruction ends for the lanes of this attempt and of earlier ones (R206, R208). -/
def LaneRun.finish (r : LaneRun) (c : Issue) : State := r.st.awaitOutcome c r.waiting (r.done ||| c.doneBefore) r.faults

/-- The pointer of lane `l` in the 16 slices at a field, with the offset of HINT.OFFS (R270, R326). -/
def State.lanePtr (s : State) (c : Issue) (l : Nat) (field : BitVec 7) : Nat :=
  trunc ((s.src c 0 l field.toNat 16 : Int) + offsOf c.p.hints) 64

/-- The orders that HINT.ORD gives a load or store: its ordering code where it is not relaxed, and its scope. -/
def sideOf (c : Issue) : Option Nat := match ordOf c.p.hints with
  | some (o, sc) => if o = 0 then none else some sc
  | none => none

/-- Is some part of an access at the host in a range that gives no completion (R148)? -/
def State.silent (s : State) (ps : List (Place × Nat)) : Bool := ps.any fun x => match x.1 with
  | .host a => s.hostSilent a x.2
  | _ => false

/-- Bytes of an access at peer address `a` that lie in the page of its first byte. -/
def pageBytes (a n : Nat) : Nat := min n (4096 - a % 4096)

/-- Send a request outside the device and let the lane wait, behind the lane's own earlier stores at these bytes and, to a peer, every
earlier store to its pages (R26); a read over two pages is a request to each, on the plane of each. With no plane to the peer it is
lost (R32, R33). -/
def State.ask (s : State) (c : Issue) (ps : List (Place × Nat)) (op : PeerOp) (r : ExtReq) : State × LaneAns :=
  let s1 := s.settleMeeting c.id.warp (if r.lane = 32 then none else some r.lane) ps
  match peerOf ps with
  | some (dev, a) =>
    let s2 := s1.beforePages ps
    let n := match op with
      | .read n => n
      | _ => 0
    let k := pageBytes a n
    match if k = n then s2.peerRequest c.g.part dev a op r
        else (s2.peerRequest c.g.part dev a (.read k) { r with pair := s2.nextId + 1 }).bind fun t =>
          t.peerRequest c.g.part dev (a + k) (.read (n - k)) { r with pair := s2.nextId + 1, upper := true } with
    | some s3 => (s3, .waits)
    | none => (s2.losePeer c.g.part dev, .bad ⟨.timeout, 0⟩)
  | none => (s1.addExt { r with part := c.g.part }, .waits)

/-- A request's fields that name the issuing split and instruction. -/
def Issue.ext (c : Issue) (lane : Option Nat) (use : Nat) (ptr : Nat) (seq : Nat) : ExtReq :=
  { tag := 0, core := c.w.core, warp := c.id.warp, split := c.id.split, lane := lane.getD 32, use := use,
    ptr := BitVec.ofNat 64 ptr, pc := c.pc, inHandler := c.w.inHandler c.id.split, seq := seq }

/-- A load of private memory never uses the row cache (R176), which R328 has it go through (DEDUCED, log 87). -/
def privBypass (p : Nat) : Bool := bits p 60 4 == 1 || bits p 60 4 == 7

/-- One load of `n` bytes at `p` for a lane, or for the split (R206, R327, R328). Its outcome is decided now; its bytes
are read at any moment until the result lands. An acquire reads the bytes of one sector now, and those of several while its split
waits for its outcome (R182, R193; DEDUCED, log 79). The lane's own earlier stores and loads at these bytes come first. -/
def State.loadFor (s : State) (c : Issue) (lane : Option Nat) (p n : Nat) (dest : Dest) (now bypass stream : Bool) :
    State × LaneAns :=
  match s.places (c.agent lane) .load p n with
  | (s1, .error e) => (s1.countBad (c.agent lane) p n false, .bad e)
  | (s1, .ok ps) =>
    let r : LoadReq := { core := c.w.core, lane := lane, pieces := ps, bypass := bypass || privBypass p, stream := stream }
    let s2 := s1.countLoad (c.agent lane) p r
    if (peerOf ps).isSome ∨ s2.silent ps then
      let q := { c.ext lane 0 p s.free with acquire := now && (sideOf c).any fun sc => decide (1 ≤ sc) }
      s2.ask c ps (.read n) (match dest with
        | .slices _ st k => { q with dest := st, width := k }
        | .ureg k => { q with dest := k }
        | .shape k => { q with dest := k, width := 64 }
        | _ => q)
    else
      let s3 := (s2.settleMeeting c.id.warp lane ps).bindIf c.id.warp fun x =>
        (x.lane == lane || x.lane.isNone || lane.isNone) && placesOverlap x.unread ps
      if now && decide (1 < ps.length) then
        (s3.modWarp c.id.warp fun w =>
          { w with pending := w.pending ++ [{ split := c.id.split, dest := dest, value := 0, load := some r, acq := some ((sideOf c).getD 0) }] }, .waits)
      else if now then
        let y := s3.loadBytes r
        (y.1.modWarp c.id.warp fun w => w.later c.id.split dest (leNat y.2), .done)
      else
        (s3.modWarp c.id.warp fun w =>
          { w with pending := w.pending ++ [{ split := c.id.split, dest := dest, value := 0, load := some r }] }, .done)

/-- A load instruction of the executing lanes that an earlier attempt has not completed: `n` bytes at the pointer that
`ptr` makes of the lane's, into `k` slices (R327, R329, R332). -/
def State.loadLanes (s : State) (c : Issue) (u : Uses) (d a : BitVec 7) (n k : Nat) (ptr : Nat → Nat) : State :=
  let ls := lanesOf (u.lanes c &&& ~~~c.doneBefore)
  let acq := sideOf c
  let s1 := match acq with
    | some sc => if ls.isEmpty then s else s.acquire c.w.core sc
    | none => s
  let cache := (hintOf c.p.hints 6).getD 0
  (ls.foldl (fun (r : LaneRun) l =>
    let p := ptr (s.lanePtr c l a)
    r.add l (BitVec.ofNat 64 p) (r.st.loadFor c (some l) p n (c.dst l d.toNat k) acq.isSome (cache == 1) (cache == 2)))
    { st := s1 }).finish c

/-- Bytes of a LD or ST: the width, or 32 with x = 1 (R327). -/
def memBytes (w : BitVec 3) (x : BitVec 1) : Nat := if x = 1 then 32 else wSlices w / 2

/-- Widths that LD and ST allow (R264). -/
def memWidthOk (w : BitVec 3) (x : BitVec 1) : Bool := if x = 1 then w == 7 else w != 0 && w != 2

def execLd (sw : Bool) (g w : BitVec 3) (d a : BitVec 7) (x : BitVec 1) (s : State) : Host.Outcome State Fault Refusal :=
  let n := memBytes w x
  let u : Uses :=
    { okWidth := memWidthOk w x, orders := true, fits := [2, 5, 6, 7], ords := [0, 1], guard := some g,
      vs := [(d.toNat, 2 * n), (a.toNat, 16)], src := [(a.toNat, 16)] }
  s.issueWith (.ld sw g w d a x) sw u fun c t => t.loadLanes c u d a n (2 * n) id

/-- LDL (R329): whole sectors from the one that holds the pointer. -/
def execLdl (sw : Bool) (g w : BitVec 3) (d a : BitVec 7) (s : State) : Host.Outcome State Fault Refusal :=
  let n := 32 * 2 ^ w.toNat
  let u : Uses :=
    { okWidth := decide (w < 3), orders := true, fits := [2, 5, 6, 7], ords := [0, 1], guard := some g,
      vs := [(d.toNat, 2 * n), (a.toNat, 16)], src := [(a.toNat, 16)] }
  s.issueWith (.ldl sw g w d a) sw u fun c t => t.loadLanes c u d a n (2 * n) fun p => p / 32 * 32

/-- Slices of LDS and STS (R332). -/
def spillCount (w : BitVec 3) (x : BitVec 1) : Nat := if x = 1 then 8 * wSlices w else wSlices w

def execLds (sw : Bool) (g w : BitVec 3) (d a : BitVec 7) (x : BitVec 1) (s : State) : Host.Outcome State Fault Refusal :=
  let k := spillCount w x
  let u : Uses :=
    { orders := true, fits := [2, 7], guard := some g, vs := [(d.toNat, k), (a.toNat, 16)], src := [(a.toNat, 16)] }
  s.issueWith (.lds sw g w d a x) sw u fun c t => t.loadLanes c u d a ((k + 1) / 2) k id

/-! ## Stores -/

/-- Issue a store of the instruction numbered `seq`: it is outstanding until it is performed or dropped (R210), and its bytes are
counted (R415). -/
def State.storeAs (s : State) (c : Issue) (seq : Nat) (lane : Option Nat) (p : Nat) (data : List Byte) (release : Option Nat) : State :=
  let q : StoreReq :=
    { lane := lane, lanes := match lane with
        | some l => 1#32 <<< l
        | none => c.p.mask,
      pc := c.pc, ptr := BitVec.ofNat 64 p, data := data, inHandler := c.w.inHandler c.id.split, release := release,
      seq := seq }
  (s.countStore c.w c.g q).modWarp c.id.warp fun w => { w with stores := w.stores ++ [q] }

/-- Issue a store of an instruction that issues now. -/
def State.storeFor (s : State) (c : Issue) (lane : Option Nat) (p : Nat) (data : List Byte) (release : Option Nat) : State :=
  s.storeAs c s.free lane p data release

/-- A store instruction: `k` slices at d, `n` bytes (R327, R332). -/
def State.storeLanes (s : State) (c : Issue) (u : Uses) (d a : BitVec 7) (n k : Nat) : State :=
  ((lanesOf (u.lanes c)).foldl (fun t l =>
    t.storeFor c (some l) (s.lanePtr c l a) (leBytes n (s.src c 1 l d.toNat k)) (sideOf c)) s).complete c

def execSt (sw : Bool) (g w : BitVec 3) (d a : BitVec 7) (x : BitVec 1) (s : State) : Host.Outcome State Fault Refusal :=
  let n := memBytes w x
  let u : Uses :=
    { okWidth := memWidthOk w x, fits := [2, 5, 7], ords := [0, 2], guard := some g,
      vs := [(d.toNat, 2 * n), (a.toNat, 16)], src := [(a.toNat, 16), (d.toNat, 2 * n)] }
  s.issueWith (.st sw g w d a x) sw u fun c t => t.storeLanes c u d a n (2 * n)

def execSts (sw : Bool) (g w : BitVec 3) (d a : BitVec 7) (x : BitVec 1) (s : State) : Host.Outcome State Fault Refusal :=
  let k := spillCount w x
  let u : Uses :=
    { fits := [2, 7], guard := some g, vs := [(d.toNat, k), (a.toNat, 16)], src := [(a.toNat, 16), (d.toNat, k)] }
  s.issueWith (.sts sw g w d a x) sw u fun c t => t.storeLanes c u d a ((k + 1) / 2) k

/-- The lanes X of an STC: those that execute, and on a resume those of `%prog` (R330). -/
def stcLanes (u : Uses) (c : Issue) : BitVec 32 := u.lanes c ||| c.doneBefore

/-- An STC begins, or begins again after a pre-emption: its sources are read (R9), the pointer in the lowest lane of X, the lanes that
have stored among them, and the value of each lane that has still to store, at the place that its rank in X gives it (R330). Its stores
are those of one instruction, before a pre-emption and after (R210). -/
def State.stcStart (s : State) (u : Uses) (c : Issue) (d a : BitVec 7) (n : Nat) : StoreRun :=
  let xs := lanesOf (stcLanes u c)
  let base := s.lanePtr c (xs.headD 0) a
  let left := (List.range xs.length).filter fun k => !c.doneBefore.getLsbD (xs.getD k 0)
  { todo := left.map fun k => (xs.getD k 0, BitVec.ofNat 64 (base + k * n), leBytes n (s.src c 1 (xs.getD k 0) d.toNat (2 * n)))
    done := c.doneBefore
    seq := match c.p.stc with
      | some r => if c.doneBefore = 0 then s.free else r.seq
      | none => s.free }

/-- The next `m` lanes of an STC store. -/
def State.stcStores (s : State) (c : Issue) (run : StoreRun) (m : Nat) : State :=
  (run.todo.take m).foldl (fun t x => t.storeAs c run.seq (some x.1) x.2.1.toNat x.2.2 (sideOf c)) s

/-- STC (R330, R331): the executing lanes' values in consecutive places. After as many lanes as a free value says it goes on when its
split is chosen again, so that a halt may come between; only that records its progress (`Split.stopStc`, R106; DEDUCED, log 17). -/
def execStc (sw : Bool) (g w : BitVec 3) (d a : BitVec 7) (s : State) : Host.Outcome State Fault Refusal :=
  let n := memBytes w 0
  let u0 : Uses :=
    { okWidth := memWidthOk w 0, fits := [2, 5, 7], ords := [0, 2], guard := some g,
      vs := [(d.toNat, 2 * n), (a.toNat, 16)], src := [(d.toNat, 2 * n)], src1 := [(a.toNat, 16)] }
  let u := { u0 with lane1 := ((s.issue? sw).bind fun c => lowestLane (stcLanes u0 c)).getD 0 }
  s.issueWith (.stc sw g w d a) sw u fun c t =>
    let run := match c.p.stc with
      | some r => if r.halted then t.stcStart u c d a n else r
      | none => t.stcStart u c d a n
    let left := run.todo.length
    let m := Config.pick t.free 19 c.id.split left % left + 1
    let t1 := t.stcStores c run m
    if left ≤ m then t1.complete c
    else (t1.waitAt c .ready).modSplit c.id fun p =>
      { p with stc := some { run with todo := run.todo.drop m, done := run.done ||| maskOf ((run.todo.take m).map (·.1)) } }

/-! ## Prefetch and the row cache (R333) -/

/-- Bring the valid sectors of a line into the row cache, and count those that leave home for it (R415); a page that is not mapped, or
that a load could not read, is left alone (DEDUCED, log 75). -/
def State.prefetch (s : State) (c : Issue) (l p : Nat) (stream : Bool) : State :=
  let ag := c.agent (some l)
  match s.walk ag.part ag.ctx (bits p 0 57) with
  | .leaf _ => [0, 32, 64, 96].foldl (fun t i =>
      match t.place ag .load (p / 128 * 128) i 32 128 with
      | (t1, .ok (.mem key)) =>
        let r : LoadReq := { core := c.w.core, lane := some l, pieces := [(.mem key, 32)], stream := stream }
        ((t1.countLoad ag p r).loadPart r (.mem key) 32).1
      | _ => t) s
  | _ => s

def execPref (sw : Bool) (g : BitVec 3) (a : BitVec 7) (s : State) : Host.Outcome State Fault Refusal :=
  let u : Uses := { fits := [2, 6, 7], guard := some g, vs := [(a.toNat, 16)], src := [(a.toNat, 16)], unchecked := true }
  s.issueWith (.pref sw g a) sw u fun c t =>
    let cache := (hintOf c.p.hints 6).getD 0
    ((lanesOf (u.lanes c)).foldl (fun r l =>
      let p := t.lanePtr c l a
      if (bits p 60 4 = 3 ∨ bits p 60 4 = 5) ∧ cache ≠ 1 then r.prefetch c l p (cache == 2) else r) t).complete c

/-! ## Fences (R334) -/

/-- FENCE: the loads before it take their bytes, the quad's lines are written back by any fence at DIE or wider (R188), and the split
parks until the warp's stores are settled. -/
def execFence (sw : Bool) (g c : BitVec 3) (k : BitVec 2) (s : State) : Host.Outcome State Fault Refusal :=
  let u : Uses := { okOp := decide (c < 6), fits := [2], guard := some g }
  s.issueWith (.fence sw g c k) sw u fun i t =>
    let sc := c.toNat
    let on := decide (u.lanes i ≠ 0)
    let acq := on && k != 1 && decide (1 ≤ sc)
    let t1 := t.bindIf i.id.warp fun r => match r.lane with
      | some l => (u.lanes i).getLsbD l
      | none => true
    let t2 := if on && decide (2 ≤ sc) then t1.writeBack (quadOf i.w.core) else t1
    let t3 := if acq then t2.dropCache i.w.core else t2
    -- under the switch marker the split waits for its results as well
    let t4 := if sw then t3.dropLatch fun e => e.core == i.w.core && e.group == slotGroup i.w.slot else t3
    ((t4.complete { i with sw := false }).modSplit i.id fun p => { p with wait := .fence acq, sw := sw }).unpark i.id.warp

def execFlushrc (sw : Bool) (s : State) : Host.Outcome State Fault Refusal :=
  s.issueWith (.flushrc sw) sw {} fun c t => (t.dropCache c.w.core).complete c

/-! ## Uniform loads and stores (R289) -/

/-- The pointer of SLD and SST. -/
def uniformPtr (c : Issue) (a : BitVec 6) : Nat := trunc ((c.ureg a : Int) + offsOf c.p.hints) 64

/-- A uniform access ends: a fault names the active mask (DEDUCED, log 15). -/
def State.uniformEnd (s : State) (c : Issue) (addr : Word) : LaneAns → State
  | .done => s.complete c
  | .waits => s.awaitOutcome c 1 0 []
  | .bad e => s.faultAt c e.code c.p.mask addr e.detail

/-- Read `n` bytes at `p` for the split as a load does, now (R293, R351). -/
def State.readSeen (s : State) (c : Issue) (p n : Nat) : State × Except MErr (List Byte) :=
  match s.places (c.agent none) .load p n with
  | (s1, .error e) => (s1.countBad (c.agent none) p n false, .error e)
  | (s1, .ok ps) =>
    let r : LoadReq := { core := c.w.core, lane := none, pieces := ps }
    let s2 := (((s1.countLoad (c.agent none) p r).settleMeeting c.id.warp none ps).bindIf c.id.warp fun x => placesOverlap x.unread ps)
    let y := s2.loadBytes r
    (y.1, .ok y.2)

def execSld (sw : Bool) (d a : BitVec 6) (x : BitVec 2) (s : State) : Host.Outcome State Fault Refusal :=
  let u : Uses := { orders := true, okOp := decide (x < 2), fits := [7], uregs := [a.toNat] }
  s.issueWith (.sld sw d a x) sw u fun c t =>
    let p := uniformPtr c a
    let r := t.loadFor c none p (if x = 0 then 8 else 4) (.ureg d.toNat) false false false
    r.1.uniformEnd c (BitVec.ofNat 64 p) r.2

def execSst (sw : Bool) (d a : BitVec 6) (x : BitVec 2) (s : State) : Host.Outcome State Fault Refusal :=
  let u : Uses := { okOp := decide (x < 2), fits := [7], uregs := [d.toNat, a.toNat] }
  s.issueWith (.sst sw d a x) sw u fun c t =>
    (t.storeFor c none (uniformPtr c a) (leBytes (if x = 0 then 8 else 4) (c.ureg d)) none).complete c

end Sys2Proof.Machine
end

