-- ==== Sys2Proof/Machine/Atom.lean ====
section
/-! DEFINITION. Scoped atomics: the ATOM instructions (R183 to R188, R252, R335 to R337). -/
namespace Sys2Proof.Machine

/-! ## Operations (R336) -/

/-- One pair step of REDC on patterns (R252). -/
def redcStep (f : FloatFmt) (s err x : Nat) : Nat × Nat :=
  let v := fun (y : Nat) => f.decode y
  let add := fun (y z : Nat) => (f.addVal {} (v y) (v z)).code
  let sub := fun (y z : Nat) => (f.addVal {} (v y) (v z).negate).code
  let s' := add s x
  let b := sub s' s
  let e := add (sub s (sub s' b)) (sub x b)
  if (v s).isNaN || (v err).isNaN || (v x).isNaN then (f.nanCode, f.nanCode)
  else match v s' with
    | .fin _ _ _ => (s', add err e)
    | _ => (s', err)

/-- An atomic operation at `n` bytes: what it writes, if it writes, from the old value, v and the second operand. -/
abbrev AtomOp := Nat → Nat → Nat → Nat → Option Nat

/-- The format of an atomic of n bytes. -/
def atomFmt (n : Nat) : FloatFmt := if n = 4 then .f32 else .f64

/-- The value of an atomic by the code of its operation (R265, R336), for the host interface, peers, and the device. -/
def atomNew (op n old v second : Nat) : Option Nat :=
  let b := 8 * n
  let f := atomFmt n
  match op with
  | 0 => some ((old + v) % 2 ^ b)
  | 1 => some (if sle b old v then old else v)
  | 2 => some (if sle b old v then v else old)
  | 3 => some (min old v)
  | 4 => some (max old v)
  | 5 => some (old &&& v)
  | 6 => some (old ||| v)
  | 7 => some (old ^^^ v)
  | 8 => some v
  | 9 => if old = v then some second else none
  | 10 => some (f.addVal {} (f.decode old) (f.decode v)).code
  | 11 => some (f.minMax true old v).code
  | 12 => some (f.minMax false old v).code
  | 13 =>
    let h := n / 2
    let r := redcStep (atomFmt h) (bits old 0 (8 * h)) (bits old (8 * h) (8 * h)) v
    some (r.1 + r.2 * 2 ^ (8 * h))
  | _ => some (if v ≤ old then 0 else old + 1)

/-- Bytes of an atomic (R336). -/
def atomBytes (op : Nat) (wide : Bool) : Nat := (if wide then 8 else 4) * (if op = 13 then 2 else 1)

/-! ## Loci (R186) -/

/-- Where an atomic executes. -/
inductive Locus where
  | quad | home | banks | hostIf | peer
  deriving DecidableEq, Repr

/-- The locus of an atomic at a place under a scope code; none where the scope does not fit the space. -/
def locusOf (scope : Nat) : Place → Option Locus
  | .scr _ _ => some .banks
  | .mem _ => some (if scope ≤ 1 then .quad else .home)
  | .host _ => if scope = 5 then some .hostIf else none
  | .peer _ _ => if scope = 4 then some .peer else none

/-- Does the scope fit the space of a pointer, whatever else is wrong with it? -/
def State.scopeFits (s : State) (scope ptr : Nat) : Bool :=
  match bits ptr 60 4 with
  | 4 => scope == 5
  | 6 => scope == 4 || bits ptr 52 8 == s.podIndex.toNat
  | _ => true

/-- A read-modify-write of `n` bytes at a place, by a core: the old value (R186, R188). The line leaves the core's row
cache first (R176). -/
def State.rmw (s : State) (core : Nat) (loc : Locus) (pl : Place) (n : Nat) (f : Nat → Option Nat) : State × Nat :=
  match loc, pl with
  | .quad, .mem key =>
    let s1 := s.dropLines core key n
    let old := leNat (s1.quadBytes (quadOf core) key n)
    (match f old with
      | some v => (s1.hold (quadOf core) key (leBytes n v)).nudge pl n
      | none => s1, old)
  | _, .mem key =>
    let s1 := s.dropLines core key n
    let old := s1.homeNat key n
    (match f old with
      | some v => (s1.writeHome key (leBytes n v)).nudge pl n
      | none => s1, old)
  | _, _ =>
    let old := leNat (s.readPlace (quadOf core) pl n)
    (match f old with
      | some v => (s.writePlace pl (leBytes n v)).nudge pl n
      | none => s, old)

/-- An EXCH or CAS at home that changes a descriptor's STATE from 2 to 3 starts its table's retirement (R159): `va` is the
row address of the atomic's `n` bytes, `key` their place, `old` and `new` their contents. The descriptor is one that a Halyard has made
live, by whatever mapping, or stands in the directory of the context. -/
def State.noteRetire (s : State) (p : BitVec 2) (c : BitVec 6) (va key n old new : Nat) : State :=
  let gone := fun (i : Nat) => bits old (8 * i) 8 == 2 && bits new (8 * i) 8 == 3
  match s.descs.find? fun x => decide (key ≤ x.key + 1) && decide (x.key + 1 < key + n) && gone (x.key + 1 - key) with
  | some x => { s with retiring := s.retiring ++ [(x.part, x.ctx, x.ptr)] }
  | none =>
  let x := s.ctx p c
  let base := x.dirBase % 2 ^ 57
  if x.tableDir = 0 then s
  else match (List.range n).find? fun i => decide (base ≤ va + i) && decide (va + i < base + 64 * x.dirCount) &&
      (va + i - base) % 64 == 1 && gone i with
    | some i => { s with retiring := s.retiring ++ [(p, c, x.dirBase + (va + i - base) / 64 * 64)] }
    | none => s

/-- What comes before an atomic of some lanes: a release has their accesses performed, and at DIE or wider the quad's lines are
written back (R188, R193); it goes on as `k` says. -/
def State.beforeAtomic (s : State) (c : Issue) (lanes : BitVec 32) (scope : Nat) (release : Bool) (k : State → State) : State :=
  if release then s.releaseTo c lanes scope k else k (if 2 ≤ scope then s.writeBack (quadOf c.w.core) else s)

/-- One atomic of a lane, or of the split (R206, R336). `ret` is where the old value goes, in how many slices from which, or
none. -/
def State.atomFor (s : State) (c : Issue) (lane : Option Nat) (op n scope p v second : Nat) (ret : Option (Nat × Nat))
    (acquire : Bool) : State × LaneAns :=
  if bits p 60 4 = 0 then (s, .bad ⟨.nullDeref, 0⟩)
  else if p % n ≠ 0 then (s, .bad ⟨.misalignAtomic, 0⟩)
  else if s.scopeFits scope p = false then (s, .bad ⟨.badSpace, 0⟩)
  else match s.places (c.agent lane) .atomic p n with
    | (s1, .error e) => (s1.countBad (c.agent lane) p n true, .bad e)
    | (s1, .ok ps) =>
      match ps with
      | [(pl, _)] =>
        match locusOf scope pl with
        | none => (s1, .bad ⟨.badSpace, 0⟩)
        | some loc =>
          -- whether an atomic counts as a read or as a write the manual does not say (DESIGN CHOICE, log 1)
          let s2 := s1.count c.w.core c.g.part (s1.tableSet (c.agent lane) p) pl (Config.pick s.free 11 (lane.getD 32) 0 % 2 == 1) n
          if loc = .peer ∨ s2.silent ps then
            s2.ask c ps (.atomic (BitVec.ofNat 4 op) (n == atomBytes op true) v second)
              { c.ext lane 1 p s.free with
                dest := (ret.map (·.1)).getD 0, width := (ret.map (·.2)).getD 0, acquire := acquire && decide (1 ≤ scope) }
          else
            let s3 := (s2.settleMeeting c.id.warp lane ps).bindIf c.id.warp fun x =>
              (x.lane == lane || x.lane.isNone || lane.isNone) && placesOverlap x.unread ps
            let r0 := s3.rmw c.w.core loc pl n fun old => atomNew op n old v second
            let r := (match pl with
              | .mem key => if loc = .home ∧ (op = 8 ∨ op = 9) ∧ [3, 5, 6].contains (bits p 60 4) then
                  r0.1.noteRetire c.g.part c.g.ctx (bits p 0 (if bits p 60 4 = 6 then 52 else 57)) key n r0.2 ((atomNew op n r0.2 v second).getD r0.2)
                else r0.1
              | _ => r0.1, r0.2)
            (match ret, lane with
              | some (st, k), some l => r.1.modWarp c.id.warp fun w => w.later c.id.split (.slices l st k) r.2
              | _, _ => r.1, .done)
      | _ => (s1, .bad ⟨.badSpace, 0⟩)

/-- An ATOM instruction (R336, R337): the lanes are performed in ascending order within one step, those of different locations too, which
R337 leaves unordered (DESIGN CHOICE, log 80). -/
def State.atomics (s : State) (i : Instr) (sw : Bool) (op : Nat) (c g : BitVec 3) (w : BitVec 1) (d a : BitVec 7) (n : BitVec 1) :
    Host.Outcome State Fault Refusal :=
  let nb := atomBytes op (w == 1)
  let m := if op = 13 then nb else 2 * nb
  let dw := if op = 9 then 2 * m else m
  let u : Uses :=
    { orders := true, okOp := decide (c < 6), fits := [2, 5, 7], ords := [0, 1, 2, 3], ordScope := some c.toNat, guard := some g,
      vs := [(d.toNat, dw), (a.toNat, 16)], src := [(d.toNat, dw), (a.toNat, 16)] }
  s.issueWith i sw u fun k t =>
    let ls := lanesOf (u.lanes k &&& ~~~k.doneBefore)
    let ord := ((ordOf k.p.hints).map (·.1)).getD 0
    let sc := c.toNat
    if ls.isEmpty then ({ st := t } : LaneRun).finish k
    else t.beforeAtomic k (maskOf ls) sc (2 ≤ ord) fun t1 =>
      let r := ls.foldl (fun (r : LaneRun) l =>
        let p := t.lanePtr k l a
        r.add l (BitVec.ofNat 64 p) (r.st.atomFor k (some l) op nb sc p (t.src k 1 l d.toNat m)
          (if op = 9 then t.src k 2 l (d.toNat + m) m else 0) (if n = 1 then none else some (k.abs d.toNat, m)) (ord % 2 == 1)))
        { st := t1 }
      (if ord % 2 = 0 then r else { r with st := r.st.acquire k.w.core sc }).finish k

def execAtomAdd (sw : Bool) (c g : BitVec 3) (w : BitVec 1) (d a : BitVec 7) (n : BitVec 1) (s : State) :
    Host.Outcome State Fault Refusal :=
  s.atomics (.atomAdd sw c g w d a n) sw 0 c g w d a n

def execAtomMin (sw : Bool) (c g : BitVec 3) (w : BitVec 1) (d a : BitVec 7) (n : BitVec 1) (s : State) :
    Host.Outcome State Fault Refusal :=
  s.atomics (.atomMin sw c g w d a n) sw 1 c g w d a n

def execAtomMax (sw : Bool) (c g : BitVec 3) (w : BitVec 1) (d a : BitVec 7) (n : BitVec 1) (s : State) :
    Host.Outcome State Fault Refusal :=
  s.atomics (.atomMax sw c g w d a n) sw 2 c g w d a n

def execAtomMinu (sw : Bool) (c g : BitVec 3) (w : BitVec 1) (d a : BitVec 7) (n : BitVec 1) (s : State) :
    Host.Outcome State Fault Refusal :=
  s.atomics (.atomMinu sw c g w d a n) sw 3 c g w d a n

def execAtomMaxu (sw : Bool) (c g : BitVec 3) (w : BitVec 1) (d a : BitVec 7) (n : BitVec 1) (s : State) :
    Host.Outcome State Fault Refusal :=
  s.atomics (.atomMaxu sw c g w d a n) sw 4 c g w d a n

def execAtomAnd (sw : Bool) (c g : BitVec 3) (w : BitVec 1) (d a : BitVec 7) (n : BitVec 1) (s : State) :
    Host.Outcome State Fault Refusal :=
  s.atomics (.atomAnd sw c g w d a n) sw 5 c g w d a n

def execAtomOr (sw : Bool) (c g : BitVec 3) (w : BitVec 1) (d a : BitVec 7) (n : BitVec 1) (s : State) :
    Host.Outcome State Fault Refusal :=
  s.atomics (.atomOr sw c g w d a n) sw 6 c g w d a n

def execAtomXor (sw : Bool) (c g : BitVec 3) (w : BitVec 1) (d a : BitVec 7) (n : BitVec 1) (s : State) :
    Host.Outcome State Fault Refusal :=
  s.atomics (.atomXor sw c g w d a n) sw 7 c g w d a n

def execAtomExch (sw : Bool) (c g : BitVec 3) (w : BitVec 1) (d a : BitVec 7) (n : BitVec 1) (s : State) :
    Host.Outcome State Fault Refusal :=
  s.atomics (.atomExch sw c g w d a n) sw 8 c g w d a n

def execAtomCas (sw : Bool) (c g : BitVec 3) (w : BitVec 1) (d a : BitVec 7) (n : BitVec 1) (s : State) :
    Host.Outcome State Fault Refusal :=
  s.atomics (.atomCas sw c g w d a n) sw 9 c g w d a n

def execAtomFadd (sw : Bool) (c g : BitVec 3) (w : BitVec 1) (d a : BitVec 7) (n : BitVec 1) (s : State) :
    Host.Outcome State Fault Refusal :=
  s.atomics (.atomFadd sw c g w d a n) sw 10 c g w d a n

def execAtomFmin (sw : Bool) (c g : BitVec 3) (w : BitVec 1) (d a : BitVec 7) (n : BitVec 1) (s : State) :
    Host.Outcome State Fault Refusal :=
  s.atomics (.atomFmin sw c g w d a n) sw 11 c g w d a n

def execAtomFmax (sw : Bool) (c g : BitVec 3) (w : BitVec 1) (d a : BitVec 7) (n : BitVec 1) (s : State) :
    Host.Outcome State Fault Refusal :=
  s.atomics (.atomFmax sw c g w d a n) sw 12 c g w d a n

def execAtomRedc (sw : Bool) (c g : BitVec 3) (w : BitVec 1) (d a : BitVec 7) (n : BitVec 1) (s : State) :
    Host.Outcome State Fault Refusal :=
  s.atomics (.atomRedc sw c g w d a n) sw 13 c g w d a n

def execAtomInc (sw : Bool) (c g : BitVec 3) (w : BitVec 1) (d a : BitVec 7) (n : BitVec 1) (s : State) :
    Host.Outcome State Fault Refusal :=
  s.atomics (.atomInc sw c g w d a n) sw 14 c g w d a n

end Sys2Proof.Machine
end

