-- ==== Sys2Proof/Machine/BarrierOps.lean ====
section
/-! DEFINITION. Barrier instructions, event words and traffic counters (R300, R301, R338 to R346, R414). -/
namespace Sys2Proof.Machine

/-! ## Barrier objects -/

/-- What an arrival comes to (R342). -/
inductive Arrival where
  | refused | counted | overflow
  deriving DecidableEq, Repr

/-- An arrival of `n` at an object, by warp number `num` (R342). -/
def State.arrive (s : State) (b : BarAt) (num n : Nat) : State × Arrival :=
  let x := s.bar b
  if x.owed ≠ 0 then (s, .refused)
  else if x.fixed = false then
    if x.owner.getLsbD num then (s, .refused)
    else ((s.setBar b { x with owner := x.owner ||| (1#64 <<< num), arrived := x.arrived + 1 }).testBar b, .counted)
  else if x.expected.toNat < x.arrived.toNat + n then (s, .overflow)
  else ((s.setBar b { x with arrived := x.arrived + BitVec.ofNat 16 n }).testBar b, .counted)

/-- The object that BINIT sets up from a configuration (R341): `live` warps, the serial of the warp. -/
def initBar (cfg live : Nat) (serial : Word) (cancelled : Bool) : Barrier :=
  let fixed := cfg.testBit 16
  { expected := if fixed then BitVec.ofNat 16 (max 1 (bits cfg 0 16)) else BitVec.ofNat 16 live
    fixed := fixed, init := true, registered := BitVec.ofNat 16 (bits cfg 32 16)
    owner := if fixed then serial else 0, last := if cancelled then 0x200 else 0 }

/-- Set up an object; the splits parked on it are released without an observation, those of other devices when they ask again (R341). -/
def State.binitAt (s : State) (b : BarAt) (cfg live : Nat) (serial : Word) : State :=
  let x := s.bar b
  let parked := !(s.parkedOn b).isEmpty || !x.away.isEmpty
  (s.setBar b { initBar cfg live serial parked with freed := x.freed ++ x.away }).releaseParked b false

/-- A split of peer `dev` asks for the phase that it waits on in BWAIT (R345): `arg` holds the phase, whether it has asked before, and
the peer's name for it. The answer is 0 while the phase stands, 1 for an observation, 3 where a BINIT has released the split (R341). -/
def State.peerWait (s : State) (b : BarAt) (dev : BitVec 8) (arg : Nat) : State × List Byte :=
  let x := s.bar b
  let me := (dev, arg / 2 ^ 17)
  let away := x.away.filter (· != me)
  let y := { x with away := away, freed := x.freed.filter (· != me) }
  if arg.testBit 16 ∧ x.freed.contains me then (s.setBar b y, [3])
  else if x.phase.toNat ≠ bits arg 0 16 then (s.setBar b { y with owed := if x.owed = 0 then 0 else x.owed - 1 }, [1])
  else (s.setBar b { y with away := away ++ [me] }, [0])

/-- A barrier request of function `fn` from peer `dev` at a POD object of this device: its answer as bytes, or none where the object is
uninitialised (R339, R340). The argument of a BINIT holds the configuration and, above it, the serial number of the warp (R341). -/
def State.peerBarrier (s : State) (b : BarAt) (dev : BitVec 8) (fn : Nat) (arg : Nat) : State × Option (List Byte) :=
  let x := s.bar b
  if fn = 0 then (s.binitAt b (setBits arg 16 1 1 % 2 ^ 64) 0 (BitVec.ofNat 64 (arg / 2 ^ 64)), some [])
  else if x.init = false then (s, none)
  else match fn with
    | 1 =>
      -- who has arrived is noted, for the day the peer is lost (R33)
      let n := bits arg 0 16
      let noted := s.setBar b { x with from_ := Sparse.set 0 x.from_ dev.toNat (Sparse.get 0 x.from_ dev.toNat + n) }
      match noted.arrive b 0 n with
      | (s1, .counted) => (s1, some [1])
      | (_, .refused) => (s, some [0])
      | (_, .overflow) => (s, some [2])
    | 7 => (s, some [])
    | 3 => ((s.setBar b { x with pending := x.pending + BitVec.ofNat 32 arg }).testBar b, some [])
    | 6 => (s.deliver b (arg % 2 ^ 32) (BitVec.ofNat 32 (arg / 2 ^ 32)) (arg.testBit 64), some [])
    | 5 => (s, some (leBytes 4 (if arg = 0 then x.current else x.last).toNat))
    | 2 => ((s.peerWait b dev arg).1, some (s.peerWait b dev arg).2)
    | _ =>
      let differs := decide (x.phase.toNat ≠ bits arg 0 16)
      (if differs then s.setBar b { x with owed := if x.owed = 0 then 0 else x.owed - 1 } else s,
        some [if differs then 1 else 0])

/-- Check a reference and find its object (R339, R340): a barrier of another device with an open session is asked, and answers whether
it is initialised; `fresh` is BINIT, which needs no initialised object. -/
def State.findBar (s : State) (c : Issue) (ref : Nat) (fresh : Bool) : Except MErr BarAt :=
  match s.barAt c.g ref with
  | none => .error ⟨.badSpace, 0⟩
  | some (.pod p dev i) =>
    if ((s.part p).session dev.toNat).state = 2 then .ok (.pod p dev i) else .error ⟨.xlate, 2⟩
  | some b => if fresh || (s.bar b).init then .ok b else .error ⟨.badSpace, 0⟩

/-- Ask another device, on the plane of address 0: the split waits for the answer (DESIGN CHOICE, log 8 and log 16). `dest` is the predicate or register it writes. -/
def State.askBarrier (s : State) (c : Issue) (p : BitVec 2) (dev : BitVec 8) (fn i arg dest ref : Nat) : State :=
  let s := s.beforePeer dev 0
  match s.peerRequest p dev 0 (.barrier fn i arg) { c.ext none 4 ref s.free with dest := dest, width := fn } with
  | some s1 => s1.awaitOutcome c 1 0 []
  | none => (s.losePeer p dev).faultAt c .timeout c.p.mask (BitVec.ofNat 64 ref) 0

/-- The object that an engine operation names, checked at issue (R339, R340), and the operation as `go` says. One of another device is
first asked whether it is initialised, and the instruction then issues again (DESIGN CHOICE, log 16). -/
def State.withBar (s : State) (c : Issue) (ref : Nat) (go : State → State) : State :=
  let key := (c.id.warp, c.id.split, BitVec.ofNat 64 ref)
  match s.findBar c ref false with
  | .error e => s.faultAt c e.code c.p.mask (BitVec.ofNat 64 ref) e.detail
  | .ok (.pod p dev k) =>
    if s.probed.contains key then go { s with probed := s.probed.filter (· != key) }
    else s.askBarrier c p dev 7 k 0 0 ref
  | .ok _ => go s

/-- A barrier instruction (R338 to R346): `here` acts on a local object. An arrival or a posting is a release by the
split's lanes at the object's scope. -/
def State.barrierOp (s : State) (i : Instr) (sw : Bool) (b a : BitVec 6) (u : Uses) (fn dest : Nat) (release : Bool)
    (here : Issue → BarAt → State → State) : Host.Outcome State Fault Refusal :=
  s.issueWith i sw { u with uregs := [b.toNat, a.toNat] } fun c t =>
    let ref := c.ureg b
    match t.findBar c ref (fn == 0) with
    | .error e => t.faultAt c e.code c.p.mask (BitVec.ofNat 64 ref) e.detail
    | .ok (.pod p dev k) =>
      let cfg := c.ureg a
      let arg := match fn with
        | 0 => cfg + 2 ^ 64 * c.w.serial.toNat
        | 2 => bits cfg 0 16 + 2 ^ 16 * c.p.asked.toNat + 2 ^ 17 * (4 * c.id.warp + c.id.split)
        | _ => cfg
      let go := fun (t : State) => t.askBarrier c p dev fn k arg dest ref
      -- an AUTO object lies at CORE scope alone (R341)
      if fn = 0 ∧ cfg.testBit 16 = false then t.faultAt c .badSpace c.p.mask (BitVec.ofNat 64 ref) 0
      else if release then t.releaseTo c c.p.mask 4 go else go t
    | .ok x => if release then t.releaseTo c c.p.mask x.scope (here c x) else here c x t

def execBinit (sw : Bool) (b a : BitVec 6) (s : State) : Host.Outcome State Fault Refusal :=
  s.barrierOp (.binit sw b a) sw b a {} 0 0 false fun c x t =>
    let cfg := c.ureg a
    if cfg.testBit 16 = false ∧ x.scope ≠ 0 then t.faultAt c .badSpace c.p.mask (BitVec.ofNat 64 (c.ureg b)) 0
    else (t.binitAt x cfg c.g.live c.w.serial).complete c

/-- Write a predicate in every active lane at variable latency (R342, R345). -/
def State.predLater (s : State) (c : Issue) (p : BitVec 3) (v : Bool) : State :=
  s.putLater c ((lanesOf c.p.mask).map fun l => (.pred l p.toNat, v.toNat))

/-- Offset or index that BARRIER_OVERFLOW and BARRIER_STARVED name (R209, R339). -/
def BarAt.number (g : Workgroup) (ref : Nat) : Nat :=
  if bits ref 61 3 = 0 then 1024 * g.tmpl.scratchKiB + 32 * bits ref 0 8 else bits ref 0 8

def execBarv (sw : Bool) (b a : BitVec 6) (p : BitVec 3) (s : State) : Host.Outcome State Fault Refusal :=
  s.barrierOp (.barv sw b a p) sw b a {} 1 p.toNat true fun c x t =>
    match t.arrive x c.w.num (bits (c.ureg a) 0 16) with
    | (t1, .counted) => (t1.predLater c p true).complete c
    | (t1, .refused) => (t1.predLater c p false).complete c
    | (t1, .overflow) => t1.faultAt c .barrierOverflow c.p.mask 0 (BarAt.number c.g (c.ureg b))

def execBwait (sw : Bool) (b a : BitVec 6) (s : State) : Host.Outcome State Fault Refusal :=
  s.barrierOp (.bwait sw b a) sw b a {} 2 0 false fun c x t =>
    if (t.bar x).phase.toNat ≠ bits (c.ureg a) 0 16 then (t.observe c.w.core x (bits (c.ureg a) 0 16)).complete c
    else t.waitAt c (.bwait (BitVec.ofNat 64 (c.ureg b)) (BitVec.ofNat 16 (c.ureg a)))

def execBexp (sw : Bool) (b a : BitVec 6) (s : State) : Host.Outcome State Fault Refusal :=
  s.barrierOp (.bexp sw b a) sw b a {} 3 0 false fun c x t =>
    let y := t.bar x
    ((t.setBar x { y with pending := y.pending + BitVec.ofNat 32 (c.ureg a) }).testBar x).complete c

def execBtest (sw : Bool) (b a : BitVec 6) (p : BitVec 3) (s : State) : Host.Outcome State Fault Refusal :=
  s.barrierOp (.btest sw b a p) sw b a {} 4 p.toNat false fun c x t =>
    if (t.bar x).phase.toNat ≠ bits (c.ureg a) 0 16 then ((t.observe c.w.core x (bits (c.ureg a) 0 16)).predLater c p true).complete c
    else (t.predLater c p false).complete c

def execBstat (sw : Bool) (b d : BitVec 6) (l : BitVec 1) (s : State) : Host.Outcome State Fault Refusal :=
  s.issueWith (.bstat sw b d l) sw { uregs := [b.toNat] } fun c t =>
    let ref := c.ureg b
    match t.findBar c ref false with
    | .error e => t.faultAt c e.code c.p.mask (BitVec.ofNat 64 ref) e.detail
    | .ok (.pod p dev k) => t.askBarrier c p dev 5 k l.toNat d.toNat ref
    | .ok x =>
      (t.putLater c [(.ureg d.toNat, (if l = 1 then (t.bar x).last else (t.bar x).current).toNat)]).complete c

/-! ## Event words (R54, R300, R301) -/

/-- Scope code of an event word by its space; none where the space does not fit (DEDUCED, log 48). -/
def eventScope (p : Nat) : Option Nat := match bits p 60 4 with
  | 3 => some 3
  | 5 => some 3
  | 4 => some 5
  | 6 => some 4
  | _ => none

/-- Read the word of a WAITE of a split once (R300): as an acquire at the scope of its pointer. A word of another device,
or in a host range that gives no completion, is asked for. -/
def State.readEvent (s : State) (c : Issue) (p v : Nat) : State :=
  let wait := fun (t : State) => t.modSplit c.id fun q =>
    { q with pc := c.start, hints := [], wait := .waite (BitVec.ofNat 64 p) (BitVec.ofNat 64 v), since := s.cycle, lifted := false,
             runLen := ((c.pc - c.start).toNat / 4) + 1, sw := c.sw }
  -- the word of a peer whose session is lost (R300)
  let lost := bits p 60 4 = 6 ∧ bits p 52 8 ≠ s.podIndex.toNat ∧ ((s.part c.g.part).session (bits p 52 8)).state = 3
  if lost then (s.countBad (c.agent none) p 8 false).faultAt c .timeout c.p.mask (BitVec.ofNat 64 p) 0
  else match s.places (c.agent none) .load p 8 with
  | (s1, .error e) => (s1.countBad (c.agent none) p 8 false).faultAt c e.code c.p.mask (BitVec.ofNat 64 p) e.detail
  | (s1, .ok ps) =>
    let s2 := s1.countLoad (c.agent none) p { core := c.w.core, lane := none, pieces := ps, bypass := true }
    if (peerOf ps).isSome ∨ s2.silent ps then
      match s2.ask c ps (.read 8) { c.ext none 5 p s.free with width := v } with
      | (s3, .bad e) => s3.faultAt c e.code c.p.mask (BitVec.ofNat 64 p) e.detail
      | (s3, _) => wait s3
    else
      let s3 := (s2.settleMeeting c.id.warp none ps).dropCache c.w.core
      let x := leNat (ps.flatMap fun y => s3.readPlace (quadOf c.w.core) y.1 y.2)
      if v ≤ x then s3.complete c else wait s3

def execWaite (sw : Bool) (p v : BitVec 6) (s : State) : Host.Outcome State Fault Refusal :=
  s.issueWith (.waite sw p v) sw { orders := true, uregs := [p.toNat, v.toNat] } fun c t =>
    let a := c.ureg p
    match eventScope a with
    | none => t.faultAt c .badSpace c.p.mask (BitVec.ofNat 64 a) 0
    | some sc =>
      if a % 8 ≠ 0 then t.faultAt c .misalignAtomic c.p.mask (BitVec.ofNat 64 a) 0
      else if c.ureg v = 0 then (t.acquire c.w.core sc).complete c
      else t.readEvent c a (c.ureg v)

/-- SIGE (R301): its faults are those of a returning atomic, so that a pointer of space 0 is NULL_DEREF (R145). -/
def execSige (sw : Bool) (p v : BitVec 6) (s : State) : Host.Outcome State Fault Refusal :=
  s.issueWith (.sige sw p v) sw { orders := true, uregs := [p.toNat, v.toNat] } fun c t =>
    let a := c.ureg p
    match eventScope a with
    | none => t.faultAt c (if bits a 60 4 = 0 then .nullDeref else .badSpace) c.p.mask (BitVec.ofNat 64 a) 0
    | some sc =>
      t.beforeAtomic c c.p.mask sc true fun t1 =>
        let r := t1.atomFor c none 0 8 sc a (c.ureg v) 0 none false
        r.1.uniformEnd c (BitVec.ofNat 64 a) r.2

/-! ## Traffic counters (R414) -/

def execPcnt (sw : Bool) (d e : BitVec 6) (s : State) : Host.Outcome State Fault Refusal :=
  s.issueWith (.pcnt sw d e) sw { uregs := [e.toNat] } fun c t =>
    let x := c.ureg e
    let set := bits x 8 8
    let bad := bits x 4 4 ≠ 0 ∨ bits x 16 48 ≠ 0 ∨ (x.testBit 3 ∧ set = 0) ∨ (x.testBit 3 = false ∧ set ≠ 0)
    let v := if bad then 2 ^ 64 - 1
      else if x.testBit 3 then (Sparse.get 0 t.tableCounters (8 * (256 * c.g.part.toNat + set) + x % 8)).toNat
      else (Sparse.get 0 t.coreCounters (8 * c.w.core + x % 8)).toNat
    (t.putLater c [(.ureg d.toNat, v)]).complete c

end Sys2Proof.Machine
end

