-- ==== Sys2Proof/Machine/Choose.lean ====
section
/-! DEFINITION. The choice of a split by a slot-group (R96 to R99). -/
namespace Sys2Proof.Machine

/-! ## Choosing (R96, R97) -/

/-- Is a split of a warp ready (R96)? A split whose warp, workgroup, context or partition is stopping for a rung stands
at its issue boundary; one midway through an instruction goes on to that boundary when its warp or workgroup stops (R214). -/
def State.ready (s : State) (w : Warp) (p : Split) : Bool :=
  p.wait == .ready && (p.mask != 0 || !p.defer.isEmpty) && !w.exited && (w.raised.isNone || p.midway) &&
  match s.wg? w.wg with
  | some g => s.running g && g.prologue.isNone && (g.raised.isNone || p.midway) && (s.ctx g.part g.ctx).raised.isNone &&
      (s.part g.part).raised.isNone
  | none => false

/-- Has a ready split reached the age that lifts it (R97)? -/
def State.liftDue (s : State) (w : Warp) (p : Split) : Bool :=
  s.ready w p && !p.lifted &&
  match s.wg? w.wg with
  | some g => decide ((s.ctx g.part g.ctx).ageLimit ≤ s.cycle - p.since)
  | none => false

/-- A ready split with what R97 orders it by; one at the age limit is lifted, whether or not SPLIT_LIFT has marked it. -/
structure ReadySplit where
  group : Nat
  midRun : Bool
  lifted : Bool
  age : Nat
  prio : Nat
  slot : Nat
  id : SplitId
  deriving DecidableEq, Repr

/-- Does R97 choose `a` before `b`? A run under way keeps its slot-group's choice (R98). -/
def ReadySplit.before (a b : ReadySplit) : Bool :=
  if a.midRun != b.midRun then a.midRun
  else if a.lifted != b.lifted then a.lifted
  else if !a.lifted && a.prio != b.prio then decide (b.prio < a.prio)
  else if a.age != b.age then decide (b.age < a.age)
  else if a.slot != b.slot then decide (a.slot < b.slot)
  else decide (a.id.split < b.id.split)

/-- The ready splits of the device. -/
def State.readySplits (s : State) : List ReadySplit :=
  s.warps.flatMap fun w => w.valid.filterMap fun n =>
    match w.split n with
    | some p =>
      if s.ready w p then
        some ⟨4 * w.core + slotGroup w.slot, !p.hints.isEmpty, p.lifted || s.liftDue w p, s.cycle - p.since,
          match (s.wg? w.wg).bind fun g => s.launch? g.launch with
          | some l => l.prio
          | none => 0, w.slot, ⟨w.id, n⟩⟩
      else none
    | none => none

/-- Keep the better of a slot-group. -/
def choose (x : ReadySplit) : List ReadySplit → List ReadySplit
  | [] => [x]
  | y :: ys => if y.group = x.group then (if x.before y then x :: ys else y :: ys) else y :: choose x ys

/-- The choice of each slot-group that has one. -/
def State.chosen (s : State) : List SplitId :=
  (s.readySplits.foldl (fun acc x => choose x acc) []).map (·.id)

end Sys2Proof.Machine
end

