-- ==== Sys2Proof/Machine/DevQueue.lean ====
section
/-! DEFINITION. Resource templates (R52, R78) and device queue descriptors (R89): their fields and their checks. -/
namespace Sys2Proof.Machine

/-- Byte `i` of a list, and the little-endian field of `n` bytes at `i`. -/
def byteAt (b : List Byte) (i : Nat) : Nat := (b.getD i 0).toNat
def fieldOf (b : List Byte) (i n : Nat) : Nat := leNat ((b.drop i).take n)

/-- Every byte of `[i, i + n)` is zero. -/
def zeroAt (b : List Byte) (i n : Nat) : Bool := ((b.drop i).take n).all (· == 0)

/-- The resource fields of a record or a descriptor: slices per lane at `i`, then tiles, accumulators, shapes, barrier
granules and scratch KiB (R52, R89). -/
def templateAt (b : List Byte) (i warps : Nat) : Template :=
  { warps := warps, slices := fieldOf b i 2, tiles := byteAt b (i + 2), accs := byteAt b (i + 3), shapes := byteAt b (i + 4),
    barGranules := byteAt b (i + 5), scratchKiB := fieldOf b (i + 6) 2 }

/-- The limits of R52. -/
def Template.ok (t : Template) : Bool :=
  decide (1 ≤ t.warps) && decide (t.warps ≤ 64) && t.slices % 32 == 0 && decide (32 ≤ t.slices) && decide (t.slices ≤ 1024) &&
  decide (t.tiles ≤ 16) && decide (t.accs ≤ 8) && decide (t.shapes ≤ 16) && decide (t.barGranules ≤ 32) &&
  t.scratchKiB % 4 == 0 && decide (t.scratchKiB ≤ 1024)

/-- Demands of one workgroup in the order of R78: slots, slice granules, tiles, shapes, scratchpad granules; and
accumulators. -/
def Template.demand (t : Template) : List Nat :=
  [t.warps, t.warps * (t.slices / 32), t.warps * t.tiles, t.warps * t.shapes,
    (1024 * t.scratchKiB + 256 * t.barGranules + 4095) / 4096]
def Template.accDemand (t : Template) : Nat := t.warps * t.accs

/-- What a core holds of each, and a quad of accumulators (R78). -/
def coreCapacity : List Nat := [512, 6144, 128, 256, 256]
def quadAccs : Nat := 256

/-- Does a demand fit an empty core and quad (R85)? -/
def Template.fits (t : Template) : Bool :=
  ((t.demand.zip coreCapacity).all fun x => decide (x.1 ≤ x.2)) && decide (t.accDemand ≤ quadAccs)

/-- A device queue's descriptor (R89). -/
structure QDesc where
  kind : Nat
  prio : Nat
  dieMask : Nat
  idempotent : Bool
  tmpl : Template
  logCap : Nat
  ring : Nat
  head : Nat
  tail : Nat
  deriving DecidableEq, Repr

def qdescOf (b : List Byte) : QDesc :=
  { kind := byteAt b 0, prio := byteAt b 1, dieMask := byteAt b 2, idempotent := (byteAt b 3).testBit 0,
    tmpl := templateAt b 4 1, logCap := byteAt b 0x0C, ring := fieldOf b 0x10 8, head := fieldOf b 0x18 8,
    tail := fieldOf b 0x20 8 }

/-- The check at binding (R89, R293): `dies` are those of the partition. -/
def qdescOk (b : List Byte) (dies : Nat) : Bool :=
  let q := qdescOf b
  decide (q.kind ≤ 1) && decide (q.prio ≤ 7) && q.dieMask &&& dies == q.dieMask && decide (byteAt b 3 ≤ 1) && q.tmpl.ok &&
  decide (4 ≤ q.logCap) && decide (q.logCap ≤ 20) && bits q.ring 57 7 == 0x18 && q.ring % 16 == 0 &&
  zeroAt b 0x0D 3 && zeroAt b 0x30 16

/-- A queue binding of the split table (R293): descriptor pointer, KIND, die mask. -/
def qbindOf (ptr kind dieMask : Nat) : BitVec 128 := BitVec.ofNat 128 (ptr + kind * 2 ^ 64 + dieMask * 2 ^ 72)
def qbPtr (b : BitVec 128) : Nat := bits b.toNat 0 64
def qbKind (b : BitVec 128) : Nat := bits b.toNat 64 8
def qbDies (b : BitVec 128) : Nat := bits b.toNat 72 8

end Sys2Proof.Machine
end

