-- ==== Sys2Proof/Machine/Uniform.lean ====
section
/-! DEFINITION. Uniform arithmetic, special registers and control registers: the UNI instructions (R285 to R294), and the
expert fields of a context (R69, R138, R291, R412). -/
namespace Sys2Proof.Machine

/-! ## Arithmetic (R285 to R287) -/

/-- A uniform result at fixed latency, and the instruction is complete. -/
def State.putU (s : State) (c : Issue) (d : BitVec 6) (v : Int) : State := (s.put c [(.ureg d.toNat, trunc v 64)]).complete c

/-- A two-source function (R285): `f` has the values of sa and sb. -/
def State.uni2 (s : State) (i : Instr) (sw : Bool) (d a b : BitVec 6) (f : Nat → Nat → Int) : Host.Outcome State Fault Refusal :=
  s.issueWith i sw { uregs := [a.toNat, b.toNat] } fun c t => t.putU c d (f (c.ureg a) (c.ureg b))

def execSadd (sw : Bool) (d a b : BitVec 6) (s : State) : Host.Outcome State Fault Refusal :=
  s.uni2 (.sadd sw d a b) sw d a b fun x y => (x : Int) + y

def execSsub (sw : Bool) (d a b : BitVec 6) (s : State) : Host.Outcome State Fault Refusal :=
  s.uni2 (.ssub sw d a b) sw d a b fun x y => (x : Int) - y

def execSmul (sw : Bool) (d a b : BitVec 6) (s : State) : Host.Outcome State Fault Refusal :=
  s.uni2 (.smul sw d a b) sw d a b fun x y => (x : Int) * y

def execSmulh (sw : Bool) (d a b : BitVec 6) (s : State) : Host.Outcome State Fault Refusal :=
  s.uni2 (.smulh sw d a b) sw d a b fun x y => sext x 64 * sext y 64 / 2 ^ 64

def execSand (sw : Bool) (d a b : BitVec 6) (s : State) : Host.Outcome State Fault Refusal :=
  s.uni2 (.sand sw d a b) sw d a b fun x y => ((x &&& y : Nat) : Int)

def execSor (sw : Bool) (d a b : BitVec 6) (s : State) : Host.Outcome State Fault Refusal :=
  s.uni2 (.sor sw d a b) sw d a b fun x y => ((x ||| y : Nat) : Int)

def execSxor (sw : Bool) (d a b : BitVec 6) (s : State) : Host.Outcome State Fault Refusal :=
  s.uni2 (.sxor sw d a b) sw d a b fun x y => ((x ^^^ y : Nat) : Int)

def execSshl (sw : Bool) (d a b : BitVec 6) (s : State) : Host.Outcome State Fault Refusal :=
  s.uni2 (.sshl sw d a b) sw d a b fun x y => ((x * 2 ^ (y % 64) : Nat) : Int)

def execSshr (sw : Bool) (d a b : BitVec 6) (s : State) : Host.Outcome State Fault Refusal :=
  s.uni2 (.sshr sw d a b) sw d a b fun x y => ((x / 2 ^ (y % 64) : Nat) : Int)

def execSsra (sw : Bool) (d a b : BitVec 6) (s : State) : Host.Outcome State Fault Refusal :=
  s.uni2 (.ssra sw d a b) sw d a b fun x y => sext x 64 / 2 ^ (y % 64)

def execSmin (sw : Bool) (d a b : BitVec 6) (s : State) : Host.Outcome State Fault Refusal :=
  s.uni2 (.smin sw d a b) sw d a b fun x y => if sle 64 x y then x else y

def execSmax (sw : Bool) (d a b : BitVec 6) (s : State) : Host.Outcome State Fault Refusal :=
  s.uni2 (.smax sw d a b) sw d a b fun x y => if sle 64 x y then y else x

def execSminu (sw : Bool) (d a b : BitVec 6) (s : State) : Host.Outcome State Fault Refusal :=
  s.uni2 (.sminu sw d a b) sw d a b fun x y => ((min x y : Nat) : Int)

def execSmaxu (sw : Bool) (d a b : BitVec 6) (s : State) : Host.Outcome State Fault Refusal :=
  s.uni2 (.smaxu sw d a b) sw d a b fun x y => ((max x y : Nat) : Int)

def execSeq (sw : Bool) (d a b : BitVec 6) (s : State) : Host.Outcome State Fault Refusal :=
  s.uni2 (.seq sw d a b) sw d a b fun x y => if x = y then 1 else 0

def execSlt (sw : Bool) (d a b : BitVec 6) (s : State) : Host.Outcome State Fault Refusal :=
  s.uni2 (.slt sw d a b) sw d a b fun x y => if sext x 64 < sext y 64 then 1 else 0

def execSltu (sw : Bool) (d a b : BitVec 6) (s : State) : Host.Outcome State Fault Refusal :=
  s.uni2 (.sltu sw d a b) sw d a b fun x y => if x < y then 1 else 0

/-- SMOVI (R286): the 14 bits are signed; HINT.IMM replaces them. -/
def execSmovi (sw : Bool) (d : BitVec 6) (i : BitVec 14) (s : State) : Host.Outcome State Fault Refusal :=
  s.issueWith (.smovi sw d i) sw { fits := [0, 1], immZero := i == 0 } fun c t =>
    t.putU c d ((immOf c.p.hints).getD (sext i.toNat 14))

/-- SLUI (R286): the upper half from the immediate, the lower kept. -/
def execSlui (sw : Bool) (d : BitVec 6) (i : BitVec 14) (s : State) : Host.Outcome State Fault Refusal :=
  s.issueWith (.slui sw d i) sw { fits := [0, 1], immZero := i == 0, uregs := [d.toNat] } fun c t =>
    let m := match immOf c.p.hints with
      | some v => trunc v 32
      | none => i.toNat
    t.putU c d ((m * 2 ^ 32 + c.ureg d % 2 ^ 32 : Nat) : Int)

/-- A one-source function (R286). -/
def State.uni1 (s : State) (i : Instr) (sw : Bool) (d a : BitVec 6) (f : Nat → Nat) : Host.Outcome State Fault Refusal :=
  s.issueWith i sw { uregs := [a.toNat] } fun c t => t.putU c d (f (c.ureg a) : Int)

def execSpopc (sw : Bool) (d a : BitVec 6) (s : State) : Host.Outcome State Fault Refusal :=
  s.uni1 (.spopc sw d a) sw d a fun x => popcount x 64

def execSclz (sw : Bool) (d a : BitVec 6) (s : State) : Host.Outcome State Fault Refusal :=
  s.uni1 (.sclz sw d a) sw d a fun x => clzN 64 x

def execSctz (sw : Bool) (d a : BitVec 6) (s : State) : Host.Outcome State Fault Refusal :=
  s.uni1 (.sctz sw d a) sw d a fun x => ctzN 64 x

/-- SBFX (R287): position in [5:0], length in [13:8] of sb. -/
def execSbfx (sw : Bool) (d a b : BitVec 6) (s : State) : Host.Outcome State Fault Refusal :=
  s.uni2 (.sbfx sw d a b) sw d a b fun x y => (bits x (bits y 0 6) (bits y 8 6) : Int)

/-- SBFI (R287): bits that would land at or above 64 are dropped. -/
def execSbfi (sw : Bool) (d a b : BitVec 6) (s : State) : Host.Outcome State Fault Refusal :=
  s.issueWith (.sbfi sw d a b) sw { uregs := [d.toNat, a.toNat, b.toNat] } fun c t =>
    let y := c.ureg b
    t.putU c d (setBits (c.ureg d) (bits y 0 6) (bits y 8 6) (c.ureg a) : Int)

def execSaddi (sw : Bool) (d a : BitVec 6) (i : BitVec 8) (s : State) : Host.Outcome State Fault Refusal :=
  s.issueWith (.saddi sw d a i) sw { fits := [0, 1], immZero := i == 0, uregs := [a.toNat] } fun c t =>
    t.putU c d ((c.ureg a : Int) + (immOf c.p.hints).getD (sext i.toNat 8))

/-! ## Special registers (R115, R266, R288) -/

/-- The special register of a code, as the issuing split reads it. In a handler `%prog` reads 0 (R214). -/
def State.special (s : State) (c : Issue) (code : Nat) : Nat :=
  match code with
  | 0 => c.w.num
  | 1 => c.id.split
  | 2 => c.g.num.toNat
  | 3 => c.w.core
  | 4 => quadOf c.w.core
  | 5 => dieOf c.w.core
  | 6 => s.podIndex.toNat
  | 7 => c.p.mask.toNat
  | 8 => c.w.fmask.toNat
  | 9 => c.w.serial.toNat
  | 10 => s.cycle % 2 ^ 64
  | 11 => if c.w.inHandler c.id.split then 0 else c.p.prog.toNat
  | 12 => c.p.wb.toNat
  | 13 => c.p.mconf.toNat
  | _ => c.w.seed.toNat

def execSread (sw : Bool) (d c : BitVec 6) (s : State) : Host.Outcome State Fault Refusal :=
  s.issueWith (.sread sw d c) sw { okOp := decide (c < 15) } fun i t => t.putU i d (t.special i c.toNat : Int)

def execWinImm (sw : Bool) (i : BitVec 5) (s : State) : Host.Outcome State Fault Refusal :=
  s.issueWith (.winImm sw i) sw {} fun c t => (t.modSplit c.id fun p => { p with wb := i }).complete c

def execWinReg (sw : Bool) (a : BitVec 6) (s : State) : Host.Outcome State Fault Refusal :=
  s.issueWith (.winReg sw a) sw { uregs := [a.toNat] } fun c t =>
    (t.modSplit c.id fun p => { p with wb := BitVec.ofNat 5 (c.ureg a) }).complete c

/-- VTOS (R288): 16 slices of the lowest active lane. -/
def execVtos (sw : Bool) (d : BitVec 6) (v : BitVec 7) (s : State) : Host.Outcome State Fault Refusal :=
  let u : Uses := { vs := [(v.toNat, 16)], src := [(v.toNat, 16)], lowestOnly := true }
  s.issueWith (.vtos sw d v) sw u fun c t =>
    t.putU c d (t.src c 0 ((lowestLane c.p.mask).getD 0) v.toNat 16 : Int)

/-! ## Expert fields (R69, R138, R291, R412) -/

/-- A value as a field takes it: below its range the lowest, above it the highest (R291). -/
def clampN (lo hi v : Nat) : Nat := max lo (min hi v)

/-- Register `n` of a context's expert block: SCHED, PACK, HALYARD, SCRATCH, REEF. -/
def Ctx.expert (x : Ctx) (n : Nat) : Nat :=
  match n with
  | 0 => x.checked.toNat * 2 ^ 16 + x.ageLimit
  | 1 => x.flushNs
  | 2 => x.nodeCap
  | 3 => x.slotMap.toNat
  | _ => x.reef.toNat

/-- A slot map names each of the three classes and no fourth (R138). -/
def slotMapOk (v : Nat) : Bool :=
  let cs := [bits v 0 2, bits v 2 2, bits v 4 2, bits v 6 2]
  cs.contains 0 && cs.contains 1 && cs.contains 2 && !cs.contains 3

/-- A BF16 threshold as REEF keeps it: +0 for a negative value or a NaN (R412). -/
def reefField (v : Nat) : Nat := if v.testBit 15 || (FloatFmt.bf16.decode v).isNaN then 0 else v

/-- A write of an expert register; false where the value is not accepted (R138) (DEDUCED, log 47). -/
def Ctx.setExpert (x : Ctx) (n v : Nat) : Ctx × Bool :=
  match n with
  | 0 => ({ x with checked := v.testBit 16, ageLimit := clampN 64 1024 (bits v 0 11) }, true)
  | 1 => ({ x with flushNs := clampN 100 65535 (bits v 0 16) }, true)
  | 2 => ({ x with nodeCap := clampN 4 62 (bits v 0 6) }, true)
  | 3 => if slotMapOk (v % 256) then ({ x with slotMap := BitVec.ofNat 8 v }, true) else (x, false)
  | _ =>
    ({ x with reef := BitVec.ofNat 64 (reefField (bits v 48 16) * 2 ^ 48 + reefField (bits v 32 16) * 2 ^ 32 +
        reefField (bits v 16 16) * 2 ^ 16 + v % 8) }, true)

/-- Every expert field of a context at its default (R68, R69). -/
def Ctx.expertDefaults (x : Ctx) : Ctx :=
  { x with checked := false, ageLimit := 1024, flushNs := 1000, nodeCap := 62, slotMap := 0x84, reef := 0 }

/-! ## Control registers (R290) -/

/-- What CSRR reads. -/
def State.csr (s : State) (c : Issue) (n : Nat) : Nat :=
  if n = 0 then c.p.mconf.toNat
  else if n = 1 then c.w.seed.toNat
  else if n = 2 then (lanesOf c.p.mask).foldl (fun m l => m ||| (c.w.lane l).fpflags.toNat) 0
  else if n < 0x18 then qbPtr (c.p.qbind (n - 0x10))
  else (s.ctx c.g.part c.g.ctx).expert (n - 0x100)

def execCsrr (sw : Bool) (d : BitVec 6) (c : BitVec 12) (s : State) : Host.Outcome State Fault Refusal :=
  s.issueWith (.csrr sw d c) sw { okOp := csrCode c } fun i t =>
    (t.putLater i [(.ureg d.toNat, t.csr i c.toNat)]).complete i

/-- A CSRW of a queue binding has read one sector of the descriptor at `v`, and goes on with the other (R182); which comes first is
chosen freely (DESIGN CHOICE, log 1). -/
def State.readBind (s : State) (c : Issue) (v : Nat) : State × Except MErr (Option (List Byte)) :=
  let up := match c.p.seen with
    | some x => !x.1
    | none => Config.pick s.free 22 0 0 % 2 == 1
  match s.readSeen c (v + 32 * up.toNat) 32, c.p.seen with
  | (t, .error e), _ => (t, .error e)
  | (t, .ok b), some x => (t, .ok (some (if up then x.2 ++ b else b ++ x.2)))
  | (t, .ok b), none => ((t.waitAt c .ready).modSplit c.id fun p => { p with seen := some (up, b) }, .ok none)

/-- Bind or unbind a queue binding (R293). -/
def State.bindQueue (s : State) (c : Issue) (n v : Nat) : State :=
  let set := fun (t : State) (b : BitVec 128) =>
    (t.modSplit c.id fun p => { p with qb := Sparse.set 0 p.qb n b }).complete c
  if v = 0 then set s 0
  else if bits v 60 4 ≠ 3 then s.faultAt c .badSpace c.p.mask (BitVec.ofNat 64 v) 0
  else if v % 64 ≠ 0 then match s.readSeen c v 64 with
    | (s1, .error e) => s1.faultAt c e.code c.p.mask (BitVec.ofNat 64 v) e.detail
    | (s1, .ok _) => s1.faultAt c .queue c.p.mask 0 n
  else match s.readBind c v with
    | (s1, .error e) => s1.faultAt c e.code c.p.mask (BitVec.ofNat 64 v) e.detail
    | (s1, .ok none) => s1
    | (s1, .ok (some b)) =>
      if qdescOk b (s1.part c.g.part).dies.toNat then set s1 (qbindOf v (qdescOf b).kind (qdescOf b).dieMask)
      else s1.faultAt c .queue c.p.mask 0 n

/-- The effect of CSRW (R290). -/
def State.csrWrite (s : State) (c : Issue) (n v : Nat) : State :=
  if n = 0 then (s.modSplit c.id fun p => { p with mconf := BitVec.ofNat 64 v }).complete c
  else if n = 1 then (s.modWarp c.id.warp fun w => w.reseed (BitVec.ofNat 64 v)).complete c
  else if n = 2 then
    (s.modWarp c.id.warp fun w => (lanesOf c.p.mask).foldl (fun w l =>
      w.modLane l fun x => { x with fpflags := BitVec.ofNat 5 v }) w).complete c
  else if n < 0x18 then s.bindQueue c (n - 0x10) v
  else if (s.ctx c.g.part c.g.ctx).expertEn = false then s.faultAt c .privViolation c.p.mask 0 1
  else (s.modCtx c.g.part c.g.ctx fun x => (x.setExpert (n - 0x100) v).1).complete c

def execCsrw (sw : Bool) (d : BitVec 6) (c : BitVec 12) (s : State) : Host.Outcome State Fault Refusal :=
  s.issueWith (.csrw sw d c) sw { orders := true, okOp := csrCode c, uregs := [d.toNat] } fun i t => t.csrWrite i c.toNat (i.ureg d)

end Sys2Proof.Machine
end

