-- ==== Sys2Proof/Machine/Control.lean ====
section
/-! DEFINITION. Control flow: the CTRL instructions (R276 to R284). -/
namespace Sys2Proof.Machine

/-- A branch target: the branch's address and 4 times the signed offset (R267). -/
def Issue.target (c : Issue) (o : BitVec n) : Word := c.pc + BitVec.ofInt 64 (4 * sext o.toNat n)

/-- A jump to an address from a register (R276). -/
def State.jump (s : State) (c : Issue) (a : Nat) : State :=
  if bits a 60 4 ≠ 3 ∨ a % 4 ≠ 0 then s.faultAt c .badSpace c.p.mask (BitVec.ofNat 64 a) 0
  else s.goTo c (BitVec.ofNat 64 a)

/-- Active lanes whose predicate, negated by `n`, is true. -/
def Issue.guarded (c : Issue) (g : BitVec 3) (n : BitVec 1) : BitVec 32 :=
  maskOf ((lanesOf c.p.mask).filter fun l => c.predIs (g.toNat, n == 1) l)

def execBra (sw : Bool) (o : BitVec 18) (s : State) : Host.Outcome State Fault Refusal :=
  s.issueWith (.bra sw o) sw {} fun c t => t.goTo c (c.target o)

def execBrz (sw : Bool) (r : BitVec 6) (o : BitVec 12) (s : State) : Host.Outcome State Fault Refusal :=
  s.issueWith (.brz sw r o) sw { uregs := [r.toNat] } fun c t =>
    if c.ureg r = 0 then t.goTo c (c.target o) else t.complete c

def execBrnz (sw : Bool) (r : BitVec 6) (o : BitVec 12) (s : State) : Host.Outcome State Fault Refusal :=
  s.issueWith (.brnz sw r o) sw { uregs := [r.toNat] } fun c t =>
    if c.ureg r ≠ 0 then t.goTo c (c.target o) else t.complete c

def execCall (sw : Bool) (o : BitVec 18) (s : State) : Host.Outcome State Fault Refusal :=
  s.issueWith (.call sw o) sw {} fun c t => (t.put c [(.ureg 63, (c.pc + 4).toNat)]).goTo c (c.target o)

def execRet (sw : Bool) (s : State) : Host.Outcome State Fault Refusal :=
  s.issueWith (.ret sw) sw { uregs := [63] } fun c t => t.jump c (c.ureg 63)

def execBrx (sw : Bool) (r : BitVec 6) (s : State) : Host.Outcome State Fault Refusal :=
  s.issueWith (.brx sw r) sw { uregs := [r.toNat] } fun c t => t.jump c (c.ureg r)

/-- Bindings still to land in a split land in its copy too (R362). -/
def Warp.copyBinds (w : Warp) (n k : Nat) : Warp :=
  { w with pending := w.pending ++ (w.pending.filter fun x => x.split == n && match x.dest with
      | .tbind _ => true
      | _ => false).map fun x => { x with split := k } }

/-- The split forks (R102): the lanes that take the branch go to a new split at the target, or, in a handler split and
with four valid splits, on the deferral stack. Under the switch marker the split that goes on parks, and the new one does not (DESIGN
CHOICE, log 99). -/
def State.fork (s : State) (c : Issue) (taken : BitVec 32) (target : Word) : State :=
  let rest := c.p.mask &&& ~~~taken
  match if c.w.inHandler c.id.split then none else c.w.freeSplit with
  | none =>
    if 8 ≤ c.p.defer.length then s.faultAt c .resource c.p.mask 0 0
    else ((s.modSplit c.id fun p => { p with mask := rest, defer := (taken, target) :: p.defer }).dropLatch fun e => e.warp == c.id.warp).complete c
  | some k =>
    let s1 := s.modWarp c.id.warp fun w => ((w.setSplit k (some { c.p with
      pc := target, mask := taken, defer := [], progValid := false, hints := [], wait := .ready, out := none, walk := none, stc := none,
      since := s.cycle + 1, lifted := false })).modSplit c.id.split fun p => { p with mask := rest }).copyBinds c.id.split k
    (s1.dropLatch fun e => e.warp == c.id.warp).complete c

def execCbr (sw : Bool) (g : BitVec 3) (n : BitVec 1) (o : BitVec 18) (s : State) : Host.Outcome State Fault Refusal :=
  s.issueWith (.cbr sw g n o) sw { allUregs := true, preds := [g.toNat] } fun c t =>
    let taken := c.guarded g n
    if taken = c.p.mask then t.goTo c (c.target o)
    else if taken = 0 then t.complete c
    else t.fork c taken (c.target o)

def execExit (sw : Bool) (g : BitVec 3) (n : BitVec 1) (s : State) : Host.Outcome State Fault Refusal :=
  let okOp := match s.issue? sw with
    | some c => !c.w.inHandler c.id.split
    | none => true
  s.issueWith (.exit sw g n) sw { okOp := okOp, preds := [g.toNat] } fun c t =>
    ((t.modSplit c.id fun p => { p with mask := p.mask &&& ~~~c.guarded g n }).stepTo c (c.pc + 4)).emptied c.id

/-- The other splits of a split's slot-group that are ready (R96, R281). -/
def State.readyPeers (s : State) (c : Issue) : List (Nat × Nat) :=
  s.warps.flatMap fun w =>
    if w.core = c.w.core ∧ slotGroup w.slot = slotGroup c.w.slot ∧ w.exited = false then
      w.valid.filterMap fun n => match w.split n with
        | some p => if s.ready w p ∧ ¬ (w.id = c.id.warp ∧ n = c.id.split) then some (w.id, n) else none
        | none => none
    else []

def execYield (sw : Bool) (o : BitVec 18) (s : State) : Host.Outcome State Fault Refusal :=
  s.issueWith (.yield sw o) sw {} fun c t =>
    let os := t.readyPeers c
    if c.w.inHandler c.id.split ∨ os.isEmpty then t.goTo c (c.target o)
    else (t.stepTo c (c.target o)).modSplit c.id fun p => { p with wait := .yield (t.cycle + 64) os, sw := sw }

def execJoinw (sw : Bool) (o : BitVec 18) (s : State) : Host.Outcome State Fault Refusal :=
  s.issueWith (.joinw sw o) sw {} fun c t =>
    if c.w.valid.length ≤ 1 ∨ c.w.inHandler c.id.split then t.goTo c (c.target o)
    else (t.waitAt c (.joinw (c.target o))).joinCheck c.id.warp

def execTrap (sw : Bool) (g : BitVec 3) (n : BitVec 1) (i : BitVec 18) (s : State) : Host.Outcome State Fault Refusal :=
  s.issueWith (.trap sw g n i) sw { preds := [g.toNat] } fun c t =>
    let ls := c.guarded g n
    if ls = 0 then t.complete c
    else t.trapAt c { code := .trap, fmask := ls, counter := c.pc, detail := BitVec.ofNat 64 i.toNat }

def execBrk (sw : Bool) (g : BitVec 3) (n : BitVec 1) (s : State) : Host.Outcome State Fault Refusal :=
  s.issueWith (.brk sw g n) sw { preds := [g.toNat] } fun c t =>
    let ls := c.guarded g n
    if ls = 0 then t.complete c
    else t.trapAt c { code := .brk, fmask := ls, counter := c.pc }

/-- RETT (R216): outside a handler split it is ILLEGAL_OP. -/
def execRett (sw : Bool) (s : State) : Host.Outcome State Fault Refusal :=
  let okOp := match s.issue? sw with
    | some c => c.w.inHandler c.id.split
    | none => true
  s.issueWith (.rett sw) sw { okOp := okOp } fun c t =>
    -- its switch marker is the handler's own: results, stores and late stores of the handler come first (R210, R257)
    if sw ∧ (c.w.resultsOut c.id.split ∨ t.storesSettled c.id.warp = false) then
      (t.waitAt c .results).dropLatch fun e => e.core == c.w.core && e.group == slotGroup c.w.slot
    else if sw ∧ (c.w.late.any fun l => l.inHandler) then t.deliverLate c.id.warp c.id.split
    else if (t.drain c.id.warp 0xFFFFFFFF).storesLeft c.id.warp then (t.drain c.id.warp 0xFFFFFFFF).waitAt c .results
    else t.returnFrom c.id c.pc (encodeWord (.rett sw))

def execSleep (sw : Bool) (c : BitVec 18) (s : State) : Host.Outcome State Fault Refusal :=
  s.issueWith (.sleep sw c) sw {} fun i t => t.waitAt i (.sleep (t.cycle + max 1 (16 * c.toNat)))

def execNop (sw : Bool) (s : State) : Host.Outcome State Fault Refusal :=
  s.issueWith (.nop sw) sw {} fun c t => t.complete c

end Sys2Proof.Machine
end

