-- ==== Sys2Proof/Machine/Tiles.lean ====
section
/-! DEFINITION. Tiles as numbers of 9,248 little-endian bytes: the header and its checks (R241 to R244), element decoding
(R225 to R228, R236, R237, R240), quantising (R238, R239, R387, R388), pruning bounds (R390), and the passes of the
Mainsail (R247 to R251). -/
namespace Sys2Proof.Machine

/-! ## The header (R241 to R244) -/

structure TileHdr where
  fmt : Nat
  sparse : Nat := 0
  slay : Nat
  layout : Nat
  kax : Nat
  rows : Nat
  cols : Nat
  version : Nat := 0
  scale : Nat := 0
  bound : Nat := 0
  seed : Nat := 0
  deriving DecidableEq, Repr

/-- The fields of the header bytes. -/
def tileHdr (v : Nat) : TileHdr :=
  { fmt := bits v 20 4, sparse := bits v 16 4, slay := bits v 28 4, layout := bits v 24 2, kax := bits v 26 1,
    rows := bits v 32 16, cols := bits v 48 16, version := bits v 64 32, scale := bits v 96 32, bound := bits v 128 32,
    seed := bits v 160 64 }

/-- One byte into the CRC (R242). -/
def crcStep : Nat → Nat → Nat
  | 0, crc => crc
  | n + 1, crc => crcStep n (if crc.testBit 15 then (crc * 2 % 2 ^ 16) ^^^ 0x1021 else crc * 2 % 2 ^ 16)

/-- The CRC of bytes (R242). -/
def crc16 (bs : List Nat) : Nat := bs.foldl (fun crc c => crcStep 8 (crc ^^^ (c * 256))) 0xFFFF

/-- The CRC of a header: bytes 0 to 7 and 12 to 29 (R242). -/
def hdrCrc (v : Nat) : Nat :=
  crc16 ((List.range 8).map (fun i => bits v (8 * i) 8) ++ (List.range 18).map (fun i => bits v (8 * (12 + i)) 8))

/-- The 32 bytes of a header. -/
def TileHdr.toNat (h : TileHdr) : Nat :=
  let v := 0xB8 + 0x100 + h.sparse % 16 * 2 ^ 16 + h.fmt % 16 * 2 ^ 20 + h.layout % 4 * 2 ^ 24 + h.kax % 2 * 2 ^ 26 +
    h.slay % 16 * 2 ^ 28 + h.rows % 2 ^ 16 * 2 ^ 32 + h.cols % 2 ^ 16 * 2 ^ 48 + h.version % 2 ^ 32 * 2 ^ 64 +
    h.scale % 2 ^ 32 * 2 ^ 96 + h.bound % 2 ^ 32 * 2 ^ 128 + h.seed % 2 ^ 64 * 2 ^ 160
  v + hdrCrc v * 2 ^ 240

/-- Extent along k and number of lines (R237). -/
def TileHdr.kExt (h : TileHdr) : Nat := if h.kax = 0 then h.cols else h.rows
def TileHdr.lines (h : TileHdr) : Nat := if h.kax = 0 then h.rows else h.cols

/-- Length of a scale block along k, and bytes of its entry; 0 without blocks (R236, R237). -/
def TileHdr.block (h : TileHdr) : Nat := if h.slay = 2 ∨ h.slay = 3 then 32 else if h.slay = 4 then 64 else 0
def TileHdr.entryBytes (h : TileHdr) : Nat := if h.slay = 2 then 1 else if h.slay = 3 then 2 else if h.slay = 4 then 3 else 0

/-- Lengths of the areas (R237, R240, R244). -/
def TileHdr.scaleLen (h : TileHdr) : Nat := if h.block = 0 then 0 else h.lines * (h.kExt / h.block) * h.entryBytes
def TileHdr.metaLen (h : TileHdr) : Nat := if h.sparse = 1 then (h.lines * (h.kExt / 2) + 3) / 4 else 0
def TileHdr.dataLen (h : TileHdr) : Nat :=
  (h.rows * h.cols * elemBits h.fmt / (if h.sparse = 1 then 2 else 1) + 7) / 8

/-- The next 32-byte boundary. -/
def up32 (n : Nat) : Nat := (n + 31) / 32 * 32

/-- Offsets of the metadata and the data from the first header byte, and the span (R244). -/
def TileHdr.metaOff (h : TileHdr) : Nat := up32 (32 + h.scaleLen)
def TileHdr.dataOff (h : TileHdr) : Nat := up32 (h.metaOff + h.metaLen)
def TileHdr.span (h : TileHdr) : Nat := h.dataOff + h.dataLen - 32

/-- Scale layouts allowed for a format (R236). -/
def slayOk (slay fmt : Nat) : Bool :=
  match slay with
  | 0 => fmt != 7
  | 1 => (elemFloat fmt).isSome
  | 2 => fmt == 8 || fmt == 9 || fmt == 6
  | 3 => fmt == 7
  | 4 => fmt == 8 || fmt == 9 || fmt == 6
  | _ => false

/-- Step 4 of R243. -/
def TileHdr.bad (h : TileHdr) : Bool :=
  h.fmt == 15 || decide (1 < h.sparse) || h.layout == 3 || h.rows == 0 || h.cols == 0 || !slayOk h.slay h.fmt ||
  (h.layout == 2 && (h.rows % 8 != 0 || h.cols % 8 != 0)) ||
  (h.block != 0 && h.kExt % h.block != 0) ||
  (h.sparse == 1 && (h.kExt % 4 != 0 || !((h.layout == 0 && h.kax == 0) || (h.layout == 1 && h.kax == 1)) ||
    !([0, 1, 2, 3, 6, 7, 8, 9, 10, 11].contains h.fmt))) ||
  (h.seed != 0 && h.kExt % 32 != 0) || decide (9216 < h.span) || decide (8192 < h.dataLen)

/-- What a header check finds (R243): `check n` is HDR_CHECK with its cause, `mismatch` is step 4. -/
inductive HdrBad where
  | check (cause : Nat)
  | mismatch
  deriving DecidableEq, Repr

/-- Steps 1 to 3 of R243. -/
def hdrCheck3 (v : Nat) : Option HdrBad :=
  if bits v 0 8 ≠ 0xB8 then some (.check 1)
  else if bits v 8 8 ≠ 1 then some (.check 2)
  else if bits v 240 16 ≠ hdrCrc v then some (.check 3)
  else none

/-- Steps 1 to 4 of R243. -/
def hdrCheck4 (v : Nat) : Option HdrBad :=
  match hdrCheck3 v with
  | some b => some b
  | none => if v.testBit 27 || bits v 224 16 != 0 || (tileHdr v).bad then some .mismatch else none

/-! ## Decoding (R225 to R228, R236, R237, R240) -/

/-- Index of element (i, j) (R241), of a shape with `rows` and `cols`. -/
def elemIndex (layout rows cols i j : Nat) : Nat :=
  match layout with
  | 0 => i * cols + j
  | 1 => j * rows + i
  | _ => 64 * (i / 8 * (cols / 8) + j / 8) + 8 * (i % 8) + j % 8

/-- The element of an index: row and column. -/
def elemPlace (layout rows cols n : Nat) : Nat × Nat :=
  match layout with
  | 0 => (n / cols, n % cols)
  | 1 => (n % rows, n / rows)
  | _ => (n / 64 / (cols / 8) * 8 + n % 64 / 8, n / 64 % (cols / 8) * 8 + n % 8)

/-- Line and k position of element (i, j) (R237). -/
def TileHdr.lineOf (h : TileHdr) (i j : Nat) : Nat × Nat := if h.kax = 0 then (i, j) else (j, i)

/-- The pattern stored at an index. -/
def TileHdr.patAt (h : TileHdr) (v n : Nat) : Nat := bits v (8 * h.dataOff + elemBits h.fmt * n) (elemBits h.fmt)

/-- The stored pattern of element (i, j); none where S24 drops it (R240). -/
def TileHdr.pat (h : TileHdr) (v i j : Nat) : Option Nat :=
  if h.sparse ≠ 1 then some (h.patAt v (elemIndex h.layout h.rows h.cols i j))
  else
    let x := h.lineOf i j
    let e := x.1 * (h.kExt / 2) + x.2 / 4 * 2
    let pos := fun n => bits v (8 * h.metaOff + 2 * n) 2
    -- the compacted data keeps k contiguous, so a kept element's index is its entry number
    if pos (e + 1) = x.2 % 4 then some (h.patAt v (e + 1))
    else if pos e = x.2 % 4 then some (h.patAt v e)
    else none

/-- First byte of the scale entry of a k position of a line (R237). -/
def TileHdr.entryAt (h : TileHdr) (line k : Nat) : Nat := 32 + (line * (h.kExt / h.block) + k / h.block) * h.entryBytes

/-- The value of an E8M0 byte (R228). -/
def e8m0 (e : Nat) : FVal := if e = 0xFF then .nan false else .fin false 1 (e - 127)

/-- The value of a pattern of a format (R225 to R227). -/
def elemVal (fmt p : Nat) : FVal :=
  match elemFloat fmt with
  | some f => f.decode p
  | none =>
    if fmt = 7 then if p = 8 then .fin false 0 0 else FloatFmt.e2m1.decode p
    else if elemUnsigned fmt then .fin false p 0
    else .ofInt (sext p (elemBits fmt))

/-- `val` of R249: element (i, j) before block and tile scales. -/
def TileHdr.val (h : TileHdr) (v i j : Nat) : FVal :=
  match h.pat v i j with
  | none => .fin false 0 0
  | some p =>
    if h.fmt = 7 ∧ p = 8 then
      let x := h.lineOf i j
      FloatFmt.e4m3.decode (bits v (8 * (h.entryAt x.1 x.2 + 1)) 8)
    else elemVal h.fmt p

/-- The operand scale at a k position of a line (R236). -/
def TileHdr.scaleAt (h : TileHdr) (v line k : Nat) : FVal :=
  match h.slay with
  | 0 => .fin false 1 0
  | 1 => FloatFmt.f32.decode h.scale
  | 4 =>
    let a := h.entryAt line k
    let f := bits v (8 * (a + 1) + 4 * (k % 64 / 16)) 4
    match e8m0 (bits v (8 * a) 8) with
    | .fin _ _ e => .fin false (16 + f) (e - 4)
    | x => x
  | _ => e8m0 (bits v (8 * h.entryAt line k) 8)

/-- Element times scale, with the flags that it raises (R233, R236). -/
def scaled (x sc : FVal) : FVal × Nat :=
  if x.isNaN || sc.isNaN then (.nan (x.isSignalling || sc.isSignalling), 0)
  else match x.mul sc with
    | some y => (y, 0)
    | none => (.nan false, flInvalid)

/-- The decoded value of element (i, j) (R236). -/
def TileHdr.decoded (h : TileHdr) (v i j : Nat) : FVal × Nat :=
  let x := h.lineOf i j
  scaled (h.val v i j) (h.scaleAt v x.1 x.2)

/-! ## Pruning bounds (R390) -/

/-- The larger magnitude; a NaN takes all. -/
def FVal.maxMag : FVal → FVal → FVal
  | .nan s, _ => .nan s
  | _, .nan s => .nan s
  | .inf _, _ => .inf false
  | _, .inf _ => .inf false
  | .fin _ m e, .fin _ n k => if (Dyadic.ofFin false m e).lt (Dyadic.ofFin false n k) then .fin false n k else .fin false m e

/-- A magnitude as a bound: FP32 under RU. -/
def boundOf (x : FVal) : Nat :=
  match x with
  | .nan _ => FloatFmt.f32.nanCode
  | y => (FloatFmt.f32.ofVal { mode := .ru } (y.maxMag (.fin false 0 0))).code

/-- Largest decoded magnitude of a tile. -/
def TileHdr.maxMag (h : TileHdr) (v : Nat) : FVal :=
  (List.range h.rows).foldl (fun m i => (List.range h.cols).foldl (fun m j => m.maxMag (h.decoded v i j).1) m)
    (.fin false 0 0)

/-- The header with a new bound, over the tile (TBND, R390). -/
def withHdr (v : Nat) (h : TileHdr) : Nat := setBits v 0 256 h.toNat

/-! ## Quantising (R238, R239) -/

/-- `emax` of a format and its largest finite value (R238). -/
def emaxOf (fmt : Nat) : Nat := if fmt = 8 then 8 else if fmt = 9 then 15 else 2
def maxFinite (fmt : Nat) : Nat := if fmt = 8 then 448 else if fmt = 9 then 57344 else 6

/-- The E8M0 byte of a block (R238). -/
def scaleByte (emax : Nat) (xs : List FVal) : Nat :=
  if xs.any fun x => match x with
    | .fin _ _ _ => false
    | _ => true then 0xFF
  else
    let ls := xs.filterMap fun x => match x with
      | .fin _ m e => if m = 0 then none else some ((Nat.log2 m : Int) + e)
      | _ => none
    match ls with
    | [] => 127
    | l :: rest => (127 + max (-127) (min 127 (rest.foldl max l - emax))).toNat

/-- A value times 2^k. -/
def FVal.shift (x : FVal) (k : Int) : FVal := match x with
  | .fin n m e => .fin n m (e + k)
  | y => y

/-- The fine code of a sub-block of 16 (R238). -/
def fineCode (fmt byte : Nat) (xs : List FVal) : Nat :=
  if byte = 0xFF then 0
  else
    let q := xs.foldl (fun a x => match x with
      | .fin _ m e =>
        let k : Int := e + 4 + 127 - byte
        let num := m * 2 ^ k.toNat
        let den := maxFinite fmt * 2 ^ (-k).toNat
        max a ((num + den - 1) / den)
      | _ => a) 0
    min 15 (q - 16)

/-- Difference of two finite values, as a magnitude. -/
def distance (x y : FVal) : Dyadic := match x, y with
  | .fin a m e, .fin b n k => ((Dyadic.ofFin a m e).add (Dyadic.ofFin (!b) n k)).abs
  | _, _ => ⟨0, 0⟩

/-- A block of 32 as E2M1X (R239): codes, special byte, flags, and whether an element that keeps its code saturates (DEDUCED, log 50).
No element is nearer to a special value that is NaN; `sat` bounds the special value (R234). -/
def e2m1xBlock (sat : Bool) (byte : Nat) (xs : List FVal) : List Nat × Nat × Nat × Bool :=
  if byte = 0xFF then (xs.map fun _ => 0, 0, 0, false)
  else
    let ys := xs.map fun x => x.shift (127 - byte)
    let qs := ys.map fun y => FloatFmt.e2m1.ofVal {} y
    let es := (ys.zip qs).map fun p => distance p.1 (FloatFmt.e2m1.decode p.2.code)
    let i := (List.range es.length).foldl (fun i j => if (es.getD i ⟨0, 0⟩).lt (es.getD j ⟨0, 0⟩) then j else i) 0
    let sp := FloatFmt.e4m3.ofVal { sat := sat } (ys.getD i (.fin false 0 0))
    let sv := FloatFmt.e4m3.decode sp.code
    let nearer := fun (j : Nat) => !sv.isNaN && (distance (ys.getD j (.fin false 0 0)) sv).lt (es.getD j ⟨0, 0⟩)
    let codes := (List.range ys.length).map fun j =>
      if nearer j then 8
      else if (qs.getD j ⟨0, 0, false⟩).code = 8 then 0 else (qs.getD j ⟨0, 0, false⟩).code
    (codes, sp.code, qs.foldl (fun a q => a ||| q.flags) sp.flags,
      (List.range qs.length).any fun j =>
        if nearer j then (FloatFmt.e4m3.ofVal { sat := sat } (ys.getD j (.fin false 0 0))).flags.testBit 2
        else (qs.getD j ⟨0, 0, false⟩).flags.testBit 2)

/-- conv(x ÷ s) of R388 for a float format. -/
def perTileConv (f : FloatFmt) (rd : Rounding) (x s : FVal) : Rounded :=
  let rd' : Rounding := { rd with sat := rd.sat || f == .e2m1 }
  let flag := fun (r : Rounded) (k : Nat) => { r with flags := r.flags ||| k }
  match x, s with
  | .nan a, y => f.ofVal rd (.nan (a || y.isSignalling))
  | _, .nan b => f.ofVal rd (.nan b)
  | .inf _, .inf _ => flag (f.ofVal rd (.nan false)) flInvalid
  | .inf a, .fin b _ _ => f.ofVal rd (.inf (a != b))
  | .fin a _ _, .inf b => f.ofVal rd (.fin (a != b) 0 0)
  | .fin a m e, .fin b n k =>
    if n = 0 then
      if m = 0 then flag (f.ofVal rd (.nan false)) flInvalid else flag (f.ofVal rd (.inf (a != b))) flDivZero
    else f.roundQuot rd' (a != b) m n (e - k)

/-- The scales of a block of a target: E8M0 byte, fine codes, E2M1X codes and special byte, flags. -/
structure BlockOut where
  byte : Nat
  fine : List Nat := []
  codes : List Nat := []
  special : Nat := 0
  flags : Nat := 0
  /-- the block holds an infinity, and an element saturates: to the largest E2M1 value, or to that of the special byte -/
  hasInf : Bool := false
  saturates : Bool := false
  deriving DecidableEq, Repr

/-- Quantise a block of values (R238, R239); `sat` is HINT.SAT. -/
def blockOut (sat : Bool) (slay fmt : Nat) (xs : List FVal) : BlockOut :=
  let byte := scaleByte (emaxOf fmt) xs
  let fl := if byte = 0xFF then flInvalid else 0
  let inf := xs.any fun x => match x with
    | .inf _ => true
    | _ => false
  match slay with
  | 3 =>
    let r := e2m1xBlock sat byte xs
    ⟨byte, [], r.1, r.2.1, fl ||| r.2.2.1, inf, r.2.2.2⟩
  | 4 => ⟨byte, (List.range 4).map fun s => fineCode fmt byte ((xs.drop (16 * s)).take 16), [], 0, fl, inf, false⟩
  | _ => ⟨byte, [], [], 0, fl, inf, false⟩

/-- Bytes of a scale entry (R237). -/
def BlockOut.bytes (b : BlockOut) (slay : Nat) : List Nat :=
  match slay with
  | 3 => [b.byte, b.special]
  | 4 => [b.byte, b.fine.getD 0 0 + 16 * b.fine.getD 1 0, b.fine.getD 2 0 + 16 * b.fine.getD 3 0]
  | _ => [b.byte]

/-- How one element of a target is made: `raw` of ADRN takes an integer's low bits (R395). -/
def elemOut (h : TileHdr) (bs : List BlockOut) (rd : Rounding) (raw : Bool) (i j : Nat) (x : FVal) : Rounded :=
  let p := h.lineOf i j
  let b := bs.getD (p.1 * (h.kExt / h.block) + p.2 / h.block) { byte := 127 }
  match h.slay with
  | 1 => match elemFloat h.fmt with
    | some f => perTileConv f rd x (FloatFmt.f32.decode h.scale)
    | none => ⟨0, 0, false⟩
  | 2 => if b.byte = 0xFF then ⟨0, 0, false⟩ else convertTo h.fmt { rd with sat := true } (x.shift (127 - b.byte))
  | 3 => ⟨b.codes.getD (p.2 % 32) 0, 0, false⟩
  | 4 =>
    if b.byte = 0xFF then ⟨0, 0, false⟩
    else match elemFloat h.fmt, x with
      | some f, .fin n m e =>
        f.roundQuot { rd with sat := true } n m (16 + b.fine.getD (p.2 % 64 / 16) 0) (e + 4 + 127 - b.byte)
      | _, _ => ⟨0, 0, false⟩
  | _ =>
    match raw, (elemFloat h.fmt).isNone, x with
    | true, true, .fin n m _ =>
      let b := elemBits h.fmt
      let v : Int := if n then -(m : Int) else m
      let lo : Int := if elemUnsigned h.fmt then 0 else -(2 ^ (b - 1))
      let hi : Int := if elemUnsigned h.fmt then 2 ^ b - 1 else 2 ^ (b - 1) - 1
      if rd.sat ∧ (v < lo ∨ hi < v) then ⟨trunc (max lo (min hi v)) b, flOverflow, false⟩ else ⟨trunc v b, 0, false⟩
    | _, _, _ => convertTo h.fmt rd x

/-- An encoded tile: its areas in place over `v`, flags, the stream after its draws, and each element's flags in index
order. -/
structure Encoded where
  tile : Nat
  flags : Nat
  stream : Nat
  elems : List Nat
  blocks : List BlockOut
  deriving DecidableEq, Repr

/-- Encode values into a dense target (R388), header and bound included, over a tile register that holds `rest`: the bytes outside the
areas, which no rule gives, are those of a free value (DESIGN CHOICE, log 18). -/
def encodeTile (rest : BitVec 73984) (h : TileHdr) (rd : Rounding) (stream : Nat) (raw : Bool) (x : Nat → Nat → FVal) : Encoded :=
  let at_ := fun (line k : Nat) => if h.kax = 0 then x line k else x k line
  let bs := if h.block = 0 then []
    else (List.range (h.lines * (h.kExt / h.block))).map fun e =>
      let line := e / (h.kExt / h.block)
      let b := e % (h.kExt / h.block)
      blockOut rd.sat h.slay h.fmt ((List.range h.block).map fun k => at_ line (h.block * b + k))
  let r := (List.range (h.rows * h.cols)).foldl (fun (a : List (Nat × Nat) × Nat) n =>
    let p := elemPlace h.layout h.rows h.cols n
    let o := elemOut h bs { rd with draw := drawValue a.2 } raw p.1 p.2 (x p.1 p.2)
    ((o.code, o.flags) :: a.1, if o.drew then drawNext a.2 else a.2)) ([], stream)
  let b := elemBits h.fmt
  let data := r.1.foldl (fun acc c => acc * 2 ^ b + c.1 % 2 ^ b) 0
  let scales := (bs.flatMap fun e => e.bytes h.slay).foldr (fun c acc => c + 256 * acc) 0
  let v1 := setBits (setBits rest.toNat (8 * 32) (8 * h.scaleLen) scales) (8 * h.dataOff) (b * (h.rows * h.cols)) data
  let h1 := { h with bound := boundOf (h.maxMag v1) }
  { tile := withHdr v1 h1, flags := bs.foldl (fun a e => a ||| e.flags) (r.1.foldl (fun a c => a ||| c.2) 0),
    stream := r.2, elems := r.1.reverse.map (·.2), blocks := bs }

/-! ## Targets (R387) -/

structure Target where
  hdr : TileHdr
  acc : Nat
  part : Nat
  deriving DecidableEq, Repr

/-- Rows that ADRN drains for a format (R395). -/
def drainRows (fmt : Nat) : Nat := if elemBits fmt = 64 then 16 else if elemBits fmt = 32 then 32 else 64

/-- A target descriptor for a result of `rows`, `cols` and `seed`, or of ADRN (`drain`); none where R387, R388 or R395
refuse it. -/
def targetOf (x rows cols seed : Nat) (drain : Bool) : Option Target :=
  let fmt := bits x 0 4
  let g := drainRows fmt
  let h : TileHdr :=
    { fmt := fmt, slay := bits x 4 4, layout := bits x 8 2, kax := bits x 10 1, rows := if drain then g else rows,
      cols := if drain then 64 else cols, scale := bits x 32 32, seed := seed }
  let acc := bits x 14 2
  let part := bits x 12 2
  if bits x 16 16 ≠ 0 ∨ x.testBit 11 ∨ h.bad then none
  else if drain then if acc = 3 ∨ 64 ≤ part * g then none else some ⟨h, acc, part⟩
  else if acc ≠ 0 ∨ part ≠ 0 then none else some ⟨h, 0, 0⟩

/-! ## Fills (R389) -/

/-- `n` copies of a pattern of `b` bits. -/
def repeatBits (b n v : Nat) : Nat := (List.range n).foldl (fun acc _ => acc * 2 ^ b + v % 2 ^ b) 0

/-- TFILL over a tile whose header is in order. -/
def fillTile (v value : Nat) : Nat :=
  let h := tileHdr v
  let b := elemBits h.fmt
  let n := h.rows * h.cols / (if h.sparse = 1 then 2 else 1)
  let unit := if h.slay = 2 then 0x7F else if h.slay = 3 then 0x007F else 0x00007F
  let v1 := setBits v (8 * h.dataOff) (b * n) (repeatBits b n value)
  let v2 := setBits v1 (8 * 32) (8 * h.scaleLen) (repeatBits (8 * h.entryBytes) (h.scaleLen / max 1 h.entryBytes) unit)
  let v3 := setBits v2 (8 * h.metaOff) (2 * (h.lines * (h.kExt / 2)) * (if h.sparse = 1 then 1 else 0))
    (repeatBits 8 h.metaLen 0x44)
  withHdr v3 { h with bound := boundOf (h.decoded v3 0 0).1 }

/-! ## MMA (R247 to R251) -/

/-- A pair that MMA accepts (R247, R393): k, chunk, passes, accumulator (0 F32, 1 S32, 2 FP64 pair), passes of one
grant. -/
structure MmaPlan where
  k : Nat
  chunk : Nat
  passes : Nat
  acc : Nat
  rate : Nat
  deriving DecidableEq, Repr

def isFp8 (f : Nat) : Bool := f == 8 || f == 9
def isFp4 (f : Nat) : Bool := f == 6 || f == 7
def isI8 (f : Nat) : Bool := f == 2 || f == 3
def isI4 (f : Nat) : Bool := f == 0 || f == 1

/-- The plan of two headers; none where the pair is not in R247. -/
def mmaPlan (a b : TileHdr) : Option MmaPlan :=
  let fp := fun f => isFp8 f || isFp4 f
  let it := fun f => isI8 f || isI4 f
  if fp a.fmt ∧ fp b.fmt then
    let blk := if a.slay = 4 ∨ b.slay = 4 then 16 else if a.slay = 2 ∨ a.slay = 3 ∨ b.slay = 2 ∨ b.slay = 3 then 32 else 16
    let both := isFp4 a.fmt && isFp4 b.fmt
    let k := if both then 256 else 128
    let base := if blk = 32 then (if both then 2 else 1) else (if both then 4 else 2)
    some ⟨k, blk, k / blk, 0, if both ∧ a.sparse = 1 then 2 * base else base⟩
  else if a.fmt = b.fmt ∧ (a.fmt = 10 ∨ a.fmt = 11) then some ⟨64, 16, 4, 0, 1⟩
  else if a.fmt = 12 ∧ b.fmt = 12 then some ⟨32, 16, 2, 0, 1⟩
  else if a.fmt = 13 ∧ b.fmt = 13 then some ⟨16, 1, 16, 2, 1⟩
  else if it a.fmt ∧ it b.fmt then
    let k := if isI4 a.fmt && isI4 b.fmt then 256 else 128
    some ⟨k, 16, k / 16, 1, 2⟩
  else none

/-- The fit of R248 but for the k fit: the operand at fault, 1 for A and 2 for B. -/
def mmaFit (a b : TileHdr) : Option Nat :=
  let wide := fun (h : TileHdr) => decide (10 ≤ h.fmt) && decide (h.fmt ≤ 13) && decide (1 < h.slay)
  let int := fun (h : TileHdr) => (isI8 h.fmt || isI4 h.fmt) && h.slay != 0
  if a.rows ≠ 64 ∨ a.kax ≠ 0 ∨ wide a ∨ int a then some 1
  else if b.cols ≠ 64 ∨ b.kax ≠ 1 ∨ b.sparse ≠ 0 ∨ wide b ∨ int b ∨ a.seed ≠ b.seed then some 2
  else none

/-- Exact chunk sum of products (R249, R251) (DEDUCED, log 52). -/
def chunkSum (xs ys : List FVal) : FVal :=
  let ps := (xs.zip ys).map fun p => p.1.mul p.2
  if ps.any (·.isNone) then .nan false
  else
    let qs := ps.filterMap id
    let pos := qs.any fun x => x == .inf false
    let neg := qs.any fun x => x == .inf true
    if pos && neg then .nan false
    else if pos then .inf false
    else if neg then .inf true
    else
      let d := qs.foldl (fun (a : Dyadic) x => match x with
        | .fin n m e => a.add (Dyadic.ofFin n m e)
        | _ => a) ⟨0, 0⟩
      .fin (decide (d.n < 0)) d.n.natAbs d.e

/-- Product of values, a NaN where there is none. -/
def FVal.times (x y : FVal) : FVal := (x.mul y).getD (.nan false)

def FVal.isFin : FVal → Bool
  | .fin _ _ _ => true
  | _ => false

/-- One line's chunk: values and scale. -/
abbrev ChunkLine := List FVal × FVal

/-- Line `i` of an operand in chunk q. -/
def TileHdr.chunkLine (h : TileHdr) (v chunk q i : Nat) : ChunkLine :=
  ((List.range chunk).map fun x => if h.kax = 0 then h.val v i (q * chunk + x) else h.val v (q * chunk + x) i,
    h.scaleAt v i (q * chunk))

/-- The update of an FP32 element (R249, R251): new pattern, status bits. A NaN sum or product that comes of other operands sets no bit 7
where the element of the accumulator, or another element of the chunk, is a NaN already (DESIGN CHOICE, log 104). -/
def mmaF32 (seed : Nat) (a b : ChunkLine) (c : Nat) : Nat × Nat :=
  let f := FloatFmt.f32
  let t := chunkSum a.1 b.1
  let m := (a.2.times b.2).shift (if seed = 0 then 0 else 1)
  let cv := f.decode c
  let r1 := f.ofVal {} (t.times m)
  let p := f.decode r1.code
  let r2 := f.addVal {} cv p
  let nanIn := cv.isNaN || a.2.isNaN || b.2.isNaN || a.1.any (·.isNaN) || b.1.any (·.isNaN)
  (r2.code, (if (t.isFin && r1.flags.testBit 2) || (cv.isFin && p.isFin && r2.flags.testBit 2) then 2 ^ 6 else 0) +
    (if (f.decode r2.code).isNaN && !nanIn then 2 ^ 7 else 0))

/-- The update of an FP64 element (R250, R251), bit 7 as in `mmaF32` (DESIGN CHOICE, log 104). -/
def mmaF64 (a b : ChunkLine) (c : Nat) : Nat × Nat :=
  let f := FloatFmt.f64
  let x := a.1.headD (.fin false 0 0)
  let y := b.1.headD (.fin false 0 0)
  let cv := f.decode c
  let p := ((x.times y).times a.2).times b.2
  let r := f.addVal {} cv p
  let nanIn := cv.isNaN || x.isNaN || y.isNaN || a.2.isNaN || b.2.isNaN
  (r.code, (if p.isFin && cv.isFin && r.flags.testBit 2 then 2 ^ 6 else 0) +
    (if (f.decode r.code).isNaN && !nanIn then 2 ^ 7 else 0))

/-- The update of an S32 element (R249). -/
def mmaS32 (a b : ChunkLine) (c : Nat) : Nat × Nat :=
  let t := (a.1.zip b.1).foldl (fun (s : Int) p => match p.1, p.2 with
    | .fin n m e, .fin k l g => s + (Dyadic.ofFin n m e).floor * (Dyadic.ofFin k l g).floor
    | _, _ => s) 0
  (trunc (t + c) 32, 0)

/-- Pass q of an MMA over an accumulator, or a pair, as one number (R126, R394): the new one and status bits. -/
def mmaPass (p : MmaPlan) (a b : TileHdr) (va vb q : Nat) (zero : Bool) (acc : Nat) : Nat × Nat :=
  let w := if p.acc = 2 then 64 else 32
  let acc := if q = 0 && zero then 0 else acc
  let as := (List.range 64).map fun i => a.chunkLine va p.chunk q i
  let bs := (List.range 64).map fun j => b.chunkLine vb p.chunk q j
  let cs := (List.range 64).flatMap fun i =>
    let x := as.getD i ([], .fin false 1 0)
    (List.range 64).map fun j =>
      let y := bs.getD j ([], .fin false 1 0)
      let c := bits acc (w * (64 * i + j)) w
      match p.acc with
      | 0 => mmaF32 a.seed x y c
      | 1 => mmaS32 x y c
      | _ => mmaF64 x y c
  (cs.foldr (fun c n => c.1 + 2 ^ w * n) 0, cs.foldl (fun s c => s ||| c.2) 0)

/-- Element (r, j) of an accumulator under a format of R387 (R126, R395). -/
def accVal (fmt acc n : Nat) : FVal :=
  match fmt with
  | 0 => FloatFmt.f32.decode (bits acc (32 * n) 32)
  | 1 => .ofInt (sext (bits acc (32 * n) 32) 32)
  | _ => FloatFmt.f64.decode (bits acc (64 * n) 64)

/-- Status bits of a drained tile (R395): `i`-th value against its encoding. -/
def drainStatus (h : TileHdr) (e : Encoded) (x : Nat → Nat → FVal) : Nat :=
  let one := (List.range (h.rows * h.cols)).foldl (fun s n =>
    let p := elemPlace h.layout h.rows h.cols n
    let a := x p.1 p.2
    let d := (h.decoded e.tile p.1 p.2).1
    let fl := e.elems.getD n 0
    let clipped := fl.testBit 2 || fl.testBit 1 || ((elemFloat h.fmt).isNone && h.fmt != 7 && fl.testBit 0)
    s ||| (if a.isFin && (clipped || match d with
        | .inf _ => true
        | _ => false) then 2 ^ 6 else 0) |||
      (if !a.isNaN && h.block == 0 && d.isNaN then 2 ^ 7 else 0)) 0
  let blk := e.blocks.foldl (fun s b =>
    s ||| (if b.saturates then 2 ^ 6 else 0) ||| (if b.hasInf then 2 ^ 7 else 0)) 0
  one ||| blk

end Sys2Proof.Machine
end

