-- ==== Sys2Proof/Machine/Transform.lean ====
section
/-! DEFINITION. The Jib's transforms (R139 to R143), and what a chunk of an engine operation reads and then writes
(R348 to R351, R428): a chunk asks for one piece of memory after another until it knows its output. -/
namespace Sys2Proof.Machine

/-- A transform binding or descriptor (R52). -/
def bindingOf (b : List Byte) : Binding :=
  { src := BitVec.ofNat 64 (fieldOf b 0 8), scratchOff := fieldOf b 8 4, length := fieldOf b 12 4, code := byteAt b 16,
    logChunk := byteAt b 17, params := (b.drop 18).take 14 }

/-- Bytes of an element that a dequantize makes (R141). -/
def dqBytes (fmt : Nat) : Nat := if fmt = 0xC then 4 else 2

/-- The checks of R140 but for its scratchpad bound and source space, with the limits of R141. -/
def Binding.ok (b : Binding) : Bool :=
  let p := b.params
  b.logChunk == 12 && b.length != 0 && b.length % 32 == 0 &&
  match b.code with
  | 1 => zeroAt p 0 14
  | 2 => zeroAt p 0 14
  | 3 => (byteAt p 0 == 0xA || byteAt p 0 == 0xB || byteAt p 0 == 0xC) && zeroAt p 1 13
  | 4 =>
    decide (byteAt p 0 ≤ 3) && zeroAt p 1 1 && zeroAt p 6 8 && decide (1 ≤ fieldOf p 2 2) && decide (1 ≤ fieldOf p 4 2) &&
    b.length == fieldOf p 2 2 * fieldOf p 4 2 * 2 ^ byteAt p 0
  | 5 => decide (byteAt p 8 ≤ 1) && zeroAt p 9 5 && b.length % 128 == 0
  | _ => false

/-- What is wrong with a source (R142 to R144). -/
inductive XfBad where
  /-- malformed compressed block -/
  | block
  /-- tile header: the cause of HDR_CHECK, 0 for a header that does not fit -/
  | header (cause : Nat)
  /-- the version was odd or changed -/
  | torn
  /-- the tile crosses its 64 KiB page (R177) -/
  | crosses
  /-- a GATH entry in a space that it may not name (R350) -/
  | entry
  deriving DecidableEq, Repr

/-- What a chunk does next. -/
inductive ChunkStep where
  /-- read `n` bytes at generic pointer `p` -/
  | read (p n : Nat)
  /-- write these bytes; flags of R233 and status bits of R221 raised on the way -/
  | out (data : List Byte) (flags status : Nat)
  | stop (why : XfBad)
  deriving DecidableEq, Repr

/-- Output of a compressed block (R142); none if it is malformed. -/
def unpackBlock (b : List Byte) : Option (List Byte) :=
  match byteAt b 0 with
  | 0 => if b.length = 4097 then some (b.drop 1) else none
  | 1 => if b.length = 5 then some ((List.range 1024).flatMap fun _ => (b.drop 1).take 4) else none
  | 2 =>
    let m := fieldOf b 1 128
    let k := popcount m 1024
    if b.length = 129 + 4 * k then
      some ((List.range 1024).foldl (fun (a : List Byte × List Byte) i =>
        if m.testBit i then (a.1 ++ a.2.take 4, a.2.drop 4) else (a.1 ++ [0, 0, 0, 0], a.2)) ([], b.drop 129)).1
    else none
  | _ => none

/-- A chunk of a dequantize, its tile read whole (R143): elements from `first` on, row-major; flags and status bits. -/
def dequantChunk (fmt first count : Nat) (v : Nat) : List Byte × Nat × Nat :=
  let h := tileHdr v
  let f := (elemFloat fmt).getD .f32
  (List.range count).foldl (fun (a : List Byte × Nat × Nat) k =>
    let m := first + k
    let x := h.decoded v (m / h.cols) (m % h.cols)
    let r := f.ofVal {} x.1
    (a.1 ++ leBytes (dqBytes fmt) r.code, a.2.1 ||| r.flags ||| x.2,
      a.2.2 ||| (if r.flags.testBit 2 then 2 ^ 6 else 0) ||| (if x.2.testBit 0 then 2 ^ 7 else 0))) ([], 0, 0)

/-- A group of a Hadamard transform: patterns, and status bits (R221, R245). -/
def hadamardGroup (inverse : Bool) (seed : Nat) (xs : List Nat) : List Nat × Nat :=
  let r := hadamard inverse seed xs
  let nan := fun (ys : List Nat) => ys.any fun y => (FloatFmt.f32.decode y).isNaN
  (r.1, (if r.2.testBit 2 then 2 ^ 6 else 0) + (if nan r.1 && !nan xs then 2 ^ 7 else 0))

/-- Chunk `k` of a transform of the source at `p`, after the pieces `got` (R139 to R143). A region whose magic or block count is wrong is
taken as a malformed block (R144) (DEDUCED, log 93). -/
def xfStep (b : Binding) (p k : Nat) (got : List (List Byte)) : ChunkStep :=
  let n := min 4096 (b.length - 4096 * k)
  match b.code with
  | 2 =>
    match got with
    | [] => .read p 8
    | [h] =>
      if fieldOf h 0 4 ≠ 0xB8C1 ∨ fieldOf h 4 4 ≠ (b.length + 4095) / 4096 then .stop .block
      else .read (ptrAdd p (8 + 4 * k)) 8
    | [_, o] =>
      let a := fieldOf o 0 4
      let e := fieldOf o 4 4
      if e ≤ a ∨ 129 + 4096 < e - a then .stop .block else .read (ptrAdd p a) (e - a)
    | _ :: _ :: blk :: _ =>
      match unpackBlock blk with
      | some d => .out (d.take n) 0 0
      | none => .stop .block
  | 3 =>
    match got with
    | [] => .read p 32
    | hb :: rest =>
      let v := leNat hb
      let h := tileHdr v
      -- the version comes first: under an odd one the header may be half written (R180)
      if h.version % 2 = 1 then .stop .torn
      else match hdrCheck4 v with
      | some (.check c) => .stop (.header c)
      | some .mismatch => .stop (.header 0)
      | none =>
        let e := dqBytes (byteAt b.params 0)
        if b.length ≠ h.rows * h.cols * e then .stop (.header 0)
        else if bits p 60 4 ≠ 4 ∧ 65536 < p % 65536 + 32 + h.span then .stop .crosses
        else match rest with
          | [] => .read (ptrAdd p 32) h.span
          | [_] => .read (ptrAdd p 8) 4
          | d :: ver :: _ =>
            if leNat ver ≠ h.version then .stop .torn
            else
              let r := dequantChunk (byteAt b.params 0) (4096 * k / e) (n / e) (v + 2 ^ 256 * leNat d)
              .out r.1 r.2.1 r.2.2
  | 4 =>
    -- output element m is source element (m mod rows, m div rows), read one by one
    let e := 2 ^ byteAt b.params 0
    let rows := fieldOf b.params 2 2
    let cols := fieldOf b.params 4 2
    if n / e ≤ got.length then .out got.flatten 0 0
    else
      let m := 4096 * k / e + got.length
      .read (ptrAdd p (e * (m % rows * cols + m / rows))) e
  | 5 =>
    match got with
    | [] => .read (ptrAdd p (4096 * k)) n
    | d :: _ =>
      let xs := (List.range (n / 4)).map fun i => fieldOf d (4 * i) 4
      let rs := (List.range (n / 128)).map fun g =>
        hadamardGroup (byteAt b.params 8 == 1) (fieldOf b.params 0 8) ((xs.drop (32 * g)).take 32)
      .out (rs.flatMap fun r => r.1.flatMap fun x => leBytes 4 x) 0 (rs.foldl (fun a r => a ||| r.2) 0)
  | _ =>
    match got with
    | [] => .read (ptrAdd p (4096 * k)) n
    | d :: _ => .out d 0 0

/-- Elements of a GATH of element size `e` that bytes `[lo, lo + n)` of its output touch: first, count. -/
def gathSpan (e lo n : Nat) : Nat × Nat := (lo / e, (lo + n + e - 1) / e - lo / e)

/-- A part of a GATH chunk: its list entry, its offset in the element, its length. -/
abbrev GathPart := Nat × Nat × Nat

/-- The parts of a GATH chunk. -/
def gathParts (e lo n : Nat) (list : List Byte) : List GathPart :=
  let s := gathSpan e lo n
  (List.range s.2).map fun i =>
    let start := max lo (e * (s.1 + i))
    let stop := min (lo + n) (e * (s.1 + i + 1))
    (fieldOf list (8 * i) 8, start - e * (s.1 + i), stop - start)

/-- May a GATH entry name this space (R350)? -/
def gathSpace (p : Nat) : Bool := [2, 3, 4, 5, 6].contains (bits p 60 4)

/-- A chunk of a GATH (R350). -/
def gathStep (list e lo n : Nat) (got : List (List Byte)) : ChunkStep :=
  match got with
  | [] => let s := gathSpan e lo n; .read (ptrAdd list (8 * s.1)) (8 * s.2)
  | l :: rest =>
    let ps := gathParts e lo n l
    match (ps.filter (·.1 ≠ 0))[rest.length]? with
    | some (p, o, m) => if gathSpace p then .read (ptrAdd p o) m else .stop .entry
    | none =>
      .out (ps.foldl (fun (a : List Byte × List (List Byte)) x =>
        if x.1 = 0 then (a.1 ++ List.replicate x.2.2 0, a.2) else (a.1 ++ a.2.headD [], a.2.tail)) ([], rest)).1 0 0

/-- Offset and length of the chunk that a job does next: those of a copy record lie `tB` chunks apart from chunk `tA` on
(R74). -/
def Job.chunkAt (j : Job) : Nat × Nat :=
  let o := match j.kind with
    | .copyRecord => 4096 * (j.tA + j.next * j.tB)
    | _ => 4096 * j.next
  (o, min 4096 (j.bytes - o))

/-- What the chunk in progress does next. -/
def Job.chunkStep (j : Job) : ChunkStep :=
  let c := j.chunkAt
  match j.kind with
  | .gath => gathStep j.src.toNat (32 * 2 ^ j.desc.toNat) c.1 c.2 j.got
  | .xfrm => xfStep j.xf j.src.toNat j.next j.got
  | _ => match j.got with
    | [] => .read (ptrAdd j.src.toNat c.1) c.2
    | d :: _ => .out d 0 0

end Sys2Proof.Machine
end

