-- ==== Sys2Proof/Machine/Engine.lean ====
section
/-! DEFINITION. Engines: range locks and their tables (R196 to R201 of Engines and range locks), job records (R107), the
queueing of an operation and its completion (R344, R348), the chunks of the Sheet and the Jib, and CPY, GATH and XFRM
(R349 to R351). -/
namespace Sys2Proof.Machine

/-! ## Locks (R196 to R201) -/

/-- Hash of an in-die offset to one of a die's 64 home slices (R13). -/
def sliceHash (off : Nat) : Nat :=
  [8, 14, 20, 26, 32, 38].foldl (fun a lo => a ^^^ bits off lo 6) 0

/-- The in-die offset of a key: for SPREAD every n-th 4 KiB block lies on one die (R150); for the far tier, for which the spec gives
none, the offset in the set (DEDUCED, log 55). -/
def State.inDie (s : State) (key : Nat) : Nat :=
  let off := key % 2 ^ 44
  if keyTarget key = 4 then off / 4096 / max 1 (diesOf (s.part (keyPart key)).dies.toNat).length * 4096 + off % 4096 else off

/-- Home slice of a key: 64 for each die (R13). -/
def State.homeSlice (s : State) (key : Nat) : Nat := 64 * s.homeDie key + sliceHash (s.inDie key)

/-- Who holds a lock (R196): home slices from 0, one for each 256 bytes (R13), cores from 1000, quads from 2000. -/
def State.lockHolders (s : State) : LockOn → List Nat
  | .sectors k n => ((List.range ((k + n + 7) / 8 - k / 8)).map fun i => s.homeSlice (256 * (k / 8 + i))).eraseDups
  | .scratch wg _ _ => [1000 + ((s.wg? wg).elim 0 (·.core))]
  | .tile w _ => [1000 + ((s.warp? w).elim 0 (·.core))]
  | .acc w _ => [2000 + ((s.warp? w).elim 0 fun w => quadOf w.core)]

/-- Range entries of a holder (R196). -/
def holderRoom (h : Nat) : Nat := if h < 1000 then 256 else 64

/-- Locks of one operation that share an entry: those of one range, or of one register (DEDUCED, log 54). -/
def Lock.entry (l : Lock) : Nat × Bool × Option LockOn :=
  (l.job, l.write, match l.on with
    | .tile w n => some (.tile w n)
    | .acc w n => some (.acc w n)
    | _ => none)

/-- Number of different values in a list. -/
def countDistinct {α : Type} [DecidableEq α] : List α → Nat
  | [] => 0
  | x :: xs => (if xs.contains x then 0 else 1) + countDistinct xs

/-- Is a job of a resident context? The records of another leave with its image (R107, R110). -/
def State.jobHere (s : State) (j : Job) : Bool := (s.part j.part).resident == some j.ctx

/-- Is there an entry for every new lock (R196)? -/
def State.lockRoom (s : State) (new : List Lock) : Bool :=
  let held := s.locks.filter fun l => s.jobs.any fun j => j.id == l.job && s.jobHere j
  let all := (new ++ held).map fun l => (l.entry, s.lockHolders l.on)
  ((all.take new.length).flatMap (·.2)).eraseDups.all fun h =>
    decide (countDistinct ((all.filter fun x => x.2.contains h).map (·.1)) ≤ holderRoom h)

/-- Names of the sectors `[a, b)` of a row or far range, page by page; a page that has no translation has none. -/
def State.pageNames (s : State) (ag : Agent) (far : Bool) (a b : Nat) : State × List LockOn :=
  (List.range ((b - 1) / 2 ^ 16 - a / 2 ^ 16 + 1)).foldl (fun (r : State × List LockOn) i =>
    let lo := max a ((a / 2 ^ 16 + i) * 2 ^ 16)
    let hi := min b ((a / 2 ^ 16 + i + 1) * 2 ^ 16)
    match r.1.translate ag (lo % 2 ^ 57) with
    | (t, .ok e) =>
      (t, if e.far = far then LockOn.join (.sectors ((e.key + lo % 2 ^ 16) / 32) ((hi - lo) / 32)) r.2 else r.2)
    | (t, .error _) => (t, r.2)) (s, [])

/-- Names of the sectors of a scratch range, each found by its pointer. -/
def State.partNames (s : State) (ag : Agent) (use : Use) (a b : Nat) : State × List LockOn :=
  (partsOf a (b - a)).foldl (fun (r : State × List LockOn) x =>
    match r.1.place ag use (ptrAdd a x.1) 0 x.2 1 with
    | (t, .ok pl) => match pl.lockName with
      | some on => (t, on.join r.2)
      | none => (t, r.2)
    | (t, .error _) => (t, r.2)) (s, [])

/-- A PEER pointer that names this device, as the ROW pointer that it is served as (R27). -/
def State.ownPtr (s : State) (p : Nat) : Nat :=
  if bits p 60 4 = 6 ∧ bits p 52 8 = s.podIndex.toNat then 3 * 2 ^ 60 + bits p 0 52 else p

/-- Names of the sectors of a range, widened outward (R196) (DEDUCED, log 40). -/
def State.rangeNames (s : State) (ag : Agent) (use : Use) (p n : Nat) : State × List LockOn :=
  let p := s.ownPtr p
  let a := p / 32 * 32
  let b := (p + n + 31) / 32 * 32
  if n = 0 then (s, [])
  else
    let r := match bits p 60 4 with
      | 2 => s.partNames ag use a b
      | 3 => s.pageNames ag false a b
      | 5 => s.pageNames ag true a b
      | _ => (s, [])
    (r.1, r.2.reverse)

/-- Does a later operation meet earlier locks (R200)? -/
def State.rangeConflict (s : State) (dst src : List LockOn) : Bool :=
  (dst.any fun o => s.locks.any fun l => l.on.meets o) || src.any fun o => s.locks.any fun l => l.on.meets o && l.write

/-- The detail of RANGE_LOCK for a tile register or accumulator that an instruction reads or writes (R380). -/
def State.regLocked (s : State) (on : LockOn) (n : Nat) (write : Bool) : Option Nat :=
  let ls := s.locks.filter fun l => l.on == on
  let w := ls.any (·.write)
  if w || (write && !ls.isEmpty) then some (w.toNat + 2 + 4 * n) else none

/-- The first RANGE_LOCK of registers (R380): tile numbers, and whether each is written. -/
def State.tilesLocked (s : State) (c : Issue) (ts : List (Nat × Bool)) : Option Nat :=
  ts.findSome? fun t => s.regLocked (.tile c.id.warp t.1) t.1 t.2

/-- The same of accumulators; those that earlier operations of the warp hold do not count, and no other warp's do (R379,
R380). -/
def State.accsLocked (s : State) (c : Issue) (as : List (Nat × Bool)) : Option Nat :=
  as.findSome? fun a =>
    let ls := s.locks.filter fun l => l.on == .acc c.id.warp a.1 &&
      !(s.jobs.any fun j => j.id == l.job && j.warp == c.id.warp)
    let w := ls.any (·.write)
    if w || (a.2 && !ls.isEmpty) then some (w.toNat + 2 + 4 * a.1) else none

/-! ## Jobs -/

/-- The engine that serves a job: 0 Sheet, 1 Jib, 2 Mainsail, 3 none of them. -/
def JobKind.unit : JobKind → Nat
  | .cpy => 0
  | .gath => 0
  | .copyRecord => 0
  | .xfrm => 1
  | .mma => 2
  | .adrn => 2
  | .afill => 2
  | .tld => 3
  | .tst => 3

/-- Core or quad of the engine. -/
def Job.place (j : Job) : Nat := if j.kind.unit = 2 then quadOf j.core else j.core

/-- Operations an engine holds (R348, R392). -/
def unitRoom (u : Nat) : Nat := if u = 2 then 64 else 32

/-- Is an engine's queue or reservation table full of operations of resident contexts? -/
def State.engineFull (s : State) (k : JobKind) (core : Nat) : Bool :=
  let place := if k.unit = 2 then quadOf core else core
  k.unit != 3 && decide (unitRoom k.unit ≤ (s.jobs.filter fun j => j.kind.unit == k.unit && j.place == place && s.jobHere j).length)

/-- Does a job's context run, so that its engine serves it? A copy record belongs to no workgroup. -/
def State.jobRuns (s : State) (j : Job) : Bool :=
  (s.part j.part).resident == some j.ctx && (s.part j.part).switch == .none

/-- The agent of a job. -/
def Job.agent (j : Job) : Agent := { part := j.part, ctx := j.ctx, core := some j.core, wg := j.wg, engine := true }

/-- Better of two jobs: highest priority, then the older, which stands first (R348). -/
def Job.best : List Job → Option Job
  | [] => none
  | j :: js => match Job.best js with
    | some k => if j.prio < k.prio then some k else some j
    | none => some j

/-- The job whose chunk a Sheet or a Jib does next (R348). -/
def State.sheetPick (s : State) (unit core : Nat) : Option Job :=
  Job.best (s.jobs.filter fun j => j.kind.unit == unit && j.core == core && !j.done && !j.torn && s.jobRuns j)

/-- Release a job's locks and forget it; what waited for room may try again (R201). -/
def State.dropJob (s : State) (id : Nat) : State :=
  { s with locks := s.locks.filter (·.job != id), jobs := s.jobs.filter (·.id != id) }.freeFull

/-- An operation completes (R201, R222, R344): its locks are released before its bytes and status bits are delivered. -/
def State.completeJob (s : State) (j : Job) : State :=
  let status := j.status ||| (if j.resumed then 256 else 0)
  let row := (j.kind == .cpy || j.kind == .gath || j.kind == .xfrm || j.kind == .tst) && [3, 5, 6].contains (bits j.dst.toNat 60 4)
  let s1 := s.dropJob j.id
  match s1.wg? j.wg with
  | none => s1
  | some g =>
    match s1.barAt g j.bar with
    | none => s1
    | some (.pod p dev i) =>
      let arg := j.bytes % 2 ^ 32 + 2 ^ 32 * status.toNat + (if row then 2 ^ 64 else 0)
      (s1.peerRequest p dev 0 (.barrier 6 i arg) { tag := 0, use := 6 }).getD s1
    | some b => s1.deliver b j.bytes status row

/-- Loads of a context that have not read their bytes take them before a range over these bytes is locked (R199). -/
def State.bindLocked (s : State) (p : BitVec 2) (x : BitVec 6) (on : List LockOn) : State :=
  (s.warps.filter fun w => (s.wg? w.wg).any fun g => g.part == p && g.ctx == x).foldl (fun t w => t.bindIf w.id fun r =>
    r.unread.any fun y => match y.1.lockName with
      | some k => on.any k.meets
      | none => false) s

/-- Bytes that quad atomic units hold of locked sectors are brought home before the lock, and no row cache keeps a copy of a sector that
is write-locked: what is unordered with the registration is performed before it, and with the release after it (R199). -/
def State.clearLocked (s : State) (locks : List (LockOn × Bool)) : State :=
  let on := fun (w : Bool) (sector : Nat) => locks.any fun l => (l.2 || !w) && l.1.meets (.sectors sector 1)
  let s1 := State.bringHome { s with held := s.held.filter fun h => !on false (h.addr / 32) } (s.held.filter fun h => on false (h.addr / 32))
  { s1 with cache := s1.cache.filter fun c => !on true c.sector }

/-- Enter a job with its locks, behind the split's earlier accesses (R196, R197), which its lanes have performed; its quad's lines are
written back, and those of locked sectors of any quad (R199). -/
def State.enterJob (s : State) (c : Issue) (j : Job) (locks : List (LockOn × Bool)) : State :=
  let s1 := ((s.writeBack (quadOf c.w.core)).bindLocked c.g.part c.g.ctx ((locks.filter (·.2)).map (·.1))).clearLocked locks
  let id := s1.nextId
  let j1 := { j with
    id := id, core := c.w.core, part := c.g.part, ctx := c.g.ctx, wg := c.g.id, warp := c.id.warp, lanes := c.p.mask,
    prio := (hintOf c.p.hints 9).getD 1, since := s.cycle }
  { s1 with nextId := id + 1, jobs := s1.jobs ++ [j1], locks := s1.locks ++ locks.map fun l => ⟨id, l.2, l.1⟩ }

/-- An empty job of a kind with a barrier reference. -/
def newJob (k : JobKind) (bar : Nat) : Job := { id := 0, kind := k, core := 0, part := 0, ctx := 0, wg := 0, bar := bar }

/-- Issue an engine operation whose checks have passed: it waits for room in its engine and in the lock tables (R196,
R348), or is entered, an operation that meets earlier locks without its memory ranges and with status bit 10 (R200). `fix`
acts on the registers at issue. -/
def State.issueJob (s : State) (c : Issue) (j : Job) (dst src : List LockOn) (regs : List (LockOn × Bool)) (clash : Bool)
    (fix : State → State) : State :=
  let bad := clash || s.rangeConflict dst src
  let mem := if bad then [] else src.map (·, false) ++ dst.map (·, true)
  let locks := regs ++ mem
  if s.engineFull j.kind c.w.core ∨ s.lockRoom (locks.map fun l => ⟨s.nextId, l.2, l.1⟩) = false then s.waitAt c .full
  else
    let j1 := if bad then { j with status := j.status ||| (1#32 <<< 10), done := j.done || j.kind.unit == 3 } else j
    s.afterStores c c.p.mask fun t => (fix (t.enterJob c j1 locks)).complete c

/-! ## The chunks of a Sheet and a Jib -/

/-- Status bit of a failed access (R221) (DEDUCED, log 51). -/
def engineBit (e : MErr) : Nat :=
  match e.code with
  | .xlate => 0
  | .eccUncorr => 3
  | .timeout => 5
  | .rangeLock => 10
  | _ => 1

/-- Places of an engine's access, each part checked by itself. -/
def State.enginePlaces (s : State) (ag : Agent) (use : Use) (p n : Nat) : State × Except MErr (List (Place × Nat)) :=
  (partsOf p n).foldl (fun (a : State × Except MErr (List (Place × Nat))) x =>
    match a.2 with
    | .error e => (a.1, .error e)
    | .ok ps => match a.1.place ag use (ptrAdd p x.1) 0 x.2 x.2 with
      | (t, .ok pl) => (t, .ok (ps ++ [(pl, x.2)]))
      | (t, .error e) => (t, .error e)) (s, .ok [])

/-- Does an access leave the device, to a peer or to a host range that gives no completion? -/
def State.leaves (s : State) (ps : List (Place × Nat)) : Bool := ps.any fun x => match x.1 with
  | .peer _ _ => true
  | .host a => s.hostSilent a x.2
  | _ => false

/-- An engine's bytes at a pointer are counted as it moves them (R415). -/
def State.countParts (s : State) (ag : Agent) (ptr : Nat) (write : Bool) (ps : List (Place × Nat)) : State :=
  let tab := s.tableSet ag ptr
  ps.foldl (fun t x => t.count (ag.core.getD 0) ag.part tab x.1 write x.2) s

/-- The chunk in progress is done, and stays so (R222); a job of a killed context ends there, with status bit 9 (R113). -/
def State.chunkDone (s : State) (id : Nat) : State :=
  s.modJob id fun j =>
    { j with
      next := j.next + 1, done := j.killed || decide (j.total ≤ j.next + 1), got := [], cur := [], out := none, retries := 0
      status := if j.killed then j.status ||| 0x200 else j.status }

/-- Ask outside the device for a job, behind the stores to a peer's page that were issued before (R26); `op` makes the request from its
address. -/
def State.askJob (s : State) (j : Job) (ps : List (Place × Nat)) (op : Nat → PeerOp) : State :=
  let r : ExtReq := { tag := 0, part := j.part, core := j.core, use := 3, job := j.id }
  match peerOf ps with
  | some (dev, a) =>
    let s := s.beforePeer dev a
    match s.peerRequest j.part dev a (op a) r with
    | some s1 => s1.modJob j.id fun j => { j with asking := true }
    | none => (s.peerLost j.part dev).stopJob j.id 5
  | none => (s.addExt r).modJob j.id fun j => { j with asking := true }

/-- Does an operation meet, at a pointer, a peer that was lost while it was outstanding (R33)? -/
def Job.lostAt (j : Job) (p : Nat) : Bool := j.lost.any fun dev => toPeer dev p

/-- What a stop of a chunk's source comes to for an engine operation (R221, R222, R351): a torn tile is read again later. -/
def State.chunkBad (s : State) (j : Job) (why : XfBad) : State :=
  match why with
  | .torn =>
    if 64 ≤ j.retries then s.stopJob j.id 4
    else s.modJob j.id fun j => { j with torn := true, retries := j.retries + 1, since := s.cycle, got := [], cur := [] }
  | .header _ => s.stopJob j.id 4
  | .crosses => s.stopJob j.id 1
  | .entry => s.stopJob j.id 1
  | .block => s.stopJob j.id 3

/-- Bytes of a piece that one request may move (R24): up to 128, within one run of sectors. -/
def askSize (p n : Nat) : Nat := min n (128 - p % 128)

/-- Add a sector to a list of runs of sectors. -/
def addSector (rs : List (Nat × Nat)) (k : Nat) : List (Nat × Nat) := match rs with
  | (a, n) :: r => if a ≤ k ∧ k < a + n then rs else if k = a + n then (a, n + 1) :: r else (k, 1) :: rs
  | [] => [(k, 1)]

/-- Sectors of row storage that a job reads or writes are noted for bit 2 of its status (R221). -/
def State.touch (s : State) (id : Nat) (ps : List (Place × Nat)) : State :=
  let add := fun (rs : List (Nat × Nat)) (x : Place × Nat) => match x.1 with
    | .mem key => addSector rs (key / 32)
    | _ => rs
  s.modJob id fun j => { j with touched := ps.foldl add j.touched }

/-- Has an operation touched a sector (R221)? -/
def Job.touches (j : Job) (sector : Nat) : Bool := j.touched.any fun r => decide (r.1 ≤ sector) && decide (sector < r.1 + r.2)

/-- Do the present chunk of a job until it is done, stops, or waits for an answer. The fuel bounds its pieces. A chunk is
written whole or not at all within the device (R222; DESIGN CHOICE, log 19). -/
def State.runChunk : Nat → Nat → State → State
  | 0, _, s => s
  | fuel + 1, id, s =>
    match s.jobs.find? (fun j => j.id == id) with
    | none => s
    | some j =>
      if j.asking ∨ j.done ∨ j.torn then s
      -- an operation that met earlier locks moves nothing (R200)
      else if j.status.getLsbD 10 then s.stopJob id 10
      else match j.out with
        | some d =>
          let p := ptrAdd j.dst.toNat (j.chunkAt.1 + (j.chunkAt.2 - d.length))
          if d.isEmpty then s.chunkDone id
          else match s.enginePlaces j.agent .store p d.length with
            | (s1, .error e) => s1.stopJob id (engineBit e)
            | (s1, .ok ps) =>
              if s1.leaves ps then
                let n := askSize p d.length
                match s1.enginePlaces j.agent .store p n with
                | (s2, .error e) => s2.stopJob id (engineBit e)
                | (s2, .ok qs) => (s2.countParts j.agent p true qs).askJob j qs fun a => peerWrite a (d.take n)
              else (((State.writeParts none ps d s1).countParts j.agent p true ps).touch id ps).chunkDone id
        | none =>
          match j.chunkStep with
          | .stop why => s.chunkBad j why
          | .out d _ st => State.runChunk fuel id
              (s.modJob id fun j => { j with out := some d, status := j.status ||| BitVec.ofNat 32 st })
          | .read p n =>
            let p' := ptrAdd p j.cur.length
            let m := n - j.cur.length
            if j.lostAt p' then s.stopJob id 5
            else match s.enginePlaces j.agent .load p' m with
            | (s1, .error e) => s1.stopJob id (engineBit e)
            | (s1, .ok ps) =>
              if s1.leaves ps then
                let k := askSize p' m
                match s1.enginePlaces j.agent .load p' k with
                | (s2, .error e) => s2.stopJob id (engineBit e)
                | (s2, .ok qs) => (s2.countParts j.agent p' false qs).askJob j qs fun _ => .read k
              else
                let d := ps.flatMap fun x => s1.readPlace (quadOf j.core) x.1 x.2
                State.runChunk fuel id
                  (((s1.countParts j.agent p' false ps).touch id ps).modJob id fun j => { j with got := j.got ++ [j.cur ++ d], cur := [] })

/-- Pieces that one chunk has at most, with room. -/
def chunkFuel : Nat := 5000

/-- The answer to a job's request arrives: bytes read, or a piece written. -/
def State.jobAnswer (s : State) (id : Nat) (data : List Byte) : State :=
  match s.jobs.find? (fun j => j.id == id) with
  | none => s
  | some j =>
    if j.done then s
    else match j.out with
      | some d =>
        let p := ptrAdd j.dst.toNat (j.chunkAt.1 + (j.chunkAt.2 - d.length))
        State.runChunk chunkFuel id
          (s.modJob id fun j => { j with asking := false, out := some (d.drop (askSize p d.length)) })
      | none =>
        match j.chunkStep with
        | .read _ n =>
          let cur := j.cur ++ data
          State.runChunk chunkFuel id (s.modJob id fun j =>
            if n ≤ cur.length then { j with asking := false, got := j.got ++ [cur.take n], cur := [] }
            else { j with asking := false, cur := cur })
        | _ => s

/-! ## CPY, GATH, XFRM (R348 to R351) -/

/-- A pointer value that an engine instruction checks (R348): the code of its fault. -/
def pointerBad (p : Nat) : Option FaultCode :=
  match bits p 60 4 with
  | 0 => some .nullDeref
  | k => if [2, 3, 4, 5, 6].contains k then none else some .badSpace

/-- The first fault of a list of pointers. -/
def pointersBad (ps : List Nat) : Option (FaultCode × Nat) := ps.findSome? fun p => (pointerBad p).map fun c => (c, p)

/-- An engine instruction of the Sheet or the Jib: pointer checks, its own check `more`, the barrier reference, and then
`go`. -/
def State.sheetIssue (s : State) (i : Instr) (sw : Bool) (d n b : BitVec 6) (ptrs : Issue → List Nat)
    (more : Issue → Option Nat) (go : Issue → State → State) : Host.Outcome State Fault Refusal :=
  let u : Uses := { orders := true, okOp := d != 63, fits := [9], uregs := [d.toNat, d.toNat + 1, n.toNat, b.toNat] }
  s.issueWith i sw u fun c t =>
    match pointersBad (ptrs c) with
    | some (code, p) => t.faultAt c code c.p.mask (BitVec.ofNat 64 p) 0
    | none => match more c with
      | some p => t.faultAt c .badSpace c.p.mask (BitVec.ofNat 64 p) 0
      | none => t.withBar c (c.ureg b) (go c)

/-- S(sd) and S(sd + 1). -/
def Issue.dstPtr (c : Issue) (d : BitVec 6) : Nat := c.ureg d
def Issue.srcPtr (c : Issue) (d : BitVec 6) : Nat := c.ureg (d + 1)

/-- Agent of an engine that the issuing split uses. -/
def Issue.engine (c : Issue) : Agent := { c.agent none with engine := true, handler := false }

/-- Do the sectors of two ranges overlap by their pointers (R349)? -/
def pointersMeet (a b n : Nat) : Bool :=
  decide (0 < n) && bits a 60 4 == bits b 60 4 && decide (a / 32 * 32 < (b + n + 31) / 32 * 32) &&
  decide (b / 32 * 32 < (a + n + 31) / 32 * 32)

/-- Queue an operation of `len` bytes; one of no bytes completes at once (R348). -/
def State.queueSheet (s : State) (c : Issue) (j : Job) (len : Nat) (dst src : List LockOn) (clash : Bool) : State :=
  if len = 0 then
    s.afterStores c c.p.mask fun t =>
      ((t.writeBack (quadOf c.w.core)).completeJob { j with core := c.w.core, wg := c.g.id, bytes := 0 }).complete c
  else s.issueJob c { j with bytes := len, total := (len + 4095) / 4096 } dst src [] clash id

def execCpy (sw : Bool) (d n b : BitVec 6) (s : State) : Host.Outcome State Fault Refusal :=
  s.sheetIssue (.cpy sw d n b) sw d n b (fun c => [c.dstPtr d, c.srcPtr d]) (fun _ => none) fun c t =>
    let len := bits (c.ureg n) 0 31
    let x := t.rangeNames c.engine .store (c.dstPtr d) len
    let y := x.1.rangeNames c.engine .load (c.srcPtr d) len
    let clash := pointersMeet (t.ownPtr (c.dstPtr d)) (t.ownPtr (c.srcPtr d)) len || x.2.any fun o => y.2.any o.meets
    y.1.queueSheet c { newJob .cpy (c.ureg b) with dst := BitVec.ofNat 64 (c.dstPtr d), src := BitVec.ofNat 64 (c.srcPtr d) }
      len x.2 y.2 clash

/-- GATH (R350): a size code above 11, or more than 2^31 − 1 bytes, moves nothing and sets status bit 3. -/
def execGath (sw : Bool) (d n b : BitVec 6) (s : State) : Host.Outcome State Fault Refusal :=
  s.sheetIssue (.gath sw d n b) sw d n b (fun c => [c.dstPtr d, c.srcPtr d])
    (fun c => if c.srcPtr d % 8 = 0 then none else some (c.srcPtr d)) fun c t =>
    let count := bits (c.ureg n) 0 16
    let code := bits (c.ureg n) 16 4
    let len := count * (32 * 2 ^ code)
    let bad := 11 < code ∨ 2 ^ 31 - 1 < len
    let j : Job := { newJob .gath (c.ureg b) with
      dst := BitVec.ofNat 64 (c.dstPtr d), src := BitVec.ofNat 64 (c.srcPtr d), desc := BitVec.ofNat 64 code,
      status := if bad then 8 else 0 }
    if len = 0 then t.queueSheet c j 0 [] [] false
    else if bad then t.issueJob c { j with bytes := len, done := true } [] [] [] false id
    else
      let x := t.rangeNames c.engine .store (c.dstPtr d) len
      let y := x.1.rangeNames c.engine .load (c.srcPtr d) (8 * count)
      y.1.queueSheet c j len x.2 y.2 false

/-- XFRM (R351): the descriptor is read at issue as an SLD reads. -/
def execXfrm (sw : Bool) (d n b : BitVec 6) (s : State) : Host.Outcome State Fault Refusal :=
  s.sheetIssue (.xfrm sw d n b) sw d n b (fun c => [c.dstPtr d, c.srcPtr d, c.ureg n])
    (fun c => if bits (c.ureg n) 60 4 = 3 ∧ c.ureg n % 32 = 0 then none else some (c.ureg n)) fun c t =>
    match t.readSeen c (c.ureg n) 32 with
    | (t1, .error e) => t1.faultAt c e.code c.p.mask (BitVec.ofNat 64 (c.ureg n)) e.detail
    | (t1, .ok desc) =>
      let x := bindingOf desc
      let j : Job := { newJob .xfrm (c.ureg b) with
        dst := BitVec.ofNat 64 (c.dstPtr d), src := BitVec.ofNat 64 (c.srcPtr d), xf := x }
      if x.length = 0 then t1.queueSheet c { j with status := 8 } 0 [] [] false
      else if x.ok = false then t1.issueJob c { j with bytes := x.length, status := 8, done := true } [] [] [] false id
      else
        let a := t1.rangeNames c.engine .store (c.dstPtr d) x.length
        let e := if x.code = 2 ∨ x.code = 3 then (a.1, []) else a.1.rangeNames c.engine .load (c.srcPtr d) x.length
        e.1.queueSheet c j x.length a.2 e.2 false

end Sys2Proof.Machine
end

