-- ==== Sys2Proof/Machine/Matrix.lean ====
section
/-! DEFINITION. Tile, accumulator and shape registers: the instructions of R378 to R398. -/
namespace Sys2Proof.Machine

/-! ## Shared checks -/

/-- A header check of tile register `n`, operand `op` (R209, R243). -/
def hdrFault (n op : Nat) : HdrBad → FaultCode × Nat
  | .check cause => (.hdrCheck, n + 256 * cause)
  | .mismatch => (.hdrMismatch, op)

/-- A register as a number. -/
def Issue.tile (c : Issue) (t : BitVec 4) : Nat := (c.w.tile t.toNat).toNat

/-- The lock check of thread instructions on tile registers, and then the rest (R380). -/
def State.tilesFree (s : State) (c : Issue) (ts : List (Nat × Bool)) (go : State) : State :=
  match s.tilesLocked c ts with
  | some d => s.faultAt c .rangeLock c.p.mask 0 d
  | none => go

/-- A tile result lands later (R379), and the instruction is complete. -/
def State.putTile (s : State) (c : Issue) (t : BitVec 4) (v : Nat) : State := (s.putLater c [(.tile t.toNat, v)]).complete c

/-- The pointer of TLD and TST (R383): NULL_DEREF, then BAD_SPACE. -/
def tilePtrBad (p : Nat) : Option FaultCode :=
  if bits p 60 4 = 0 then some .nullDeref
  else if (bits p 60 4 ≠ 3 ∧ bits p 60 4 ≠ 5) ∨ p % 32 ≠ 0 then some .badSpace
  else none

/-! ## TLD and TST (R383, R384) -/

/-- TLD: t's header reads zero from issue on (R381). A source that an operation of the same context has write-locked is a precise fault, as
the table of R198 says, one of another context's a range conflict, as R200 and R380 say of the memory ranges of TLD (DEDUCED, log 94). -/
def execTld (sw : Bool) (t : BitVec 4) (p b : BitVec 6) (s : State) : Host.Outcome State Fault Refusal :=
  let u : Uses := { fits := [5, 7], ords := [0, 1], uregs := [p.toNat, b.toNat], tiles := [t.toNat] }
  s.issueWith (.tld sw t p b) sw u fun c x =>
    let a := uniformPtr c p
    match tilePtrBad a with
    | some code => x.faultAt c code c.p.mask (BitVec.ofNat 64 a) 0
    | none => x.withBar c (c.ureg b) fun x =>
        x.tilesFree c [(t.toNat, true)] (
        let r := x.rangeNames c.engine .load a (min 9248 (65536 - a % 65536))
        if r.2.any fun o => r.1.lockOn c.g.part c.g.ctx o == some true then
          r.1.faultAt c .rangeLock c.p.mask (BitVec.ofNat 64 a) 1
        else r.1.issueJob c
          { newJob .tld (c.ureg b) with src := BitVec.ofNat 64 a, tA := t.toNat, bytes := 9248, acquire := sideOf c }
          [] r.2 [(.tile c.id.warp t.toNat, true)] false fun y =>
            y.modWarp c.id.warp fun w => w.setTile t.toNat (BitVec.ofNat 73984 (setBits (w.tile t.toNat).toNat 0 256 0)))

def execTst (sw : Bool) (t : BitVec 4) (p b : BitVec 6) (o : BitVec 1) (s : State) : Host.Outcome State Fault Refusal :=
  let u : Uses := { fits := [5, 7], ords := [0, 2], uregs := [p.toNat, b.toNat], tiles := [t.toNat] }
  s.issueWith (.tst sw t p b o) sw u fun c x =>
    let a := uniformPtr c p
    match tilePtrBad a with
    | some code => x.faultAt c code c.p.mask (BitVec.ofNat 64 a) 0
    | none => match hdrCheck4 (c.tile t) with
      | some e => x.faultAt c (hdrFault t.toNat 0 e).1 c.p.mask 0 (hdrFault t.toNat 0 e).2
      | none =>
        let n := 32 + (tileHdr (c.tile t)).span
        if 65536 < a % 65536 + n then x.faultAt c .prot c.p.mask (BitVec.ofNat 64 a) 5
        else x.withBar c (c.ureg b) fun x =>
            x.tilesFree c [(t.toNat, false)] (
            let r := x.rangeNames c.engine .store a n
            r.1.issueJob c
              { newJob .tst (c.ureg b) with dst := BitVec.ofNat 64 a, tA := t.toNat, bytes := n, flag := o == 1 }
              r.2 [] [(.tile c.id.warp t.toNat, false)] false id)

/-! ## Thread instructions on tiles (R385 to R391) -/

def execTmov (sw : Bool) (t u : BitVec 4) (s : State) : Host.Outcome State Fault Refusal :=
  s.issueWith (.tmov sw t u) sw { tiles := [t.toNat, u.toNat] } fun c x =>
    x.tilesFree c [(u.toNat, false), (t.toNat, true)] (
      match hdrCheck4 (c.tile u) with
      | some e => x.faultAt c (hdrFault u.toNat 1 e).1 c.p.mask 0 (hdrFault u.toNat 1 e).2
      | none => if t = u then x.complete c else x.putTile c t (c.tile u))

def execThdr (sw : Bool) (t : BitVec 4) (d : BitVec 6) (s : State) : Host.Outcome State Fault Refusal :=
  s.issueWith (.thdr sw t d) sw { okOp := decide (d.toNat ≤ 60), tiles := [t.toNat] } fun c x =>
    x.tilesFree c [(t.toNat, false)] (
      (x.putLater c ((List.range 4).map fun i => (.ureg (d.toNat + i), bits (c.tile t) (64 * i) 64))).complete c)

def execThset (sw : Bool) (t : BitVec 4) (d : BitVec 6) (s : State) : Host.Outcome State Fault Refusal :=
  let rs := (List.range 4).map fun i => d.toNat + i
  s.issueWith (.thset sw t d) sw { okOp := decide (d.toNat ≤ 60), tiles := [t.toNat], uregs := rs } fun c x =>
    x.tilesFree c [(t.toNat, true)] (
      let given := rs.foldr (fun r v => (c.p.ureg r).toNat + 2 ^ 64 * v) 0
      let h := bits given 0 240 + hdrCrc given * 2 ^ 240
      match hdrCheck4 h with
      | some e => x.faultAt c (hdrFault t.toNat 0 e).1 c.p.mask 0 (hdrFault t.toNat 0 e).2
      | none =>
        if (tileHdr h).version % 2 = 1 then x.faultAt c .hdrMismatch c.p.mask 0 0
        else x.putTile c t (setBits (c.tile t) 0 256 h))

def execTcvt (sw : Bool) (t u : BitVec 4) (f : BitVec 6) (s : State) : Host.Outcome State Fault Refusal :=
  let us : Uses := { fits := [3, 4], target := some f, tiles := [t.toNat, u.toNat], uregs := [f.toNat] }
  s.issueWith (.tcvt sw t u f) sw us fun c x =>
    x.tilesFree c [(u.toNat, false), (t.toNat, true)] (
      let v := c.tile u
      let h := tileHdr v
      match hdrCheck4 v with
      | some e => x.faultAt c (hdrFault u.toNat 1 e).1 c.p.mask 0 (hdrFault u.toNat 1 e).2
      | none => match targetOf (c.ureg f) h.rows h.cols h.seed false with
        | none => x.faultAt c .hdrMismatch c.p.mask 0 0
        | some g =>
          let low := (lowestLane c.p.mask).getD 0
          let r := encodeTile (Config.tileRest x.free) g.hdr { mode := modeOf c.p.hints, sat := satOf c.p.hints } (c.w.lane low).sr.toNat false
            fun i j => (h.decoded v i j).1
          let src := (List.range (h.rows * h.cols)).foldl (fun a n => a ||| (h.decoded v (n / h.cols) (n % h.cols)).2) 0
          (x.modWarp c.id.warp fun w =>
            ((lanesOf c.p.mask).foldl (fun w l => w.addFlags l (r.flags ||| src)) w).modLane low fun y =>
              { y with sr := BitVec.ofNat 64 r.stream }).putTile c t r.tile)

def execTfill (sw : Bool) (t : BitVec 4) (v : BitVec 6) (s : State) : Host.Outcome State Fault Refusal :=
  s.issueWith (.tfill sw t v) sw { tiles := [t.toNat], uregs := [v.toNat] } fun c x =>
    x.tilesFree c [(t.toNat, true)] (
      match hdrCheck4 (c.tile t) with
      | some e => x.faultAt c (hdrFault t.toNat 0 e).1 c.p.mask 0 (hdrFault t.toNat 0 e).2
      | none => x.putTile c t (fillTile (c.tile t) (c.ureg v)))

/-- TDRN (R391): 1 KiB of the area, 32 bytes to a lane; beyond it zeros. -/
def execTdrn (sw : Bool) (t : BitVec 4) (d : BitVec 7) (i : BitVec 6) (s : State) : Host.Outcome State Fault Refusal :=
  s.issueWith (.tdrn sw t d i) sw { tiles := [t.toNat], uregs := [i.toNat], vs := [(d.toNat, 64)] } fun c x =>
    x.tilesFree c [(t.toNat, false)] (
      match hdrCheck3 (c.tile t) with
      | some e => x.faultAt c (hdrFault t.toNat 1 e).1 c.p.mask 0 (hdrFault t.toNat 1 e).2
      | none =>
        let j := c.ureg i % 16
        (x.putLater c ((lanesOf c.p.mask).map fun l =>
          (c.dst l d.toNat 64, if 8 < j then 0 else bits (c.tile t) (8 * (32 + 1024 * j + 32 * l)) 256))).complete c)

/-- TBND (R390). Where step 4 of R243 refuses the header, its elements have no stated values and the bound is a free
value (DESIGN CHOICE, log 1). -/
def execTbnd (sw : Bool) (t : BitVec 4) (s : State) : Host.Outcome State Fault Refusal :=
  s.issueWith (.tbnd sw t) sw { tiles := [t.toNat] } fun c x =>
    x.tilesFree c [(t.toNat, true)] (
      let v := c.tile t
      match hdrCheck3 v with
      | some e => x.faultAt c (hdrFault t.toNat 0 e).1 c.p.mask 0 (hdrFault t.toNat 0 e).2
      | none =>
        let b := if (hdrCheck4 v).isNone then boundOf ((tileHdr v).maxMag v) else Config.pick s.free 12 0 0 % 2 ^ 32
        -- every other header byte stays as it is
        let v1 := setBits v 128 32 b
        x.putTile c t (setBits v1 240 16 (hdrCrc v1)))

def execPrune (sw : Bool) (t : BitVec 4) (m : BitVec 6) (p : BitVec 3) (s : State) : Host.Outcome State Fault Refusal :=
  s.issueWith (.prune sw t m p) sw { tiles := [t.toNat], uregs := [m.toNat] } fun c x =>
    x.tilesFree c [(t.toNat, false)] (
      match hdrCheck3 (c.tile t) with
      | some e => x.faultAt c (hdrFault t.toNat 1 e).1 c.p.mask 0 (hdrFault t.toNat 1 e).2
      | none =>
        let b := FloatFmt.f32.decode (tileHdr (c.tile t)).bound
        let k := FloatFmt.f32.decode (bits (c.ureg m) 0 32)
        (x.predLater c p (!b.isNaN && !k.isNaN && b.ltNum k)).complete c)

/-! ## MMA, ADRN, AFILL (R392 to R396) -/

/-- The header checks of MMA, steps 1 to 7 of R243: a fault, or the plan. -/
def mmaCheck (ta tb : BitVec 4) (va vb : Nat) : Except (FaultCode × Nat) MmaPlan :=
  match hdrCheck4 va, hdrCheck4 vb with
  | some e, _ => .error (hdrFault ta.toNat 1 e)
  | none, some e => .error (hdrFault tb.toNat 2 e)
  | none, none =>
    let a := tileHdr va
    let b := tileHdr vb
    match mmaFit a b with
    | some op => .error (.hdrMismatch, op)
    | none => match mmaPlan a b with
      | none => .error (.unsupCombo, a.fmt + 16 * b.fmt)
      | some p =>
        if a.cols ≠ p.k then .error (.hdrMismatch, 1)
        else if b.rows ≠ p.k then .error (.hdrMismatch, 2)
        else .ok p

/-- Accumulators of an operation, an FP64 pair or one, and the WINDOW fault of a pair that is none (R126). -/
def accsOf (a : BitVec 3) (pair : Bool) : List Nat := if pair then [a.toNat, a.toNat + 1] else [a.toNat]
def pairBad (c : Issue) (a : BitVec 3) (pair : Bool) : Option Nat :=
  if pair = false then none
  else if a.toNat % 2 = 1 then some (a.toNat + 2 ^ 17)
  else if c.w.cCount ≤ a.toNat + 1 then some (a.toNat + 1 + 2 ^ 17)
  else none

def execMma (sw : Bool) (a : BitVec 3) (t u : BitVec 4) (b : BitVec 6) (z : BitVec 1) (s : State) :
    Host.Outcome State Fault Refusal :=
  let us : Uses := { fits := [9], uregs := [b.toNat], tiles := [t.toNat, u.toNat], accs := [a.toNat] }
  s.issueWith (.mma sw a t u b z) sw us fun c x =>
    x.withBar c (c.ureg b) fun x =>
      match mmaCheck t u (c.tile t) (c.tile u) with
      | .error e => x.faultAt c e.1 c.p.mask 0 e.2
      | .ok p =>
        let as := accsOf a (p.acc == 2)
        match pairBad c a (p.acc == 2) with
        | some d => x.faultAt c .window c.p.mask 0 d
        | none => x.tilesFree c [(t.toNat, false), (u.toNat, false)] (
          match x.accsLocked c (as.map fun n => (n, true)) with
          | some d => x.faultAt c .rangeLock c.p.mask 0 d
          | none =>
            x.issueJob c
              { newJob .mma (c.ureg b) with
                acc := a.toNat, tA := t.toNat, tB := u.toNat, flag := z == 1,
                desc := BitVec.ofNat 64 p.acc, total := p.passes, bytes := 16384 * as.length } [] []
              ([(.tile c.id.warp t.toNat, false), (.tile c.id.warp u.toNat, false)] ++
                as.map fun n => (.acc c.id.warp n, true)) false id)

/-- ADRN: td's header reads zero from issue on (R381). -/
def execAdrn (sw : Bool) (a : BitVec 3) (t : BitVec 4) (f b : BitVec 6) (s : State) : Host.Outcome State Fault Refusal :=
  let us : Uses := { fits := [4], uregs := [f.toNat, b.toNat], tiles := [t.toNat], accs := [a.toNat] }
  s.issueWith (.adrn sw a t f b) sw us fun c x =>
    x.withBar c (c.ureg b) fun x =>
      match targetOf (c.ureg f) 0 0 0 true with
      | none => x.faultAt c .hdrMismatch c.p.mask 0 0
      | some g =>
        let as := accsOf a (g.acc == 2)
        match pairBad c a (g.acc == 2) with
        | some d => x.faultAt c .window c.p.mask 0 d
        | none => x.tilesFree c [(t.toNat, true)] (
          match x.accsLocked c (as.map fun n => (n, false)) with
          | some d => x.faultAt c .rangeLock c.p.mask 0 d
          | none =>
            x.issueJob c
              { newJob .adrn (c.ureg b) with
                acc := a.toNat, tA := t.toNat, flag := satOf c.p.hints,
                desc := BitVec.ofNat 64 (c.ureg f), total := 1, bytes := 32 + g.hdr.span } [] []
              ((.tile c.id.warp t.toNat, true) :: as.map fun n => (.acc c.id.warp n, false)) false fun y =>
                y.modWarp c.id.warp fun w =>
                  w.setTile t.toNat (BitVec.ofNat 73984 (setBits (w.tile t.toNat).toNat 0 256 0)))

/-- The source of an AFILL is in order (R396). -/
def afillOk (v : Nat) : Bool :=
  match bits v 60 4 with
  | 0 => bits v 32 28 == 0
  | 2 => v % 32 == 0 && bits v 20 38 == 0
  | _ => false

def execAfill (sw : Bool) (a : BitVec 3) (v b : BitVec 6) (s : State) : Host.Outcome State Fault Refusal :=
  s.issueWith (.afill sw a v b) sw { uregs := [v.toNat, b.toNat], accs := [a.toNat] } fun c x =>
    x.withBar c (c.ureg b) fun x =>
      let src := c.ureg v
      if afillOk src = false then x.faultAt c .badSpace c.p.mask (BitVec.ofNat 64 src) 0
      else match x.accsLocked c [(a.toNat, true)] with
        | some d => x.faultAt c .rangeLock c.p.mask 0 d
        | none =>
          let r := if bits src 60 4 = 2 then x.rangeNames c.engine .load src 16384 else (x, [])
          r.1.issueJob c
            { newJob .afill (c.ureg b) with acc := a.toNat, desc := BitVec.ofNat 64 src, total := 1, bytes := 16384 }
            [] r.2 [(.acc c.id.warp a.toNat, true)] false id

/-! ## Shape registers (R397) -/

def execLdh (sw : Bool) (h : BitVec 4) (p : BitVec 6) (s : State) : Host.Outcome State Fault Refusal :=
  s.issueWith (.ldh sw h p) sw { orders := true, fits := [7], uregs := [p.toNat], shapes := [h.toNat] } fun c x =>
    let a := uniformPtr c p
    let r := x.loadFor c none a 64 (.shape h.toNat) false false false
    r.1.uniformEnd c (BitVec.ofNat 64 a) r.2

def execSeth (sw : Bool) (h : BitVec 4) (d : BitVec 6) (s : State) : Host.Outcome State Fault Refusal :=
  let rs := (List.range 8).map fun i => d.toNat + i
  s.issueWith (.seth sw h d) sw { okOp := decide (d.toNat ≤ 56), uregs := rs, shapes := [h.toNat] } fun c x =>
    (x.putLater c [(.shape h.toNat, rs.foldr (fun r v => (c.p.ureg r).toNat + 2 ^ 64 * v) 0)]).complete c

def execSth (sw : Bool) (h : BitVec 4) (p : BitVec 6) (s : State) : Host.Outcome State Fault Refusal :=
  s.issueWith (.sth sw h p) sw { fits := [7], uregs := [p.toNat], shapes := [h.toNat] } fun c x =>
    (x.storeFor c none (uniformPtr c p) (leBytes 64 (c.w.shape h.toNat).toNat) none).complete c

end Sys2Proof.Machine
end

