-- ==== Sys2Proof/Machine/TableIndex.lean ====
section
/-! DEFINITION. Keyed tables as they lie in row storage: descriptors (R156, R157), stripe tables and nodes (R162, R163),
the B+ trees (R164), the bucket chains (R165), and the reads, inserts and deletes over them. -/
namespace Sys2Proof.Machine

/-! ## Accesses that hardware makes at the home slice -/

/-- What ends an operation other than its result: a fault with its address and detail, or a node read that has to be
repeated (R169). -/
inductive TErr where
  | fault (code : FaultCode) (addr : Nat) (detail : Nat)
  | retry
  deriving DecidableEq, Repr

/-- A state and a result or an error. -/
abbrev TRes (α : Type) := State × Except TErr α

/-- Go on with the result, if there is one. -/
def TRes.andThen {α β : Type} (x : TRes α) (f : State → α → TRes β) : TRes β :=
  match x with
  | (s, .ok a) => f s a
  | (s, .error e) => (s, .error e)

/-- What R145 finds wrong with a pointer of software's to row storage. -/
def rowPtrBad (p : Nat) : Option FaultCode :=
  if bits p 60 4 = 0 then some .nullDeref
  else if (bits p 60 4 ≠ 3 ∧ bits p 60 4 ≠ 5) ∨ bits p 57 3 ≠ 0 then some .badSpace
  else none

/-- The physical key behind a pointer to bytes within one 64 KiB page, whatever W or KROW its page has: software's pointers are checked
as any is, and their space has to agree with the page's home (`soft`, R145); rows, nodes and stripes, the Halyard's own, lie in the space
of their table (R153). -/
def State.hwKey (s : State) (ag : Agent) (soft : Bool) (p : Nat) : TRes Nat :=
  match if soft then rowPtrBad p else none, s.translate ag (p % 2 ^ 57) with
  | some code, _ => (s, .error (.fault code p 0))
  | none, (s1, .error e) => (s1, .error (.fault e.code p e.detail))
  | none, (s1, .ok t) =>
    let key := t.key + p % 2 ^ 16
    if soft ∧ t.far ≠ (bits p 60 4 == 5) then (s1, .error (.fault .prot p 6))
    else if s1.farDead key then (s1, .error (.fault .eccUncorr p 1))
    else (s1, .ok key)

/-- Read `n` bytes there, at home. -/
def State.readAt (s : State) (ag : Agent) (soft : Bool) (p n : Nat) : TRes (List Byte) :=
  (s.hwKey ag soft p).andThen fun t key =>
    if (List.range ((key % 32 + n + 31) / 32)).any fun i => t.poison.contains (key / 32 + i) then
      (t, .error (.fault .eccUncorr p (if keyFar key then 1 else 0)))
    else (t, .ok (t.homeBytes key n))

/-- Read `n` bytes behind software's pointer: a descriptor, a Shroud entry, a device queue. -/
def State.hwRead (s : State) (ag : Agent) (p n : Nat) : TRes (List Byte) := s.readAt ag true p n

/-- Read `n` bytes of a table's own regions. -/
def State.idxRead (s : State) (ag : Agent) (p n : Nat) : TRes (List Byte) := s.readAt ag false p n

/-- Write bytes from a key on, sector by sector. -/
def State.homeWrite (s : State) (key : Nat) (data : List Byte) : State :=
  (partsOf key data.length).foldl (fun t x => t.writeHome (key + x.1) ((data.drop x.1).take x.2)) s

/-- Write bytes behind software's pointer, at home. -/
def State.hwWrite (s : State) (ag : Agent) (p : Nat) (data : List Byte) : TRes Unit :=
  (s.hwKey ag true p).andThen fun t key => (t.homeWrite key data, .ok ())

/-- Write bytes of a table's own regions, at home. -/
def State.idxWrite (s : State) (ag : Agent) (p : Nat) (data : List Byte) : TRes Unit :=
  (s.hwKey ag false p).andThen fun t key => (t.homeWrite key data, .ok ())

/-! ## Descriptors and bindings (R156, R157, R360) -/

structure TDesc where
  ptr : Nat
  kind : Nat
  state : Nat
  logw : Nat
  place : Nat
  logs : Nat
  cap : Nat
  cset : Nat
  gen : Nat
  rowbase : Nat
  rowcap : Nat
  nodebase : Nat
  nodecnt : Nat
  logb : Nat
  rows : Nat
  rate : Nat
  deriving DecidableEq, Repr

def tdescOf (ptr : Nat) (b : List Byte) : TDesc :=
  { ptr := ptr, kind := byteAt b 0, state := byteAt b 1, logw := byteAt b 2, place := byteAt b 3, logs := byteAt b 4,
    cap := byteAt b 5, cset := byteAt b 6, gen := byteAt b 7, rowbase := fieldOf b 8 8, rowcap := fieldOf b 0x10 8,
    nodebase := fieldOf b 0x18 8, nodecnt := fieldOf b 0x20 4, logb := byteAt b 0x24, rows := fieldOf b 0x28 8,
    rate := fieldOf b 0x30 16 }

/-- Bytes of a row. -/
def TDesc.width (d : TDesc) : Nat := 32 * 2 ^ d.logw
def TDesc.stripes (d : TDesc) : Nat := 2 ^ d.logs
def TDesc.ordered (d : TDesc) : Bool := d.kind == 1 || d.kind == 3
def TDesc.hashed (d : TDesc) : Bool := d.kind == 2 || d.kind == 3

/-- The stripe of a key (R162, R364). -/
def TDesc.stripeOf (d : TDesc) (k : Nat) : Nat := if d.logs = 0 then 0 else k / 2 ^ (64 - d.logs)

/-- Sizes of the row and the node region (R157). -/
def roundPage (n : Nat) : Nat := (n + 65535) / 65536 * 65536
def TDesc.rowSize (d : TDesc) : Nat := roundPage (d.rowcap * d.width)
def TDesc.nodeSize (d : TDesc) : Nat := if d.kind = 0 then 0 else roundPage (4096 + d.nodecnt * 1024)

/-- Reads the FAR tier: by its own placement, or by the context's default as it stands now, which the spec does not say once that has
changed since the table was created (R60, R157; DEDUCED, log 59). -/
def TDesc.far (d : TDesc) (c : Ctx) : Bool := d.place % 8 == 3 || (d.place % 8 == 0 && c.placeDef == 2)

/-- The reference of a row slot (R157, R160, R171). -/
def TDesc.ref (d : TDesc) (far : Bool) (slot : Nat) : Nat :=
  (d.rowbase + slot * d.width) % 2 ^ 57 + (if far then 5 else 3) * 2 ^ 60

/-- Fields of a binding (R360). -/
def tbHandle (b : BitVec 128) : Nat := bits b.toNat 0 32
def tbRate (b : BitVec 128) : Bool := b.toNat.testBit 56
def tbFar (b : BitVec 128) : Bool := b.toNat.testBit 57
def tbPtr (b : BitVec 128) : Nat := bits b.toNat 64 64

/-- The binding of a descriptor under a handle. -/
def TDesc.binding (d : TDesc) (handle : Nat) (far : Bool) : BitVec 128 :=
  BitVec.ofNat 128 (handle % 2 ^ 32 + d.kind * 2 ^ 32 + d.logw * 2 ^ 40 + d.logs * 2 ^ 48 +
    ((decide (d.rate ≠ 0)).toNat + 2 * far.toNat) * 2 ^ 56 + d.ptr * 2 ^ 64)

/-- Read the descriptor at a directory entry. -/
def State.readDesc (s : State) (ag : Agent) (ptr : Nat) : TRes TDesc :=
  (s.hwRead ag ptr 64).andThen fun t b => (t, .ok (tdescOf ptr b))

/-- The handle of a directory index, or TABLE_STALE where it names none (R156). -/
def State.dirEntry (s : State) (ag : Agent) (handle : Nat) : Except TErr Nat :=
  let c := s.ctx ag.part ag.ctx
  let i := handle / 256 % 2 ^ 24
  if c.tableDir = 0 ∨ i = 0 ∨ c.dirCount ≤ i then .error (.fault .tableStale 0 (handle % 2 ^ 32))
  else .ok (c.dirBase + 64 * i)

/-- What an operation needs of its table. -/
inductive Need where
  | any | ordered | indexed
  deriving DecidableEq, Repr

/-- The check of R364. A PROT that no pointer causes has address 0. -/
def State.tableCheck (s : State) (ag : Agent) (b : BitVec 128) (need : Need) : TRes TDesc :=
  let stale : TErr := .fault .tableStale 0 (tbHandle b)
  if b = 0 then (s, .error stale)
  else (s.readDesc ag (tbPtr b)).andThen fun t d =>
    if d.state ≠ 2 ∨ d.gen ≠ tbHandle b % 256 then (t, .error stale)
    else match need with
      | .any => (t, .ok d)
      | .ordered => (t, if d.kind = 2 then .error (.fault .prot 0 7) else .ok d)
      | .indexed => (t, if d.kind = 0 then .error (.fault .prot 0 7) else .ok d)

/-! ## Stripe entries and nodes (R163) -/

structure Stripe where
  root : Nat
  height : Nat
  bucket : Nat
  free : Nat
  rows : Nat
  deriving DecidableEq, Repr

def Stripe.bytes (x : Stripe) : List Byte :=
  leBytes 4 x.root ++ leBytes 1 x.height ++ List.replicate 3 0 ++ leBytes 4 x.bucket ++ leBytes 4 x.free ++ leBytes 8 x.rows ++
    List.replicate 40 0

structure TNode where
  n : Nat
  version : Nat := 0
  kind : Nat
  keys : List Nat
  vals : List Nat
  next : Nat
  deriving DecidableEq, Repr

/-- No further node. -/
def noNode : Nat := 2 ^ 64 - 1

def nodeOf (n : Nat) (b : List Byte) : TNode :=
  let c := min 62 (byteAt b 9)
  { n := n, version := fieldOf b 0 8, kind := byteAt b 8, keys := (List.range c).map fun i => fieldOf b (0x10 + 8 * i) 8,
    vals := (List.range (if byteAt b 8 = 1 then c + 1 else c)).map fun i => fieldOf b (0x200 + 8 * i) 8, next := fieldOf b 0x3F8 8 }

/-- 64-bit numbers, filled up with zeros to `n` bytes. -/
def words (n : Nat) (xs : List Nat) : List Byte :=
  let b := xs.flatMap (leBytes 8)
  (b ++ List.replicate (n - b.length) 0).take n

/-- A node as it is written; an interior node has no link, and every byte that no entry fills is zero (DESIGN CHOICE, log 21). -/
def TNode.bytes (x : TNode) : List Byte :=
  leBytes 8 x.version ++ leBytes 1 x.kind ++ leBytes 1 x.keys.length ++ List.replicate 6 0 ++ words 0x1F0 x.keys ++ words 0x1F8 x.vals ++
    leBytes 8 (if x.kind = 1 then 0 else x.next)

def TDesc.stripePtr (d : TDesc) (st : Nat) : Nat := d.nodebase + 64 * st
def TDesc.nodePtr (d : TDesc) (n : Nat) : Nat := d.nodebase + 4096 + 1024 * n

/-- Index bytes count on the requesting core's set and on the table's (R67). How many of the `n` bytes an index access moves the
manual does not say: a read by the core, which it makes at home (R169), moves a sector at least; what the Halyard moves need not
be a core's (DESIGN CHOICE, log 1). -/
def State.countIndex (s : State) (ag : Agent) (d : TDesc) (p n : Nat) (byCore write : Bool) : State :=
  match ag.core, s.walk ag.part ag.ctx (p % 2 ^ 57) with
  | some core, .leaf e =>
    let x := Config.pick s.free 13 (ag.lane.getD 32) p
    let k := if byCore then 32 + x % (n - 31) else x % (n + 1)
    let cls := s.classOf core (e.key + p % 2 ^ 16)
    (s.countCore core cls write k).countTable ag.part d.cset cls write k
  | _, _ => s

def State.readStripe (s : State) (ag : Agent) (d : TDesc) (force : Bool) (st : Nat) : TRes Stripe :=
  ((s.countIndex ag d (d.stripePtr st) 64 (!force) false).idxRead ag (d.stripePtr st) 64).andThen fun t b =>
    (t, .ok ⟨fieldOf b 0 4, byteAt b 4, fieldOf b 8 4, fieldOf b 12 4, fieldOf b 16 8⟩)

/-- Does a node of a table belong to a mutation that has begun and is not committed? -/
def State.nodeBusy (s : State) (ag : Agent) (d : TDesc) (n : Nat) : Bool :=
  s.tableReqs.any fun r => r.part == ag.part && r.ctx == ag.ctx && tbPtr r.binding == d.ptr && r.work.any fun w => w.nodes.any (·.1 == n)

/-- Read a node; with an odd version the read is not valid, unless the Halyard makes it (R169). No lookup uses a node of a mutation that
has begun before its commit, so that each sees all of it or nothing (R167; DESIGN CHOICE, log 81). -/
def State.readNode (s : State) (ag : Agent) (d : TDesc) (force : Bool) (n : Nat) : TRes TNode :=
  ((s.countIndex ag d (d.nodePtr n) 1024 (!force) false).idxRead ag (d.nodePtr n) 1024).andThen fun t b =>
    let x := nodeOf n b
    if force = false ∧ (x.version % 2 = 1 ∨ t.nodeBusy ag d n) then (t, .error .retry) else (t, .ok x)

/-- Write nodes in order (R376). -/
def State.writeNodes (ag : Agent) (d : TDesc) : List TNode → State → TRes Unit
  | [], s => (s, .ok ())
  | x :: xs, s =>
    ((s.countIndex ag d (d.nodePtr x.n) 1024 false true).idxWrite ag (d.nodePtr x.n) x.bytes).andThen fun t _ =>
      State.writeNodes ag d xs t

/-! ## Ordered trees (R164, R170) -/

/-- Number of keys at or below `k`: the child that holds it. -/
def TNode.rank (x : TNode) (k : Nat) : Nat := (x.keys.takeWhile fun y => decide (y ≤ k)).length

/-- Descend `h` levels to the leaf of a key: the interior nodes passed, nearest first, with the child taken. -/
def State.descend (ag : Agent) (d : TDesc) (force : Bool) (k : Nat) :
    Nat → Nat → List (TNode × Nat) → State → TRes (TNode × List (TNode × Nat))
  | 0, n, path, s => (s.readNode ag d force n).andThen fun t x => (t, .ok (x, path))
  | h + 1, n, path, s => (s.readNode ag d force n).andThen fun t x =>
    State.descend ag d force k h (x.vals.getD (x.rank k) 0) ((x, x.rank k) :: path) t

/-- The leaf that holds a key or would, with its path and its stripe's entry. -/
def State.leafFor (s : State) (ag : Agent) (d : TDesc) (force : Bool) (k : Nat) : TRes (Stripe × TNode × List (TNode × Nat)) :=
  (s.readStripe ag d force (d.stripeOf k)).andThen fun t st =>
    (State.descend ag d force k (st.height - 1) st.root [] t).andThen fun t x => (t, .ok (st, x.1, x.2))

/-- The first pair of a leaf chain with key at or above `k`; the fuel is a bound on the leaves. -/
def State.firstFrom (ag : Agent) (d : TDesc) (force : Bool) (k : Nat) : Nat → TNode → State → TRes (Option (Nat × Nat))
  | 0, _, s => (s, .ok none)
  | fuel + 1, x, s =>
    match (x.keys.zip x.vals).find? fun y => decide (k ≤ y.1) with
    | some y => (s, .ok (some y))
    | none => if x.next = noNode then (s, .ok none)
      else (s.readNode ag d force x.next).andThen fun t y => State.firstFrom ag d force k fuel y t

/-- Every pair of a leaf chain while `more` allows the next leaf. -/
def State.pairsFrom (ag : Agent) (d : TDesc) (force : Bool) (more : TNode → Bool) :
    Nat → TNode → List (Nat × Nat) → State → TRes (List (Nat × Nat))
  | 0, _, acc, s => (s, .ok acc)
  | fuel + 1, x, acc, s =>
    let acc1 := acc ++ x.keys.zip x.vals
    if x.next = noNode ∨ more x = false then (s, .ok acc1)
    else (s.readNode ag d force x.next).andThen fun t y => State.pairsFrom ag d force more fuel y acc1 t

/-- Insert at a place. -/
def insertAt (xs : List Nat) (i v : Nat) : List Nat := xs.take i ++ v :: xs.drop i

/-- A node that is written again: its version goes by odd to the next even number. -/
def TNode.again (x : TNode) : TNode := { x with version := x.version / 2 * 2 + 2 }

/-- What a new separator and child come to in the parents, nearest first: nodes to write in order, the next free node, and
a new root (R164, R376). -/
def growUp (cap : Nat) : List (TNode × Nat) → (sep child left free : Nat) → List TNode × Nat × Option Nat
  | [], sep, child, left, free => ([{ n := free, kind := 1, keys := [sep], vals := [left, child], next := 0 }], free + 1, some free)
  | (p, i) :: rest, sep, child, _, free =>
    let keys := insertAt p.keys i sep
    let vals := insertAt p.vals (i + 1) child
    if keys.length ≤ cap then ([{ p with keys := keys, vals := vals }.again], free, none)
    else
      let m := (cap + 1) / 2
      let new : TNode := { n := free, kind := 1, keys := keys.drop (m + 1), vals := vals.drop (m + 1), next := 0 }
      let old : TNode := { p with keys := keys.take m, vals := vals.take (m + 1) }.again
      let up := growUp cap rest (keys.getD m 0) free p.n (free + 1)
      (new :: old :: up.1, up.2.1, up.2.2)

/-- Insert a pair into its leaf, splitting as R164 lays down. -/
def growLeaf (cap : Nat) (x : TNode) (path : List (TNode × Nat)) (k ref free : Nat) : List TNode × Nat × Option Nat :=
  let i := x.rank k
  let keys := insertAt x.keys i k
  let vals := insertAt x.vals i ref
  if keys.length ≤ cap then ([{ x with keys := keys, vals := vals }.again], free, none)
  else
    let m := (cap + 2) / 2
    let new : TNode := { n := free, kind := 2, keys := keys.drop m, vals := vals.drop m, next := x.next }
    let old : TNode := { x with keys := keys.take m, vals := vals.take m, next := free }.again
    let up := growUp cap path (keys.getD m 0) free x.n (free + 1)
    (new :: old :: up.1, up.2.1, up.2.2)

/-! ## Bucket chains (R165) -/

/-- The nodes of a chain. -/
def State.chainFrom (ag : Agent) (d : TDesc) (force : Bool) : Nat → Nat → List TNode → State → TRes (List TNode)
  | 0, _, acc, s => (s, .ok acc)
  | fuel + 1, n, acc, s => (s.readNode ag d force n).andThen fun t x =>
    if x.next = noNode then (t, .ok (acc ++ [x])) else State.chainFrom ag d force fuel x.next (acc ++ [x]) t

/-- The chain of a key. -/
def State.chainOf (s : State) (ag : Agent) (d : TDesc) (force : Bool) (k : Nat) : TRes (Stripe × List TNode) :=
  (s.readStripe ag d force (d.stripeOf k)).andThen fun t st =>
    (State.chainFrom ag d force (d.nodecnt + 1) (st.bucket + mix64 k % 2 ^ d.logb) [] t).andThen fun t ns => (t, .ok (st, ns))

/-- The reference of a key in nodes. -/
def refIn (ns : List TNode) (k : Nat) : Option Nat :=
  ns.findSome? fun x => ((x.keys.zip x.vals).find? fun y => y.1 == k).map (·.2)

/-- Append a pair to a chain: the first node with room, or a new overflow node (R165). -/
def growChain (cap : Nat) (ns : List TNode) (k ref free : Nat) : List TNode × Nat :=
  match ns.find? fun x => decide (x.keys.length < cap) with
  | some x => ([{ x with keys := x.keys ++ [k], vals := x.vals ++ [ref] }.again], free)
  | none =>
    let new : TNode := { n := free, kind := 3, keys := [k], vals := [ref], next := noNode }
    match ns.getLast? with
    | some x => ([new, { x with next := free }.again], free + 1)
    | none => ([new], free + 1)

/-- Remove a key from a chain: the chain's last pair moves into its place (R165). -/
def shrinkChain (ns : List TNode) (k : Nat) : List TNode :=
  match ns.find? fun x => x.keys.contains k, (ns.filter fun x => !x.keys.isEmpty).getLast? with
  | some x, some y =>
    let i := x.keys.idxOf k
    let lk := y.keys.getLastD 0
    let lv := y.vals.getLastD 0
    if x.n = y.n then
      [{ x with keys := (modifyAt (fun _ => lk) x.keys i).dropLast, vals := (modifyAt (fun _ => lv) x.vals i).dropLast }.again]
    else
      [{ x with keys := modifyAt (fun _ => lk) x.keys i, vals := modifyAt (fun _ => lv) x.vals i }.again,
        { y with keys := y.keys.dropLast, vals := y.vals.dropLast }.again]
  | _, _ => []

/-! ## Lookups (R160, R166, R366) -/

/-- A point lookup: the row's reference, or none. -/
def State.pointRef (s : State) (ag : Agent) (d : TDesc) (far force : Bool) (k : Nat) : TRes (Option Nat) :=
  if d.kind = 0 then (s, .ok (if k < d.rowcap then some (d.ref far k) else none))
  else if d.hashed then (s.chainOf ag d force k).andThen fun t x => (t, .ok (refIn x.2 k))
  else (s.leafFor ag d force k).andThen fun t x => (t, .ok (refIn [x.2.1] k))

/-- The least present key at or above `k`, with its reference (R170). -/
def State.leastFrom (s : State) (ag : Agent) (d : TDesc) (far force : Bool) (k : Nat) : TRes (Option (Nat × Nat)) :=
  if 2 ^ 64 ≤ k then (s, .ok none)
  else if d.kind = 0 then (s, .ok (if k < d.rowcap then some (k, d.ref far k) else none))
  else (s.leafFor ag d force k).andThen fun t x => State.firstFrom ag d force k (d.nodecnt + 1) x.2.1 t

/-- The present keys of `[lo, hi]` of an indexed table, ascending (R371). -/
def State.keysIn (s : State) (ag : Agent) (d : TDesc) (force : Bool) (lo hi : Nat) : TRes (List Nat) :=
  (s.leafFor ag d force lo).andThen fun t x =>
    (State.pairsFrom ag d force (fun y => decide (y.keys.getLastD 0 ≤ hi)) (d.nodecnt + 1) x.2.1 [] t).andThen fun t ps =>
      (t, .ok ((ps.map (·.1)).filter fun k => decide (lo ≤ k ∧ k ≤ hi)))

/-! ## Mutations (R162, R167, R367) -/

/-- Every pair of the buckets of a stripe. -/
def State.bucketPairs (ag : Agent) (d : TDesc) (first : Nat) : Nat → List (Nat × Nat) → State → TRes (List (Nat × Nat))
  | 0, acc, s => (s, .ok acc)
  | b + 1, acc, s => (State.chainFrom ag d true (d.nodecnt + 1) (first + b) [] s).andThen fun t ns =>
    State.bucketPairs ag d first b (acc ++ ns.flatMap fun x => x.keys.zip x.vals) t

/-- Every pair of a stripe. -/
def State.stripePairs (s : State) (ag : Agent) (d : TDesc) (st : Nat) (x : Stripe) : TRes (List (Nat × Nat)) :=
  if d.ordered then
    (s.leafFor ag d true (st * 2 ^ (64 - d.logs))).andThen fun t y =>
      let per := d.nodecnt / d.stripes
      State.pairsFrom ag d true (fun z => decide (st * per ≤ z.next ∧ z.next < (st + 1) * per)) (d.nodecnt + 1) y.2.1 [] t
  else State.bucketPairs ag d x.bucket (2 ^ d.logb) [] s

/-- The least number from `a` on, at most `n` further, that is not in a list. -/
def lowestFree (used : List Nat) : Nat → Nat → Option Nat
  | _, 0 => none
  | a, n + 1 => if used.contains a then lowestFree used (a + 1) n else some a

/-- The lowest free slot of a stripe (R162). -/
def TDesc.freeSlot (d : TDesc) (st : Nat) (pairs : List (Nat × Nat)) : Option Nat :=
  let per := d.rowcap / d.stripes
  let used := pairs.map fun x => (x.2 % 2 ^ 57 - d.rowbase % 2 ^ 57) / d.width
  lowestFree used (st * per) (min per (used.length + 1))

/-- Does a mutation that writes a row meet an engine's lock on it (R198 of Engines and range locks, R367)? -/
def State.rowLocked (s : State) (ag : Agent) (key n : Nat) : Option Bool :=
  s.lockOn ag.part ag.ctx (.sectors (key / 32) ((n + 31) / 32))

/-- Bytes of the quad's atomic unit at `[key, key + n)` are given up: what is written over them comes later. -/
def State.dropHeld (s : State) (q key n : Nat) : State :=
  { s with held := s.held.filter fun h => !(h.quad == q && decide (key ≤ h.addr) && decide (h.addr < key + n)) }

/-- Write bytes `[i, i + n)` of a row: refused where the row meets a lock. The lane's own earlier accesses to the row come
first, and the issuing core's lines over it go (R365). -/
def State.writeRow (s : State) (ag : Agent) (d : TDesc) (ref i : Nat) (data : List Byte) : TRes Unit :=
  (s.hwKey ag false ref).andThen fun t key =>
    match t.rowLocked ag key d.width with
    | some w => (t, .error (.fault .rangeLock ref w.toNat))
    | none =>
      let ps : List (Place × Nat) := [(.mem (key + i), data.length)]
      let t1 := (t.settleMeeting ag.warp ag.lane ps).bindIf ag.warp fun x => x.lane == ag.lane && placesOverlap x.unread ps
      let core := ag.core.getD 0
      (((t1.dropHeld (quadOf core) (key + i) data.length).homeWrite (key + i) data).dropLines core key d.width, .ok ())

/-- The commit: the stripe's entry and ROWS change (R367); commits are numbered in their order (R167). -/
def State.commitRows (s : State) (ag : Agent) (d : TDesc) (st : Nat) (x : List Byte) : TRes Unit :=
  let rows := d.rows + fieldOf x 16 8
  (s.readStripe ag d true st).andThen fun t old =>
    (t.idxWrite ag (d.stripePtr st) x).andThen fun t _ =>
      (({ t with stamps := t.stamps + 1 }).hwWrite ag (d.ptr + 0x28) (leBytes 8 (rows - old.rows)))

/-- Count `n` node splits of a stripe (R66): more than 4,096 in the millisecond that began with the first of them make a
split storm. -/
def State.noteSplits (s : State) (stripe n : Nat) : State :=
  if n = 0 then s
  else
    let w := Sparse.get (0, 0) s.stormNow stripe
    let old := w.2 ≠ 0 ∧ s.cycle < w.1 + 1000 * Config.cyclesPerUs
    let w1 := if old then (w.1, w.2 + n) else (s.cycle, n)
    let storm := decide (4096 < w1.2) && !(decide old && decide (4096 < w.2))
    let l := s.lifeNow
    let more := Sparse.set 0 l.splitStorms stripe (Sparse.get 0 l.splitStorms stripe + 1)
    { s with
      stormNow := Sparse.set (0, 0) s.stormNow stripe w1
      lifeNow := if storm then { l with splitStorms := more } else l }

/-- What a mutation is to write (R167): the row whose key and initial bytes come first, the nodes in their order, new ones among them
with version 0, how many leaves and interior nodes split, and the stripe's entry at the commit. -/
structure Plan where
  row : Option Nat := none
  nodes : List TNode
  splits : Nat := 0
  stripe : Stripe
  deriving DecidableEq, Repr

/-- The node after the last one that a stripe's inserts may take: a hashed index's buckets fill the end of its nodes (DESIGN CHOICE, log
21). -/
def TDesc.nodeEnd (d : TDesc) (st : Nat) : Nat := (st + 1) * (d.nodecnt / d.stripes) - if d.hashed then 2 ^ d.logb else 0

/-- The insert of a row for an absent key. -/
def State.planInsert (s : State) (ag : Agent) (d : TDesc) (far : Bool) (k : Nat) : TRes Plan :=
  let sn := d.stripeOf k
  (s.readStripe ag d true sn).andThen fun t x =>
  (t.stripePairs ag d sn x).andThen fun t ps =>
  match d.freeSlot sn ps with
  | none => (t, .error (.fault .resource 0 1))
  | some slot =>
    let ref := d.ref far slot
    let tree : TRes (List TNode × Nat × Option Nat) :=
      if d.ordered then (t.leafFor ag d true k).andThen fun t y => (t, .ok (growLeaf d.cap y.2.1 y.2.2 k ref x.free))
      else (t, .ok ([], x.free, none))
    tree.andThen fun t a =>
    let chain : TRes (List TNode × Nat) :=
      if d.hashed then (t.chainOf ag d true k).andThen fun t y => (t, .ok (growChain d.cap y.2 k ref a.2.1))
      else (t, .ok ([], a.2.1))
    chain.andThen fun t b =>
    if d.nodeEnd sn < b.2 then (t, .error (.fault .resource 0 2))
    else (t, .ok {
      row := some ref
      nodes := a.1 ++ b.1
      splits := a.2.1 - x.free - if a.2.2.isSome then 1 else 0
      stripe := { x with
        root := a.2.2.getD x.root
        height := if a.2.2.isSome then x.height + 1 else x.height
        free := b.2
        rows := x.rows + 1 } })

/-- The removal of a present key from every index. -/
def State.planDelete (s : State) (ag : Agent) (d : TDesc) (k : Nat) : TRes Plan :=
  (s.readStripe ag d true (d.stripeOf k)).andThen fun t x =>
  let leaf : TRes (List TNode) :=
    if d.ordered then (t.leafFor ag d true k).andThen fun t y =>
      let i := y.2.1.keys.idxOf k
      (t, .ok [{ y.2.1 with keys := removeAt y.2.1.keys i, vals := removeAt y.2.1.vals i }.again])
    else (t, .ok [])
  leaf.andThen fun t a =>
  let chain : TRes (List TNode) :=
    if d.hashed then (t.chainOf ag d true k).andThen fun t y => (t, .ok (shrinkChain y.2 k)) else (t, .ok [])
  chain.andThen fun t b => (t, .ok { nodes := a ++ b, stripe := { x with rows := x.rows - 1 } })

/-- What a mutation comes to: the plan of an insert or a delete, a present row that TUPS zeroes, or nothing to write; and its answer. -/
structure Mutation where
  plan : Option Plan := none
  zero : Option Nat := none
  flag : Bool
  ref : Option Nat := none
  deriving DecidableEq, Repr

/-- The table and what a mutation of key `k` comes to there, or its fault (R367). -/
def State.mutation (s : State) (ag : Agent) (b : BitVec 128) (op : TableOp) (k : Nat) : TRes (TDesc × Mutation) :=
  (s.readDesc ag (tbPtr b)).andThen fun t d =>
  (t.pointRef ag d (tbFar b) true k).andThen fun t r =>
  match r, op with
  | none, .tdel => (t, .ok (d, { flag := false }))
  | none, _ => (t.planInsert ag d (tbFar b) k).andThen fun t x => (t, .ok (d, { plan := some x, flag := true, ref := x.row }))
  | some _, .tinsx => (t, .error (.fault .dupKey 0 k))
  | some ref, .tups => (t, .ok (d, { zero := some ref, flag := false, ref := some ref }))
  | some _, .tdel => (t.planDelete ag d k).andThen fun t x => (t, .ok (d, { plan := some x, flag := true }))
  | some ref, _ => (t, .ok (d, { flag := false, ref := some ref }))

/-- The core's lines over a row whose reference is returned go (R191, R365). -/
def State.dropRowLines (s : State) (ag : Agent) (ref width : Nat) : State :=
  match s.walk ag.part ag.ctx (ref % 2 ^ 57) with
  | .leaf e => s.dropLines (ag.core.getD 0) (e.key + ref % 2 ^ 16) width
  | _ => s

/-- Apply a mutation of key `k` that changes no index (R367): a row found present, which TUPS zeroes, or nothing: the predicate, and the
reference it returns. A failed one leaves everything as it was (R168). -/
def State.mutate (s : State) (ag : Agent) (b : BitVec 128) (op : TableOp) (k : Nat) : TRes (Bool × Option Nat) :=
  match (s.mutation ag b op k).andThen fun t x =>
      (match x.2.zero with
        | some ref => (t.writeRow ag x.1 ref 8 (List.replicate (x.1.width - 8) 0)).andThen fun t _ =>
            ({ t with stamps := t.stamps + 1 }, .ok ())
        | none => (t, .ok ())).andThen fun t _ =>
      (match x.2.ref with
        | some ref => t.dropRowLines ag ref x.1.width
        | none => t, .ok (x.2.flag, x.2.ref)) with
  | (_, .error e) => (s, .error e)
  | (t, .ok x) => (t, .ok x)

/-! ## The steps of a mutation that changes an index (R164, R167, R168) -/

/-- The writes that put the nodes of a plan in place, in their order: a new node whole, another first with an odd version and then whole
(R164). Each is the node, the number of bytes from its start, and the bytes. -/
def nodeWrites (xs : List TNode) : List (Nat × Nat × Nat) := xs.flatMap fun x =>
  if x.version = 0 then [(x.n, 1024, leNat x.bytes)] else [(x.n, 8, x.version - 1), (x.n, 1024, leNat x.bytes)]

/-- The bytes that nodes hold. -/
def State.oldNodes (ag : Agent) (d : TDesc) : List Nat → State → TRes (List (Nat × Nat))
  | [], s => (s, .ok [])
  | n :: ns, s =>
    (s.idxRead ag (d.nodePtr n) 1024).andThen fun t old =>
    (State.oldNodes ag d ns t).andThen fun t r => (t, .ok ((n, leNat old) :: r))

/-- The Halyard begins a mutation: the row's key and initial bytes come first (R167). What is still to be written, and what stood there
before. -/
def State.beginWork (s : State) (ag : Agent) (d : TDesc) (k : Nat) (x : Plan) : TRes TableWork :=
  (State.oldNodes ag d (x.nodes.map (·.n)) s).andThen fun t olds =>
  let w : TableWork := { nodes := olds, todo := nodeWrites x.nodes, stripe := leNat x.stripe.bytes, splits := x.splits, ref := x.row }
  match x.row with
  | none => (t, .ok w)
  | some ref =>
    (t.idxRead ag ref d.width).andThen fun t old =>
    (t.writeRow ag d ref 0 (leBytes 8 k ++ List.replicate (d.width - 8) 0)).andThen fun t _ => (t, .ok { w with row := some (ref, leNat old) })

/-- The next node write of a mutation that has begun. -/
def State.workNode (s : State) (ag : Agent) (d : TDesc) (x : Nat × Nat × Nat) : TRes Unit :=
  (s.countIndex ag d (d.nodePtr x.1) x.2.1 false true).idxWrite ag (d.nodePtr x.1) (leBytes x.2.1 x.2.2)

/-- The commit of a mutation whose nodes are written: the stripe's entry and ROWS change (R367), its splits are counted (R66), and the
core's lines over a row that it returns go. -/
def State.commitWork (s : State) (ag : Agent) (d : TDesc) (st : Nat) (w : TableWork) : TRes Unit :=
  ((s.noteSplits (2 ^ 64 * (64 * ag.part.toNat + ag.ctx.toNat) + d.stripePtr st) w.splits).commitRows ag d st (leBytes 64 w.stripe)).andThen
    fun t _ => (match w.ref with
      | some ref => t.dropRowLines ag ref d.width
      | none => t, .ok ())

/-- Rewritten nodes and the row of a mutation get the contents back that they had. -/
def State.restoreNodes (ag : Agent) (d : TDesc) : List (Nat × Nat) → State → State
  | [], s => s
  | x :: xs, s => State.restoreNodes ag d xs (s.idxWrite ag (d.nodePtr x.1) (leBytes 1024 x.2)).1

/-- What the Halyard has written for a request goes back to what it was (R168). -/
def State.undoWork (s : State) (ag : Agent) (r : TableReq) : State :=
  match r.work with
  | none => s
  | some w => match s.readDesc ag (tbPtr r.binding) with
    | (t, .ok d) =>
      let t1 := State.restoreNodes ag d w.nodes t
      match w.row with
      | some (ref, old) => (t1.idxWrite ag ref (leBytes d.width old)).1
      | none => t1
    | (t, .error _) => t

end Sys2Proof.Machine
end

