-- ==== Sys2Proof/Machine/EngineEvents.lean ====
section
/-! DEFINITION. What the engines do of themselves: chunks of a Sheet or a Jib, passes of a Mainsail, tile loads and stores,
the journals of the home slices, completions, and the prologue of a workgroup (R83, R139 to R144, R177 to R180, R348, R393
to R396). -/
namespace Sys2Proof.Machine

/-! ## Sheet and Jib (R348, R428) -/

/-- Status bits that stop a copy record, and its queue (R428): a cancellation, bit 9, withholds the signal and no more. -/
def stopBits : BitVec 32 := 0x42B

/-- Has an error stopped the copy record of a job (R428)? -/
def State.recordStopped (s : State) (j : Job) : Bool :=
  j.kind == .copyRecord && match s.launch? j.launch with
    | some l => (l.copyStatus &&& stopBits) != 0
    | none => true

/-- Is a job the one that its Sheet or Jib serves (R348)? -/
def State.sheetServes (s : State) (j : Job) : Bool :=
  decide (j.kind.unit ≤ 1) && !j.asking &&
  match s.sheetPick j.kind.unit j.core with
  | some k => k.id == j.id
  | none => false

/-- SHEET_CHUNK_COMPLETE (R348): the next chunk of job `i`, if its engine serves it. -/
def execSheetChunkComplete (s : State) : Host.Outcome State Fault Refusal :=
  match s.jobs.find? (fun j => j.id == s.args.i) with
  | none => .next s
  | some j =>
    if s.sheetServes j = false then .next s
    else if s.recordStopped j then .next (s.modJob j.id fun j => { j with done := true })
    else
      -- a chunk of a copy record that met earlier locks moves nothing (R428)
      let s1 := if j.clash.contains j.next then s.stopJob j.id 10 else State.runChunk chunkFuel j.id s
      .next (if j.kind = .copyRecord then s1.modLaunch j.launch fun l =>
          { l with copyStatus := l.copyStatus ||| ((s1.jobs.find? fun k => k.id == j.id).elim 0 (·.status)) }
        else s1)

/-! ## Mainsail (R393 to R396) -/

/-- Accumulators of a Mainsail job. -/
def Job.accs (j : Job) : List Nat :=
  let pair := match j.kind with
    | .mma => j.desc == 2
    | .adrn => bits j.desc.toNat 14 2 == 2
    | _ => false
  if pair then [j.acc, j.acc + 1] else [j.acc]

/-- Entries of a quad's reservation table that may be granted: those whose accumulators no earlier entry of their warp
holds. -/
def grantable : List Job → List Job → List Job
  | _, [] => []
  | before, j :: js =>
    let held := before.any fun k => k.warp == j.warp && k.accs.any fun a => j.accs.contains a
    if j.done || held then grantable (before ++ [j]) js else j :: grantable (before ++ [j]) js

/-- The entry that a quad's Mainsail grants next (R393). -/
def State.mainsailPick (s : State) (quad : Nat) : Option Job :=
  let es := (grantable [] (s.jobs.filter fun j => j.kind.unit == 2 && j.place == quad)).filter fun j => s.jobRuns j
  match es.find? fun j => decide (1024 ≤ s.cycle - j.since) with
  | some j => some j
  | none => Job.best es

/-- Tile registers and accumulators of a job's warp. -/
def State.jobWarp (s : State) (j : Job) : Warp := (s.warp? j.warp).getD { core := 0, slot := 0, wg := 0, num := 0 }

/-- An accumulator, or a pair, as one number. -/
def Warp.accPair (w : Warp) (as : List Nat) : Nat := as.foldr (fun a n => (w.acc a).toNat + 2 ^ 131072 * n) 0

/-- Write an accumulator or a pair. -/
def Warp.setAccPair (w : Warp) (as : List Nat) (v : Nat) : Warp :=
  ((List.range as.length).foldl (fun w i => w.setAcc (as.getD i 0) (BitVec.ofNat 131072 (bits v (131072 * i) 131072))) w)

/-- One pass of an MMA job (R394), which stays whatever stops the job later (R222). -/
def State.onePass (s : State) (id : Nat) : State :=
  match s.jobs.find? (fun j => j.id == id) with
  | none => s
  | some j =>
    let w := s.jobWarp j
    let va := (w.tile j.tA).toNat
    let vb := (w.tile j.tB).toNat
    match mmaPlan (tileHdr va) (tileHdr vb) with
    | none => s.stopJob id 4
    | some p =>
      let r := mmaPass p (tileHdr va) (tileHdr vb) va vb j.next j.flag (w.accPair j.accs)
      ((s.modWarp j.warp fun w => w.setAccPair j.accs r.1).modJob id fun j =>
        { j with next := j.next + 1, done := decide (j.total ≤ j.next + 1), status := j.status ||| BitVec.ofNat 32 r.2 })

/-- Passes of one grant of an MMA. -/
def State.passes (id : Nat) : Nat → State → State
  | 0, s => s
  | n + 1, s =>
    match s.jobs.find? (fun j => j.id == id) with
    | some j => if j.done then s else State.passes id n (s.onePass id)
    | none => s

/-- An ADRN runs (R395). -/
def State.runAdrn (s : State) (j : Job) : State :=
  let w := s.jobWarp j
  match targetOf j.desc.toNat 0 0 0 true with
  | none => s.stopJob j.id 4
  | some g =>
    let a := w.accPair j.accs
    let x := fun (r c : Nat) => accVal g.acc a (64 * (drainRows g.hdr.fmt * g.part + r) + c)
    let e := encodeTile (Config.tileRest s.free) g.hdr { sat := j.flag } 0 (g.acc == 1) x
    (s.modWarp j.warp fun w => w.setTile j.tA (BitVec.ofNat 73984 e.tile)).modJob j.id fun j =>
      { j with done := true, status := j.status ||| BitVec.ofNat 32 (drainStatus g.hdr e x) }

/-- An AFILL runs (R396). -/
def State.runAfill (s : State) (j : Job) : State :=
  let src := j.desc.toNat
  if bits src 60 4 = 0 then
    (s.modWarp j.warp fun w => w.setAcc j.acc (BitVec.ofNat 131072 (repeatBits 32 4096 (bits src 0 32)))).modJob j.id fun j =>
      { j with done := true }
  else match s.enginePlaces j.agent .load src 16384 with
    | (s1, .error e) => s1.stopJob j.id (engineBit e)
    | (s1, .ok ps) =>
      let d := ps.flatMap fun x => s1.readPlace (quadOf j.core) x.1 x.2
      ((s1.touch j.id ps).modWarp j.warp fun w => w.setAcc j.acc (BitVec.ofNat 131072 (leNat d))).modJob j.id fun j => { j with done := true }

/-- MAINSAIL_GRANT (R393): job `i`, if its quad's Mainsail grants it. An operation that met earlier locks moves nothing
(R200) (DEDUCED, log 53). -/
def execMainsailGrant (s : State) : Host.Outcome State Fault Refusal :=
  match s.jobs.find? (fun j => j.id == s.args.i) with
  | none => .next s
  | some j =>
    if j.kind.unit ≠ 2 ∨ (s.mainsailPick j.place).map (·.id) ≠ some j.id then .next s
    else
      let s1 := s.modJob j.id fun j => { j with since := s.cycle }
      if j.status.getLsbD 10 then .next (s1.stopJob j.id 10)
      else match j.kind with
        | .adrn => .next (s1.runAdrn j)
        | .afill => .next (s1.runAfill j)
        | _ =>
          let w := s.jobWarp j
          let rate := ((mmaPlan (tileHdr (w.tile j.tA).toNat) (tileHdr (w.tile j.tB).toNat)).map (·.rate)).getD 1
          .next (State.passes j.id rate s1)

/-! ## Tile loads and stores (R177 to R180, R383, R384) -/

/-- Cycles of the arithmetic clock that 64 cycles of the fabric clock take: 1.7 GHz against 2.4 GHz (DEDUCED, log 61). -/
def retryCycles : Nat := 46

/-- One attempt of a TLD (R180, R383). -/
def State.tldAttempt (s : State) (j : Job) : State :=
  let p := j.src.toNat
  match s.enginePlaces j.agent .load p 32 with
  | (s1, .error e) => s1.stopJob j.id (engineBit e)
  | (s1, .ok ps) =>
    let rd := fun (t : State) (qs : List (Place × Nat)) => qs.flatMap fun x => t.readPlace (quadOf j.core) x.1 x.2
    let s2 := (s1.countParts j.agent p false ps).touch j.id ps
    let v := leNat (rd s2 ps)
    let h := tileHdr v
    if h.version % 2 = 1 then
      if 64 ≤ j.retries then s2.stopJob j.id 4
      else s2.modJob j.id fun j => { j with torn := true, retries := j.retries + 1, since := s.cycle }
    else match hdrCheck4 v with
      | some _ => s2.stopJob j.id 4
      | none =>
        let n := 32 + h.span
        let s3 := s2.modJob j.id fun j => { j with bytes := n }
        if 65536 < p % 65536 + n then s3.stopJob j.id 1
        else match s3.enginePlaces j.agent .load (p + 32) h.span with
          | (s4, .error e) => s4.stopJob j.id (engineBit e)
          | (s4, .ok qs) =>
            let s5 := (s4.countParts j.agent p false qs).touch j.id qs
            let s6 := match j.acquire with
              | some sc => s5.acquire j.core sc
              | none => s5
            (s6.modWarp j.warp fun w => w.setTile j.tA (BitVec.ofNat 73984 (v + 2 ^ 256 * leNat (rd s6 qs)))).modJob j.id
              fun j => { j with done := true }

/-- Write bytes for a job; an error stops it. -/
def State.jobWrite (s : State) (j : Job) (p : Nat) (data : List Byte) (go : State → State) : State :=
  match s.enginePlaces j.agent .store p data.length with
  | (s1, .error e) => s1.stopJob j.id (engineBit e)
  | (s1, .ok ps) => go (((State.writeParts none ps data s1).countParts j.agent p true ps).touch j.id ps)

/-- Bytes of the tile of a TST but for its version. -/
def State.tstBytes (s : State) (j : Job) : List Byte := leBytes j.bytes ((s.jobWarp j).tile j.tA).toNat

/-- The next step of a plain TST (R178): the version made odd, the sectors of the tile one by one in an order chosen freely, the version
made even (DEDUCED, log 56). -/
def State.tstStep (s : State) (j : Job) : State :=
  let p := j.dst.toNat
  let next := fun (k : Nat) (t : State) => t.modJob j.id fun j => { j with next := k, done := decide (k = 2) }
  match j.next with
  | 0 =>
    match s.enginePlaces j.agent .load (p + 8) 4 with
    | (s1, .error e) => s1.stopJob j.id (engineBit e)
    | (s1, .ok ps) =>
      let v := BitVec.ofNat 32 (leNat (ps.flatMap fun x => s1.readPlace (quadOf j.core) x.1 x.2))
      ((s1.touch j.id ps).modJob j.id fun j => { j with version := v }).jobWrite j (p + 8) (leBytes 4 (v + 1).toNat) (next 1)
  | _ =>
    let left := (List.range ((j.bytes + 31) / 32)).filter fun k => !j.clash.contains k
    match left[Config.pick s.free 25 j.id left.length % left.length]? with
    | none => s.jobWrite j (p + 8) (leBytes 4 (j.version + 2).toNat) (next 2)
    | some k =>
      let d := ((s.tstBytes j).drop (32 * k)).take 32
      let wrote := fun (t : State) => t.modJob j.id fun j => { j with clash := j.clash ++ [k] }
      -- the version of the first sector stays
      if k = 0 then s.jobWrite j p (d.take 8) fun t => t.jobWrite j (p + 12) (d.drop 12) wrote
      else s.jobWrite j (p + 32 * k) d wrote

/-- Begin to apply a journal entry that stands first for its tile: the version found becomes v + 1 (R179). -/
def State.journalBegin (s : State) (addr : Nat) : State :=
  let v := BitVec.ofNat 32 (s.homeNat (addr + 8) 4)
  let js := (s.journal.foldl (fun (a : List Journal × Bool) e =>
    if e.addr = addr ∧ a.2 = false then (a.1 ++ [{ e with version := v }], true) else (a.1 ++ [e], a.2)) ([], false)).1
  State.writeHome { s with journal := js } (addr + 8) (leBytes 4 (v + 1).toNat)

/-- A TST with .aon commits once an entry of its home slice's journal is free (R179). -/
def State.tstCommit (s : State) (j : Job) : State :=
  if s.journal.any fun e => e.job == j.id then s
  else
    match s.enginePlaces j.agent .store j.dst.toNat j.bytes with
    | (s1, .error e) => s1.stopJob j.id (engineBit e)
    | (s1, .ok ps) =>
      match ps.head? with
      | some (.mem key, _) =>
        let home := s1.homeSlice key
        if 8 ≤ (s1.journal.filter fun e => e.home == home).length then s1
        else
          let first := !(s1.journal.any fun e => e.addr == key)
          let s2 : State := { (s1.countParts j.agent j.dst.toNat true ps).touch j.id ps with journal := s1.journal ++ [⟨home, key, s.tstBytes j, 0, j.id, s.cycle⟩] }
          if first then s2.journalBegin key else s2
      | _ => s1.stopJob j.id 1

/-- Entry `i` of the journals, if it stands first for its tile, is written out and freed (R179). -/
def State.journalApply (s : State) (i : Nat) : State :=
  match s.journal[i]? with
  | none => s
  | some e =>
    if (s.journal.take i).any fun x => x.addr == e.addr then s
    else
      let s1 := (s.homeWrite e.addr (e.data.take 8 ++ leBytes 4 (e.version + 2).toNat ++ e.data.drop 12))
      let s2 := { s1 with journal := removeAt s1.journal i }
      let s3 := if s2.journal.any fun x => x.addr == e.addr then s2.journalBegin e.addr else s2
      s3.modJob e.job fun j => { j with done := true }

/-- JOURNAL_APPLY (R179): entry `i`, if it stands first for its tile, is written out and freed. -/
def execJournalApply (s : State) : Host.Outcome State Fault Refusal := .next (s.journalApply s.args.i)

/-- The journal entries committed 1 µs ago are written out, the oldest first: none takes longer (R179). The fuel is their number. -/
def State.journalDue : Nat → State → State
  | 0, s => s
  | n + 1, s =>
    match s.journal with
    | e :: _ => if e.since + Config.cyclesPerUs ≤ s.cycle then State.journalDue n (s.journalApply 0) else s
    | [] => s

/-! ## Completion (R201, R222, R344) -/

/-- May an operation reach the state of its context now? Not during an exchange (R111). -/
def State.jobReaches (s : State) (j : Job) : Bool :=
  let p := s.part j.part
  p.resident == some j.ctx && match p.switch with
    | .exchanging _ => false
    | _ => true

/-- Have 64 fabric cycles passed since the failed attempt of a prologue, or of a job, whose context runs (R112, R180)? A TLD goes on in
a halt (R384). -/
def State.tornWg (s : State) (g : Workgroup) : Bool := g.torn && s.running g && decide (retryCycles ≤ s.cycle - g.tornAt)
def State.tornJob (s : State) (j : Job) : Bool :=
  j.torn && (if j.kind.unit = 3 then s.jobReaches j else s.jobRuns j) && decide (retryCycles ≤ s.cycle - j.since)

/-- The next attempt of a torn operation (R180). -/
def State.retryJob (s : State) (j : Job) : State :=
  let s1 := s.modJob j.id fun j => { j with torn := false }
  if j.kind = .tld then s1.tldAttempt { j with torn := false } else State.runChunk chunkFuel j.id s1

/-- ENGINE_OPERATION_COMPLETE (R344): job `i` completes if it is done; a tile load makes its attempt, and a tile store its
next step. -/
def execEngineOperationComplete (s : State) : Host.Outcome State Fault Refusal :=
  match s.jobs.find? (fun j => j.id == s.args.i) with
  | none => .next s
  | some j =>
    if s.jobReaches j = false ∨ j.asking then .next s
    else if j.done then
      let s1 := s.completeJob j
      .next (if j.kind = .copyRecord then s1.modLaunch j.launch fun l => { l with copyStatus := l.copyStatus ||| j.status ||| (if j.resumed then 256 else 0) } else s1)
    else if j.torn then .next s
    else match j.kind with
      | .tld => .next (s.tldAttempt j)
      | .tst => .next (if j.flag then s.tstCommit j else s.tstStep j)
      | _ => .next s

/-! ## The prologue of a workgroup (R83, R139 to R144) -/

/-- Bindings of a workgroup's record. -/
def State.bindingsOf (s : State) (g : Workgroup) : List Binding := (s.launch? g.launch).elim [] (·.record.bindings)

/-- The first binding from `k` on that has a transform. -/
def nextBinding (bs : List Binding) (k : Nat) : Option Nat :=
  (List.range bs.length).find? fun i => decide (k ≤ i) && ((bs.getD i {}).code != 0)

/-- Every split of a workgroup becomes ready with age 0. -/
def State.warpsReady (s : State) (gid : Nat) : State :=
  { s with warps := s.warps.map fun w =>
      if w.wg = gid then { w with splits := w.splits.map (Option.map fun p => { p with since := s.cycle + 1 }) } else w }

/-- The prologue goes on behind a chunk, or ends: the warps become ready (R83). -/
def State.prologueNext (s : State) (g : Workgroup) (b k : Nat) : State :=
  let bs := s.bindingsOf g
  let x := bs.getD b {}
  let put := fun (p : Option (Nat × Nat)) (t : State) => t.modWg g.id fun g => { g with prologue := p, torn := false, tornTries := 0 }
  if 4096 * (k + 1) < x.length then put (some (b, k + 1)) s
  else match nextBinding bs (b + 1) with
    | some i => put (some (i, 0)) s
    | none => (put none s).warpsReady g.id
/-- A chunk of a prologue, piece by piece, from local state (R139). -/
def State.jibGo (g : Workgroup) (b k : Nat) (x : Binding) : Nat → List (List Byte) → State → State
  | 0, _, s => s
  | fuel + 1, got, s =>
    let ag : Agent := { part := g.part, ctx := g.ctx, core := some g.core, wg := g.id, engine := true }
    match xfStep x x.src.toNat k got with
    | .read p n =>
      match s.enginePlaces ag .load p n with
      | (s1, .error e) => s1.prologueFault g.id e.code e.detail (BitVec.ofNat 64 p)
      | (s1, .ok ps) =>
        if s1.leaves ps then
          let r : ExtReq := { tag := 0, part := g.part, core := g.core, use := 7, job := g.id, ptr := BitVec.ofNat 64 p }
          (s1.addExt r).modWg g.id fun g => { g with jibAsks := true }
        else
          let d := ps.flatMap fun y => s1.readPlace (quadOf g.core) y.1 y.2
          State.jibGo g b k x fuel (got ++ [d]) (s1.countParts ag p false ps)
    | .out d flags _ =>
      let s1 := s.modWg g.id fun g => { g with scratch := g.scratch.setBytes (x.scratchOff + 4096 * k) d }
      let raise := fun (w : Warp) => (List.range 32).foldl (fun w l => w.addFlags l flags) w
      let s2 : State := { s1 with warps := s1.warps.map fun w => if w.wg = g.id then raise w else w }
      s2.prologueNext g b k
    | .stop why =>
      match why with
      | .block => s.prologueFault g.id .queue 0 0
      | .header c => s.prologueFault g.id .hdrCheck (0xFF + 256 * c) x.src
      | .crosses => s.prologueFault g.id .prot 5 x.src
      | .entry => s.prologueFault g.id .badSpace 0 x.src
      | .torn =>
        if 64 ≤ g.tornTries then s.prologueFault g.id .tileTorn 0 x.src
        else s.modWg g.id fun g => { g with torn := true, tornTries := g.tornTries + 1, tornAt := s.cycle }

/-- Does the Jib have a chunk of a workgroup's prologue to do? -/
def State.jibServes (s : State) (g : Workgroup) : Bool :=
  g.prologue.isSome && !g.torn && !g.jibAsks && g.raised.isNone && s.running g

/-- The next chunk of a workgroup's prologue. -/
def State.jibChunk (s : State) (g : Workgroup) : State :=
  match g.prologue with
  | none => s
  | some (b, k) => if s.jibServes g then State.jibGo g b k ((s.bindingsOf g).getD b {}) chunkFuel [] s else s

/-- The next attempt of a torn prologue (R180). -/
def State.retryWg (s : State) (g : Workgroup) : State :=
  (s.modWg g.id fun g => { g with torn := false }).jibChunk { g with torn := false }

/-- TILE_LOAD_RETRY (R180): 64 fabric cycles after a failed attempt, job `i`, or with `flag` the prologue of workgroup `i`, reads again. -/
def execTileLoadRetry (s : State) : Host.Outcome State Fault Refusal :=
  if s.args.flag then match s.wg? s.args.i with
    | some g => .next (if s.tornWg g then s.retryWg g else s)
    | none => .next s
  else match s.jobs.find? fun j => j.id == s.args.i with
    | some j => .next (if s.tornJob j then s.retryJob j else s)
    | none => .next s

/-- Failed attempts are repeated no later than their time (R180). -/
def State.retriesDue (s : State) : State :=
  let s1 := (s.jobs.filter s.tornJob).foldl (fun t j => t.retryJob j) s
  (s1.wgs.filter s1.tornWg).foldl (fun t g => t.retryWg g) s1

/-- JIB_CHUNK_COMPLETE (R139): the next chunk of the prologue of workgroup `i`. -/
def execJibChunkComplete (s : State) : Host.Outcome State Fault Refusal :=
  match s.wg? s.args.i with
  | none => .next s
  | some g => .next (s.jibChunk g)

end Sys2Proof.Machine
end

