-- ==== Sys2Proof/Machine/Hints.lean ====
section
/-! DEFINITION. The HINT words (R269 to R271): each joins the run of its split; the checks of the run come with the
instruction that ends it (R273). -/
namespace Sys2Proof.Machine

/-- A HINT word of an assigned kind joins the run; a fourth in a row is ILLEGAL_HINT (R271). -/
def State.takeHint (s : State) (c : Issue) (h : HintRec) : State :=
  if 3 ≤ c.p.hints.length then s.faultAt c .illegalHint c.p.mask 0 (h.word + 3 * 2 ^ 32)
  else s.modSplit c.id fun p => { p with hints := p.hints ++ [h], pc := p.pc + 4, since := s.cycle + 1, lifted := false }

/-- A HINT word issues. -/
def State.hint (s : State) (kind payload : Nat) : Host.Outcome State Fault Refusal :=
  match s.issue? false with
  | none => .fault .noIssuingSplit
  | some c => .next (s.takeHint c ⟨BitVec.ofNat 5 kind, BitVec.ofNat 21 payload⟩)

def execHintImm (i : BitVec 21) (s : State) : Host.Outcome State Fault Refusal := s.hint 0 i.toNat

def execHintImmhi (i : BitVec 21) (s : State) : Host.Outcome State Fault Refusal := s.hint 1 i.toNat

def execHintGuard (n : BitVec 1) (p : BitVec 3) (s : State) : Host.Outcome State Fault Refusal := s.hint 2 (8 * n.toNat + p.toNat)

def execHintRnd (m : BitVec 3) (s : State) : Host.Outcome State Fault Refusal := s.hint 3 m.toNat

def execHintSat (s : State) : Host.Outcome State Fault Refusal := s.hint 4 0

def execHintOrd (c : BitVec 3) (o : BitVec 2) (s : State) : Host.Outcome State Fault Refusal := s.hint 5 (4 * c.toNat + o.toNat)

def execHintCache (c : BitVec 2) (s : State) : Host.Outcome State Fault Refusal := s.hint 6 c.toNat

def execHintOffs (o : BitVec 21) (s : State) : Host.Outcome State Fault Refusal := s.hint 7 o.toNat

def execHintCheck (s : State) : Host.Outcome State Fault Refusal := s.hint 8 0

def execHintPri (p : BitVec 2) (s : State) : Host.Outcome State Fault Refusal := s.hint 9 p.toNat

end Sys2Proof.Machine
end

