-- ==== Sys2Proof/Machine/WarpEvents.lean ====
section
/-! DEFINITION. Events of warps and cores: results that land and stores that settle (R210, R256, R257), the timers of
YIELD, SLEEP and WAITE (R281, R284, R300), the age lift (R97), cache evictions and quad write-backs (R176, R188), entry to
the WARP and WORKGROUP rungs and their times (R212 to R219), and starved barriers (R347). -/
namespace Sys2Proof.Machine

/-! ## Landing and settling -/

/-- May pending result `k` of a warp land now: none before it stands at its place (R256)? -/
def Warp.landable (w : Warp) (k : Nat) : Bool :=
  match w.pending[k]? with
  | some x => (w.pending.take k).all fun y => !y.blocks x.split x.dest
  | none => false

/-- Sector parts that the load of pending result `k` has still to read. -/
def Warp.partsLeft (w : Warp) (k : Nat) : Nat := (((w.pending[k]?).bind (·.load)).map fun r => r.left.length).getD 0

/-- The first fixed-latency result that stands behind nothing any more: it is visible at once. -/
def Warp.dueFixed (w : Warp) : Option Nat :=
  (List.range w.pending.length).find? fun k =>
    match w.pending[k]? with
    | some x => x.fixed && w.landable k
    | none => false

/-- Land the fixed-latency results that wait no longer. The fuel is their number. -/
def State.landFixed : Nat → Nat → State → State
  | 0, _, s => s
  | n + 1, wid, s =>
    match (s.warp? wid).bind Warp.dueFixed with
    | some k => State.landFixed n wid (s.landAt wid k)
    | none => s

/-- A result has landed, with the outcome of its lane where its split awaits that: an acquire load over several sectors (R193). -/
def State.landed (s : State) (wid : Nat) (x : Option Pending) : State :=
  match x with
  | some x => if x.acq.isSome then s.laneOutcome ⟨wid, x.split⟩ (match x.dest with
      | .slices l _ _ => l
      | _ => 32) none else s
  | none => s

/-- RESULT_LANDS (R256, R257): pending result number `addr` of warp `i` lands, if no earlier one stands at its place; a load reads its
sector parts one at a time first (R182). -/
def execResultLands (s : State) : Host.Outcome State Fault Refusal :=
  match s.warp? s.args.i with
  | none => .next s
  | some w =>
    .next (if w.landable s.args.addr = false then s
      else if 1 < w.partsLeft s.args.addr then s.bindPart w.id s.args.addr
      else State.landFixed w.pending.length w.id ((s.landAt w.id s.args.addr).landed w.id w.pending[s.args.addr]?))

/-- STORE_SETTLED (R210): a sector part of outstanding store number `addr` of warp `i`, and with the last one the store, is
performed or dropped (R182). -/
def execStoreSettled (s : State) : Host.Outcome State Fault Refusal :=
  match s.warp? s.args.i with
  | none => .next s
  | some w =>
    match s.wg? w.wg with
    | none => .next s
    | some g =>
      .next (if s.settleable w g s.args.addr then
          ((s.settlePart w.id s.args.addr).unpark w.id).tryExit w.id
        else s)

/-! ## Waits that end -/

/-- YIELD_TIMEOUT (R281): 64 cycles have passed for split `split` of warp `i`. -/
def execYieldTimeout (s : State) : Host.Outcome State Fault Refusal :=
  match (s.warp? s.args.i).bind fun w => w.split s.args.split.toNat with
  | none => .next s
  | some p =>
    match p.wait with
    | .yield d _ =>
      .next (if d ≤ s.cycle then
          s.resume ⟨s.args.i, s.args.split.toNat⟩ fun p => p.goOn (s.cycle + 1)
        else s)
    | _ => .next s

/-- SLEEP_EXPIRY (R284): the time of split `split` of warp `i` has run out. -/
def execSleepExpiry (s : State) : Host.Outcome State Fault Refusal :=
  match (s.warp? s.args.i).bind fun w => w.split s.args.split.toNat with
  | none => .next s
  | some p =>
    match p.wait with
    | .sleep d =>
      .next (if d ≤ s.cycle then
          s.resume ⟨s.args.i, s.args.split.toNat⟩ fun p => p.wake (s.cycle + 1)
        else s)
    | _ => .next s

/-- Cycles between two reads of an awaited word: 2 µs (R300, R75). -/
def pollCycles : Nat := 3400

/-- A waiting split as the issue of its waiting instruction. -/
def State.waitingIssue (s : State) (wid n : Nat) : Option Issue :=
  match s.warp? wid with
  | none => none
  | some w =>
    match s.wg? w.wg, w.split n with
    | some g, some p => some ⟨⟨wid, n⟩, w, g, p, p.pc + BitVec.ofNat 64 (4 * (p.runLen - 1)), p.pc, p.sw⟩
    | _, _ => none

/-- Does the word at a pointer lie at bytes of some places? -/
def State.wordAt (s : State) (ag : Agent) (p : Nat) (at_ : List (Place × Nat)) : Bool :=
  match s.places ag .load p 8 with
  | (_, .ok ps) => placesOverlap ps at_
  | (_, .error _) => false

/-- May the WAITE of a split read its word: its context runs, and no read is outstanding? -/
def State.waiteReads (s : State) (c : Issue) : Bool :=
  !(s.exts.any fun r => r.use == 5 && r.warp == c.id.warp && r.split == c.id.split) && s.running c.g

/-- Is a WAITE of a split due for another read: have 2 µs passed (R300)? -/
def State.waiteDue (s : State) (c : Issue) : Bool := s.waiteReads c && decide (pollCycles ≤ s.cycle - c.p.since)

/-- The WAITEs whose word has been changed at some places read it again (R300). -/
def State.rereadWaites (s : State) (at_ : List (Place × Nat)) : State :=
  (s.warps.flatMap fun w => w.valid.map fun n => (w.id, n)).foldl (fun t x =>
    match t.waitingIssue x.1 x.2 with
    | some c => match c.p.wait with
      | .waite p v => if t.waiteReads c && t.wordAt (c.agent none) p.toNat at_ then t.readEvent c p.toNat v.toNat else t
      | _ => t
    | none => t) s

/-- WAITE_POLL (R300): the word that split `split` of warp `i` waits on is read again. -/
def execWaitePoll (s : State) : Host.Outcome State Fault Refusal :=
  match s.waitingIssue s.args.i s.args.split.toNat with
  | none => .next s
  | some c =>
    match c.p.wait with
    | .waite p v => .next (if s.waiteDue c then s.readEvent c p.toNat v.toNat else s)
    | _ => .next s

/-- SPLIT_LIFT (R97): split `split` of warp `i` is lifted. -/
def execSplitLift (s : State) : Host.Outcome State Fault Refusal :=
  match s.warp? s.args.i with
  | none => .next s
  | some w =>
    match w.split s.args.split.toNat with
    | some p =>
      .next (if s.liftDue w p then s.modSplit ⟨w.id, s.args.split.toNat⟩ fun p => { p with lifted := true } else s)
    | none => .next s

/-! ## Caches -/

/-- QUAD_ATOMIC_WRITEBACK (R188): the unit of quad `i` writes the line of sector `addr` back to its home slice. -/
def execQuadAtomicWriteback (s : State) : Host.Outcome State Fault Refusal :=
  let mine := fun (h : HeldByte) => h.quad == s.args.i && h.addr / 32 == s.args.addr
  .next (State.bringHome { s with held := s.held.filter fun h => !mine h } (s.held.filter mine))

/-- ROW_CACHE_EVICTION (R176): the 128-byte line `addr` leaves the row cache of a core (DEDUCED, log 75). -/
def execRowCacheEviction (s : State) : Host.Outcome State Fault Refusal :=
  .next { s with cache := s.cache.filter fun c => !(c.core == s.args.core && c.sector / 4 == s.args.addr) }

/-! ## Rungs (R214, R215, R219) -/

/-- WARP_RUNG_ENTRY (R214): the fault that warp `i` has raised is taken, once every split has stopped. -/
def execWarpRungEntry (s : State) : Host.Outcome State Fault Refusal := .next (s.warpEnters s.args.i)

/-- WORKGROUP_RUNG_ENTRY (R215): the fault raised in workgroup `i` is taken, once every split of its warps has stopped;
or a retired-warp ring entry that waited for this rung is (R211). -/
def execWorkgroupRungEntry (s : State) : Host.Outcome State Fault Refusal :=
  match s.wg? s.args.i with
  | none => .next s
  | some g =>
    if g.raised.isSome then
      .next (if g.handler.isNone ∧ s.running g ∧ s.wgCanStop g.id then s.enterWg g.id else s)
    else .next ((s.warpsOf g.id).foldl (fun t w => t.tryExit w.id) s.takeRetired)

/-- Has a time of `us` microseconds, 0 acting as 1, run out since a cycle (R219)? -/
def State.timeUp (s : State) (since us : Nat) : Bool := decide (Config.cyclesPerUs * max 1 us ≤ s.cycle - since)

/-- The record of a missed time (R209, R219): `rung` names the one whose handler was late. The manual gives it no lanes,
counter or address; it takes those of the handler split (DEDUCED, log 26) (DEDUCED, log 37). -/
def lateRecord (w : Warp) (h : Handler) (rung : Nat) : FaultRec :=
  let p := w.split h.subject
  { code := .timeout, first := rung + 1, split := BitVec.ofNat 8 h.subject, fmask := p.elim 0 (·.lanesAll), counter := p.elim 0 (·.pc),
    detail := BitVec.ofNat 64 rung, serial := w.serial }

/-- The handler of a warp that has missed its time. -/
def State.handlerLate (s : State) (w : Warp) : Option (Workgroup × Handler) :=
  match s.wg? w.wg, w.handler with
  | some g, some h =>
    let us := if h.rung = 1 then (s.part g.part).warpUs.toNat else (s.part g.part).wgUs.toNat
    if h.runs && s.running g && g.raised.isNone && s.timeUp h.entered us then some (g, h) else none
  | _, _ => none

/-- HANDLER_TIMEOUT (R219): the handler that runs in warp `i` has missed its time, a TIMEOUT at the next rung. -/
def execHandlerTimeout (s : State) : Host.Outcome State Fault Refusal :=
  match s.warp? s.args.i with
  | none => .next s
  | some w =>
    match s.handlerLate w with
    | none => .next s
    | some (g, h) =>
      let r := lateRecord w h h.rung
      .next (if h.rung = 1 then s.raiseWg g.id r else s.climbCtx g.id r)

/-! ## Starved barriers (R347) -/

/-- The CORE object of its workgroup that a split is parked on. -/
def State.parkedCore (s : State) (g : Workgroup) (p : Split) : Option Nat :=
  match p.wait with
  | .bwait r _ => match s.barAt g r.toNat with
    | some (.core _ i) => some i
    | _ => none
  | _ => none

/-- Does a workgroup starve (R347)? -/
def State.starved (s : State) (g : Workgroup) : Bool :=
  let ws := (s.warpsOf g.id).filter fun w => !w.exited && !w.valid.isEmpty
  let ps := ws.flatMap fun w => w.splits.filterMap id
  !ps.isEmpty && g.raised.isNone && g.handler.isNone && s.running g &&
  (ws.all fun w => w.raised.isNone && w.handler.isNone) &&
  (ps.all fun p => (s.parkedCore g p).isSome) &&
  (ps.any fun p => match s.parkedCore g p with
    | some i => (s.bar (.core g.id i)).fixed
    | none => false) &&
  !(s.jobs.any fun j => j.wg == g.id)

/-- The lowest-numbered warp of a list. -/
def lowestWarp : List Warp → Option Warp
  | [] => none
  | w :: ws => match lowestWarp ws with
    | some v => if v.num < w.num then some v else some w
    | none => some w

/-- BARRIER_STARVED (R347): workgroup `i` starves. The record's counter and lanes are those of the lowest parked warp's
lowest split (DEDUCED, log 26). -/
def execBarrierStarved (s : State) : Host.Outcome State Fault Refusal :=
  match s.wg? s.args.i with
  | none => .next s
  | some g =>
    if s.starved g = false then .next s
    else match lowestWarp ((s.warpsOf g.id).filter fun w => !w.exited && !w.valid.isEmpty) with
      | none => .next s
      | some w =>
        match w.split (w.valid.headD 0) with
        | none => .next s
        | some p =>
          let off := 1024 * g.tmpl.scratchKiB + 32 * (s.parkedCore g p).getD 0
          .next (s.raiseWg g.id
            { code := .barrierStarved, first := 2, split := BitVec.ofNat 8 (w.valid.headD 0), fmask := p.mask,
              counter := p.pc + BitVec.ofNat 64 (4 * (p.runLen - 1)), detail := BitVec.ofNat 64 off, serial := w.serial })

end Sys2Proof.Machine
end

