-- ==== Sys2Proof/Machine/Table.lean ====
section
/-! DEFINITION. The keyed table and cache handle instructions (R359 to R374), the creation and retirement of tables (R158,
R159), and the events that serve them: a Halyard's commit, a repeated node read, a retirement. -/
namespace Sys2Proof.Machine

/-! ## Leaf entries of a table's regions (R158, R159) -/

/-- A leaf position found by a walk: the entry's key, the entry, and the level (2 or 3). -/
structure LeafPos where
  key : Nat
  entry : Nat
  level : Nat
  deriving DecidableEq, Repr

/-- The leaf position of an address, whatever it holds. -/
def State.leafGo (s : State) (p : BitVec 2) (va : Nat) : List (Nat × Nat) → Nat → Nat → Option LeafPos
  | [], _, _ => none
  | (lo, n) :: rest, lvl, table =>
    let key := physKey p (table + 8 * bits va lo n)
    let e := s.homeNat key 8
    if lvl = 3 ∨ (lvl = 2 ∧ e.testBit 1) then some ⟨key, e, lvl⟩
    else if bits e 48 16 ≠ 0 ∨ bits e 1 7 ≠ 0 ∨ e.testBit 0 = false then none
    else State.leafGo s p va rest (lvl + 1) (bits e 8 40 * 2 ^ 8)

def State.leafPos (s : State) (p : BitVec 2) (c : BitVec 6) (va : Nat) : Option LeafPos :=
  let root := (s.ctx p c).root.toNat
  if root = 0 then none else s.leafGo p va levels 0 root

/-- The leaf positions of `n` granules from `va` on; none where one is missing or, with `fresh`, is not V = 0 and
PLACE = 0. -/
def State.regionLeaves (s : State) (p : BitVec 2) (c : BitVec 6) (fresh : Bool) : Nat → Nat → List LeafPos → Option (List LeafPos)
  | 0, _, acc => some acc
  | n + 1, va, acc =>
    match s.leafPos p c va with
    | none => none
    | some x =>
      if fresh ∧ (x.entry.testBit 0 ∨ bits x.entry 8 3 ≠ 0) then none
      else State.regionLeaves s p c fresh n (va + 2 ^ 16) (if acc.any fun y => y.key == x.key then acc else acc ++ [x])

/-- Write leaf entries. -/
def State.setLeaves (s : State) (xs : List LeafPos) (f : LeafPos → Nat) : State :=
  xs.foldl (fun t x => t.writeHome x.key (leBytes 8 (f x))) s

/-- The leaf placement and DDIE that a descriptor's PLACE comes to (R59, R60); none where R60 refuses it (DEDUCED, log 59). -/
def State.placement (s : State) (p : BitVec 2) (c : BitVec 6) (place : Nat) : Option (Nat × Nat) :=
  let x := s.ctx p c
  let dies := s.placeDies p c
  let d := place / 8 % 4
  match place % 8 with
  | 0 => match x.placeDef.toNat with
    | 0 => some (2, 0)
    | 1 => some (4, 0)
    | 2 => (s.farSet p 0).map fun _ => (3, 0)
    | _ => (diesOf dies).head?.map fun k => (1, k)
  | 1 => if dies.testBit d then some (1, d) else none
  | 2 => some (2, 0)
  | 3 => (s.farSet p d).map fun _ => (3, d)
  | 4 => some (4, 0)
  | _ => none

/-! ## Creation (R158, R376, R401) -/

/-- A count or a width that R158 refuses. -/
def TDesc.badCount (d : TDesc) : Bool :=
  decide (11 < d.logw) || decide (6 < d.logs) || decide (16 < d.logb) || d.rowcap == 0 || d.rowcap % d.stripes != 0 ||
  (if d.kind = 0 then d.nodecnt != 0
   else d.nodecnt == 0 || d.nodecnt % d.stripes != 0 || decide (d.nodecnt < d.stripes * (2 ^ d.logb + 1))) ||
  (d.hashed == false && d.logb != 0)

/-- An FP32 threshold that is negative or NaN; −0 is neither (R401). -/
def badThreshold (x : Nat) : Bool := decide (0x7F800000 < x % 2 ^ 31) || (x.testBit 31 && x % 2 ^ 31 != 0)

/-- Rate-set parameters that R401 refuses. -/
def badRate (r : Nat) : Bool :=
  r != 0 && (r.testBit 103 == false || bits r 100 3 != 0 || bits r 104 8 != 0 ||
    badThreshold (bits r 0 32) || badThreshold (bits r 32 32) || badThreshold (bits r 64 32))

/-- A ROW pointer to a 64 KiB page. -/
def rowPage (p : Nat) : Bool := p / 2 ^ 57 == 0x18 && p % 65536 == 0

/-- A check of the descriptor other than a count or width fails (R157, R401). -/
def TDesc.badOther (d : TDesc) (raw : List Byte) : Bool :=
  decide (7 < d.place / 4) || !zeroAt raw 0x25 3 || !rowPage d.rowbase || badRate d.rate ||
  (if d.kind = 0 then d.nodebase != 0 else !rowPage d.nodebase)

/-- The parameters after the overrides of REEF, with SWEEP 0 (R401, R412). -/
def overrideRate (reef : Nat) (r : Nat) : Nat :=
  if r = 0 then 0
  else
    let set := fun (i lo src : Nat) (x : Nat) => if reef.testBit i then setBits x lo 32 (bits reef src 16 * 2 ^ 16) else x
    setBits (set 2 64 16 (set 1 32 32 (set 0 0 48 r))) 112 16 0

/-- The stripe entry and the empty root leaf of a stripe, the lowest free node after it (R376); the buckets of a hashed index are the
stripe's last nodes (DESIGN CHOICE, log 21). -/
def TDesc.emptyStripe (d : TDesc) (st : Nat) : Stripe × List TNode :=
  let per := d.nodecnt / d.stripes
  let root := st * per
  let nb := if d.hashed then 2 ^ d.logb else 0
  let first := d.nodeEnd st
  (⟨root, 1, if d.hashed then first else 0, root + 1, 0⟩,
    { n := root, kind := 2, keys := [], vals := [], next := if st + 1 < d.stripes then (st + 1) * per else noNode } ::
      (List.range nb).map fun b => { n := first + b, kind := 3, keys := [], vals := [], next := noNode })

/-- Write the stripe table and the empty nodes. -/
def State.writeStripes (ag : Agent) (d : TDesc) : List Nat → State → TRes Unit
  | [], s => (s, .ok ())
  | st :: rest, s =>
    let x := d.emptyStripe st
    (s.idxWrite ag (d.stripePtr st) x.1.bytes).andThen fun t _ =>
      (State.writeNodes ag d x.2 t).andThen fun t _ => State.writeStripes ag d rest t

/-- Create the table of a requested descriptor (R158): its new state and descriptor, or the fault. A failed creation
changes nothing (DEDUCED, log 58). NODECAP is written for a DENSE table too (DEDUCED, log 88). -/
def State.createTable (s : State) (ag : Agent) (ptr : Nat) (raw : List Byte) : TRes TDesc :=
  let d := tdescOf ptr raw
  let xlate : TErr := .fault .xlate ptr 0
  let leaves := fun (base size : Nat) => if 2 ^ 57 < base % 2 ^ 57 + size then none
    else s.regionLeaves ag.part ag.ctx true (size / 65536) (base % 2 ^ 57) []
  if 3 < d.kind then (s, .error xlate)
  else if d.badCount then (s, .error (.fault .resource 0 3))
  else if d.badOther raw then (s, .error xlate)
  else match s.placement ag.part ag.ctx d.place with
    | none => (s, .error xlate)
    | some (pl, dd) =>
      match leaves d.rowbase d.rowSize, leaves d.nodebase d.nodeSize with
      | some rows, some nodes =>
        let base := fun (x : LeafPos) => (if x.level = 2 then 2 else 0) + pl * 2 ^ 8 + dd * 2 ^ 11
        let s1 := s.setLeaves rows fun x => base x + 4 + (if d.kind = 0 then 0 else d.logw + 1) * 2 ^ 4
        let s2 := s1.setLeaves nodes base
        let c := s.ctx ag.part ag.ctx
        let d1 := { d with state := 2, cap := c.nodeCap, gen := d.gen % 255 + 1, rows := 0, rate := overrideRate c.reef.toNat d.rate }
        let made : TRes TDesc :=
          (State.writeStripes ag d1 (if d.kind = 0 then [] else List.range d.stripes) s2).andThen fun t _ =>
          (t.hwWrite ag ptr (raw.take 1 ++ leBytes 1 2 ++ (raw.drop 2).take 3 ++ leBytes 1 d1.cap ++ (raw.drop 6).take 1 ++
            leBytes 1 d1.gen ++ (raw.drop 8).take 0x20 ++ leBytes 8 0 ++ leBytes 16 d1.rate)).andThen fun t _ =>
          (t.hwKey ag true ptr).andThen fun t key =>
            ({ t with descs := t.descs ++ [{ part := ag.part, ctx := ag.ctx, ptr := ptr, key := key }] }, .ok d1)
        match made with
        | (_, .error e) => (s, .error e)
        | (t, .ok x) => (t, .ok x)
      | _, _ => (s, .error xlate)

/-- Find, and if it is asked for create, the table of a handle (R361): its handle with the live generation, and its
descriptor. -/
def State.bindTable (s : State) (ag : Agent) (h : Nat) : TRes (Nat × TDesc) :=
  match s.dirEntry ag h with
  | .error e => (s, .error e)
  | .ok ptr =>
    (s.hwRead ag ptr 64).andThen fun t raw =>
      let d := tdescOf ptr raw
      let stale : TErr := .fault .tableStale 0 h
      let check := fun (t : State) (d : TDesc) =>
        if h % 256 ≠ 0 ∧ h % 256 ≠ d.gen then (t, Except.error stale) else (t, Except.ok (h / 256 * 256 + d.gen, d))
      if d.state = 1 then (t.createTable ag ptr raw).andThen check
      else if d.state = 2 then check t d
      else (t, .error stale)

/-- The agent of hardware that acts for the issuing split: it meets no lock of its own. -/
def Issue.hw (c : Issue) (lane : Option Nat) : Agent := { c.agent lane with engine := true }

def execTbind (sw : Bool) (b : BitVec 3) (h : BitVec 6) (s : State) : Host.Outcome State Fault Refusal :=
  s.issueWith (.tbind sw b h) sw { orders := true, uregs := [h.toNat], tbs := [b.toNat] } fun c t =>
    let x := bits (c.ureg h) 0 32
    if x = 0 then (t.putLater c [(.tbind b.toNat, 0)]).complete c
    else match t.bindTable (c.hw none) x with
      | (t1, .error (.fault code addr detail)) => t1.faultAt c code c.p.mask (BitVec.ofNat 64 addr) detail
      | (t1, .error .retry) => t1
      | (t1, .ok (g, d)) =>
        let far := d.far (t1.ctx c.g.part c.g.ctx)
        (t1.putLater c [(.tbind b.toNat, (d.binding g far).toNat), (.ureg h.toNat, g)]).complete c

/-! ## Lanes of table instructions -/

/-- A lane ends: with its results, or with a fault. -/
def LaneRun.addT (r : LaneRun) (c : Issue) (l : Nat) (x : TRes (List (Dest × Nat))) : LaneRun :=
  match x with
  | (t, .ok ds) => { r with
      st := t.modWarp c.id.warp fun w => ds.foldl (fun w y => w.later c.id.split y.1 y.2) w
      done := r.done ||| (1#32 <<< l) }
  | (t, .error (.fault code addr detail)) => { r with
      st := t, faults := r.faults ++ [(l, { code := code, addr := BitVec.ofNat 64 addr, detail := BitVec.ofNat 64 detail })] }
  | (t, .error .retry) => { r with st := t, waiting := r.waiting ||| (1#32 <<< l) }

/-- Resolve a lookup or a cursor step of one lane in its table (R366, R370, R372): its register results. -/
def State.lookupIn (s : State) (ag : Agent) (r : TableReq) (force : Bool) (d : TDesc) : TRes (List (Dest × Nat)) :=
  let vd := fun (v : Nat) => (Dest.slices r.lane r.dest 16, v)
  let p := fun (v : Nat) => (Dest.pred r.lane r.pred, v)
  let found := fun (t : State) (ref : Nat) => t.dropRowLines ag ref d.width
  let far := tbFar r.binding
  match r.op with
  | .tget => (s.pointRef ag d far force r.key).andThen fun t x => match x with
    | some ref => (found t ref, .ok [vd ref, p 1])
    | none => (t, .ok [vd 0, p 0])
  | .tref => (s.leastFrom ag d far force r.key).andThen fun t x => match x with
    | some y => (found t y.2, .ok [vd y.2])
    | none => (t, .ok [vd 0])
  | .tnext =>
    if bits r.cursor 64 32 ≠ tbHandle r.binding then (s, .error (.fault .tableStale 0 (tbHandle r.binding)))
    else
      (s.leastFrom ag d far force (bits r.cursor 0 64 + (r.cursor.testBit 127).toNat)).andThen fun t x => match x with
        | some y => (found t y.2, .ok [vd y.2,
            (.slices r.lane r.cdest 32, y.1 + tbHandle r.binding * 2 ^ 64 + d.stripeOf y.1 * 2 ^ 96 + 2 ^ 127), p 1])
        | none => (t, .ok [vd 0, p 0])
  | _ => (s.pointRef ag d far force r.key).andThen fun t x => match x with
    | some ref => (found t ref, .ok (if r.op = .tgetx then [vd ref, p 1] else [vd ref]))
    | none => (t, .error (.fault .noRow 0 r.key))

/-- A lookup or a cursor step of one lane from its handle check on (R364). -/
def State.lookup (s : State) (ag : Agent) (r : TableReq) (force : Bool) : TRes (List (Dest × Nat)) :=
  let need : Need := match r.op with
    | .tref => .ordered
    | .tnext => .ordered
    | _ => .any
  (s.tableCheck ag r.binding need).andThen fun t d => t.lookupIn ag r force d

/-- A lookup of a lane at its issue; one that meets an invalid node waits to be repeated (R169). -/
def LaneRun.look (r : LaneRun) (c : Issue) (q : TableReq) : LaneRun :=
  let x := r.st.lookup (c.hw (some q.lane)) q false
  let r1 := r.addT c q.lane x
  match x.2 with
  | .error .retry => { r1 with st := { r1.st with lookups := r1.st.lookups ++ [{ q with retries := 1 }] } }
  | _ => r1

/-- The fields of a request that name the issuing split. -/
def Issue.treq (c : Issue) (op : TableOp) (binding : BitVec 128) (l group : Nat) : TableReq :=
  { op := op, core := c.w.core, warp := c.id.warp, split := c.id.split, lane := l, part := c.g.part, ctx := c.g.ctx, group := group,
    binding := binding, key := 0 }

/-- The lanes that a table instruction still has to do. -/
def Uses.left (u : Uses) (c : Issue) : List Nat := lanesOf (u.lanes c &&& ~~~c.doneBefore)

/-- Lookups: `q` makes each lane's request, and an acquire comes before them all (R365), and again with a step that is repeated later. -/
def State.lookups1 (s : State) (i : Instr) (sw : Bool) (u : Uses) (q : Issue → State → Nat → TableReq) :
    Host.Outcome State Fault Refusal :=
  s.issueWith i sw u fun c t =>
    let ls := u.left c
    let t1 := match sideOf c with
      | some sc => if ls.isEmpty then t else t.acquire c.w.core sc
      | none => t
    (ls.foldl (fun r l => r.look c { q c t l with acq := sideOf c }) { st := t1 : LaneRun }).finish c

/-- Uses of a table instruction: destination and source slices. -/
def tableUses (b : BitVec 3) (ords : List Nat) (dst src : List (Nat × Nat)) : Uses :=
  { orders := true, fits := if ords.isEmpty then [2] else [2, 5], ords := ords, vs := dst ++ src, src := src, tbs := [b.toNat] }

def execTget (sw : Bool) (b : BitVec 3) (d k : BitVec 7) (p : BitVec 3) (s : State) : Host.Outcome State Fault Refusal :=
  s.lookups1 (.tget sw b d k p) sw (tableUses b [0, 1] [(d.toNat, 16)] [(k.toNat, 16)]) fun c t l =>
    { c.treq .tget (c.p.tbind b.toNat) l s.free with
      key := t.src c 0 l k.toNat 16, dest := c.abs d.toNat, pred := p.toNat }

def execTgetx (sw : Bool) (b : BitVec 3) (d k : BitVec 7) (p : BitVec 3) (s : State) : Host.Outcome State Fault Refusal :=
  s.lookups1 (.tgetx sw b d k p) sw (tableUses b [0, 1] [(d.toNat, 16)] [(k.toNat, 16)]) fun c t l =>
    { c.treq .tgetx (c.p.tbind b.toNat) l s.free with
      key := t.src c 0 l k.toNat 16, dest := c.abs d.toNat, pred := p.toNat }

def execTref (sw : Bool) (b : BitVec 3) (d k : BitVec 7) (s : State) : Host.Outcome State Fault Refusal :=
  s.lookups1 (.tref sw b d k) sw (tableUses b [] [(d.toNat, 16)] [(k.toNat, 16)]) fun c t l =>
    { c.treq .tref (c.p.tbind b.toNat) l s.free with key := t.src c 0 l k.toNat 16, dest := c.abs d.toNat }

def execTnext (sw : Bool) (b : BitVec 3) (d c : BitVec 7) (p : BitVec 3) (s : State) : Host.Outcome State Fault Refusal :=
  s.lookups1 (.tnext sw b d c p) sw (tableUses b [0, 1] [(d.toNat, 16)] [(c.toNat, 32)]) fun i t l =>
    { i.treq .tnext (i.p.tbind b.toNat) l s.free with
      cursor := t.src i 0 l c.toNat 32, dest := i.abs d.toNat, cdest := i.abs c.toNat, pred := p.toNat }

/-! ## Mutations (R367, R368) -/

/-- A mutation: each lane's request is checked on its receipt (R364) and waits for the Halyard's commit; a release comes
first. -/
def State.mutations (s : State) (i : Instr) (sw : Bool) (u : Uses) (op : TableOp) (b : BitVec 3) (d : Nat) (k : BitVec 7)
    (p : BitVec 3) : Host.Outcome State Fault Refusal :=
  s.issueWith i sw u fun c t =>
    let ls := u.left c
    let tb := c.p.tbind b.toNat
    let send := fun (t1 : State) => (ls.foldl (fun r l =>
      match r.st.tableCheck (c.hw (some l)) tb .indexed with
      | (t2, .error e) => r.addT c l (t2, .error e)
      | (t2, .ok _) =>
        let q := { c.treq op tb l s.free with
          key := t.src c 0 l k.toNat 16, dest := c.abs d, pred := p.toNat }
        { r with st := { t2 with tableReqs := t2.tableReqs ++ [q] }, waiting := r.waiting ||| (1#32 <<< l) })
      { st := t1 : LaneRun }).finish c
    match sideOf c with
    | some sc => if ls.isEmpty then send t else t.releaseTo c (maskOf ls) sc send
    | none => send t

def execTins (sw : Bool) (b : BitVec 3) (d k : BitVec 7) (p : BitVec 3) (s : State) : Host.Outcome State Fault Refusal :=
  s.mutations (.tins sw b d k p) sw (tableUses b [0, 2] [(d.toNat, 16)] [(k.toNat, 16)]) .tins b d.toNat k p

def execTinsx (sw : Bool) (b : BitVec 3) (d k : BitVec 7) (p : BitVec 3) (s : State) : Host.Outcome State Fault Refusal :=
  s.mutations (.tinsx sw b d k p) sw (tableUses b [0, 2] [(d.toNat, 16)] [(k.toNat, 16)]) .tinsx b d.toNat k p

def execTups (sw : Bool) (b : BitVec 3) (d k : BitVec 7) (p : BitVec 3) (s : State) : Host.Outcome State Fault Refusal :=
  s.mutations (.tups sw b d k p) sw (tableUses b [0, 2] [(d.toNat, 16)] [(k.toNat, 16)]) .tups b d.toNat k p

def execTdel (sw : Bool) (b : BitVec 3) (k : BitVec 7) (p : BitVec 3) (s : State) : Host.Outcome State Fault Refusal :=
  s.mutations (.tdel sw b k p) sw (tableUses b [0, 2] [] [(k.toNat, 16)]) .tdel b 0 k p

/-! ## Cursors and counts (R369, R371) -/

def execTscan (sw : Bool) (b : BitVec 3) (c k : BitVec 7) (s : State) : Host.Outcome State Fault Refusal :=
  let u := tableUses b [] [(c.toNat, 32)] [(k.toNat, 16)]
  s.issueWith (.tscan sw b c k) sw u fun i t =>
    let tb := i.p.tbind b.toNat
    ((u.left i).foldl (fun r l => r.addT i l
      ((r.st.tableCheck (i.hw (some l)) tb .ordered).andThen fun t2 d =>
        let key := t.src i 0 l k.toNat 16
        (t2, .ok [(i.dst l c.toNat 32, key + tbHandle tb * 2 ^ 64 + d.stripeOf key * 2 ^ 96)])))
      { st := t : LaneRun }).finish i

/-- The present keys that TCNT's walk still has to meet: those of the lanes' ranges, from above `above` on (R371). -/
def State.tcount (s : State) (ag : Agent) (d : TDesc) (force : Bool) (ranges : List (Nat × Nat × Nat)) (above : Option Nat) :
    TRes (List Nat) :=
  let real := ranges.filter fun x => decide (x.2.1 ≤ x.2.2)
  let lo := (real.map fun x => x.2.1).foldl min (2 ^ 64)
  let hi := (real.map fun x => x.2.2).foldl max 0
  let from_ := match above with
    | some k => k + 1
    | none => lo
  if real.isEmpty ∨ hi < from_ then (s, .ok []) else s.keysIn ag d force from_ hi

/-- Is a mutation of a binding's table begun and not committed? -/
def State.committing (s : State) (p : BitVec 2) (c : BitVec 6) (b : BitVec 128) : Bool :=
  s.tableReqs.any fun q => q.work.isSome && q.part == p && q.ctx == c && tbPtr q.binding == tbPtr b

/-- How many of some keys lie in a range. -/
def keysWithin (ks : List Nat) (lo hi : Nat) : Nat := (ks.filter fun k => decide (lo ≤ k ∧ k ≤ hi)).length

/-- A lane's count of a DENSE table (R371). -/
def TDesc.denseCount (d : TDesc) (lo hi : Nat) : Nat := min hi (d.rowcap - 1) + 1 - lo

/-- One stretch of a TCNT's walk (R371): it ends after as many keys as a free value says and goes on when its split is chosen again, so
that a commit or a stop may come between (DEDUCED, log 22). A node that is being written has the read repeated, and after 64 such reads
the Halyard resolves what is left between two commits (R169). -/
def State.walkOn (s : State) (c : Issue) (lanes : BitVec 32) (run : CountRun) : State :=
  let b := c.p.tbind run.bind
  let later := fun (t : State) (x : CountRun) => (t.waitAt c .ready).modSplit c.id fun p => { p with walk := some x }
  match (s.readDesc (c.hw none) (tbPtr b)).andThen fun t x =>
      t.tcount (c.hw none) x (decide (64 ≤ run.retries) && !(t.committing c.g.part c.g.ctx b)) run.ranges run.above with
  | (t, .error (.fault code addr detail)) => t.faultAt c code lanes (BitVec.ofNat 64 addr) detail
  | (t, .error .retry) => later t { run with retries := run.retries + 1 }
  | (t, .ok ks) =>
    let m := Config.pick s.free 24 c.id.split ks.length % ks.length + 1
    let met := ks.take m
    let counts := (run.ranges.zip run.counts).map fun y => (y.2 + keysWithin met y.1.2.1 y.1.2.2) % 2 ^ 64
    if ks.length ≤ m then (t.putLater c ((run.ranges.zip counts).map fun y => (.slices y.1.1 run.dest 16, y.2))).complete c
    else later t { run with counts := counts, above := met.getLast? }

/-- TCNT (R371): the ranges are read before the walk begins (R9, R374), and again after a halt, which leaves the partial counts in vd
(`Warp.stopWalk`, R106); the handle is checked, and an acquire made, when the walk begins (R159). -/
def execTcnt (sw : Bool) (b : BitVec 3) (d k : BitVec 7) (s : State) : Host.Outcome State Fault Refusal :=
  let u := { tableUses b [0, 1] [(d.toNat, 16)] [(k.toNat, 32)] with keyProg := true }
  s.issueWith (.tcnt sw b d k) sw u fun c t =>
    let ls := lanesOf (u.lanes c)
    match c.p.walk with
    | some run => t.walkOn c (u.lanes c) run
    | none =>
      let above := if c.p.progValid ∧ c.p.progPc = c.start then some c.p.prog.toNat else none
      let landing := above.isSome && c.w.pending.any fun x => ls.any fun l => x.dest.overlaps (c.dst l d.toNat 16)
      if ls.isEmpty then t.complete c
      else if landing then t.waitAt c .results
      else
        let t1 := match sideOf c with
          | some sc => if above.isSome then t else t.acquire c.w.core sc
          | none => t
        let ranges := ls.map fun l => (l, t.src c 0 l k.toNat 16, t.src c 0 l (k.toNat + 16) 16)
        let counts := ls.map fun l => if above.isSome then t.src c 1 l d.toNat 16 else 0
        match t1.tableCheck (c.hw none) (c.p.tbind b.toNat) .ordered with
        | (t2, .error (.fault code addr detail)) => t2.faultAt c code (u.lanes c) (BitVec.ofNat 64 addr) detail
        | (t2, .error .retry) => t2.waitAt c .ready
        | (t2, .ok x) =>
          if x.kind = 0 then
            (t2.putLater c (ranges.map fun y => (c.dst y.1 d.toNat 16, x.denseCount y.2.1 y.2.2))).complete c
          else t2.walkOn c (u.lanes c)
            { bind := b.toNat, ranges := ranges, counts := counts, above := above, dest := c.abs d.toNat }

/-! ## Cache handles (R172 to R175, R372, R373) -/

/-- Pointer to the Shroud's table and its entry count (R173). -/
def Ctx.shroudBase (c : Ctx) : Nat × Nat := (c.shroud.toNat / 32 * 32, 2 ^ (c.shroud.toNat % 32))

/-- Bytes that hardware reads or writes for a core are counted where their page is mapped, and else as those of a faulting access are
(R415). -/
def State.countHw (s : State) (ag : Agent) (p n : Nat) (write : Bool) : State :=
  match s.walk ag.part ag.ctx (p % 2 ^ 57) with
  | .leaf e => s.count (ag.core.getD 0) ag.part (s.tableSet ag p) (.mem (e.key + p % 2 ^ 16)) write n
  | _ => s.countBad ag p n write

/-- The first two checks of R174: the pointer to the entry and its bytes, which are counted (R415). A Shroud base of 0, for which the spec
names no fault, is HANDLE_STALE (DESIGN CHOICE, log 89). -/
def State.shroudEntry (s : State) (ag : Agent) (h : Nat) : TRes (Nat × List Byte) :=
  let c := s.ctx ag.part ag.ctx
  let i := bits h 0 32
  let gen := bits h 32 16
  let stale : TErr := .fault .handleStale 0 h
  if c.shroud = 0 ∨ bits h 48 16 ≠ (Config.shroudCheck (s.part ag.part).secret (BitVec.ofNat 32 i) (BitVec.ofNat 16 gen)).toNat ∨
      c.shroudBase.2 ≤ i then (s, .error stale)
  else
    let ptr := c.shroudBase.1 + 32 * i
    ((s.countHw ag ptr 32 false).hwRead ag ptr 32).andThen fun t e =>
      if gen = 0 ∨ fieldOf e 6 2 ≠ gen then (t, .error stale)
      else if fieldOf e 0x18 2 ≠ c.tenant.toNat then (t, .error (.fault .handleTenant 0 (fieldOf e 0x18 2)))
      else (t, .ok (ptr, e))

/-- The table and key that a handle, a position and a layer come to (R174). -/
def State.shroudKey (s : State) (ag : Agent) (h pos layer : Nat) : TRes (BitVec 128 × Nat) :=
  (s.shroudEntry ag h).andThen fun t x =>
    let span := fieldOf x.2 0x10 4
    if fieldOf x.2 4 2 ≤ layer ∨ fieldOf x.2 0x14 4 ≤ pos ∨ span ≤ pos / 64 then
      (t, .error (.fault .handleBounds 0 (layer % 2 ^ 16 + pos % 2 ^ 32 * 2 ^ 16)))
    else
      let th := fieldOf x.2 0 4
      match t.dirEntry ag th with
      | .error e => (t, .error e)
      | .ok ptr => (t.readDesc ag ptr).andThen fun t d =>
        if d.state ≠ 2 ∨ d.gen ≠ th % 256 then (t, .error (.fault .tableStale 0 th))
        else (t, .ok (d.binding th (d.far (t.ctx ag.part ag.ctx)), (fieldOf x.2 8 8 + layer * span + pos / 64) % 2 ^ 64))

/-- HREF is an acquire at PKG (R193, R372), at its issue and with a lookup that is repeated later. -/
def execHref (sw : Bool) (d h : BitVec 7) (s : State) : Host.Outcome State Fault Refusal :=
  let u : Uses := { orders := true, fits := [2], vs := [(d.toNat, 16), (h.toNat, 28)], src := [(h.toNat, 28)] }
  s.issueWith (.href sw d h) sw u fun c t =>
    let ls := u.left c
    let t1 := if ls.isEmpty then t else t.acquire c.w.core 3
    (ls.foldl (fun r l =>
      match r.st.shroudKey (c.hw (some l)) (t.src c 0 l h.toNat 16) (t.src c 1 l (h.toNat + 16) 8) (t.src c 2 l (h.toNat + 24) 4) with
      | (t2, .error e) => r.addT c l (t2, .error e)
      | (t2, .ok (b, key)) =>
        { r with st := t2 }.look c { c.treq .href b l s.free with key := key, dest := c.abs d.toNat, acq := some 3 })
      { st := t1 : LaneRun }).finish c

/-- HBND is a release at PKG (R373); its update meets an engine's lock as an atomic does (R198 of Engines and range locks). -/
def execHbnd (sw : Bool) (h : BitVec 7) (s : State) : Host.Outcome State Fault Refusal :=
  let u : Uses := { orders := true, fits := [2], vs := [(h.toNat, 24)], src := [(h.toNat, 24)] }
  s.issueWith (.hbnd sw h) sw u fun c t =>
    let ls := u.left c
    if ls.isEmpty then ({ st := t : LaneRun }).finish c
    else t.releaseTo c (maskOf ls) 3 fun t1 => (ls.foldl (fun r l =>
      let ag := c.hw (some l)
      let b := t.src c 1 l (h.toNat + 16) 8
      r.addT c l ((r.st.shroudEntry ag (t.src c 0 l h.toNat 16)).andThen fun t2 x =>
        if 64 * fieldOf x.2 0x10 4 < b then (t2, .error (.fault .handleBounds 0 (b * 2 ^ 16)))
        else if b ≤ fieldOf x.2 0x14 4 then (t2, .ok [])
        else (t2.hwKey ag true (x.1 + 0x14)).andThen fun t3 key =>
          match t3.rowLocked ag key 4 with
          | some w => (t3, .error (.fault .rangeLock (x.1 + 0x14) w.toNat))
          | none => (((t3.countHw ag (x.1 + 0x14) 4 true).dropLines c.w.core key 4).homeWrite key (leBytes 4 b), .ok [])))
      { st := t1 : LaneRun }).finish c

/-! ## Events -/

/-- The agent of a request. -/
def State.reqAgent (s : State) (r : TableReq) : Agent :=
  match s.warp? r.warp with
  | some w =>
    { part := r.part, ctx := r.ctx, core := some r.core, wg := w.wg, warp := r.warp, slot := w.slot, lane := some r.lane, engine := true }
  | none => { part := r.part, ctx := r.ctx, core := some r.core, warp := r.warp, lane := some r.lane, engine := true }

/-- The requests of threads that are gone go too, and a stripe whose nodes were being written for one is as it was (R168). -/
def State.dropReqs (s : State) (f : TableReq → Bool) : State :=
  let s1 := (s.tableReqs.filter f).foldl (fun t r => t.undoWork (t.reqAgent r) r) s
  { s1 with tableReqs := s1.tableReqs.filter fun r => !f r, lookups := s1.lookups.filter fun r => !f r }

/-- A lane's request ends with results or a fault; its split may go on (R206, R208). -/
def State.tableEnd (s : State) (r : TableReq) (x : Except TErr (List (Dest × Nat))) : State :=
  match x with
  | .ok ds =>
    (s.modWarp r.warp fun w => ds.foldl (fun w y => w.later r.split y.1 y.2) w).laneOutcome ⟨r.warp, r.split⟩ r.lane none
  | .error (.fault code addr detail) =>
    s.laneOutcome ⟨r.warp, r.split⟩ r.lane
      (some { code := code, addr := BitVec.ofNat 64 addr, detail := BitVec.ofNat 64 detail })
  | .error .retry => s

/-- Two mutations go to one stripe of one table. -/
def TableReq.sameStripe (a b : TableReq) : Bool :=
  let st := fun (r : TableReq) => let l := bits r.binding.toNat 48 8; if l = 0 then 0 else r.key / 2 ^ (64 - l)
  a.part == b.part && a.ctx == b.ctx && tbPtr a.binding == tbPtr b.binding && st a == st b

/-- Is mutation `k` the next of its stripe? They arrive in the order of their issue (R368). -/
def State.nextMutation (s : State) (k : Nat) : Bool :=
  match s.tableReqs[k]? with
  | some r => !((s.tableReqs.take k).any fun q => q.sameStripe r)
  | none => false

/-- Take request `k` away and answer its lane: with a fault, for which its stripe is as it was (R168), or with the results. -/
def State.mutationEnd (s : State) (k : Nat) (r : TableReq) (x : TRes (Bool × Option Nat)) : State :=
  let gone := fun (t : State) => { t with tableReqs := removeAt t.tableReqs k }
  match x with
  | (_, .error e) => ((gone s).undoWork (s.reqAgent r) r).tableEnd r (.error e)
  | (t, .ok (v, ref)) => (gone t).tableEnd r (.ok ((match ref with
      | some a => [(.slices r.lane r.dest 16, a)]
      | none => []) ++ [(.pred r.lane r.pred, v.toNat)]))

/-- HALYARD_COMMIT (R167, R367): the stripe's Halyard goes on with the mutation numbered `i`. One that changes an index is taken in steps,
one at each such event: the row, the node writes in their order, the commit (R164; DESIGN CHOICE, log 81). -/
def execHalyardCommit (s : State) : Host.Outcome State Fault Refusal :=
  let k := s.args.i
  match s.tableReqs[k]? with
  | none => .next s
  | some r =>
    if s.nextMutation k = false then .next s
    else
      let ag := s.reqAgent r
      let keep := fun (t : State) (w : TableWork) => { t with tableReqs := modifyAt (fun q => { q with work := some w }) t.tableReqs k }
      match r.work with
      | none => match s.mutation ag r.binding r.op r.key with
        | (t, .ok (d, { plan := some x, .. })) => match t.beginWork ag d r.key x with
          | (t1, .ok w) => .next (keep t1 w)
          | (t1, .error e) => .next (s.mutationEnd k r (t1, .error e))
        | _ => .next (s.mutationEnd k r (s.mutate ag r.binding r.op r.key))
      | some w => match w.todo with
        | y :: ys => match (s.readDesc ag (tbPtr r.binding)).andThen fun t d => t.workNode ag d y with
          | (t, .ok _) => .next (keep t { w with todo := ys })
          | (t, .error e) => .next (s.mutationEnd k r (t, .error e))
        | [] => .next (s.mutationEnd k r ((s.readDesc ag (tbPtr r.binding)).andThen fun t d =>
            (t.commitWork ag d (d.stripeOf r.key) w).andThen fun t _ => (t, .ok (true, w.ref))))

/-- NODE_READ_RETRY (R169): lookup number `i`, past its handle check (R159), reads its nodes again; after 64 invalid reads the Halyard
resolves it between two commits (DEDUCED, log 61). An acquire takes place again with the step (R191, R193, R365). -/
def execNodeReadRetry (s : State) : Host.Outcome State Fault Refusal :=
  match s.lookups[s.args.i]? with
  | none => .next s
  | some r =>
    let s1 := { s with lookups := removeAt s.lookups s.args.i }
    let ag := s1.reqAgent r
    let mid := s.committing r.part r.ctx r.binding
    let s2 := match r.acq with
      | some sc => s1.acquire r.core sc
      | none => s1
    let x := (s2.readDesc ag (tbPtr r.binding)).andThen fun t d => t.lookupIn ag r (decide (64 ≤ r.retries) && !mid) d
    .next (match x.2 with
      | .error .retry => { x.1 with lookups := x.1.lookups ++ [{ r with retries := r.retries + 1 }] }
      | y => x.1.tableEnd r y)

/-- Give the frames of a physical page back to their pool, zeroed (R62, R159): 64 KiB frames, those of a 2 MiB page one by
one (DESIGN CHOICE, log 6). -/
def State.poolReturn (s : State) (p : BitVec 2) (pa size : Nat) : State :=
  let key := physKey p pa
  { s with
    mem := s.mem.filter fun c => !(decide (key ≤ c.1) && decide (c.1 < key + size))
    held := s.held.filter fun h => !(decide (key ≤ h.addr) && decide (h.addr < key + size))
    cache := s.cache.filter fun c => !(decide (key ≤ 32 * c.sector) && decide (32 * c.sector < key + size))
    poison := s.poison.filter fun x => !(decide (key ≤ 32 * x) && decide (32 * x < key + size))
    poolBack := s.poolBack ++ (List.range (size / 65536)).map fun i => (poolId p (pa / 2 ^ 44), pa + 65536 * i) }

/-- Unmap the regions of a retiring table (R159) (DEDUCED, log 60). -/
def State.retire (s : State) (p : BitVec 2) (c : BitVec 6) (ptr : Nat) : State :=
  let ag : Agent := { part := p, ctx := c, engine := true }
  match s.readDesc ag ptr with
  | (s1, .error _) => s1
  | (s1, .ok d) =>
    if d.state ≠ 3 then s1
    else
      let leaves := fun (base size : Nat) => (s1.regionLeaves p c false (size / 65536) (base % 2 ^ 57) []).getD []
      let xs := leaves d.rowbase d.rowSize ++ leaves d.nodebase d.nodeSize
      let s2 := xs.foldl (fun t x =>
        if x.entry.testBit 0 then t.poolReturn p (bits x.entry 16 32 * 2 ^ 16) (if x.level = 2 then 2 ^ 21 else 2 ^ 16) else t) s1
      let s3 := s2.setLeaves xs fun x => if x.level = 2 then 2 else 0
      -- every granule of a 2 MiB page that held some of a region is unmapped with it
      let inside := fun (e : TlbEntry) (base size : Nat) =>
        let u := if e.big then 32 else 1
        let b := base % 2 ^ 57 / 65536
        decide (b / u ≤ e.granule / u) && decide (e.granule / u * u < b + size / 65536)
      let s4 := { s3 with tlb := s3.tlb.filter fun e =>
        !(e.part == p && e.ctx == c && (inside e d.rowbase d.rowSize || inside e d.nodebase d.nodeSize)) }
      match s4.hwWrite ag (ptr + 1) [0] with
      | (s5, _) => { s5 with descs := s5.descs.filter fun x => !(x.part == p && x.ctx == c && x.ptr == ptr) }

/-- TABLE_RETIRE (R159): retirement number `i`, once the mutations already received have committed. -/
def execTableRetire (s : State) : Host.Outcome State Fault Refusal :=
  match s.retiring[s.args.i]? with
  | none => .next s
  | some (p, c, ptr) =>
    let mine := fun (r : TableReq) => r.part == p && r.ctx == c && tbPtr r.binding == ptr
    if s.tableReqs.any mine || s.lookups.any mine then .next s
    else .next ({ s with retiring := removeAt s.retiring s.args.i }.retire p c ptr)

end Sys2Proof.Machine
end

