-- ==== Sys2Proof/Machine/Work.lean ====
section
/-! DEFINITION. Device queues and packing (R89 to R95): SPAWN, QPUSH, QPULL and QFLUSH (R295 to R299), and the flush of a
bin whose time has come. -/
namespace Sys2Proof.Machine

/-! ## Packing units (R92, R93) -/

/-- The endless launch of a packed queue (R93). -/
def State.packedLaunch (s : State) (p : BitVec 2) (c : BitVec 6) (desc : Word) : Option Launch :=
  s.launches.find? fun l => l.queue.isNone && l.part == p && l.ctx == c && l.desc == desc

/-- What a packed queue's descriptor says of its launch (R93). -/
def QDesc.launchRec (q : QDesc) : LaunchRec :=
  { idempotent := q.idempotent, prio := q.prio, dieMask := BitVec.ofNat 8 q.dieMask, tmpl := q.tmpl }

/-- Make sure that the queue has its launch, with the template and priority that its descriptor has now. -/
def State.ensureLaunch (s : State) (p : BitVec 2) (c : BitVec 6) (desc : Word) (q : QDesc) : State :=
  match s.packedLaunch p c desc with
  | some l => if l.record = q.launchRec then s else s.modLaunch l.id fun x => { x with record := q.launchRec, prio := q.prio }
  | none =>
    let l : Launch :=
      { id := s.nextId, part := p, ctx := c, record := q.launchRec, prio := q.prio, started := s.cycle, starve := s.cycle
        desc := desc }
    { s with nextId := s.nextId + 1, launches := s.launches ++ [l] }

/-- Items of a queue that stand in bins. -/
def State.binned (s : State) (p : BitVec 2) (c : BitVec 6) (desc : Word) : Nat :=
  ((s.bins.filter fun b => b.part == p && b.ctx == c && b.desc == desc).map fun b => b.args.length).foldl (· + ·) 0

/-- Items that have left their bins are taken: the descriptor's Head has come up to them (R89). -/
def State.raiseHead (s : State) (p : BitVec 2) (c : BitVec 6) (desc : Word) : State :=
  let ag : Agent := { part := p, ctx := c, engine := true }
  match s.hwRead ag (desc.toNat + 0x18) 16 with
  | (t, .ok b) =>
    let low := fieldOf b 8 8 - t.binned p c desc
    if low ≤ fieldOf b 0 8 then t else (t.hwWrite ag (desc.toNat + 0x18) (leBytes 8 low)).1
  | (t, .error _) => t

/-- Flush a bin into a packed warp, which waits for its placement. -/
def State.flushBin (s : State) (b : Bin) : State :=
  let s1 := ({ s with bins := s.bins.filter (· != b) }).raiseHead b.part b.ctx b.desc
  match s1.packedLaunch b.part b.ctx b.desc with
  | none => s1
  | some l => s1.modLaunch l.id fun x => { x with
      packed := x.packed ++ [(s.cycle, b.entry, b.args)]
      starve := if x.packed.isEmpty && x.relaunch.isEmpty then s.cycle else x.starve }

def State.flushWhere (s : State) (f : Bin → Bool) : State := (s.bins.filter f).foldl (fun t b => t.flushBin b) s

/-- The packing unit of a core's push (R92). -/
def State.packDie (s : State) (p : BitVec 2) (core mask : Nat) : Nat :=
  let m := if mask = 0 then (s.part p).dies.toNat else mask
  if m.testBit (dieOf core) then dieOf core else (diesOf m).headD 0

/-- The bin whose first item is the oldest. -/
def oldestBin : List Bin → Option Bin
  | [] => none
  | b :: bs => match oldestBin bs with
    | some x => if x.first < b.first then some x else some b
    | none => some b

/-- An accepted item enters its bin; with 32 items the bin is flushed, and with 32 bins in use the oldest (R92). -/
def State.binItem (s : State) (die : BitVec 2) (p : BitVec 2) (c : BitVec 6) (desc entry arg : Word) : State :=
  let mine := fun (b : Bin) => b.die == die && b.part == p && b.ctx == c && b.desc == desc && b.entry == entry
  match s.bins.find? mine with
  | some b =>
    let b1 := { b with args := b.args ++ [arg] }
    let s1 := { s with bins := s.bins.map fun x => if x = b then b1 else x }
    if 32 ≤ b1.args.length then s1.flushBin b1 else s1
  | none =>
    let here := s.bins.filter fun b => b.die == die
    let s1 := if here.length < 32 then s else match oldestBin here with
      | some b => s.flushBin b
      | none => s
    { s1 with bins := s1.bins ++ [⟨die, p, c, desc, entry, [arg], s.cycle, (s.ctx p c).flushNs⟩] }

/-! ## Requests to a queue's home slice (R90, R91, R295, R297) -/

/-- The home slice's view of a queue during one request; `full` once a lane has been refused. -/
structure QRun where
  st : State
  head : Nat
  tail : Nat
  dropped : Nat
  full : Bool := false
  run : LaneRun

/-- The bytes of an entry are counted for the core that pushes or pulls it (R415); what the home slice reads and writes of the
descriptor is its own (DESIGN CHOICE, log 1). -/
def State.countEntry (s : State) (ag : Agent) (p : Nat) (write : Bool) : State := s.countHw ag p 16 write

/-- A queue binding that serves an instruction of a kind. -/
def bindingFits (b : BitVec 128) (kind : Nat) : Bool := qbPtr b != 0 && qbKind b == kind

/-- Head of a packed queue: its items are taken at some moment between their acceptance and their flush, chosen freely
(DESIGN CHOICE, log 1 and log 23). -/
def State.packHead (s : State) (c : Issue) (desc : Word) (lane head tail : Nat) : Nat :=
  let low := max head (tail - s.binned c.g.part c.g.ctx desc)
  low + Config.pick s.free 14 lane 0 % (tail - low + 1)

/-- One lane's push (R295). -/
def QRun.push (x : QRun) (c : Issue) (q : QDesc) (desc entry arg : Word) (l pred : Nat) : QRun :=
  match x.run.faults.find? fun f => f.2.code != .queue with
  | some f => { x with run := { x.run with faults := x.run.faults ++ [(l, f.2)] } }
  | none =>
    let head := if q.kind = 0 then x.st.packHead c desc l x.head x.tail else x.head
    if x.full = false ∧ x.tail - head < 2 ^ q.logCap then
      let p := q.ring + 16 * (x.tail % 2 ^ q.logCap)
      match (x.st.countEntry (c.hw (some l)) p true).hwWrite (c.hw (some l)) p (leBytes 8 entry.toNat ++ leBytes 8 arg.toNat) with
      | (t, .ok _) =>
        let t1 := if q.kind = 0 then
            t.binItem (BitVec.ofNat 2 (t.packDie c.g.part c.w.core q.dieMask)) c.g.part c.g.ctx desc entry arg
          else t
        let r := x.run.addT c l (t1, .ok [(.pred l pred, 1)])
        { x with st := r.st, head := head, tail := x.tail + 1, run := r }
      | (t, .error e) =>
        let r := x.run.addT c l (t, .error e)
        { x with st := r.st, head := head, run := r }
    else
      let r := x.run.addT c l (x.st, .ok [(.pred l pred, 0)])
      { x with st := r.st, head := head, dropped := x.dropped + 1, full := true, run := r }

/-- Write the H fields back; the Head of a packed queue stands at least behind the items that have left their bins. -/
def State.queueBack (s : State) (ag : Agent) (kind desc : Nat) (x : QRun) : State :=
  let head := if kind = 0 then max x.head (x.tail - s.binned ag.part ag.ctx (BitVec.ofNat 64 desc)) else x.head
  (s.hwWrite ag (desc + 0x18) (leBytes 8 head ++ leBytes 8 x.tail ++ leBytes 8 x.dropped)).1

/-- A push instruction: entry pointers from `e` where it is SPAWN (R295, R296). -/
def State.pushes (s : State) (i : Instr) (sw : Bool) (u : Uses) (kind : Nat) (q : BitVec 3) (e : Option (BitVec 7)) (g : BitVec 7)
    (p : BitVec 3) : Host.Outcome State Fault Refusal :=
  s.issueWith i sw u fun c t =>
    let ls := u.left c
    let b := c.p.qbind q.toNat
    let desc := qbPtr b
    if ls.isEmpty then t.complete c
    else if bindingFits b kind = false then t.faultAt c .queue (maskOf ls) 0 q.toNat
    else t.releaseTo c (maskOf ls) 3 fun t1 =>
      match t1.hwRead (c.hw none) desc 64 with
      | (t2, .error e) => (ls.foldl (fun r l => r.addT c l (r.st, .error e)) { st := t2 : LaneRun }).finish c
      | (t2, .ok raw) =>
        let d := qdescOf raw
        let t3 := if d.kind = 0 then t2.ensureLaunch c.g.part c.g.ctx (BitVec.ofNat 64 desc) d else t2
        let x := ls.foldl (fun (x : QRun) l =>
          let en := match e with
            | some f => t.src c 0 l f.toNat 16
            | none => 0
          if e.isSome ∧ (en / 2 ^ 60 ≠ 3 ∨ en % 4 ≠ 0) then
            let r := x.run.addT c l (x.st, .error (.fault .queue 0 q.toNat))
            { x with st := r.st, run := r }
          else x.push c d (BitVec.ofNat 64 desc) (BitVec.ofNat 64 en) (BitVec.ofNat 64 (t.src c 1 l g.toNat 16)) l p.toNat)
          { st := t3, head := d.head, tail := d.tail, dropped := fieldOf raw 0x28 8, run := { st := t3 } : QRun }
        { x.run with st := x.st.queueBack (c.hw none) d.kind desc x }.finish c

def execSpawn (sw : Bool) (q : BitVec 3) (e g : BitVec 7) (p : BitVec 3) (s : State) : Host.Outcome State Fault Refusal :=
  let u : Uses := { orders := true, fits := [2], vs := [(e.toNat, 16), (g.toNat, 16)], src := [(e.toNat, 16), (g.toNat, 16)] }
  s.pushes (.spawn sw q e g p) sw u 0 q (some e) g p

def execQpush (sw : Bool) (q : BitVec 3) (g : BitVec 7) (p : BitVec 3) (s : State) : Host.Outcome State Fault Refusal :=
  let u : Uses := { orders := true, fits := [2], vs := [(g.toNat, 16)], src := [(g.toNat, 16)] }
  s.pushes (.qpush sw q g p) sw u 1 q none g p

/-- One lane's pull (R297); after a lane that faults the others are not served, and are named with it. -/
def QRun.pull (x : QRun) (c : Issue) (q : QDesc) (d : BitVec 7) (l pred : Nat) : QRun :=
  match x.run.faults.head? with
  | some f => { x with run := { x.run with faults := x.run.faults ++ [(l, f.2)] } }
  | none =>
    if x.head < x.tail then
      let p := q.ring + 16 * (x.head % 2 ^ q.logCap)
      match (x.st.countEntry (c.hw (some l)) p false).hwRead (c.hw (some l)) p 16 with
      | (t, .ok e) =>
        let r := x.run.addT c l (t, .ok [(c.dst l d.toNat 16, fieldOf e 8 8), (.pred l pred, 1)])
        { x with st := r.st, head := x.head + 1, run := r }
      | (t, .error e) =>
        let r := x.run.addT c l (t, .error e)
        { x with st := r.st, run := r }
    else
      let r := x.run.addT c l (x.st, .ok [(.pred l pred, 0)])
      { x with st := r.st, run := r }

/-- QPULL (R297); what it takes is acquired at PKG (R296) (DEDUCED, log 62). -/
def execQpull (sw : Bool) (q : BitVec 3) (d : BitVec 7) (p : BitVec 3) (s : State) : Host.Outcome State Fault Refusal :=
  let u : Uses := { orders := true, fits := [2], vs := [(d.toNat, 16)] }
  s.issueWith (.qpull sw q d p) sw u fun c t =>
    let ls := u.left c
    let b := c.p.qbind q.toNat
    let desc := qbPtr b
    if ls.isEmpty then t.complete c
    else if bindingFits b 1 = false then t.faultAt c .queue (maskOf ls) 0 q.toNat
    else
      match (t.acquire c.w.core 3).hwRead (c.hw none) desc 64 with
      | (t2, .error e) => (ls.foldl (fun r l => r.addT c l (r.st, .error e)) { st := t2 : LaneRun }).finish c
      | (t2, .ok raw) =>
        let k := qdescOf raw
        let x := ls.foldl (fun (x : QRun) l => x.pull c k d l p.toNat)
          { st := t2, head := k.head, tail := k.tail, dropped := fieldOf raw 0x28 8, run := { st := t2 } : QRun }
        { x.run with st := x.st.queueBack (c.hw none) k.kind desc x }.finish c

/-- QFLUSH (R298). -/
def execQflush (sw : Bool) (q : BitVec 3) (s : State) : Host.Outcome State Fault Refusal :=
  s.issueWith (.qflush sw q) sw {} fun c t =>
    let b := c.p.qbind q.toNat
    if qbPtr b = 0 then t.faultAt c .queue c.p.mask 0 q.toNat
    else if qbKind b ≠ 0 then t.complete c
    else (t.flushWhere fun x => x.part == c.g.part && x.ctx == c.g.ctx && x.desc == BitVec.ofNat 64 (qbPtr b)).complete c

/-- Bins whose first item is FLUSH_NS old, as that was when they were opened (R69, R92): 17 cycles are 10 ns. -/
def State.dueBins (s : State) : List Bin :=
  s.bins.filter fun b => decide (17 * b.flushNs ≤ 10 * (s.cycle - b.first))

/-- PACK_FLUSH_TIMEOUT (R92): bin number `i` of the device is flushed if its time has come. -/
def execPackFlushTimeout (s : State) : Host.Outcome State Fault Refusal :=
  match s.bins[s.args.i]? with
  | some b => .next (if s.dueBins.contains b then s.flushBin b else s)
  | none => .next s

end Sys2Proof.Machine
end

