-- ==== Sys2Proof/Machine/Placement.lean ====
section
/-! DEFINITION. The Mast: placement of workgroups on cores, drain and die reservations, and the release of resources (R73,
R78 to R88, R93). -/
namespace Sys2Proof.Machine

/-! ## What a core has free (R78, R84) -/

/-- Workgroups that occupy cores: those of the resident context of their partition (R108). -/
def State.onCores (s : State) (gid : Nat) : Bool :=
  match s.wg? gid with
  | some g => (s.part g.part).resident == some g.ctx
  | none => false

def sumOf (xs : List Nat) : Nat := xs.foldl (· + ·) 0

/-- Warps that hold their slot and registers on a core. -/
def State.holders (s : State) (core : Nat) : List Warp :=
  s.warps.filter fun w => w.core == core && w.reserved && s.onCores w.wg

/-- Free amounts of a core in the order of R78: slots, slice granules, tiles, shapes, scratchpad granules. -/
def State.coreFree (s : State) (core : Nat) : List Nat :=
  let ws := s.holders core
  let gs := s.wgs.filter fun g => g.core == core && s.onCores g.id
  let used := [ws.length, sumOf (ws.map fun w => w.slicesA / 32), sumOf (ws.map (·.tCount)), sumOf (ws.map (·.hCount)),
    sumOf (gs.map fun g => g.tmpl.demand.getD 4 0)]
  (coreCapacity.zip used).map fun x => x.1 - x.2

/-- Free accumulators of a quad. -/
def State.accsFree (s : State) (quad : Nat) : Nat :=
  quadAccs - sumOf ((s.warps.filter fun w => quadOf w.core == quad && w.accsReserved && s.onCores w.wg).map (·.cCount))

/-- Free warp slots of a core. -/
def State.slotsFree (s : State) (core : Nat) : Nat := (s.coreFree core).headD 0

/-- Can a core reserve everything of a template at once (R78, R80)? -/
def State.coreFits (s : State) (core : Nat) (t : Template) : Bool :=
  ((t.demand.zip (s.coreFree core)).all fun x => decide (x.1 ≤ x.2)) && decide (t.accDemand ≤ s.accsFree (quadOf core))

/-! ## Launches in the order of R81 -/

/-- Workgroups of a kernel's grid (R73). -/
def Launch.total (l : Launch) : Nat := if l.record.kind = 0 then l.record.gx * l.record.gy * l.record.gz else 0

/-- Has a launch workgroups left to place? -/
def Launch.more (l : Launch) : Bool :=
  !l.relaunch.isEmpty || (if l.queue.isNone then !l.packed.isEmpty else decide (l.nextWg < l.total))

/-- When a launch starts to age: a packed warp counts from its flush (R93). -/
def Launch.age (l : Launch) : Nat := match l.queue, l.packed with
  | none, x :: _ => x.1
  | _, _ => l.started

/-- Does R81 serve `a` before `b`? -/
def Launch.before (a b : Launch) : Bool :=
  if a.prio ≠ b.prio then decide (b.prio < a.prio)
  else if a.age ≠ b.age then decide (a.age < b.age)
  else decide (a.id < b.id)

/-- Insert into a list in the order of R81. -/
def insertLaunch (l : Launch) : List Launch → List Launch
  | [] => [l]
  | x :: xs => if l.before x then l :: x :: xs else x :: insertLaunch l xs

/-- Does the Mast of a partition place now: a context is resident, and neither it nor the partition is stopping (R110,
R111)? -/
def State.placing (s : State) (p : BitVec 2) : Option (BitVec 6) :=
  let x := s.part p
  match x.resident with
  | some c => if x.switch = .none ∧ x.state = 2 ∧ x.raised.isNone ∧ (s.ctx p c).raised.isNone then some c else none
  | none => none

/-- Launches of a partition that have workgroups left to place, in the order of R81, which is found anew at every placement: a launch whose
priority has risen past the one being served comes first (DEDUCED, log 92). -/
def State.placeOrder (s : State) (p : BitVec 2) : List Launch :=
  match s.placing p with
  | none => []
  | some c => (s.launches.filter fun l => l.part == p && l.ctx == c && l.more).foldl (fun a l => insertLaunch l a) []

/-! ## Eligible cores (R80, R82, R87) -/

/-- Cores of a mask of dies, ascending. -/
def coresOf (dies : Nat) : List Nat := (List.range 128).filter fun k => dies.testBit (dieOf k)

/-- Dies of a launch. -/
def State.launchDies (s : State) (l : Launch) : Nat :=
  let all := (s.part l.part).dies.toNat
  if l.record.dieMask = 0 then all else l.record.dieMask.toNat &&& all

/-- Is a core closed to a launch by another's reservation: one of equal or higher effective priority (R82, R87)? R80 leaves out the core of
a drain reservation without saying to whom; R82 is followed (DEDUCED, log 92). -/
def State.closed (s : State) (l : Launch) (core : Nat) : Bool :=
  s.reservations.any fun r =>
    r.launch != l.id && r.die.toNat == dieOf core && (r.core.isNone || r.core == some core) &&
    match s.launch? r.launch with
    | some k => decide (l.prio ≤ k.prio)
    | none => false

def State.eligible (s : State) (l : Launch) : List Nat := (coresOf (s.launchDies l)).filter fun k => !s.closed l k

/-! ## The next workgroup of a launch -/

/-- What is placed next: a number, a packed warp's entry point and items, or a workgroup lost and placed again. -/
structure NextWg where
  num : BitVec 32
  /-- place in its block, and whether its block is claimed -/
  n : Nat
  items : List (Word × Word) := []
  losses : Nat := 0
  /-- the core that a lost workgroup was on -/
  was : Option Nat := none
  deriving DecidableEq, Repr

/-- Lost workgroups come first (DEDUCED, log 27), then the numbers in ascending order (R73, R93). -/
def Launch.next (l : Launch) : Option NextWg :=
  match l.relaunch with
  | r :: _ => some { num := r.num, n := 0, items := r.items, losses := r.losses, was := some r.core }
  | [] =>
    match l.queue, l.packed with
    | none, (_, e, args) :: _ =>
      some { num := BitVec.ofNat 32 l.nextWg, n := l.nextWg, items := args.map fun a => (e, a) }
    | none, [] => none
    | some _, _ => if l.nextWg < l.total then some { num := BitVec.ofNat 32 l.nextWg, n := l.nextWg } else none

/-- Cores on which the next workgroup may be placed, before its demand is weighed (R80, R82, R86). A lost workgroup stays
on its block's die, and under COOP_QUAD on its core (DEDUCED, log 27). -/
def State.candidateCores (s : State) (l : Launch) (x : NextWg) : List Nat :=
  let es := s.eligible l
  match x.was with
  | some k => es.filter fun c => if l.record.coopQuad then c == k else dieOf c == dieOf k
  | none => match l.blockDie with
    | some d => if x.n % 4 = 0 then es else es.filter fun c => dieOf c == d.toNat
    | none => es

/-- The core with the most free warp slots, ties to the lowest number (R80). -/
def State.roomiest (s : State) : List Nat → Option Nat
  | [] => none
  | k :: ks => match s.roomiest ks with
    | some b => if s.slotsFree k < s.slotsFree b then some b else some k
    | none => some k

/-! ## Placing (R79, R83, R93) -/

/-- The lowest free slot of slot-group `g`, or of the next one upward that has one (R79). -/
def freeSlot (used : List Nat) (g : Nat) : Option Nat :=
  (List.range 4).findSome? fun k =>
    let q := (g + k) % 4
    ((List.range 128).map fun i => 128 * q + i).find? fun i => !used.contains i

/-- Slots for `n` warps from slot-group `g` on. -/
def slotsFor : Nat → List Nat → Nat → List Nat
  | 0, _, _ => []
  | n + 1, used, g => match freeSlot used g with
    | some i => i :: slotsFor n (i :: used) ((g + 1) % 4)
    | none => []

/-- The slot-group with the most free slots, the lowest on a tie (R79). -/
def firstGroup (used : List Nat) : Nat :=
  let n := fun g => (used.filter fun i => slotGroup i == g).length
  [1, 2, 3].foldl (fun b g => if n g < n b then g else b) 0

/-- The registers of a new warp (R62, R93, R124, R232). -/
def startLanes (items : List (Word × Word)) : List Lane :=
  (List.range 32).map fun l => { slices := BitVec.ofNat 4096 (items.getD l (0, 0)).2.toNat }

/-- A new warp (R101, R115). The header's launch priority is the record's (DEDUCED, log 27). -/
def startWarp (l : Launch) (x : NextWg) (core gid id slot num : Nat) (serial : Word) (now : Nat) : Warp :=
  let t := l.record.tmpl
  let pc := (x.items.headD (l.record.entry, 0)).1
  let mask : BitVec 32 := if l.queue.isNone then BitVec.ofNat 32 (2 ^ x.items.length - 1) else 0xFFFFFFFF
  let w : Warp :=
    { id := id, core := core, slot := slot, wg := gid, num := num, serial := serial, slicesA := t.slices, tCount := t.tiles,
      cCount := t.accs, hCount := t.shapes, prio := l.record.prio, lanes := startLanes x.items,
      splits := [some { pc := pc, mask := mask, since := now }, none, none, none],
      tiles := List.replicate t.tiles 0, accs := List.replicate t.accs 0, shapes := List.replicate t.shapes 0 }
  let seed := BitVec.ofNat 64 (mix64 serial.toNat)
  { w with seed := seed, lanes := (List.range 32).map fun l => { w.lane l with sr := streamStart seed l } }

/-- Place one workgroup on a core (R78, R79, R83): its storage is zero, its prologue begins, and its warps are ready at
once where it has none. A die in PS2 wakes (R36). -/
def State.putWg (s : State) (l : Launch) (x : NextWg) (core : Nat) : State :=
  let t := l.record.tmpl
  let gid := s.nextId
  let used := (s.holders core).map (·.slot)
  let slots := slotsFor t.warps used (firstGroup used)
  let first := (s.ctx l.part l.ctx).serials
  let ws := (List.range t.warps).map fun i =>
    startWarp l x core gid (gid + 1 + i) (slots.getD i 0) i (BitVec.ofNat 64 (first + 1 + i)) (s.cycle + 1)
  let g : Workgroup :=
    { id := gid, launch := l.id, part := l.part, ctx := l.ctx, num := x.num, core := core, tmpl := t, coopQuad := l.record.coopQuad,
      prologue := (nextBinding l.record.bindings 0).map fun b => (b, 0), live := t.warps, started := s.cycle, items := x.items,
      losses := x.losses }
  let s1 := (s.modCtx l.part l.ctx fun c => { c with serials := c.serials + t.warps })
  -- a packed warp's first instruction acquires what its items released (R193)
  let s2 := if l.queue.isNone then s1.dropCache core else s1
  { s2 with nextId := gid + 1 + t.warps, wgs := s2.wgs ++ [g], warps := s2.warps ++ ws, ps2 := s2.ps2 &&& ~~~(1#4 <<< dieOf core) }

/-- The launch's books after its next workgroup has been placed on a core (R80 to R82). -/
def Launch.placed (l : Launch) (x : NextWg) (core now : Nat) : Launch :=
  let l1 := { l with live := l.live + 1, noCore := none, starve := now }
  match x.was with
  | some _ => { l1 with relaunch := l.relaunch.drop 1 }
  | none =>
    { l1 with
      nextWg := l.nextWg + 1
      packed := l.packed.drop 1
      blockDie := if x.n % 4 = 3 then none else some (BitVec.ofNat 2 (dieOf core)) }

/-- The cycle at which a launch's starvation timer stands: now, or, while its context is swapped out, when that left (R81, R112). -/
def State.timerAt (s : State) (k : Launch) : Nat :=
  if (s.part k.part).resident = some k.ctx then s.cycle else (s.ctx k.part k.ctx).lastResident

/-- Launches of the partition that wait while another places rise in priority once their starvation timer reads 1 ms (R81). -/
def State.ageOthers (s : State) (l : Launch) : State :=
  { s with launches := s.launches.map fun k =>
      let now := s.timerAt k
      if k.id ≠ l.id ∧ k.part = l.part ∧ k.more ∧ 1000 * Config.cyclesPerUs ≤ now - k.starve ∧ k.prio < 7 then
        { k with prio := k.prio + 1, starve := now }
      else k }

/-- Place one workgroup of a launch and keep its books; a drain reservation of the core for it ends (R82). -/
def State.placeOn (s : State) (l : Launch) (x : NextWg) (core : Nat) : State :=
  let s1 := (s.putWg l x core).modLaunch l.id fun k => k.placed x core s.cycle
  let s2 : State := { s1 with reservations := s1.reservations.filter fun r => !(r.launch == l.id && r.core == some core) }
  s2.ageOthers l

/-- The core that a launch's drain reservation holds (R82). -/
def State.drained (s : State) (l : Launch) : Option Nat :=
  (s.reservations.find? fun r => r.launch == l.id && r.core.isSome).bind (·.core)

/-- The core that is reserved for the next workgroup of a launch: none where the reservation was made for another of its workgroups, one
that may go there. -/
def State.reservedFor (s : State) (l : Launch) (x : NextWg) : Option Nat :=
  match s.drained l with
  | some k => if (s.candidateCores l x).contains k then some k else none
  | none => none

/-- Place the next workgroup: on the core of its drain reservation and on no other, once it fits (R82), or, with none, by R80 (DEDUCED,
log 27). -/
def State.placeSingle (s : State) (l : Launch) (x : NextWg) : Option State :=
  match s.reservedFor l x with
  | some k => if s.coreFits k l.record.tmpl then some (s.placeOn l x k) else none
  | none => (s.roomiest ((s.candidateCores l x).filter fun k => s.coreFits k l.record.tmpl)).map fun k => s.placeOn l x k

/-- The cores of a quad that a group of `n` workgroups takes (R86). -/
def quadCores (quad n : Nat) : List Nat := (List.range n).map fun j => 4 * quad + j

/-- Place a COOP_QUAD group whole (R86): on the quad of its drain reservation (R82), or, with none, of the roomiest core among those of
quads that hold all of it (DEDUCED, log 27). -/
def State.placeGroup (s : State) (l : Launch) (x : NextWg) : Option State :=
  let n := min 4 (l.total - l.nextWg)
  let es := s.candidateCores l x
  let open_ := s.eligible l
  let fits := fun (q : Nat) =>
    let ks := quadCores q n
    (ks.all fun k => open_.contains k && s.coreFits k l.record.tmpl) && (ks.any fun k => es.contains k) &&
      decide (n * l.record.tmpl.accDemand ≤ s.accsFree q)
  let quads := match s.reservedFor l x with
    | some k => [quadOf k]
    | none => List.range 32
  match s.roomiest ((quads.filter fits).flatMap fun q => quadCores q n) with
  | none => none
  | some k =>
    (quadCores (quadOf k) n).foldl (fun (o : Option State) c => match o with
      | none => none
      | some t => match t.launch? l.id with
        | some m => m.next.map fun y => t.placeOn m y c
        | none => none) (some s)

/-- Place every workgroup that a COOP_DIE launch still has, or none (R87). The fuel is their number. -/
def State.placeAll : Nat → Nat → State → Option State
  | 0, _, s => some s
  | n + 1, id, s =>
    match s.launch? id with
    | none => none
    | some l => match l.next with
      | none => some s
      | some x => match s.placeSingle l x with
        | some t => State.placeAll n id t
        | none => none

/-- Place what a launch places in one step: its next workgroup, a COOP_QUAD group, or a COOP_DIE launch whole, whose
reservation ends. -/
def State.placeNext (s : State) (l : Launch) : Option State :=
  match l.next with
  | none => none
  | some x =>
    if x.was.isSome then s.placeSingle l x
    else if l.record.coopQuad then s.placeGroup l x
    else if l.record.coopDie then
      if 65536 < l.total then none
      else (State.placeAll (l.total - l.nextWg) l.id s).map fun t =>
        { t with reservations := t.reservations.filter fun r => r.launch != l.id }
    else s.placeSingle l x

/-- The first launch in an order that places something. -/
def State.placeFirst (s : State) : List Launch → Option State
  | [] => none
  | l :: ls => match s.placeNext l with
    | some t => some t
    | none => s.placeFirst ls

/-- R82's time runs, for every launch of the order, while its next workgroup finds no core. -/
def State.noteStuck (s : State) (p : BitVec 2) : State :=
  (s.placeOrder p).foldl (fun t l => t.modLaunch l.id fun k =>
    { k with noCore := if (s.placeNext l).isSome then none else if k.noCore.isSome then k.noCore else some s.cycle }) s

/-- WORKGROUP_PLACE (R80 to R83): the Mast of partition `p` places what comes first in the order of R81 and fits. -/
def execWorkgroupPlace (s : State) : Host.Outcome State Fault Refusal :=
  let s1 := s.noteStuck s.args.p
  .next ((s1.placeFirst (s1.placeOrder s.args.p)).getD s1)

/-! ## Reservations (R82, R87) -/

/-- Is the first ratio of free to demanded amounts less than the second? -/
def ratioLt (a b : Nat × Nat) : Bool := decide (a.1 * b.2 < b.1 * a.2)

/-- The least ratio of free to demanded amount over what a template demands, accumulators at the core's quad (R82). -/
def State.coreRatio (s : State) (core : Nat) (t : Template) : Nat × Nat :=
  let xs := ((s.coreFree core).zip t.demand ++ [(s.accsFree (quadOf core), t.accDemand)]).filter fun x => x.2 != 0
  xs.foldl (fun a b => if ratioLt b a then b else a) (xs.headD (0, 1))

/-- The core with the greatest such ratio, ties to the lowest number. -/
def State.bestRatio (s : State) (t : Template) : List Nat → Option Nat
  | [] => none
  | k :: ks => match s.bestRatio t ks with
    | some b => if ratioLt (s.coreRatio k t) (s.coreRatio b t) then some b else some k
    | none => some k

/-- Does a die hold a reservation of either kind? -/
def State.dieReserved (s : State) (d : Nat) : Bool := s.reservations.any fun r => r.die.toNat == d

/-- The launch of a partition that is to set a drain reservation: the first in the order, without a core for 100 µs (R82). A COOP_DIE
launch that is to be placed whole takes its dies by R87 and holds nothing else; its lost workgroups are placed one by one. -/
def State.drainDue (s : State) (p : BitVec 2) : Option (Launch × NextWg) :=
  match s.placeOrder p with
  | [] => none
  | l :: _ =>
    match l.noCore, l.next with
    | some t, some x =>
      if 100 * Config.cyclesPerUs ≤ s.cycle - t ∧ (s.reservedFor l x).isNone ∧ (l.record.coopDie = false ∨ x.was.isSome) then some (l, x) else none
    | _, _ => none

/-- DRAIN_RESERVATION (R82) in partition `p`. The cores weighed are those of dies that hold no reservation (DESIGN CHOICE, log
86). For a COOP_QUAD group the core is one of the rank of its next workgroup (DEDUCED, log 27). -/
def execDrainReservation (s : State) : Host.Outcome State Fault Refusal :=
  match s.drainDue s.args.p with
  | none => .next s
  | some (l, x) =>
    let ks := (s.candidateCores l x).filter fun k =>
      !s.dieReserved (dieOf k) && (!l.record.coopQuad || rankOf k == x.n % 4 || x.was.isSome)
    match s.bestRatio l.record.tmpl ks with
    | none => .next s
    | some k => .next { s with reservations := s.reservations ++ [⟨BitVec.ofNat 2 (dieOf k), l.id, some k⟩] }

/-- The COOP_DIE launch of a partition that takes its dies next: the first in the order that waits and holds none (R87). -/
def State.coopDue (s : State) (p : BitVec 2) : Option Launch :=
  ((s.placeOrder p).find? fun l =>
    l.record.coopDie && l.relaunch.isEmpty && !(s.reservations.any fun r => r.launch == l.id)).bind fun l =>
    if (diesOf (s.launchDies l)).any (fun d => s.dieReserved d) || (s.placeNext l).isSome then none else some l

/-- COOP_DIE_RESERVE (R87) in partition `p`. -/
def execCoopDieReserve (s : State) : Host.Outcome State Fault Refusal :=
  match s.coopDue s.args.p with
  | none => .next s
  | some l =>
    .next { s with reservations := s.reservations ++ (diesOf (s.launchDies l)).map fun d => ⟨BitVec.ofNat 2 d, l.id, none⟩ }

/-! ## Release (R84) -/

/-- Has every MMA that a warp issued completed? -/
def State.mmasDone (s : State) (w : Warp) : Bool := !(s.jobs.any fun j => j.kind == .mma && j.warp == w.id)

/-- Has a workgroup ended: every warp exited, and every engine operation complete (R70, R84)? -/
def State.wgOver (s : State) (g : Workgroup) : Bool :=
  ((s.warpsOf g.id).all fun w => w.exited) && !(s.jobs.any fun j => j.wg == g.id)

/-- Forget a workgroup, its warps and what waits for them; its launch counts it as ended. What it has left in a retired-warp ring stays
there until its rung takes it (R211). -/
def State.removeWg (s : State) (g : Workgroup) : State :=
  let mine := fun (wid : Nat) => (s.warp? wid).any fun w => w.wg == g.id
  let s := s.dropReqs fun r => mine r.warp
  { s.modLaunch g.launch fun l => { l with live := l.live - 1 } with
    wgs := s.wgs.filter fun x => x.id != g.id
    warps := s.warps.filter fun w => w.wg != g.id
    latch := s.latch.filter fun e => !mine e.warp
    exts := s.exts.filter fun r => !(if r.use = 7 then r.job == g.id else r.use != 3 && r.use != 6 && mine r.warp) }

/-- With no workgroup left no overwritten word can be fetched. -/
def State.dropStale (s : State) : State := if s.wgs.isEmpty then { s with stale := [] } else s

/-- Is there something of a warp to release (R84)? -/
def State.releasable (s : State) (w : Warp) : Bool := w.exited && (w.reserved || (w.accsReserved && s.mmasDone w))

/-- RESOURCE_RELEASE (R84): of warp `i`, or with `flag` of workgroup `i`, whatever its state allows. -/
def execResourceRelease (s : State) : Host.Outcome State Fault Refusal :=
  if s.args.flag then
    match s.wg? s.args.i with
    | none => .next s
    | some g => .next (if s.wgOver g then (s.removeWg g).dropStale else s)
  else
    match s.warp? s.args.i with
    | none => .next s
    | some w =>
      .next (if w.exited then
          s.modWarp w.id fun x => { x with reserved := false, accsReserved := x.accsReserved && !s.mmasDone w }
        else s)

end Sys2Proof.Machine
end

