-- ==== Sys2Proof/Machine/Lifetime.lean ====
section
/-! DEFINITION. The lifetime record (R66): what the base die counts between appends, the blocks in the serial flash, appending and
merging, and the read window. -/
namespace Sys2Proof.Machine

/-! ## Counts -/

/-- One more in a table of counts. -/
def addOne (m : Sparse Nat) (unit : Nat) : Sparse Nat := Sparse.set 0 m unit (Sparse.get 0 m unit + 1)

/-- Count an ECC error of a memory package, 0 to 63, or of an SRAM macro, from 64 on (R17, R66). -/
def State.noteEcc (s : State) (uncorrected : Bool) (unit : Nat) : State :=
  let l := s.lifeNow
  { s with lifeNow :=
      if uncorrected then { l with eccUncorrected := addOne l.eccUncorrected unit } else { l with eccCorrected := addOne l.eccCorrected unit } }

/-- Count a retrain of a link (R25, R66): Stay ports from 0, CXL ports from 32, the host link 64 (DESIGN CHOICE, log 32). -/
def State.noteRetrain (s : State) (unit : Nat) : State :=
  let l := s.lifeNow
  { s with lifeNow := { l with retrains := addOne l.retrains unit } }

/-- Time since the last append as hours with 32 fraction bits (DESIGN CHOICE, log 32). -/
def lifeHours (cycles : Nat) : Nat := cycles * 2 ^ 32 / (3600000000 * Config.cyclesPerUs)

/-- Hours of each die in bins of 5 °C with those since the last append at the temperature read now (R38, R66; DESIGN CHOICE, log 32). -/
def State.thermalTime (s : State) : Sparse Nat :=
  (List.range 4).foldl (fun m d =>
    let t := (Config.sensor s.free d).toInt
    let bin := 4096 * d + (t / 80 + 1024).toNat
    Sparse.set 0 m bin (Sparse.get 0 m bin + lifeHours (s.cycle - s.lifeAt))) s.lifeNow.thermalHours

/-! ## Entries -/

/-- Units that a table of counts names. -/
def unitsOf (m : Sparse Nat) : List Nat := m.map (·.1)

/-- The entries that hold counts (R66), with those of the anti-rollback counters. -/
def LifeCounts.entries (x : LifeCounts) (fw cfg : Nat) : List LifeEntry :=
  ((unitsOf x.eccCorrected ++ unitsOf x.eccUncorrected).eraseDups.map fun u =>
    ⟨.ecc, u, Sparse.get 0 x.eccCorrected u, Sparse.get 0 x.eccUncorrected u⟩) ++
  (x.thermalHours.map fun e => ⟨.thermal, e.1, e.2, 0⟩) ++
  (x.retrains.map fun e => ⟨.link, e.1, e.2, 0⟩) ++
  (if x.relaunches = 0 then [] else [⟨.relaunch, 0, x.relaunches, 0⟩]) ++
  (x.splitStorms.map fun e => ⟨.storm, e.1, e.2, 0⟩) ++
  [⟨.rollback, 0, fw, cfg⟩]

/-- An entry's number of its kind. -/
def LifeKind.code : LifeKind → Nat
  | .ecc => 1
  | .thermal => 2
  | .link => 3
  | .relaunch => 4
  | .storm => 5
  | .rollback => 6

/-- The 64 bytes of an entry (R66; DESIGN CHOICE, log 32). -/
def LifeEntry.bytes (e : LifeEntry) : List Byte :=
  leBytes 1 e.kind.code ++ leBytes 15 e.unit ++ leBytes 8 e.a ++ leBytes 8 e.b ++ List.replicate 32 0

/-- Entries with another one taken in: the counts of one kind and unit add up, and an anti-rollback counter is the greater. -/
def addEntry (es : List LifeEntry) (e : LifeEntry) : List LifeEntry :=
  if es.any fun x => x.kind == e.kind && x.unit == e.unit then
    es.map fun x =>
      if x.kind = e.kind ∧ x.unit = e.unit then
        (if e.kind = .rollback then { x with a := max x.a e.a, b := max x.b e.b } else { x with a := x.a + e.a, b := x.b + e.b })
      else x
  else es ++ [e]

/-- The totals over blocks. -/
def totals (bs : List LifeBlock) : List LifeEntry := (bs.flatMap (·.entries)).foldl addEntry []

/-! ## Blocks -/

/-- What a block's signature covers: its 60 entries, unused ones zero, its number and the range that it stands for (R66). -/
def blockText (seq first last : Nat) (es : List LifeEntry) : List Byte :=
  (es.flatMap LifeEntry.bytes ++ List.replicate 3840 0).take 3840 ++ leBytes 8 seq ++ leBytes 8 first ++ leBytes 8 last

/-- A signed block. -/
def signedBlock (seq first last : Nat) (es : List LifeEntry) : LifeBlock :=
  ⟨seq, first, last, es, Config.signature (blockText seq first last es)⟩

/-- The 4 KiB of a block (R66; DESIGN CHOICE, log 32). -/
def LifeBlock.bytes (b : LifeBlock) : List Byte :=
  (blockText b.seq b.first b.last b.entries ++ b.signature ++ List.replicate 256 0).take 4096

/-- Entries cut into blocks of 60, numbered from `seq` on. The fuel is the number of entries. -/
def lifeBlocks : Nat → Nat → List LifeEntry → List LifeBlock
  | 0, _, _ => []
  | n + 1, seq, es =>
    if es.isEmpty then [] else signedBlock seq seq seq (es.take 60) :: lifeBlocks n (seq + 1) (es.drop 60)

/-- The merge (R66): the most of the oldest blocks whose totals one block holds stand in a summary block, which is written, into the
reserve, before they are erased; it bears the number of the newest of them (DESIGN CHOICE, log 32). -/
def mergeLife (bs : List LifeBlock) : List LifeBlock :=
  match (List.range bs.length).reverse.find? fun n => decide ((totals (bs.take (n + 1))).length ≤ 60) with
  | some n =>
    match bs.head?, bs[n]? with
    | some a, some b => signedBlock b.last a.first b.last (totals (bs.take (n + 1))) :: bs.drop (n + 1)
    | _, _ => bs
  | none => bs

/-- The counts are appended as signed blocks (R66): a log that they would fill past 100 % is merged first, and 90 % sets a cause bit. Where
the merge makes no room the counts stay in the base die (DESIGN CHOICE, log 32). -/
def State.appendLife (s : State) : State :=
  let es := { s.lifeNow with thermalHours := s.thermalTime }.entries s.fwRollback.toNat s.cfgRollback.toNat
  let new := lifeBlocks es.length (s.lifeSeq + 1) es
  let old := if s.lifeCap < s.life.length + new.length then mergeLife s.life else s.life
  if s.lifeCap < old.length + new.length then s
  else
    let s1 : State := { s with life := old ++ new, lifeNow := {}, lifeSeq := s.lifeSeq + new.length, lifeAt := s.cycle }
    if 10 * s.life.length < 9 * s.lifeCap ∧ 9 * s.lifeCap ≤ 10 * s1.life.length then s1.raiseEvt 8 else s1

/-- LIFETIME_APPEND (R66). -/
def execLifetimeAppend (s : State) : Host.Outcome State Fault Refusal := .next s.appendLife

/-! ## The read window (R40) -/

/-- A word of the read window: 16 blocks in a row, from one that the manual does not name (DESIGN CHOICE, log 1, pick 26). -/
def State.lifeRead (s : State) (off : Nat) : Nat :=
  let from_ := Config.pick s.free 26 0 0 % (s.life.length - 15)
  match s.life[from_ + off / 4096]? with
  | some b => leNat ((b.bytes.drop (off % 4096)).take 8)
  | none => (Config.lifeWord s.free off).toNat

end Sys2Proof.Machine
end

