-- ==== Sys2Proof/Machine/Power.lean ====
section
/-! DEFINITION. Boot and reset of the device (R63, R64, R38), its power states (R35 to R38), and the closing of peer sessions
that goes with them (R29, R37). -/
namespace Sys2Proof.Machine

/-! ## Sessions -/

/-- Close a session entry: its generation stays (R29), and the peer is told, on the plane of address 0 (DESIGN CHOICE, log 8). -/
def State.closeSession (s : State) (p : BitVec 2) (i : Nat) : State :=
  let x := (s.part p).session i
  let s1 := s.modSession p i fun x => { x with state := 0, open_ := false }
  if x.state = 1 ∨ x.state = 2 then
    match s.plane (BitVec.ofNat 8 i) 0 with
    | some pl => s1.sendMsg pl (BitVec.ofNat 8 i) 2 x.gen (.closeSession x.part)
    | none => s1
  else s1

/-- Close every session of a partition. -/
def State.closeSessions (s : State) (p : BitVec 2) : State :=
  (s.part p).sessions.foldl (fun t e => t.closeSession p e.1) s

/-! ## Reset (R38, R63, R64) -/

/-- The device with nothing but what survives a loss of power: the serial flash, the lifetime record, and the world outside.
The model's own counters go on (DESIGN CHOICE, log 2). -/
def State.cold (s : State) : State :=
  { State.reset with
    agenda := s.agenda, turn := s.turn, free := s.free, draws := s.draws
    flashFw := s.flashFw, flashCfg := s.flashCfg, life := s.life, lifeSeq := s.lifeSeq, lifeCap := s.lifeCap
    fwRollback := s.fwRollback, cfgRollback := s.cfgRollback, irqs := s.irqs, host := s.host, hostDead := s.hostDead
    cxlPorts := s.cxlPorts.map fun x => { x with state := if x.state = 0 then 0 else 2 } }

/-- The greater of two versions. -/
def maxVersion (a b : BitVec 32) : BitVec 32 := if a < b then b else a

/-- A figure held within two bounds. -/
def wattsIn (lo hi w : BitVec 16) : BitVec 16 := if w < lo then lo else if hi < w then hi else w

/-- Boot stops at a stage (R64): the last stage completed, and the cause. -/
def State.bootFails (s : State) (done : BitVec 3) (err : BitVec 8) : State :=
  { s with bootStage := done, bootErr := err }.raiseEvt 6

/-- What the configuration image sets (R63): the highest power, the enabled dies, the clock limits, at which the dies then run, the
widths of the CXL ports, and which Stay ports have their plane (R22). -/
def State.configure (s : State) (cfg : List Byte) : State :=
  let w := wattsIn 800 3300 (Config.imageWatts cfg)
  let clk := (List.range 4).map fun d => wattsIn 800 1700 (Config.imageClock cfg d)
  { s with
    capMax := w, pwrCap := w, dieOn := Config.imageDies cfg, clkMax := clk, clk := clk
    cxlPorts := (List.range 8).map fun i =>
      let x := s.cxlPorts.getD i {}
      { x with lanes := if x.state = 0 then 0 else Config.imageLanes cfg i }
    planes := (List.range 18).map fun i => if Config.imagePlane cfg i then i else 18 }

/-- The five boot stages (R63) of a device that has been reset: an accepted image raises its anti-rollback counter (R42). -/
def State.boot (s : State) : State :=
  let fw := s.flashFw
  let cfg := s.flashCfg
  let fv := Config.imageVersion false fw
  if Config.imageGood false fw = false then s.bootFails 0 1
  else if fv < s.fwRollback then s.bootFails 0 2
  else
    let s1 := { s with fwVersion := fv, fwRollback := maxVersion s.fwRollback fv }
    let cv := Config.imageVersion true cfg
    if Config.imageGood true cfg = false then s1.bootFails 1 3
    else if cv < s1.cfgRollback then s1.bootFails 1 4
    else
      let s2 := { s1.configure cfg with cfgVersion := cv, cfgRollback := maxVersion s1.cfgRollback cv }
      match Config.training s.free % 3 with
      | 1 => s2.bootFails 3 5
      | 2 => s2.bootFails 3 6
      | _ => { s2 with bootStage := 5, bootErr := 0 }

/-- A DEVICE-rung reset (R38, R218): every context is lost, and the device boots. What the lifetime record has counted since
its last append stays. -/
def State.deviceReset (s : State) : State := { s.cold with lifeNow := { s.lifeNow with thermalHours := s.thermalTime } }.boot

/-- DEVICE_RESET (R63). -/
def execDeviceReset (s : State) : Host.Outcome State Fault Refusal := .next (if s.off then s.cold.boot else s.deviceReset)

/-- POWER_LOSS (R36): Off holds nothing. With `flag` the host shuts the device down in order, and the counts are appended first; else
what was counted since the last append is lost (R66). -/
def execPowerLoss (s : State) : Host.Outcome State Fault Refusal :=
  .next { (if s.args.flag then s.appendLife else s).cold with off := true }

/-! ## PS1 (R36 to R38) -/

/-- The package power that may not be exceeded (R43). -/
def State.powerCap (s : State) : Nat := (wattsIn 800 s.capMax s.pwrCap).toNat

/-- Arithmetic clock of a die in MHz. -/
def State.clock (s : State) (d : Nat) : BitVec 16 := s.clk.getD d 1700

/-- The clock of a die in the thermal cap alone: one step below its limit. -/
def State.cappedClock (s : State) (d : Nat) : BitVec 16 := wattsIn 800 (s.clkMax.getD d 1700) (s.clkMax.getD d 1700 - 100)

/-- The clock limit of a die, at which it runs uncapped (R36, R63). -/
def State.fullClock (s : State) (d : Nat) : BitVec 16 := s.clkMax.getD d 1700

/-- Set a die's clock. -/
def State.setClock (s : State) (d : Nat) (mhz : BitVec 16) : State := { s with clk := modifyAt (fun _ => mhz) s.clk d }

/-- A clock one step of 100 MHz lower, and no lower than 0.8 GHz (R36). -/
def stepDown (c : BitVec 16) : BitVec 16 := if c.toNat < 900 then 800 else c - 100

/-- POWER_CAP_STEP (R36): the package draws `val` watts; above the cap the clock of a die steps down by 100 MHz, down to 0.8
GHz, and with room it steps up again. A die is in PS1 while its clock is lowered (DESIGN CHOICE, log 28). -/
def execPowerCapStep (s : State) : Host.Outcome State Fault Refusal :=
  let d := s.args.die.toNat
  let w := BitVec.ofNat 16 s.args.val.toNat
  let bit : BitVec 4 := 1#4 <<< d
  .next (
    if s.powerCap < w.toNat then
      if s.clock d ≤ 800 then s else { s.setClock d (stepDown (s.clock d)) with ps1Cap := s.ps1Cap ||| bit }
    else if s.ps1Cap.getLsbD d then
      let up := s.clock d + 100
      if s.fullClock d ≤ up then
        { s.setClock d (if s.ps1Heat.getLsbD d then s.cappedClock d else s.fullClock d) with ps1Cap := s.ps1Cap &&& ~~~bit }
      else s.setClock d up
    else s)

/-- THERMAL_LIMIT_105 (R38): at a junction temperature of `val` sixteenths of a degree the die enters PS1, at least one step below full clock (DESIGN CHOICE, log 28). -/
def execThermalLimit105 (s : State) : Host.Outcome State Fault Refusal :=
  let d := s.args.die.toNat
  if s.args.val.toNat < 105 * 16 ∨ s.ps1Heat.getLsbD d then .next s
  else
    .next ({ s.setClock d (if s.clock d = s.fullClock d then s.cappedClock d else s.clock d) with ps1Heat := s.ps1Heat ||| (1#4 <<< d) }.raiseEvt 0)

/-- THERMAL_RECOVER (R38): cooled by 5 °C, the die leaves the thermal cap. -/
def execThermalRecover (s : State) : Host.Outcome State Fault Refusal :=
  let d := s.args.die.toNat
  if 100 * 16 < s.args.val.toNat ∨ s.ps1Heat.getLsbD d = false then .next s
  else
    .next { s.setClock d (if s.ps1Cap.getLsbD d then s.clock d else s.fullClock d) with ps1Heat := s.ps1Heat &&& ~~~(1#4 <<< d) }

/-- THERMAL_LIMIT_115 (R38): a DEVICE-rung reset, and a management event that outlives it. -/
def execThermalLimit115 (s : State) : Host.Outcome State Fault Refusal :=
  .next (if s.args.val.toNat < 115 * 16 then s else s.deviceReset.raiseEvt 0)

/-! ## PS2 and PS3 (R36, R37) -/

/-- Has a die a resident workgroup? -/
def State.dieBusy (s : State) (d : Nat) : Bool :=
  s.wgs.any fun g => dieOf g.core == d && (s.part g.part).resident == some g.ctx

/-- DIE_IDLE (R36): a die without a resident workgroup enters PS2. -/
def execDieIdle (s : State) : Host.Outcome State Fault Refusal :=
  let d := s.args.die.toNat
  .next (if s.dieBusy d ∨ s.pkgState ≠ 0 then s else { s with ps2 := s.ps2 ||| (1#4 <<< d) })

/-- A wake event (R37): the package leaves PS3, or turns back on its way into it, of which R37 does not speak (DESIGN CHOICE, log 90). -/
def State.wake (s : State) : State := if s.pkgState = 1 ∨ s.pkgState = 2 then { s with pkgState := 3 } else s

/-- An access that wakes the package and completes once it is in PS0: it stands over till then (R37) (DEDUCED, log 70). -/
def State.wakeFor (s : State) (row : Instr) : Option State :=
  if s.pkgState = 0 then none else some { s.wake with deferred := s.deferred ++ [⟨row, s.args⟩] }

/-- Live partitions. -/
def State.live (s : State) : List (BitVec 2) := allParts.filter fun p => (s.part p).state == 2

/-- Every PS_REQ returns to 0. -/
def State.clearPsReq (s : State) : State := { s with parts := s.parts.map fun x => { x with psReq := 0 } }

/-- PS3 is requested for partition `p` (R37): with the last live partition's request the device decides. A context that is being exchanged
in is not resident yet, and does not keep the package out (DESIGN CHOICE, log 90). -/
def State.askPs3 (s : State) (p : BitVec 2) : State :=
  let s1 := s.modPart p fun x => { x with psReq := 3 }
  let last := (s.part p).state == 2 && (s.part p).psReq != 3 && s.live.all fun k => (s1.part k).psReq == 3
  if last = false ∨ s.pkgState ≠ 0 then s1
  else if allParts.any fun k => (s.part k).resident.isSome then { s1.clearPsReq with pwrRefused := true }
  else { allParts.foldl (fun t k => t.closeSessions k) s1 with pkgState := 1 }

/-- The request of partition `p` is withdrawn, a wake event (R37). -/
def State.dropPs3 (s : State) (p : BitVec 2) : State := (s.modPart p fun x => { x with psReq := 0 }).wake

/-- PS_REQ_PS3 (R37): 3 is written to PS_REQ of partition `p`. -/
def execPsReqPs3 (s : State) : Host.Outcome State Fault Refusal := .next (s.askPs3 s.args.p)

/-- PS_REQ_NONE (R37): 0 is written to PS_REQ of partition `p`. -/
def execPsReqNone (s : State) : Host.Outcome State Fault Refusal := .next (s.dropPs3 s.args.p)

/-- What the compute dies and the walkers hold goes before their power does, bytes of the quad atomic units to the home slices: only those,
the shadow store and the memory are held in PS3 (R36). -/
def State.gateDies (s : State) : State :=
  { (List.range 32).foldl (fun t q => t.writeBack q) s with cache := [], latch := [], tlb := [], walks := [] }

/-- PS3_ENTRY_COMPLETE (R36, R37). -/
def execPs3EntryComplete (s : State) : Host.Outcome State Fault Refusal :=
  .next (if s.pkgState = 1 then { s.gateDies with pkgState := 2 } else s)

/-- PS3_WAKE_COMPLETE (R37): the package is in PS0, every PS_REQ reads 0, and the accesses that woke it complete. -/
def execPs3WakeComplete (s : State) : Host.Outcome State Fault Refusal :=
  .next (if s.pkgState = 3 then { s.clearPsReq with pkgState := 0, agenda := s.deferred ++ s.agenda, deferred := [] } else s)

end Sys2Proof.Machine
end

