-- ==== Sys2Proof/Machine/Records.lean ====
section
/-! DEFINITION. Command queues and launch records (R49 to R57, R70 to R77, R85, R428): how a queue is enabled, fetches,
checks, waits, starts and signals. -/
namespace Sys2Proof.Machine

/-! ## Queue registers (R49, R50, R55) -/

/-- LOGSIZE in effect (R49). -/
def Queue.log (x : Queue) : Nat := max 4 (min 16 x.logSize.toNat)

/-- Records written and not consumed (R51). -/
def Queue.left (x : Queue) : Nat := (x.tail - x.head).toNat

/-- Fields of a write of HQ_CFG to a disabled queue (R49). -/
def Queue.configure (x : Queue) (v : Nat) : Queue :=
  { x with irqEvery := BitVec.ofNat 8 (bits v 16 8), ctx := BitVec.ofNat 6 (bits v 10 6), priMax := BitVec.ofNat 3 (bits v 7 3),
           logSize := BitVec.ofNat 5 (bits v 1 5) }

/-- A write of HQ_CFG (R49, R55): enable, resume, disable, or the fields of a disabled queue. -/
def Queue.writeCfg (x : Queue) (v : Nat) : Queue :=
  match x.en, v.testBit 0 with
  | false, false => x.configure v
  | false, true => { x.configure v with en := true, head := 0, tail := 0, halted := false, irqCount := 0, fetch := .idle }
  | true, false => { x with en := false, tail := 0, fetch := .idle }
  | true, true => if x.halted then { x with halted := false, fetch := .idle } else x

/-- Requests that a queue has outside the device are forgotten when it stops or starts anew. -/
def State.dropRing (s : State) (p : BitVec 2) (q : BitVec 6) : State :=
  { s with exts := s.exts.filter fun r => !(r.part == p && r.job == q.toNat && (r.use == 8 || r.use == 10)) }

/-- A queue that runs with more than 2^k records left stops: an overrun (R51). -/
def State.checkOverrun (s : State) (p : BitVec 2) (q : BitVec 6) : State :=
  let x := (s.part p).queue q
  if x.en ∧ x.halted = false ∧ 2 ^ x.log < x.left then s.stopQueue p q 1 x.seq else s

def State.writeQueueCfg (s : State) (p : BitVec 2) (q : BitVec 6) (v : Nat) : State :=
  let t := s.modQueue p q fun x => x.writeCfg v
  (if ((s.part p).queue q).fetch = ((t.part p).queue q).fetch then t else t.dropRing p q).checkOverrun p q

/-- QUEUE_ENABLE (R49): HQ_CFG of queue `q` of partition `p` is written with EN from 0 to 1. -/
def execQueueEnable (s : State) : Host.Outcome State Fault Refusal :=
  .next (if ((s.part s.args.p).queue s.args.q).en = false ∧ s.args.val.toNat.testBit 0 then
    s.writeQueueCfg s.args.p s.args.q s.args.val.toNat else s)

/-- QUEUE_RESUME (R55): HQ_CFG is written with EN = 1 while EN is 1. -/
def execQueueResume (s : State) : Host.Outcome State Fault Refusal :=
  .next (if ((s.part s.args.p).queue s.args.q).en then s.writeQueueCfg s.args.p s.args.q 1 else s)

/-- QUEUE_DISABLE (R55): HQ_CFG is written with EN = 0. -/
def execQueueDisable (s : State) : Host.Outcome State Fault Refusal :=
  .next (if ((s.part s.args.p).queue s.args.q).en then s.writeQueueCfg s.args.p s.args.q 0 else s)

/-- A write of HQ_STATUS (R49): 1 to bit 8 clears the whole register. -/
def Queue.writeStatus (x : Queue) (v : Nat) : Queue :=
  if v.testBit 8 then { x with err := 0, stopped := false, stSeq := 0 } else x

/-- HQ_STATUS_CLEAR (R49). -/
def execHqStatusClear (s : State) : Host.Outcome State Fault Refusal :=
  .next (s.modQueue s.args.p s.args.q fun x => x.writeStatus 0x100)

/-- A write of TAIL (R50, R51): ignored while the queue is disabled; an overrun stops it (DEDUCED, log 64). -/
def State.notify (s : State) (p : BitVec 2) (q : BitVec 6) (v : BitVec 32) : State :=
  if ((s.part p).queue q).en = false then s else (s.modQueue p q fun x => { x with tail := v }).checkOverrun p q

/-- A word of a queue's notify page (R50). -/
def Queue.page (x : Queue) (off : Nat) : Nat :=
  match off with
  | 0x000 => if x.en then x.tail.toNat else 0
  | 0x008 => x.head.toNat
  | 0x010 => x.err.toNat + 256 * x.stopped.toNat
  | 0x018 => x.stSeq.toNat
  | _ => 0

/-- QUEUE_NOTIFY (R51): a write of `val` at offset `addr` of the notify page of queue `q`; it wakes the package from PS3 and
the partition's dies from PS2 (R36, R37). With `flag` the word is read (R50). -/
def execQueueNotify (s : State) : Host.Outcome State Fault Refusal :=
  if s.args.flag then
    .next { s with hostReply := some ⟨leBytes 4 (((s.part s.args.p).queue s.args.q).page s.args.addr), false⟩ }
  else match s.wakeFor .queueNotify with
  | some t => .next t
  | none =>
    let s1 := { s with ps2 := s.ps2 &&& ~~~((s.part s.args.p).dies) }
    .next (if s.args.addr = 0 then s1.notify s.args.p s.args.q (BitVec.ofNat 32 s.args.val.toNat) else s1)

/-! ## What the Mast reads on behalf of no core (R60) -/

/-- The agent of a queue: no core, and no check of range locks (DEDUCED, log 63). -/
def mastAgent (p : BitVec 2) (c : BitVec 6) : Agent := { part := p, ctx := c, engine := true }

/-- What a read comes to. -/
inductive MastAns where
  | bytes (d : List Byte)
  | bad
  | waits
  deriving DecidableEq, Repr

/-- Is the same request outstanding? -/
def State.asked (s : State) (r : ExtReq) : Bool :=
  s.exts.any fun x => x.use == r.use && x.part == r.part && x.job == r.job && x.dest == r.dest

/-- Ask outside the device: a peer, or a host range that gives no completion. -/
def State.mastAsk (s : State) (r : ExtReq) (ps : List (Place × Nat)) (op : PeerOp) : State × MastAns :=
  if s.asked r then (s, .waits)
  else match peerOf ps with
    | some (dev, a) =>
      -- behind the stores to that page that were issued before (R26)
      let s1 := s.beforePeer dev a
      match s1.peerRequest r.part dev a op r with
      | some t => (t, .waits)
      | none => (s1.peerLost r.part dev, .bad)
    | none => (s.addExt r, .waits)

/-- Read `n` bytes at a generic pointer for a queue. -/
def State.mastRead (s : State) (c : BitVec 6) (ptr n : Nat) (r : ExtReq) : State × MastAns :=
  match s.places (mastAgent r.part c) .load ptr n with
  | (s1, .error _) => (s1, .bad)
  | (s1, .ok ps) =>
    if (peerOf ps).isSome ∨ s1.silent ps then s1.mastAsk r ps (.read n)
    else (s1, .bytes (ps.flatMap fun x => s1.readPlace 32 x.1 x.2))

/-! ## Fetching (R56, R71, R72) -/

/-- Has a launch's work completed (R54, R70)? -/
def State.workDone (s : State) (l : Launch) : Bool := !l.more && l.live == 0 && !(s.jobs.any fun j => j.launch == l.id)

/-- Launches of a partition that are Started or Placed (R72). -/
def State.begun (s : State) (p : BitVec 2) : Nat :=
  (s.launches.filter fun l => l.part == p && l.queue.isSome && !s.workDone l).length

/-- May a queue fetch its next record (R51, R61, R71)? -/
def State.fetches (s : State) (p : BitVec 2) (q : BitVec 6) : Bool :=
  let x := (s.part p).queue q
  x.en && !x.halted && x.fetch == .idle && x.left != 0 && (s.ctx p x.ctx).state != .killed

/-- The queue whose turn it is (R72): the next one after the last served; after reset queue 1 is looked at first (DESIGN CHOICE, log
82). -/
def State.fetchTurn (s : State) (p : BitVec 2) : Option (BitVec 6) :=
  if s.pkgState ≠ 0 ∨ (s.part p).state ≠ 2 ∨ 256 ≤ s.begun p then none
  else ((List.range 64).map fun i => (s.part p).rr + 1 + BitVec.ofNat 6 i).find? fun q => s.fetches p q

/-- RECORD_FETCH (R56, R72): partition `p` starts the fetch of the next queue's next record; a bad HQ_BASE fails here
(R49). -/
def execRecordFetch (s : State) : Host.Outcome State Fault Refusal :=
  let p := s.args.p
  match s.fetchTurn p with
  | none => .next s
  | some q =>
    let x := (s.part p).queue q
    let s1 := s.modPart p fun y => { y with rr := q }
    let space := bits x.base.toNat 60 4
    .next (if (space ≠ 3 ∧ space ≠ 4) ∨ x.base.toNat % 256 ≠ 0 then s1.failQueue p q x.ctx 7 x.seq 0
      else s1.modQueue p q fun y => { y with fetch := .seqRead 0 0 false })

/-- Address of a queue's next record (R51). -/
def Queue.slot (x : Queue) : Nat := (x.base.toNat + 256 * (x.head.toNat % 2 ^ x.log)) % 2 ^ 64

/-- The request of a queue for bytes of its ring. -/
def ringReq (p : BitVec 2) (q : BitVec 6) : ExtReq := { tag := 0, part := p, use := 10, job := q.toNat }

/-- Cycles of 100 ns, of 6.4 µs and of 1 ms (R56). -/
def firstRetry : Nat := 170
def lastRetry : Nat := 10880
def stallCycles : Nat := 1000 * Config.cyclesPerUs

/-- SEQ_READ_RETURN (R56): the SEQ bytes of queue `q` of partition `p` arrive. -/
def execSeqReadReturn (s : State) : Host.Outcome State Fault Refusal :=
  let p := s.args.p
  let q := s.args.q
  let x := (s.part p).queue q
  match x.fetch with
  | .seqRead d st stalled =>
    match s.mastRead x.ctx x.slot 4 (ringReq p q) with
    | (s1, .waits) => .next s1
    | (s1, .bad) => .next (s1.failQueue p q x.ctx 7 x.seq 0)
    | (s1, .bytes b) =>
      let d' := if d = 0 then firstRetry else min lastRetry (2 * d)
      .next (s1.modQueue p q fun y =>
        { y with fetch := if leNat b = x.seq.toNat then .payload else .retry (s.cycle + d') d' (if d = 0 then s.cycle else st) stalled })
  | _ => .next s

/-- SEQ_RETRY_TIMER (R56). -/
def execSeqRetryTimer (s : State) : Host.Outcome State Fault Refusal :=
  match ((s.part s.args.p).queue s.args.q).fetch with
  | .retry t d st stalled =>
    .next (if t ≤ s.cycle then s.modQueue s.args.p s.args.q fun y => { y with fetch := .seqRead d st stalled } else s)
  | _ => .next s

/-- SEQ_STALL_TIMEOUT (R56): 1 ms without a match; polling goes on. -/
def execSeqStallTimeout (s : State) : Host.Outcome State Fault Refusal :=
  match ((s.part s.args.p).queue s.args.q).fetch with
  | .retry t d st false =>
    .next (if st + stallCycles ≤ s.cycle then
        (s.modQueue s.args.p s.args.q fun y => { y with fetch := .retry t d st true }).raiseEvt 5
      else s)
  | _ => .next s

/-! ## The checks (R52 to R55, R85, R140) -/

/-- A pointer to row storage with its zero bits zero (R145). -/
def rowPtr (p : Nat) : Bool := bits p 57 7 == 0x18
def hostPtr (p : Nat) : Bool := bits p 57 7 == 0x20

/-- A wait or signal pointer is unused, or names ROW, FAR, HOST or PEER and is 8-byte aligned (R54). -/
def eventPtrOk (p : Nat) : Bool := p == 0 || ([3, 4, 5, 6].contains (bits p 60 4) && p % 8 == 0)

/-- The fields of a record (R52, R53). -/
def recordOf (b : List Byte) : LaunchRec :=
  let flags := fieldOf b 6 2
  { seq := BitVec.ofNat 32 (fieldOf b 0 4), kind := fieldOf b 4 2, idempotent := flags.testBit 0, coopQuad := flags.testBit 1,
    coopDie := flags.testBit 2, expert := flags.testBit 3, entry := BitVec.ofNat 64 (fieldOf b 8 8), gx := fieldOf b 0x10 4,
    gy := fieldOf b 0x14 4, gz := fieldOf b 0x18 4, count := fieldOf b 0x10 8, prio := byteAt b 0x1E,
    dieMask := BitVec.ofNat 8 (byteAt b 0x1F), tmpl := templateAt b 0x20 (fieldOf b 0x1C 2),
    arg := BitVec.ofNat 64 (fieldOf b 0x28 8),
    waits := [0x30, 0x40, 0x50, 0x60].map fun i => (BitVec.ofNat 64 (fieldOf b i 8), BitVec.ofNat 64 (fieldOf b (i + 8) 8)),
    signal := (BitVec.ofNat 64 (fieldOf b 0x70 8), BitVec.ofNat 64 (fieldOf b 0x78 8)),
    bindings := [0x80, 0xA0, 0xC0, 0xE0].map fun i => bindingOf (b.drop i) }

/-- A binding of a record (R52, R140). -/
def bindingFine (kib : Nat) (x : Binding) : Bool :=
  x.code == 0 || (x.ok && x.scratchOff % 32 == 0 && decide (x.scratchOff + x.length ≤ 1024 * kib) &&
    [3, 4, 5].contains (bits x.src.toNat 60 4))

/-- What R52 asks of a kernel. -/
def kernelOk (r : LaunchRec) : Bool :=
  rowPtr r.entry.toNat && r.entry.toNat % 4 == 0 && decide (1 ≤ r.gx) && decide (1 ≤ r.gy) && decide (1 ≤ r.gz) &&
  decide (r.gx * r.gy * r.gz ≤ 2 ^ 32) && r.tmpl.ok && (r.arg == 0 || rowPtr r.arg.toNat || hostPtr r.arg.toNat) &&
  r.bindings.all (bindingFine r.tmpl.scratchKiB)

/-- The checks of R52 to R55: `b` is the record, `dies` those of the partition. -/
def recordOk (b : List Byte) (priMax dies : Nat) (expertEn : Bool) : Bool :=
  let r := recordOf b
  decide (r.kind ≤ 2) && decide (fieldOf b 6 2 < 16) && !(r.coopQuad && r.coopDie) && (!r.expert || expertEn) &&
  decide (r.prio ≤ priMax) && (r.dieMask.toNat &&& dies == r.dieMask.toNat) && (r.waits.all fun w => eventPtrOk w.1.toNat) &&
  eventPtrOk r.signal.1.toNat &&
  (if r.kind = 0 then kernelOk r
    else zeroAt b 0x18 6 && zeroAt b 0x20 8 && zeroAt b 0x80 128 && (r.kind == 1 || r.dieMask == 0))

/-- Workgroups of a template that an empty core, quad and die hold (R78, R85, R87). -/
def coreHolds (t : Template) : Nat :=
  ((t.demand.zip coreCapacity).filter fun x => x.1 != 0).foldl (fun m x => min m (x.2 / x.1)) 512
def quadHolds (t : Template) : Nat :=
  min (4 * coreHolds t) (if t.accDemand = 0 then 4 * coreHolds t else quadAccs / t.accDemand)
def dieHolds (t : Template) : Nat := 8 * quadHolds t

/-- Do `n` empty dies hold `w` workgroups in blocks of four, each block on one die (R80, R87)? -/
def diesHold (t : Template) (n w : Nat) : Bool :=
  let h := dieHolds t
  decide (w / 4 + (if w % 4 = 0 then 0 else 1) ≤ n * (h / 4)) || (decide (w / 4 ≤ n * (h / 4)) && decide (w % 4 ≤ h % 4))

/-- The refusals of R85: the queue error code of a record that can never be placed on `n` dies. -/
def refusalOf (r : LaunchRec) (n : Nat) : Option Nat :=
  if r.kind ≠ 0 then none
  else if r.tmpl.fits = false then some 3
  else if r.coopDie ∧ diesHold r.tmpl n (r.gx * r.gy * r.gz) = false then some 4
  else if r.coopQuad ∧ quadAccs < 4 * r.tmpl.accDemand then some 5
  else none

/-! ## Waiting (R54, R75 to R77) -/

/-- A wait that is met without a read: unused, or with the value 0 (R54, R77). -/
def freeWait (w : Word × Word) : Bool := w.1 == 0 || w.2 == 0

/-- Read the word of wait `i` of a Waiting record, unless it is met; a failing read stops the queue (R54). -/
def State.pollWait (s : State) (p : BitVec 2) (q : BitVec 6) (i : Nat) : State :=
  let x := (s.part p).queue q
  match x.fetch with
  | .waiting r met t =>
    if met.getD i true then s
    else
      let w := r.waits.getD i (0, 0)
      match s.mastRead x.ctx w.1.toNat 8 { tag := 0, part := p, use := 8, job := q.toNat, dest := i } with
      | (s1, .waits) => s1
      | (s1, .bad) => (s1.failQueue p q x.ctx 8 x.seq 0).dropRing p q
      | (s1, .bytes b) =>
        if w.2.toNat ≤ leNat b then s1.modQueue p q fun y => { y with fetch := .waiting r (modifyAt (fun _ => true) met i) t } else s1
  | _ => s

/-- Read the words of every wait not met. -/
def State.pollWaits (s : State) (p : BitVec 2) (q : BitVec 6) : State :=
  let s1 := [0, 1, 2, 3].foldl (fun t i => t.pollWait p q i) s
  s1.modQueue p q fun y => match y.fetch with
    | .waiting r met _ => { y with fetch := .waiting r met s.cycle }
    | _ => y

/-- RECORD_PAYLOAD_RETURN (R55, R70): the rest of the record of queue `q` arrives; it is checked, refused, or Waiting. -/
def execRecordPayloadReturn (s : State) : Host.Outcome State Fault Refusal :=
  let p := s.args.p
  let q := s.args.q
  let x := (s.part p).queue q
  if x.fetch ≠ .payload then .next s
  else match s.mastRead x.ctx (x.slot + 4) 252 (ringReq p q) with
    | (s1, .waits) => .next s1
    | (s1, .bad) => .next (s1.failQueue p q x.ctx 7 x.seq 0)
    | (s1, .bytes b) =>
      let raw := leBytes 4 x.seq.toNat ++ b
      let k := s.ctx p x.ctx
      let dies := (s.part p).dies.toNat
      if recordOk raw x.priMax.toNat dies k.expertEn = false then .next (s1.failQueue p q x.ctx 2 x.seq 0)
      else
        let r := recordOf raw
        let n := (diesOf (if r.dieMask = 0 then dies else r.dieMask.toNat &&& dies)).length
        match refusalOf r n with
        | some code => .next (s1.failQueue p q x.ctx code x.seq 0)
        | none =>
          .next ((s1.modQueue p q fun y => { y with fetch := .waiting r (r.waits.map freeWait) s.cycle }).pollWaits p q)

/-- Is a Waiting record's poll due: have 2 µs passed (R75)? -/
def State.pollDue (s : State) (p : BitVec 2) (q : BitVec 6) : Bool :=
  match ((s.part p).queue q).fetch with
  | .waiting _ met t => !(met.all id) && decide (t + pollCycles ≤ s.cycle)
  | _ => false

/-- The waits of a Waiting record whose word has been changed at some places are read again (R75). -/
def State.rereadWaits (s : State) (p : BitVec 2) (q : BitVec 6) (at_ : List (Place × Nat)) : State :=
  let x := (s.part p).queue q
  match x.fetch with
  | .waiting r met _ => [0, 1, 2, 3].foldl (fun t i =>
      if !(met.getD i true) && t.wordAt (mastAgent p x.ctx) (r.waits.getD i (0, 0)).1.toNat at_ then t.pollWait p q i else t) s
  | _ => s

/-- Who waits for a word that this step has changed by an atomic, a signal or a SIGE reads it again (R75, R300). -/
def State.reread (s : State) : State :=
  if s.nudged.isEmpty then s
  else
    let t := { s with nudged := [] }
    (allParts.foldl (fun t p => (t.part p).queues.foldl (fun t e => t.rereadWaits p (BitVec.ofNat 6 e.1) s.nudged) t) t).rereadWaites s.nudged

/-- RECORD_WAIT_POLL (R75) of queue `q` of partition `p`. -/
def execRecordWaitPoll (s : State) : Host.Outcome State Fault Refusal :=
  .next (if s.pollDue s.args.p s.args.q then s.pollWaits s.args.p s.args.q else s)

/-! ## Starting (R51, R70, R74, R76, R428) -/

/-- The row caches of a partition's cores are invalidated: the acquire of a record's start (R76). -/
def State.dropCaches (s : State) (p : BitVec 2) : State :=
  { s with cache := s.cache.filter fun c => !((s.part p).dies.getLsbD (dieOf c.core)) }

/-- The quads of a partition's dies write back: the release of a record's signal (R54, R188). -/
def State.writeBacks (s : State) (p : BitVec 2) : State :=
  (List.range 32).foldl (fun t q => if (s.part p).dies.getLsbD (q / 8) then t.writeBack q else t) s

/-- The record is consumed (R51): HEAD advances, the count is written back, and IRQ_EVERY counts it. Where HQ_HEADWB is neither 0 nor a
HOST pointer nothing is written back (DESIGN CHOICE, log 97). -/
def State.consume (s : State) (p : BitVec 2) (q : BitVec 6) : State :=
  let x := (s.part p).queue q
  let fire := x.irqEvery != 0xFF && decide (x.irqEvery.toNat < x.irqCount + 1)
  let s1 := s.modQueue p q fun y =>
    { y with head := y.head + 1, fetch := .idle, irqCount := if fire then 0 else y.irqCount + 1 }
  let a := x.headWb.toNat % 2 ^ 57 / 8 * 8
  let s2 := if hostPtr x.headWb.toNat ∧ s1.hostSilent a 8 = false then s1.writePlace (.host a) (leBytes 8 (x.head + 1).toNat) else s1
  if fire then { s2 with irqs := s2.irqs ++ [128 + 128 * p.toNat + q.toNat] } else s2

/-- Chunk `k` of the share of a copy record that starts at chunk `i` of every `c`: offset and length. -/
def shareChunk (count i c k : Nat) : Nat × Nat :=
  let off := 4096 * (i + k * c)
  (off, min 4096 (count - off))

/-- Lock names of one chunk of a copy record, those written and those read. -/
def State.chunkNames (s : State) (ag : Agent) (dst src off n : Nat) : State × List LockOn × List LockOn :=
  let x := s.rangeNames ag .store (ptrAdd dst off) n
  let y := x.1.rangeNames ag .load (ptrAdd src off) n
  (y.1, x.2, y.2)

/-- The share of one core's Sheet in a copy record (R74): every `c`-th chunk from chunk `i` on, its locks registered, its
chunks that meet the locks of `earlier` operations marked (R428); what stands before the locks takes place before them (R199). -/
def State.copyShare (s : State) (earlier : List Lock) (l : Launch) (core i c chunks : Nat) : State :=
  let n := (chunks - i + c - 1) / c
  if chunks ≤ i then s
  else
    let ag : Agent := { part := l.part, ctx := l.ctx, core := some core, engine := true }
    let r := (List.range n).foldl (fun (a : State × List Nat × List (LockOn × Bool)) k =>
      let x := shareChunk l.record.count i c k
      let y := a.1.chunkNames ag l.record.arg.toNat l.record.entry.toNat x.1 x.2
      let met := (y.2.1.any fun o => earlier.any fun e => e.on.meets o) || y.2.2.any fun o => earlier.any fun e => e.on.meets o && e.write
      if met then (y.1, a.2.1 ++ [k], a.2.2)
      else
        let new := y.2.1.map (·, true) ++ y.2.2.map (·, false)
        ((y.1.bindLocked l.part l.ctx y.2.1).clearLocked new, a.2.1, a.2.2 ++ new)) (s, [], [])
    let id := r.1.nextId
    let j : Job :=
      { id := id, kind := .copyRecord, core := core, part := l.part, ctx := l.ctx, wg := 0, prio := l.record.prio / 2,
        dst := l.record.arg, src := l.record.entry, bytes := l.record.count, len := l.record.count, tA := i, tB := c, total := n,
        launch := l.id, since := s.cycle, clash := r.2.1 }
    { r.1 with nextId := id + 1, jobs := r.1.jobs ++ [j], locks := r.1.locks ++ r.2.2.map fun x => ⟨id, x.2, x.1⟩ }

/-- Every Sheet of the dies of a copy record takes its share (R53, R74). -/
def State.startCopy (s : State) (l : Launch) : State :=
  let ks := coresOf (s.launchDies l)
  let chunks := (l.record.count + 4095) / 4096
  (List.range ks.length).foldl (fun t i => t.copyShare s.locks l (ks.getD i 0) i ks.length chunks) s

/-- Has each Sheet that a copy record uses room for it (R348), and each home slice entries for its ranges (R196, R428)? (DEDUCED, log
63). -/
def State.copyRoom (s : State) (l : Launch) : Bool :=
  ((coresOf (s.launchDies l)).all fun k => !s.engineFull .copyRecord k) && s.lockRoom ((s.startCopy l).locks.drop s.locks.length)

/-- The launch that a queue's record becomes. -/
def State.newLaunch (s : State) (p : BitVec 2) (q : BitVec 6) (r : LaunchRec) : Launch :=
  { id := s.nextId, part := p, ctx := ((s.part p).queue q).ctx, queue := some q, record := r, prio := r.prio, started := s.cycle,
    starve := s.cycle }

/-- The record of a queue that may Start: its waits are met, its context runs, and the Mast accepts it (R70, R72, R111). -/
def State.startable (s : State) (p : BitVec 2) (q : BitVec 6) : Option LaunchRec :=
  let x := (s.part p).queue q
  match x.fetch with
  | .waiting r met _ =>
    if met.all id ∧ s.placing p = some x.ctx ∧ s.begun p < 256 ∧ (r.kind ≠ 1 ∨ s.copyRoom (s.newLaunch p q r)) then some r else none
  | _ => none

/-- RECORD_START (R51, R70, R76) of queue `q` of partition `p`. -/
def execRecordStart (s : State) : Host.Outcome State Fault Refusal :=
  let p := s.args.p
  let q := s.args.q
  match s.startable p q with
  | none => .next s
  | some r =>
    let s1 := (if r.waits.any fun w => w.1 != 0 then s.dropCaches p else s).consume p q
    let l := s1.newLaunch p q r
    let s2 := { s1 with nextId := s1.nextId + 1, launches := s1.launches ++ [l] }
    .next (if r.kind = 1 then s2.startCopy l else s2)

/-! ## Signals (R54, R428) -/

/-- Add a signal's increment to its event word (R54, R77). -/
def State.signalAdd (s : State) (l : Launch) : State :=
  let ptr := l.record.signal.1.toNat
  let inc := l.record.signal.2.toNat
  match s.places (mastAgent l.part l.ctx) .atomic ptr 8 with
  | (s1, .error _) => s1.signalFailed l.id
  | (s1, .ok ps) =>
    if (peerOf ps).isSome ∨ s1.silent ps then
      match s1.mastAsk { tag := 0, part := l.part, use := 9, job := l.id, ptr := l.record.signal.1 } ps (.atomic 0 true inc 0) with
      | (s2, .bad) => s2.signalFailed l.id
      | (s2, _) => s2
    else
      let old := leNat (ps.flatMap fun x => s1.readPlace 32 x.1 x.2)
      (ps.foldl (fun t x => t.nudge x.1 x.2) (State.writeParts none ps (leBytes 8 (old + inc)) s1)).dropLaunch l.id

/-- RECORD_SIGNAL (R54, R70, R428): launch `i`'s work is complete, and its signal is applied, or a copy record's error
stops its queue. -/
def execRecordSignal (s : State) : Host.Outcome State Fault Refusal :=
  match s.launch? s.args.i with
  | none => .next s
  | some l =>
    match l.queue with
    | none => .next s
    | some q =>
      if s.workDone l = false ∨ (s.exts.any fun r => r.use == 9 && r.job == l.id) then .next s
      else
        let s1 := s.writeBacks l.part
        let bad := l.copyStatus &&& stopBits
        .next (
          if l.record.kind = 1 ∧ bad ≠ 0 then
            (s1.dropLaunch l.id).failQueue l.part q l.ctx 9 l.record.seq (l.copyStatus.toNat % 2 ^ 11)
          -- cancelled by KILL: the signal is not applied (R61)
          else if (s.ctx l.part l.ctx).state = .killed ∨ l.copyStatus.getLsbD 9 then s1.dropLaunch l.id
          else if l.record.signal.1 = 0 then s1.dropLaunch l.id
          else s1.signalAdd l)

end Sys2Proof.Machine
end

