-- ==== Sys2Proof/Machine/Links.lean ====
section
/-! DEFINITION. Stay links: flits received, their messages performed and answered, link control, and ports that come and go
(R23 to R33). What a flit's payload means is carried beside its bytes (DESIGN CHOICE, log 8). -/
namespace Sys2Proof.Machine

/-! ## Flits (R23, R25) -/

def State.port (s : State) (i : Nat) : Port := s.ports.getD i { state := 0 }
def State.modPort (s : State) (i : Nat) (f : Port → Port) : State := { s with ports := modifyAt f s.ports i }

/-- Let a port send what it can. -/
def State.pump (s : State) (i : Nat) : State := s.modPort i fun x => Port.pump x.waiting.length x

/-- A flit without messages (R23, type 3): it returns the credits that a port owes where no other flit can go that would carry them, so
that requests without credits block no response (R25). It takes a sequence number and needs no credit; as it is for the link and for no
device, its DST and its GEN are 0 (DESIGN CHOICE, log 8). -/
def State.sendCredits (s : State) (i : Nat) : State :=
  let x := s.port i
  if (x.waiting.all fun f => !x.maySend f) ∧ (x.owed.any fun n => n != 0) then
    let f : Flit :=
      { type := 3, dst := 0, src := s.podIndex, vc := 0, gen := 0, len := 0, seq := 0, ack := 0, credit := 0, payload := [], crc := 0, msgs := [] }
    (s.modPort i fun x => { x with waiting := x.waiting ++ [f] }).pump i
  else s

/-- A flit of channel `vc` has been taken: its credit goes back. -/
def State.oweCredit (s : State) (i vc : Nat) : State :=
  (s.modPort i fun x => { x with owed := modifyAt (· + 1) x.owed vc }).sendCredits i

/-- The flits that the other end has received in order are acknowledged (R23, R25). -/
def State.takeAck (s : State) (i : Nat) (ack : BitVec 32) : State :=
  (s.modPort i fun x =>
    let left := x.replay.filter fun g => decide (2 ^ 31 ≤ (ack - g.seq).toNat)
    { x with replay := left, tries := if left.length = x.replay.length then x.tries else 0 }).pump i

/-- The credits that a flit returns are taken (R23, R25). -/
def State.takeCredit (s : State) (i : Nat) (credit : BitVec 32) : State :=
  let c := credit.toNat
  (s.modPort i fun x =>
    { x with credits :=
        [x.credits.getD 0 0 + bits c 0 10, x.credits.getD 1 0 + bits c 10 10, x.credits.getD 2 0 + bits c 20 10] }).pump i

/-! ## Link control (R25, R28, R29, R32) -/

/-- A port retrains (R25): counted in the lifetime record. -/
def State.retrain (s : State) (i : Nat) : State :=
  (s.modPort i fun x => { x with state := 3, tries := 0 }).noteRetrain i

/-- A NAK (R25): the flits from SEQ `n` on are sent again, in order; where eight replays of the same flit in a row have failed, the port
retrains. -/
def State.nak (s : State) (i : Nat) (n : BitVec 32) : State :=
  let x := s.port i
  let left := x.replay.filter fun g => decide ((g.seq - n).toNat < 2 ^ 31)
  let same := match left.head?, x.replay.head? with
    | some a, some b => a.seq == b.seq
    | _, _ => false
  let tries := if left.isEmpty then 0 else if same then x.tries + 1 else 1
  let s1 := s.modPort i fun x => { x with replay := left, tries := tries }
  if 8 < tries then s1.retrain i else s1

/-- The generation of a new session: one more than the larger of the two, never 0 (R29). -/
def nextGen (a b : BitVec 16) : BitVec 16 :=
  let m := if a < b then b else a
  if m + 1 = 0 then 1 else m + 1

/-- The other end opens a session with this one's entry (R29): both are opening, and both take the same generation. -/
def State.meetOpen (s : State) (i : Nat) (p : BitVec 2) (src : BitVec 8) (gen : BitVec 16) (reply : Bool) : State :=
  let e := (s.part p).session src.toNat
  if e.state = 2 then (if e.gen < gen then s.peerLost p src else s)
  else if e.state ≠ 1 then s
  else
    let s1 := s.modSession p src.toNat fun x => { x with gen := nextGen e.gen gen, state := 2 }
    if reply then s1 else s1.sendMsg i src 2 e.gen (.openSession e.part e.gen true)

/-- A link-control message. -/
def State.linkControl (s : State) (i : Nat) (src : BitVec 8) (m : PeerMsg) : State :=
  match m with
  | .nak n => s.nak i n
  | .openSession p gen reply => s.meetOpen i p src gen reply
  | .closeSession p =>
    let e := (s.part p).session src.toNat
    if e.state = 1 ∨ e.state = 2 then s.modSession p src.toNat fun x => { x with state := 0, open_ := false } else s
  | .announce p gen =>
    let e := (s.part p).session src.toNat
    if e.state = 2 ∧ e.gen < gen then s.peerLost p src else s
  | _ => s

/-! ## Requests from a peer (R24, R27, R30) -/

/-- The generation check of R30: the entry for the sender is open, has the message's generation, and names the context
that the message targets. -/
def State.accepts (s : State) (p : BitVec 2) (src : BitVec 8) (gen : BitVec 16) (target : BitVec 2 × BitVec 6) : Bool :=
  let e := (s.part p).session src.toNat
  e.gen == gen && e.state == 2 && target.1 == e.part && target.2 == e.ctx

/-- Status of a response: the fault code of the requester (R27) (DESIGN CHOICE, log 71). -/
def MErr.status (e : MErr) : BitVec 8 := BitVec.ofNat 8 e.code.num

/-- An atomic of a peer at the home of its bytes (R186): POD scope. -/
def State.peerAtomic (s : State) (ag : Agent) (ptr : Nat) (op : BitVec 4) (wide : Bool) (v cmp : Nat) : State × Except MErr (List Byte) :=
  let n := atomBytes op.toNat wide
  if ptr % n ≠ 0 then (s, .error ⟨.misalignAtomic, 0⟩)
  else match s.places ag .atomic ptr n with
    | (s1, .error e) => (s1, .error e)
    | (s1, .ok ps) =>
      match ps with
      | [(.mem key, _)] =>
        let old := s1.homeNat key n
        let new := atomNew op.toNat n old v cmp
        let s2 := match new with
          | some x => s1.writeHome key (leBytes n x)
          | none => s1
        (if op = 8 ∨ op = 9 then s2.noteRetire ag.part ag.ctx (bits ptr 0 57) key n old (new.getD old) else s2, .ok (leBytes n old))
      | _ => (s1, .error ⟨.badSpace, 0⟩)

/-- A barrier request of peer `dev` at POD object `k` of the context (R338, R339). Where the context is swapped out the request is performed
on the object as it is saved (DESIGN CHOICE, log 16). -/
def State.peerBar (s : State) (p : BitVec 2) (c : BitVec 6) (dev : BitVec 8) (fn k arg : Nat) : State × Except MErr (List Byte) :=
  if 16 ≤ k ∨ (s.part p).dies.getLsbD (k / 4) = false then (s, .error ⟨.badSpace, 0⟩)
  else match s.peerBarrier (.net p c (16384 + k) 4) dev fn arg with
    | (s1, some d) => (s1, .ok d)
    | (s1, none) => (s1, .error ⟨.badSpace, 0⟩)

/-- Runs of set bits of a byte mask: first byte and length, rising. -/
def maskRuns (m : BitVec 32) : List (Nat × Nat) :=
  ((List.range 32).foldl (fun rs j =>
    if m.getLsbD j then match rs with
      | (st, n) :: r => if st + n = j then (st, n + 1) :: r else (j, 1) :: rs
      | [] => [(j, 1)]
    else rs) []).reverse

/-- The places of some runs of bytes of the sector at pointer `p`, each with its first byte, or the first error there is. -/
def State.runPlaces (ag : Agent) (p : Nat) : List (Nat × Nat) → State → State × Except MErr (List (Place × Nat × Nat))
  | [], s => (s, .ok [])
  | (st, n) :: rest, s =>
    match s.place ag .store (p + st) 0 n n with
    | (t, .error e) => (t, .error e)
    | (t, .ok pl) => match State.runPlaces ag p rest t with
      | (u, .ok ps) => (u, .ok ((pl, st, n) :: ps))
      | (u, .error e) => (u, .error e)

/-- The bytes of a sector that a mask selects are written whole, or none of them (R24). -/
def State.writeMasked (s : State) (ag : Agent) (p : Nat) (m : BitVec 32) (d : List Byte) : State × Except MErr (List Byte) :=
  match State.runPlaces ag p (maskRuns m) s with
  | (t, .ok ps) => (ps.foldl (fun t x => t.writePlace x.1 ((d.drop x.2.1).take x.2.2)) t, .ok [])
  | (t, .error e) => (t, .error e)

/-- The pointer of a request in the context that it targets. -/
def Inbound.ptr (x : Inbound) : Nat := 3 * 2 ^ 60 + x.addr.toNat

/-- How many sector parts a request has (R24, R182). -/
def Inbound.parts (x : Inbound) : Nat := match x.op with
  | .read n => (partsOf x.ptr n).length
  | .write masks _ => masks.length
  | _ => 1

/-- Numbers of the parts that are not performed yet. -/
def Inbound.left (x : Inbound) : List Nat :=
  (List.range x.parts).filter fun k => !(x.did.any fun y => y.1 == k) && !(x.bad.any fun y => y.1 == k)

/-- Sector part `k` of a request is performed in the context that it targets, whole (R24, R182). -/
def State.servePart (s : State) (x : Inbound) (k : Nat) : State × Except MErr (List Byte) :=
  let ag : Agent := { part := x.part, ctx := x.ctx }
  match x.op with
  | .read n => match (partsOf x.ptr n)[k]? with
    | some (i, m) => (match s.place ag .load x.ptr i m n with
      | (t, .ok pl) => (t, .ok (t.readPlace ag.quad pl m))
      | (t, .error e) => (t, .error e))
    | none => (s, .ok [])
  | .write masks d => s.writeMasked ag (x.ptr / 32 * 32 + 32 * k) (masks.getD k 0) ((d.drop (32 * k)).take 32)
  | .atomic o wide v cmp => s.peerAtomic ag x.ptr o wide v cmp
  | .barrier fn n arg => s.peerBar x.part x.ctx x.dev fn n arg

/-- Part `k` is performed, and the request remembers how it went. -/
def State.serveOne (s : State) (x : Inbound) (k : Nat) : State × Inbound :=
  match s.servePart x k with
  | (t, .ok d) => (t, { x with did := x.did ++ [(k, d)] })
  | (t, .error e) => (t, { x with bad := x.bad ++ [(k, e.status)] })

/-- A request whose parts are all performed is answered on its plane (R26): with the status of its first part that failed, or with what
its parts read. Where the port it came by is down the answer takes the next plane up. -/
def State.answerPeer (s : State) (x : Inbound) : State :=
  let i := if (s.port x.port).alive then x.port else (s.plane x.dev x.addr.toNat).getD x.port
  match (List.range x.parts).findSome? fun k => x.bad.lookup k with
  | some v => s.sendMsg i x.dev 1 x.gen (.response x.tag x.part x.ctx v 0 [])
  | none => s.sendMsg i x.dev 1 x.gen (.response x.tag x.part x.ctx 0 (x.addr.toNat % 32)
      ((List.range x.parts).flatMap fun k => (x.did.lookup k).getD []))

/-- The first and last 4 KiB page of a request's bytes. -/
def Inbound.pages (x : Inbound) : Nat × Nat := (x.addr.toNat / 4096, match x.op with
  | .read n => (x.addr.toNat + (n - 1)) / 4096
  | .write masks _ => (x.addr.toNat / 32 * 32 + (32 * masks.length - 1)) / 4096
  | _ => x.addr.toNat / 4096)

/-- Does a request stand behind an earlier one of its device, on the same plane for a page of its own (R26)? -/
def Inbound.behind (x y : Inbound) : Bool :=
  x.dev == y.dev && decide (x.pages.1 ≤ y.pages.2) && decide (y.pages.1 ≤ x.pages.2)

/-- Is the context whose POD objects a request names being exchanged (R111)? -/
def State.inExchange (s : State) (x : Inbound) : Bool :=
  match x.op, (s.part x.part).switch with
  | .barrier _ _ _, .exchanging n => (s.part x.part).resident == some x.ctx || n == some x.ctx
  | _, _ => false

/-- May a part of a request be performed now, `before` being the requests ahead of it? -/
def State.mayServe (s : State) (x : Inbound) (before : List Inbound) : Bool :=
  !(before.any x.behind) && !s.inExchange x

/-- One sector part of request `k` of those that are not performed whole, in no order (R182; DESIGN CHOICE, log 1), and with the last one the
answer. -/
def State.serveStep (s : State) (k : Nat) : State :=
  match s.inbox[k]? with
  | none => s
  | some x =>
    if s.mayServe x (s.inbox.take k) = false then s
    else
      let y := s.serveOne x (x.left.getD (Config.pick s.free 27 k x.left.length % x.left.length) 0)
      if y.2.left.isEmpty then { y.1 with inbox := y.1.inbox.eraseIdx k }.answerPeer y.2
      else { y.1 with inbox := modifyAt (fun _ => y.2) y.1.inbox k }

/-- A message that a port drops (R30). -/
def State.drop (s : State) (i : Nat) : State := s.modPort i fun x => { x with drops := x.drops + 1 }

/-- A request is accepted (R30): one of a single sector is performed and answered at once, if none stands before it; the parts of
another are performed one at a time (R182). -/
def State.peerAsked (s : State) (i : Nat) (f : Flit) (tag : Nat) (p : BitVec 2) (c : BitVec 6) (addr : BitVec 52) (op : PeerOp) : State :=
  let x : Inbound := { port := i, dev := f.src, gen := f.gen, tag := tag, part := p, ctx := c, addr := addr, op := op }
  if s.accepts p f.src f.gen (p, c) = false then s.drop i
  else if x.parts ≤ 1 ∧ s.mayServe x s.inbox then
    let y := s.serveOne x 0
    y.1.answerPeer y.2
  else { s with inbox := s.inbox ++ [x] }

/-! ## Responses (R27, R30) -/

/-- The fault that a response's status names, with the requester's detail (R209) and the status bit of an engine (R221). -/
def statusFault (v : BitVec 8) : FaultCode × Nat × Nat :=
  if v = 8 then (.xlate, 4, 0) else if v = 9 then (.prot, 9, 1) else if v = 0x19 then (.eccUncorr, 0, 3)
  else if v = 0x0B then (.rangeLock, 1, 10) else if v = 0x0A then (.misalignAtomic, 0, 1) else (.badSpace, 0, 1)

/-- A barrier instruction hears from the peer that holds its object (R342, R345, R346; DESIGN CHOICE, log 16). `r.width` is its function
and `r.dest` its predicate or register; a BWAIT whose phase has not flipped issues again. -/
def State.barrierAnswer (s : State) (r : ExtReq) (d : List Byte) : State :=
  let v := leNat d
  let ok := fun (t : State) => (t.extDrop r).laneOutcome ⟨r.warp, r.split⟩ r.lane none
  let mask := (((s.warp? r.warp).bind fun w => w.split r.split).map (·.mask)).getD 0
  let pred := fun (t : State) (b : Bool) => t.modWarp r.warp fun w =>
    (lanesOf mask).foldl (fun w l => w.later r.split (.pred l r.dest) b.toNat) w
  match r.width with
  | 1 => if v = 2 then
        (s.extDrop r).laneOutcome ⟨r.warp, r.split⟩ r.lane
          (some { code := .barrierOverflow, counter := r.pc, detail := BitVec.ofNat 64 (r.ptr.toNat % 256) })
      else ok (pred s (v == 1))
  | 4 => ok (pred (if v = 1 then s.acquire r.core 4 else s) (v == 1))
  | 5 => ok (s.modWarp r.warp fun w => w.later r.split (.ureg r.dest) v)
  | 7 =>
    -- the object is initialised: the operation that names it issues again (R340)
    let t := s.extDrop r
    ({ t with probed := t.probed ++ [(r.warp, r.split, r.ptr)] }.modSplit ⟨r.warp, r.split⟩ fun p =>
      { p with wait := .ready, out := none, since := s.cycle + 1 }).warpEnters r.warp
  | 2 =>
    if v = 1 then ok (s.acquire r.core 4)
    else if v = 3 then ok s
    else
      ((s.extDrop r).modSplit ⟨r.warp, r.split⟩ fun p =>
        { p with wait := .ready, out := none, asked := true, since := s.cycle + 1 }).warpEnters r.warp
  | _ => ok s

/-- A WAITE hears the word it waits on (R300): every read of it is an acquire. -/
def State.eventAnswer (s : State) (r : ExtReq) (v : Nat) : State :=
  let s1 := s.extDrop r
  match (s1.warp? r.warp).bind fun w => w.split r.split with
  | some p => match p.wait with
    | .waite _ x =>
      let s2 := s1.acquire r.core 4
      if x.toNat ≤ v then s2.resume ⟨r.warp, r.split⟩ fun p => p.wake (s.cycle + 1) else s2
    | _ => s1
  | none => s1

/-- A load has its bytes: all of them, or those of one of its two pages, which wait for the other's (R26). -/
def State.loadAnswer (s : State) (r : ExtReq) (d : List Byte) : State :=
  match s.halfDone r d none, r.bad with
  | some t, _ => t
  | none, some (code, detail) => s.extFail r code detail 0
  | none, none =>
    ((s.extDrop r).extValue r (leNat (if r.upper then r.have_ ++ d else d ++ r.have_))).laneOutcome ⟨r.warp, r.split⟩ r.lane none

/-- The word that a request to a peer changed: those who wait for it read it again (R75, R300). -/
def State.nudgePeer (s : State) (r : ExtReq) : State := match r.peer with
  | some dev => s.nudge (.peer dev (bits r.ptr.toNat 0 52)) 16
  | none => s

/-- A request to a peer is answered with data. -/
def State.extAnswer (s : State) (r : ExtReq) (d : List Byte) : State :=
  match r.use with
  | 2 => s.extStoreEnd r
  | 3 => (s.extDrop r).jobAnswer r.job d
  | 4 => s.barrierAnswer r d
  | 5 => s.eventAnswer r (leNat d)
  | 6 => s.extDrop r
  | 8 =>
    let q := BitVec.ofNat 6 r.job
    (s.extDrop r).modQueue r.part q fun y => match y.fetch with
      | .waiting rec met t =>
        if (rec.waits.getD r.dest (0, 0)).2.toNat ≤ leNat d then { y with fetch := .waiting rec (modifyAt (fun _ => true) met r.dest) t } else y
      | _ => y
  | 9 => ((s.extDrop r).dropLaunch r.job).nudgePeer r
  | 0 => s.loadAnswer r d
  | 1 => (((s.extDrop r).extValue r (leNat d)).laneOutcome ⟨r.warp, r.split⟩ r.lane none).nudgePeer r
  | _ => s.extDrop r

/-- A response message (R30): it completes the request that it answers, or is dropped. One that answers no request that is outstanding is
dropped too, and counted among the drops (DESIGN CHOICE, log 35). -/
def State.peerAnswered (s : State) (i : Nat) (f : Flit) (tag : Nat) (p : BitVec 2) (c : BitVec 6) (status : BitVec 8) (d : List Byte) :
    State :=
  match s.exts.find? fun r => r.tag == tag && r.peer == some f.src with
  | none => s.drop i
  | some r =>
    if s.accepts r.part f.src f.gen (p, c) = false then s.drop i
    else if status = 0 then s.extAnswer r d
    else
      let x := statusFault status
      s.extFail r x.1 x.2.1 x.2.2

/-! ## A flit arrives (R23, R25, R30) -/

/-- Deliver one message of a flit. -/
def State.deliverMsg (s : State) (i : Nat) (f : Flit) (m : PeerMsg) : State :=
  match m with
  | .request tag p c addr op => if f.type = 1 then s.peerAsked i f tag p c addr op else s.drop i
  | .response tag p c status _ d => if f.type = 2 then s.peerAnswered i f tag p c status d else s.drop i
  | m => if f.type = 4 then s.linkControl i f.src m else s

/-- A flit in sequence (R23, R25): what it returns is taken, its messages are delivered, and one of a channel gives back its credit. A
type other than 1 to 4 is dropped whole, and keeps its place in the sequence (DESIGN CHOICE, log 8). -/
def State.takeFlit (s : State) (i : Nat) (f : Flit) : State :=
  let s1 := s.modPort i fun x => { x with rxSeq := x.rxSeq + 1 }
  if f.type = 0 ∨ 4 < f.type.toNat then s1
  else
    let s2 := (s1.takeAck i f.ack).takeCredit i f.credit
    let s3 := f.msgs.foldl (fun t m => t.deliverMsg i f m) s2
    if f.type = 3 then s3 else s3.oweCredit i (f.vc.toNat % 16)

/-- FLIT_RECEIVE (R25): port `i` takes a flit. One whose CRC fails, or that skips a sequence number, is answered by a NAK; one
that has come before is not delivered again, nor are its credits taken twice. With `flag`, a move of the device itself: a sector part of
request `i` that stands in the port's unit is performed (R182). -/
def execFlitReceive (s : State) : Host.Outcome State Fault Refusal :=
  let i := s.args.i
  let x := s.port i
  match s.args.flit with
  | none => .next (if s.args.flag then s.serveStep i else s)
  | some f =>
    let refuse := s.sendMsg i f.src 2 0 (.nak x.rxSeq)
    if x.state ≠ 2 ∨ x.en = false then .next s
    else if flitSound f = false then .next refuse
    else if f.seq ≠ x.rxSeq then
      .next (if (f.seq - x.rxSeq).toNat < 2 ^ 31 then refuse else s.takeAck i f.ack)
    else .next (s.takeFlit i f)

/-! ## Sessions (R28, R29) -/

/-- OPEN of session entry `i` of partition `p` is written with 1 (R29): the request to open travels on the plane of address 0 (DESIGN
CHOICE, log 8). -/
def State.openSession (s : State) (p : BitVec 2) (i : Nat) : State :=
  let e := (s.part p).session i
  if e.state = 1 ∨ e.state = 2 then s.modSession p i fun x => { x with open_ := true }
  else
    let s1 := s.modSession p i fun x => { x with state := 1, open_ := true }
    match s.plane (BitVec.ofNat 8 i) 0 with
    | some pl => s1.sendMsg pl (BitVec.ofNat 8 i) 2 e.gen (.openSession e.part e.gen false)
    | none => s1.peerLost p (BitVec.ofNat 8 i)

/-- SESSION_OPEN (R29): entry `i` of partition `p`. -/
def execSessionOpen (s : State) : Host.Outcome State Fault Refusal :=
  .next (if s.args.i < 256 then s.openSession s.args.p s.args.i else s)

/-- SESSION_CLOSE (R29): entry `i` of partition `p`; GEN stays. -/
def execSessionClose (s : State) : Host.Outcome State Fault Refusal :=
  .next (if s.args.i < 256 then s.closeSession s.args.p s.args.i else s)

/-! ## Ports (R25, R26, R32, R44) -/

/-- Peers that no plane reaches any more are lost: those whose sessions are opening or open (R32). -/
def State.loseCut (s : State) : State :=
  allParts.foldl (fun t p => ((t.part p).sessions.filter fun e =>
    (e.2.state == 1 || e.2.state == 2) && (t.plane (BitVec.ofNat 8 e.1) 0).isNone).foldl (fun t e => t.peerLost p (BitVec.ofNat 8 e.1)) t) s

/-- Flits that no port carries any more go to the next plane up that reaches the device they are for, in order and before what waits
there (R26): `i` is the port that they were to leave by. Those of a device that none reaches are lost with it. -/
def State.reroute (s : State) (i : Nat) (fs : List Flit) : State :=
  (List.range 18).foldl (fun t k =>
    let mine := fs.filter fun f => t.plane f.dst (4096 * s.planes.getD i 0) == some k
    if mine.isEmpty then t else (t.modPort k fun y => { y with waiting := mine ++ y.waiting }).pump k) s

/-- Is a flit of the link itself, not of a peer: a NAK, or credits alone? -/
def linkOnly (f : Flit) : Bool := f.type == 3 || f.msgs.any fun m => match m with
  | .nak _ => true
  | _ => false

/-- A port goes down (R26): its unacknowledged flits, and behind them those not yet sent, go to the next plane up; a peer that no
plane reaches is lost. -/
def State.portDown (s : State) (i : Nat) (state : BitVec 2) : State :=
  let x := s.port i
  let s1 := s.modPort i fun y => { y with state := state, replay := [], waiting := [], tries := 0, txSeq := 0, rxSeq := 0, credits := [0, 0, 0], owed := [0, 0, 0] }
  (s1.reroute i ((x.replay ++ x.waiting).filter fun f => !linkOnly f)).loseCut

/-- The port of peer `dev` on the plane of port `i` goes down: what port `i` still holds for the peer goes to another plane (R26;
DESIGN CHOICE, log 8). -/
def State.farPortDown (s : State) (i : Nat) (dev : BitVec 8) : State :=
  let x := s.port i
  let mine := fun (f : Flit) => f.dst == dev && !linkOnly f
  let s1 : State := { s with peerDown := s.peerDown ++ [(dev, s.planes.getD i 18)] }
  let s2 := s1.modPort i fun y => { y with replay := y.replay.filter (!mine ·), waiting := y.waiting.filter (!mine ·) }
  (s2.reroute i ((x.replay ++ x.waiting).filter mine)).loseCut

/-- STAY_PORT_DOWN (R26, R44): port `i` goes down and starts training; with `flag`, the port of peer `val` on its plane goes down. -/
def execStayPortDown (s : State) : Host.Outcome State Fault Refusal :=
  let x := s.port s.args.i
  .next (
    if s.args.flag then s.farPortDown s.args.i (BitVec.ofNat 8 s.args.val.toNat)
    else if x.en ∧ (x.state = 2 ∨ x.state = 3) then s.portDown s.args.i 1 else s)

/-- STAY_PORT_TRAINED (R44): port `i` comes up, and grants its first credits (DESIGN CHOICE, log 8); with `flag`, the port of peer `val`
on its plane is up again. -/
def execStayPortTrained (s : State) : Host.Outcome State Fault Refusal :=
  let i := s.args.i
  let x := s.port i
  .next (
    if s.args.flag then { s with peerDown := s.peerDown.filter (· != (BitVec.ofNat 8 s.args.val.toNat, s.planes.getD i 18)) }
    else if x.en ∧ x.state = 1 then
      ((s.modPort i fun x => { x with state := 2, owed := (List.range 3).map fun v => Config.portCredits v % 1024 }).sendCredits i).pump i
    else s)

/-- LINK_RETRAIN_COMPLETE (R25): port `i` is up again and replays; a management event is raised (R48). With `flag` a CXL port, 0 to 7, or
the host link, 8, has retrained, and the lifetime record counts it (R66). -/
def execLinkRetrainComplete (s : State) : Host.Outcome State Fault Refusal :=
  let i := s.args.i
  .next (
    if s.args.flag then (if i < 8 then s.noteRetrain (32 + i) else if i = 8 then s.noteRetrain 64 else s)
    else if (s.port i).state = 3 then ((s.modPort i fun x => { x with state := 2 }).pump i).raiseEvt 3 else s)

/-- PEER_RING_TIMEOUT (R32, R33): request `i` has had no answer within the ring timeout; its peer is lost. -/
def execPeerRingTimeout (s : State) : Host.Outcome State Fault Refusal :=
  match s.exts.find? fun r => r.tag == s.args.i with
  | none => .next s
  | some r => match r.peer with
    | some dev => .next (if r.deadline ≤ s.cycle then s.peerLost r.part dev else s)
    | none => .next s

/-- EN of a port is written (R44): held down with 0, training with 1. -/
def State.writePortEn (s : State) (i : Nat) (en : Bool) : State :=
  let x := s.port i
  if en = x.en then s
  else if en then s.modPort i fun x => { x with en := true, state := 1 }
  else (s.modPort i fun x => { x with en := false }).portDown i 0

end Sys2Proof.Machine
end

