-- ==== Sys2Proof/Machine/MemWindow.lean ====
section
/-! DEFINITION. The host's accesses through the memory window (R46, R47), errors of the memories (R17), the far tier's ports
and sets (R19, R45), and host requests without a completion (R148). -/
namespace Sys2Proof.Machine

/-! ## The memory window (R46, R47, R60) -/

/-- Row virtual address of an offset of aperture `p`. -/
def State.windowVa (s : State) (p : BitVec 2) (off : Nat) : Nat := (s.part p).mwBase.toNat * 2 ^ 16 + off

/-- An access through aperture `p`, with the data of a write. -/
def State.windowAcc (s : State) (p : BitVec 2) (off size : Nat) (data : Option (List Byte)) : WindowAcc :=
  { part := p, ctx := (s.part p).mwCtx, va := s.windowVa p off, size := size, data := data }

/-- The agent of an access: its context, on behalf of no core. -/
def WindowAcc.agent (x : WindowAcc) : Agent := { part := x.part, ctx := x.ctx }

/-- The sector parts of an access, and the numbers of those that are not performed yet (R182). -/
def WindowAcc.parts (x : WindowAcc) : List (Nat × Nat) := partsOf x.va x.size
def WindowAcc.left (x : WindowAcc) : List Nat := (List.range x.parts.length).filter fun k => !(x.did.any fun y => y.1 == k)

/-- Physical key of a part of an access through an aperture, none for an unmapped or a protected page. -/
def State.windowKey (s : State) (ag : Agent) (va : Nat) (write : Bool) : State × Option Nat :=
  if 2 ^ 57 ≤ va then (s, none)
  else match s.translate ag va with
    | (s1, .ok e) => (s1, if write ∧ e.w = false then none else some (e.key + va % 2 ^ 16))
    | (s1, .error _) => (s1, none)

/-- An access met an unmapped or protected page. -/
def State.windowErr (s : State) (p : BitVec 2) : State := s.modPart p fun x => { x with mwErr := true }

/-- A read that is answered with all ones. -/
def allOnes (n : Nat) : List Byte := List.replicate n 0xFF

/-- Sector part `k` of an access: read or written whole at its home slice, that of a silent expander too (DESIGN CHOICE, log 31); one of
an unmapped or protected page is not performed, and sets ERR. -/
def State.windowPart (s : State) (x : WindowAcc) (k : Nat) : State × WindowAcc :=
  let ended := fun (d : List Byte) => { x with did := x.did ++ [(k, d)] }
  match x.parts[k]? with
  | none => (s, ended [])
  | some (i, n) => match s.windowKey x.agent (x.va + i) x.data.isSome with
    | (t, none) => (t.windowErr x.part, { ended [] with missing := true })
    | (t, some key) => match x.data with
      | some d => (t.writeHome key ((d.drop i).take n), ended [])
      | none => (t, { ended (t.homeBytes key n) with
          poisoned := x.poisoned || t.poison.contains (key / 32) || t.farDead key })

/-- An access whose parts are all performed: a read is answered, with all ones where a page was missing, and with a poisoned completion
for a poisoned sector, and for bytes of an expander that is silent (DESIGN CHOICE, log 31). -/
def State.windowDone (s : State) (x : WindowAcc) : State :=
  if x.data.isSome then s
  else if x.missing then { s with hostReply := some ⟨allOnes x.size, false⟩ }
  else if x.poisoned then { s.raiseEvt 4 with hostReply := some ⟨allOnes x.size, true⟩ }
  else { s with hostReply := some ⟨(List.range x.parts.length).flatMap fun k => (x.did.lookup k).getD [], false⟩ }

/-- May an access be performed now, `before` being those ahead of it? The host's writes are performed in their order, and no read passes
one (R47); reads are in no order (DESIGN CHOICE, log 31). -/
def mayAccess (before : List WindowAcc) : Bool := before.all fun y => y.data.isNone

/-- An access through an aperture that is on: one within a sector is performed at once, if nothing stands before it; the parts of
another are performed one at a time (R182). -/
def State.windowAsk (s : State) (x : WindowAcc) : State :=
  if x.parts.length ≤ 1 ∧ mayAccess s.windows then
    let y := s.windowPart x 0
    y.1.windowDone y.2
  else { s with windows := s.windows ++ [x] }

/-- One sector part of access `k` of those that are not performed whole, in no order (R182; DESIGN CHOICE, log 1). -/
def State.windowStep (s : State) (k : Nat) : State :=
  match s.windows[k]? with
  | none => s
  | some x =>
    if mayAccess (s.windows.take k) = false then s
    else
      let y := s.windowPart x (x.left.getD (Config.pick s.free 28 k x.left.length % x.left.length) 0)
      if y.2.left.isEmpty then { y.1 with windows := y.1.windows.eraseIdx k }.windowDone y.2
      else { y.1 with windows := modifyAt (fun _ => y.2) y.1.windows k }

/-- HOST_MWIN_READ (R47): `size` bytes at offset `addr` of aperture `p`; all ones with the window off. With `flag`, a move of the device
itself: a sector part of access `i` is performed. -/
def execHostMwinRead (s : State) : Host.Outcome State Fault Refusal :=
  let a := s.args
  if a.flag then .next (s.windowStep a.i)
  else match s.wakeFor .hostMwinRead with
    | some t => .next t
    | none => .next (
        if 2 ^ 36 < a.addr + a.size then s
        else if (s.part a.p).mwEn = false then { s with hostReply := some ⟨allOnes a.size, false⟩ }
        else s.windowAsk (s.windowAcc a.p a.addr a.size none))

/-- HOST_MWIN_WRITE (R47): the bytes `data` at offset `addr` of aperture `p`, dropped with the window off. With `flag`, a move of the device
itself: a sector part of access `i` is performed. -/
def execHostMwinWrite (s : State) : Host.Outcome State Fault Refusal :=
  let a := s.args
  if a.flag then .next (s.windowStep a.i)
  else match s.wakeFor .hostMwinWrite with
    | some t => .next t
    | none => .next (
        if 2 ^ 36 < a.addr + a.data.length then s
        else if (s.part a.p).mwEn = false then s
        else s.windowAsk (s.windowAcc a.p a.addr a.data.length (some a.data)))

/-! ## Memory errors (R17, R66, R221) -/

/-- MEMORY_ERROR_CORRECTED (R17): in sector `addr` of memory package `i`, or with `flag` in SRAM macro `i`. Engine operations
that have touched the sector report it (R221). -/
def execMemoryErrorCorrected (s : State) : Host.Outcome State Fault Refusal :=
  let s1 := s.noteEcc false (if s.args.flag then 64 + s.args.i else s.args.i % 64)
  let report := fun (j : Job) => if j.touches s.args.addr then { j with status := j.status ||| 4 } else j
  .next (if s.args.flag then s1 else { s1 with jobs := s1.jobs.map report })

/-- MEMORY_ERROR_UNCORRECTABLE (R17): sector `addr` of memory package `i` is poisoned. An error in an expander's sector is counted under the
package number that the event brings (DESIGN CHOICE, log 85). -/
def execMemoryErrorUncorrectable (s : State) : Host.Outcome State Fault Refusal :=
  let s1 := (s.noteEcc true (s.args.i % 64)).raiseEvt 4
  .next { s1 with poison := if s.poison.contains s.args.addr then s.poison else s.args.addr :: s.poison }

/-! ## CXL ports and sets (R18, R19, R45) -/

/-- A set register as software reads it, and a value written as its fields. -/
def CxlSet.word (x : CxlSet) : Nat := x.ports.toNat + 2 ^ 8 * x.part.toNat + 2 ^ 10 * x.num.toNat + 2 ^ 12 * x.en.toNat
def cxlSetOf (v : Nat) : CxlSet :=
  { ports := BitVec.ofNat 8 v, part := BitVec.ofNat 2 (bits v 8 2), num := BitVec.ofNat 2 (bits v 10 2), en := v.testBit 12 }

/-- May set `j` be enabled as `x` (R45)? -/
def State.setAllowed (s : State) (j : Nat) (x : CxlSet) : Bool :=
  let cap := fun (i : Nat) => (s.cxlPorts.getD i {}).cap
  let others := ((List.range 8).filter (· != j)).map fun i => s.cxlSets.getD i {}
  let on := others.filter (·.en)
  [1, 2, 4, 8].contains x.portList.length && (x.portList.all fun i => cap i == cap (x.portList.headD 0)) &&
  (on.all fun y => y.ports &&& x.ports == 0) && (s.part x.part).state == 2 &&
  !(on.any fun y => y.part == x.part && y.num == x.num)

/-- Indices of the entries of a table that hold a byte other than zero: `n` entries at key `t`. -/
def State.listedEntries (s : State) (t n : Nat) : List Nat :=
  ((s.mem.filter fun c => decide (t ≤ c.1) && decide (c.1 < t + 8 * n)).map fun c => (c.1 - t) / 8).eraseDups

/-- Targets of the valid leaves below a table (R149 to R151). -/
def State.leafTargets (s : State) (p : BitVec 2) : List (Nat × Nat) → Nat → Nat → List Nat
  | [], _, _ => []
  | (_, n) :: rest, lvl, table =>
    let t := physKey p table
    (s.listedEntries t (2 ^ n)).flatMap fun i =>
      let e := s.homeNat (t + 8 * i) 8
      if e.testBit 0 = false then []
      else if lvl = 3 ∨ (lvl = 2 ∧ e.testBit 1) then [bits e 44 4]
      else s.leafTargets p rest (lvl + 1) (bits e 8 40 * 2 ^ 8)

/-- Is a page of some context of a set's partition mapped on the set (R45)? -/
def State.setMapped (s : State) (x : CxlSet) : Bool :=
  (s.part x.part).ctxs.any fun c => decide (c.2.root ≠ 0) &&
    (s.leafTargets x.part levels 0 c.2.root.toNat).contains (8 + x.num.toNat)

/-- A write of set register `j` (R45). -/
def State.writeSet (s : State) (j v : Nat) : State :=
  let old := s.cxlSets.getD j {}
  let new := cxlSetOf v
  let put := { s with cxlSets := modifyAt (fun _ => new) s.cxlSets j }
  if new = old then s
  else if old.en ∧ s.setMapped old then s.raiseEvt 7
  else if new.en ∧ s.setAllowed j new = false then s.raiseEvt 7
  else put

/-- CXLP_SET_ENABLE (R45): `val`, with EN set, is written to set `i`. -/
def execCxlpSetEnable (s : State) : Host.Outcome State Fault Refusal :=
  .next (if s.args.i < 8 ∧ (cxlSetOf s.args.val.toNat).en then s.writeSet s.args.i s.args.val.toNat else s)

/-- CXLP_SET_DISABLE (R45): the enabled set `i` is disabled, or changed to `val`. -/
def execCxlpSetDisable (s : State) : Host.Outcome State Fault Refusal :=
  .next (if s.args.i < 8 ∧ (s.cxlSets.getD s.args.i {}).en then s.writeSet s.args.i s.args.val.toNat else s)

/-- CXL_EXPANDER_TIMEOUT (R19): the expander on port `i` has not responded for 2 ms. -/
def execCxlExpanderTimeout (s : State) : Host.Outcome State Fault Refusal :=
  .next (if (s.cxlPorts.getD s.args.i {}).state = 2 then
      { s with cxlPorts := modifyAt (fun x => { x with state := 3 }) s.cxlPorts s.args.i }.raiseEvt 2
    else s)

/-! ## Host requests (R148) -/

/-- HOST_COMPLETION_TIMEOUT (R148): request `i` to the host has had no completion for 10 ms, or with `flag` is completed as
Unsupported Request or Completer Abort. -/
def execHostCompletionTimeout (s : State) : Host.Outcome State Fault Refusal :=
  match s.exts.find? fun r => r.tag == s.args.i with
  | none => .next s
  | some r => .next (if r.peer.isNone ∧ (s.args.flag ∨ r.deadline ≤ s.cycle) then s.extFail r .xlate 3 0 else s)

end Sys2Proof.Machine
end

