-- ==== Sys2Proof/Machine/Rate.lean ====
section
/-! DEFINITION. Rate-classed sets (R401 to R413): the instructions that open a sweep, ask whether a member is due, visit,
read and set it. -/
namespace Sys2Proof.Machine

/-! ## Headers (R403) -/

structure RateHdr where
  v1 : Nat := 0
  v0 : Nat := 0
  s1 : Nat := 0
  s0 : Nat := 0
  r : Nat := 0
  visited : Bool := false
  two : Bool := false
  propagate : Bool := false
  deriving DecidableEq, Repr

/-- Bytes 8 to 31 of a row. -/
def rateHdrOf (b : List Byte) : RateHdr :=
  { v1 := fieldOf b 0 4, v0 := fieldOf b 4 4, s1 := fieldOf b 8 2, s0 := fieldOf b 10 2, r := byteAt b 12 % 16,
    visited := (byteAt b 13).testBit 0, two := (byteAt b 13).testBit 1, propagate := (byteAt b 13).testBit 2 }

def RateHdr.bytes (h : RateHdr) : List Byte :=
  leBytes 4 h.v1 ++ leBytes 4 h.v0 ++ leBytes 2 h.s1 ++ leBytes 2 h.s0 ++ leBytes 1 h.r ++
    leBytes 1 (h.visited.toNat + 2 * h.two.toNat + 4 * h.propagate.toNat) ++ List.replicate 10 0

/-- Fields of the parameters (R401). -/
structure RatePar where
  low : Nat
  high : Nat
  prop : Nat
  rmax : Nat
  sweep : Nat
  deriving DecidableEq, Repr

def TDesc.par (d : TDesc) : RatePar :=
  ⟨bits d.rate 0 32, bits d.rate 32 32, bits d.rate 64 32, bits d.rate 96 4, bits d.rate 112 16⟩

/-! ## Arithmetic (R405, R409 to R411) -/

/-- Due on sweep n. -/
def rateDue (n r : Nat) : Bool := n % 2 ^ r == 0

/-- A NaN becomes the canonical one (R229). -/
def canon32 (x : Nat) : Nat := if (FloatFmt.f32.decode x).isNaN then FloatFmt.f32.nanCode else x

/-- A change: a magnitude, or +∞ (none). -/
abbrev Change := Option Dyadic

/-- |x − y|, exact; +∞ where it is infinite or NaN. -/
def changeOf (x y : Nat) : Change :=
  match FloatFmt.f32.decode x, FloatFmt.f32.decode y with
  | .fin a m e, .fin b n k => some ((Dyadic.ofFin a m e).add (Dyadic.ofFin (!b) n k)).abs
  | _, _ => none

/-- A threshold as a magnitude: +∞ is none. -/
def threshold (x : Nat) : Change :=
  match FloatFmt.f32.decode x with
  | .fin a m e => some (Dyadic.ofFin a m e)
  | _ => none

/-- Is a below b? -/
def Change.below (a b : Change) : Bool :=
  match a, b with
  | none, _ => false
  | some _, none => true
  | some x, some y => x.lt y

/-- A visit with value x on sweep n (R409). -/
def rateVisit (p : RatePar) (h : RateHdr) (x : Nat) : RateHdr :=
  let c : Change := if h.visited then changeOf x h.v1 else none
  let h1 : RateHdr :=
    if h.visited ∧ h.s1 = p.sweep then { h with v1 := canon32 x }
    else
      let h0 := if h.visited then { h with v0 := h.v1, s0 := h.s1, two := true } else h
      { h0 with v1 := canon32 x, s1 := p.sweep, visited := true }
  let r := if c.below (threshold p.high) = false then 0
    else if c.below (threshold p.low) then min (h1.r + 1) p.rmax
    else h1.r
  { h1 with r := r, propagate := (threshold p.prop).below c }

/-- V1 + (V1 − V0)·a ÷ b, rounded once (R410): with a sign of zero as the sum of its two terms has it. -/
def rateExtrapolate (v1 v0 a b : Nat) : Nat :=
  let f := FloatFmt.f32
  match f.decode v1, f.decode v0 with
  | .nan _, _ => f.nanCode
  | _, .nan _ => f.nanCode
  | .inf m, .inf n => if m = n then f.nanCode else f.signed m f.infCode
  | .inf m, .fin _ _ _ => f.signed m f.infCode
  | .fin _ _ _, .inf n => f.signed (!n) f.infCode
  | .fin s1 m1 e1, .fin s0 m0 e0 =>
    let d1 := Dyadic.ofFin s1 m1 e1
    let d := (d1.mul ⟨b, 0⟩).add ((d1.add (Dyadic.ofFin (!s0) m0 e0)).mul ⟨a, 0⟩)
    if d.n = 0 then f.signed (m1 == 0 && s1 && !s0) 0
    else (f.roundQuot {} (decide (d.n < 0)) d.n.natAbs b d.e).code

/-- The value that RREADX reads (R410). -/
def rateRead (n : Nat) (h : RateHdr) : Nat :=
  let a := (n + 2 ^ 16 - h.s1) % 2 ^ 16
  let b := (h.s1 + 2 ^ 16 - h.s0) % 2 ^ 16
  if h.two = false ∨ a = 0 ∨ b = 0 then h.v1 else rateExtrapolate h.v1 h.v0 a b

/-- RSET from a word (R411). -/
def rateSet (p : RatePar) (w : Nat) : RateHdr :=
  let v := canon32 (bits w 0 32)
  { v1 := v, v0 := v, s1 := p.sweep, s0 := p.sweep, r := min (bits w 32 4) p.rmax, visited := true }

/-! ## Members (R402, R404, R406) -/

/-- The set of a binding, checked as R406 lays down. -/
def State.rateSetOf (s : State) (ag : Agent) (b : BitVec 128) : TRes TDesc :=
  (s.tableCheck ag b .any).andThen fun t d => (t, if tbRate b then .ok d else .error (.fault .prot 0 7))

/-- A rate operation on the member of a key: `f` gives its new header, if it writes one, and the lane's results. It is a
read-modify-write at home, at PKG scope (R404): the lane's own accesses to the header, those of its split's uniform loads among them,
and the quad's write-back come first (R188), and an engine's lock stops it (DEDUCED, log 24). Once the member is reached the core's
lines over the row go, however the operation ends. -/
def State.rateOp (s : State) (ag : Agent) (b : BitVec 128) (k : Nat) (write : Bool)
    (f : RatePar → RateHdr → RateHdr × List (Dest × Nat)) : TRes (List (Dest × Nat)) :=
  (s.rateSetOf ag b).andThen fun t d =>
  (t.pointRef ag d (tbFar b) true k).andThen fun t x =>
  match x with
  | none => (t, .error (.fault .noRow 0 k))
  | some ref =>
    (t.hwKey ag false ref).andThen fun t key =>
    let core := ag.core.getD 0
    let cls := t.classOf core key
    let count := fun (t : State) (w : Bool) => (t.countCore core cls w 32).countTable ag.part d.cset cls w 32
    let t0 := t.dropLines core key d.width
    let t1 := if write then count (count t0 false) true else count t0 false
    match t1.rowLocked ag (key + 8) 24 with
    | some w => (t1, .error (.fault .rangeLock ref w.toNat))
    | none =>
      let ps : List (Place × Nat) := [(.mem (key + 8), 24)]
      let t2 := (t1.settleMeeting ag.warp ag.lane ps).bindIf ag.warp fun y => (y.lane == ag.lane || y.lane.isNone) && placesOverlap y.unread ps
      ((t2.writeBack (quadOf core)).idxRead ag (ref + 8) 24).andThen fun t hb =>
        let y := f d.par (rateHdrOf hb)
        ((if write then t.homeWrite (key + 8) y.1.bytes else t), .ok y.2)

/-- A rate instruction over the executing lanes, in ascending order. While a mutation of the table is begun and not committed it waits, so
that every lane's table step sees all of the mutation or nothing of it (R203, R404; DESIGN CHOICE, log 81). -/
def State.rates (s : State) (i : Instr) (sw : Bool) (u : Uses) (b : BitVec 3) (k : BitVec 7) (write : Bool)
    (f : Issue → State → Nat → RatePar → RateHdr → RateHdr × List (Dest × Nat)) : Host.Outcome State Fault Refusal :=
  s.issueWith i sw u fun c t =>
    if t.committing c.g.part c.g.ctx (c.p.tbind b.toNat) ∧ u.left c ≠ [] then t.waitAt c .ready
    else ((u.left c).foldl (fun r l =>
      r.addT c l (r.st.rateOp (c.hw (some l)) (c.p.tbind b.toNat) (t.src c 0 l k.toNat 16) write (f c t l)))
      { st := t : LaneRun }).finish c

/-- Open the next sweep of a set: a read-modify-write of the descriptor's SWEEP at home, at PKG scope (R404, R406), which cannot fault
once the binding has passed its checks (R407): an engine's lock over the descriptor does not stop it (DEDUCED, log 24). -/
def State.sweepOp (s : State) (ag : Agent) (b : BitVec 128) : TRes Nat :=
  let core := ag.core.getD 0
  ((s.writeBack (quadOf core)).rateSetOf ag b).andThen fun t d =>
  (t.hwKey ag true (tbPtr b + 0x3E)).andThen fun t key =>
    let n := (d.par.sweep + 1) % 2 ^ 16
    let t1 := t.bindIf ag.warp fun y => placesOverlap y.unread [(.mem key, 2)]
    ((t1.dropLines core key 2).homeWrite key (leBytes 2 n), .ok n)

def execRsweep (sw : Bool) (b : BitVec 3) (d : BitVec 6) (s : State) : Host.Outcome State Fault Refusal :=
  s.issueWith (.rsweep sw b d) sw { orders := true, tbs := [b.toNat] } fun c t =>
    match t.sweepOp (c.hw none) (c.p.tbind b.toNat) with
    | (t1, .ok n) => (t1.putLater c [(.ureg d.toNat, n)]).complete c
    | (t1, .error (.fault code addr detail)) => t1.faultAt c code c.p.mask (BitVec.ofNat 64 addr) detail
    | (t1, .error .retry) => t1

def execRdue (sw : Bool) (b : BitVec 3) (k : BitVec 7) (p : BitVec 3) (s : State) : Host.Outcome State Fault Refusal :=
  s.rates (.rdue sw b k p) sw (tableUses b [] [] [(k.toNat, 16)]) b k false fun _ _ l par h =>
    (h, [(.pred l p.toNat, (rateDue par.sweep h.r).toNat)])

def execRvisit (sw : Bool) (b : BitVec 3) (c k : BitVec 7) (p : BitVec 3) (s : State) : Host.Outcome State Fault Refusal :=
  s.rates (.rvisit sw b c k p) sw (tableUses b [] [] [(c.toNat, 8), (k.toNat, 16)]) b k true fun i t l par h =>
    let h' := rateVisit par h (t.src i 1 l c.toNat 8)
    (h', [(.pred l p.toNat, h'.propagate.toNat)])

def execRreadh (sw : Bool) (b : BitVec 3) (d k : BitVec 7) (s : State) : Host.Outcome State Fault Refusal :=
  s.rates (.rreadh sw b d k) sw (tableUses b [] [(d.toNat, 8)] [(k.toNat, 16)]) b k false fun i _ l _ h =>
    (h, [(i.dst l d.toNat 8, h.v1)])

def execRreadx (sw : Bool) (b : BitVec 3) (d k : BitVec 7) (s : State) : Host.Outcome State Fault Refusal :=
  s.rates (.rreadx sw b d k) sw (tableUses b [] [(d.toNat, 8)] [(k.toNat, 16)]) b k false fun i _ l par h =>
    (h, [(i.dst l d.toNat 8, rateRead par.sweep h)])

def execRset (sw : Bool) (b : BitVec 3) (v k : BitVec 7) (s : State) : Host.Outcome State Fault Refusal :=
  s.rates (.rset sw b v k) sw (tableUses b [] [] [(v.toNat, 16), (k.toNat, 16)]) b k true fun i t l par _ =>
    (rateSet par (t.src i 1 l v.toNat 16), [])

end Sys2Proof.Machine
end

