-- ==== Sys2Proof/Machine/Image.lean ====
section
/-! DEFINITION. The image of a context that is switched out: workgroup save areas and warp save areas, byte for byte (R127 to
R133). -/
namespace Sys2Proof.Machine

/-- Zero bytes up to a multiple of `n`. -/
def padTo (n : Nat) (b : List Byte) : List Byte := b ++ List.replicate ((n - b.length % n) % n) 0

/-- A split block (R130); that of an invalid split is all zeros. -/
def splitBlock : Option Split → List Byte
  | none => List.replicate 1024 0
  | some p =>
    let stack := p.defer.reverse.flatMap fun d => leBytes 4 d.1.toNat ++ List.replicate 4 0 ++ leBytes 8 d.2.toNat
    (List.range 64).flatMap (fun n => leBytes 8 (p.ureg n).toNat) ++
    (List.range 8).flatMap (fun n => leBytes 16 (p.tbind n).toNat) ++
    (List.range 8).flatMap (fun n => leBytes 16 (p.qbind n).toNat) ++
    stack ++ List.replicate (128 - stack.length) 0 ++
    leBytes 8 p.mconf.toNat ++ leBytes 8 p.written.toNat ++ List.replicate 112 0

/-- Predicate `n` of the warp, a bit for each lane; p7 is saved as all ones (R131). -/
def Warp.predMask (w : Warp) (n : Nat) : Nat :=
  (List.range 32).foldl (fun m l => if (w.lane l).pred n then m + 2 ^ l else m) 0

/-- Predicates and lane state, 768 bytes (R131). -/
def Warp.laneState (w : Warp) : List Byte :=
  (List.range 8).flatMap (fun n => leBytes 4 (w.predMask n)) ++
  (List.range 32).map (fun l => BitVec.ofNat 8 (w.lane l).fpflags.toNat) ++ List.replicate 192 0 ++
  (List.range 32).flatMap (fun l => leBytes 8 (w.lane l).sr.toNat) ++ List.replicate 256 0

/-- The slices (R132): blocks of 32 slices, 16 bytes for each lane. -/
def Warp.sliceBytes (w : Warp) : List Byte :=
  (List.range (w.slicesA / 32)).flatMap fun k => (List.range 32).flatMap fun l => leBytes 16 ((w.lane l).get (32 * k) 32)

/-- The fault record of a save area: that of the rung whose handler runs in the warp (R223); else the field of `%fmask` alone (R115,
R129). -/
def Warp.savedRecord (w : Warp) : List Byte :=
  match w.frec with
  | some r => if w.handler.any (·.runs) then r.bytes else List.replicate 4 0 ++ leBytes 4 w.fmask.toNat ++ List.replicate 56 0
  | none => List.replicate 4 0 ++ leBytes 4 w.fmask.toNat ++ List.replicate 56 0

/-- A warp save area (R128, R223): a handler split stands in its subject's entry, with the record of its rung. -/
def Warp.saveArea (w : Warp) (g : Workgroup) : List Byte :=
  let head := (w.header g w.splits none).take 192 ++ w.savedRecord
  let blocks := (List.range 4).flatMap fun n => splitBlock (w.split n)
  let shapes := (List.range w.hCount).flatMap fun n => leBytes 64 (w.shape n).toNat
  let tiles := (List.range w.tCount).flatMap fun n => leBytes 9248 (w.tile n).toNat
  let accs := (List.range w.cCount).flatMap fun n => leBytes 16384 (w.acc n).toNat
  padTo 4096 (padTo 256 (padTo 256 (head ++ blocks ++ w.laneState ++ w.sliceBytes ++ shapes) ++ tiles) ++ accs)

/-- A barrier object's 32 bytes (R340). -/
def Barrier.bytes (x : Barrier) : List Byte :=
  leBytes 2 x.expected.toNat ++ [BitVec.ofNat 8 x.fixed.toNat, BitVec.ofNat 8 x.init.toNat] ++ leBytes 2 x.arrived.toNat ++
  leBytes 2 x.phase.toNat ++ leBytes 4 x.pending.toNat ++ leBytes 4 x.current.toNat ++ leBytes 4 x.last.toNat ++
  leBytes 2 x.registered.toNat ++ leBytes 2 x.owed.toNat ++ leBytes 8 x.owner.toNat

/-- The scratchpad reservation, CORE barrier objects included (R78). -/
def Workgroup.scratchArea (g : Workgroup) : List Byte :=
  g.scratch.bytes 0 (1024 * g.tmpl.scratchKiB) ++
  (List.range (8 * g.tmpl.barGranules)).flatMap fun i => (Sparse.get {} g.bars i : Barrier).bytes

/-- Lowest-numbered first. -/
def insertWarp (w : Warp) : List Warp → List Warp
  | [] => [w]
  | x :: xs => if w.num < x.num then w :: x :: xs else x :: insertWarp w xs

/-- A workgroup save area (R127). The manual lays out no bytes of a job record, which stands as zeros (DESIGN CHOICE, log 29). -/
def State.wgArea (s : State) (g : Workgroup) : List Byte :=
  -- a prologue that was stopped has a record too (R107)
  let records := (s.jobs.filter fun j => j.wg == g.id).length + g.prologue.isSome.toNat
  let ws := (s.warpsOf g.id).foldl (fun a w => insertWarp w a) []
  let head := leBytes 4 g.num.toNat ++ [BitVec.ofNat 8 ws.length, BitVec.ofNat 8 (rankOf g.core)] ++ leBytes 2 g.tmpl.scratchKiB ++
    [BitVec.ofNat 8 g.tmpl.barGranules] ++ leBytes 2 records ++ [BitVec.ofNat 8 g.core] ++ List.replicate 244 0
  padTo 4096 (padTo 4096 (head ++ List.replicate (64 * records) 0) ++ g.scratchArea) ++ ws.flatMap fun w => w.saveArea g

/-- The image of a context: the save areas of its workgroups, core by core (R133; the order is the model's, DESIGN CHOICE, log 29). -/
def State.image (s : State) (p : BitVec 2) (c : BitVec 6) : List Byte :=
  (List.range 128).flatMap fun k =>
    (s.wgs.filter fun g => g.part == p && g.ctx == c && g.core == k).flatMap fun g => s.wgArea g

end Sys2Proof.Machine
end

