-- ==== Sys2Proof/Machine/Switch.lean ====
section
/-! DEFINITION. Contexts that come and go: eligibility and switches (R108 to R113, R138, R299), KILL (R61, R113), the CONTEXT
and PARTITION rungs (R217 to R219), workgroups that end or are lost (R217, R220), and partitions created and deleted (R58,
R426). -/
namespace Sys2Proof.Machine

/-! ## Priority and eligibility (R109) -/

/-- The greater of two priorities, `none` being no pending work. -/
def maxPrio : Option Nat → Option Nat → Option Nat
  | some a, some b => some (max a b)
  | a, none => a
  | none, b => b

/-- Priority of an enabled queue's records that have not Started (R109). -/
def Queue.prio (x : Queue) : Option Nat :=
  if x.en = false then none
  else match x.fetch with
    | .waiting r _ _ => some r.prio
    | _ => if x.left = 0 then none else some 0

/-- Has a launch a warp that has not exited (R109)? -/
def State.liveWarps (s : State) (l : Launch) : Bool := s.wgs.any fun g => g.launch == l.id && (s.warpsOf g.id).any fun w => !w.exited

/-- The priority of a context's pending work; none without any (R109). A launch counts while its queue is enabled and it is not done, or
while it has live warps. -/
def State.ctxPrio (s : State) (p : BitVec 2) (c : BitVec 6) : Option Nat :=
  let qs := ((s.part p).queues.filter fun e => e.2.ctx == c).map fun e => e.2.prio
  let on := fun (l : Launch) => l.queue.any fun q => ((s.part p).queue q).en
  let ls := (s.launches.filter fun l => l.part == p && l.ctx == c && (s.liveWarps l || on l && !s.workDone l)).map fun l => some l.prio
  (qs ++ ls).foldl maxPrio none

/-- A context that may be switched in (R109, R217). -/
def State.eligibleCtx (s : State) (p : BitVec 2) (c : BitVec 6) : Bool :=
  let x := s.ctx p c
  x.valid && (x.state == .free || x.state == .swapped) && x.raised.isNone && (s.ctxPrio p c).isSome

/-- Is `a` before `b` as the incoming context: higher priority, then longer since it was resident, then lower number? -/
def State.comesBefore (s : State) (p : BitVec 2) (a b : BitVec 6) : Bool :=
  let pa := (s.ctxPrio p a).getD 0
  let pb := (s.ctxPrio p b).getD 0
  if pa ≠ pb then decide (pb < pa)
  else
    let ta := (s.ctx p a).lastResident
    let tb := (s.ctx p b).lastResident
    if ta ≠ tb then decide (ta < tb) else decide (a.toNat < b.toNat)

/-- The incoming context: the best of the eligible contexts other than the resident one (R109). -/
def State.incoming (s : State) (p : BitVec 2) : Option (BitVec 6) :=
  (((List.range 64).map (BitVec.ofNat 6)).filter fun c => (s.part p).resident != some c && s.eligibleCtx p c).foldl
    (fun (o : Option (BitVec 6)) c => match o with
      | some b => if s.comesBefore p c b then some c else some b
      | none => some c) none

/-- May a switch start: none is under way, and the image to come is staged (R110)? -/
def State.canSwitch (s : State) (p : BitVec 2) : Bool :=
  let x := s.part p
  x.state == 2 && x.switch == .none && x.staged && x.writeback.isNone && x.raised.isNone && s.pkgState == 0

/-- The incoming context when the resident one's time slice has run out (R109); a slice of 0 has run out when it has no work (R108). A
resident context without pending work has no priority: that of any other is at least equal (DEDUCED, log 34). -/
def State.sliceDue (s : State) (p : BitVec 2) : Option (BitVec 6) :=
  let x := s.part p
  match x.resident, s.incoming p with
  | some c, some n =>
    let own := s.ctxPrio p c
    let ran := if x.sliceUs = 0 then own.isNone else decide (x.residentAt + x.sliceUs.toNat * Config.cyclesPerUs ≤ s.cycle)
    if s.canSwitch p ∧ ran ∧ own.getD 0 ≤ (s.ctxPrio p n).getD 0 then some n else none
  | _, _ => none

/-- CONTEXT_SLICE_EXPIRY (R109, R110) in partition `p`: issue stops. -/
def execContextSliceExpiry (s : State) : Host.Outcome State Fault Refusal :=
  match s.sliceDue s.args.p with
  | some n => .next (s.modPart s.args.p fun x => { x with switch := .halting (some n) })
  | none => .next s

/-- The context that pre-empts the resident one, or comes in where none is resident (R109). Any priority is higher than that of a
resident context without pending work (DEDUCED, log 34). -/
def State.preemptDue (s : State) (p : BitVec 2) : Option (BitVec 6) :=
  let x := s.part p
  match s.incoming p with
  | none => none
  | some n =>
    if s.canSwitch p = false then none
    else match x.resident with
      | none => some n
      | some c =>
        let higher := match s.ctxPrio p c with
          | some a => decide (a < (s.ctxPrio p n).getD 0)
          | none => true
        if x.residentAt + x.minUs.toNat * Config.cyclesPerUs ≤ s.cycle ∧ higher = true then some n else none

/-- CONTEXT_PREEMPT (R109, R110) in partition `p`. With no resident context there is nothing to halt. -/
def execContextPreempt (s : State) : Host.Outcome State Fault Refusal :=
  match s.preemptDue s.args.p with
  | some n =>
    .next (s.modPart s.args.p fun x => { x with switch := if x.resident.isNone then .exchanging (some n) else .halting (some n) })
  | none => .next s

/-! ## What belongs to a context -/

def State.wgOf (s : State) (p : BitVec 2) (c : BitVec 6) (gid : Nat) : Bool :=
  match s.wg? gid with
  | some g => g.part == p && g.ctx == c
  | none => false

def State.warpOf (s : State) (p : BitVec 2) (c : BitVec 6) (wid : Nat) : Bool :=
  match s.warp? wid with
  | some w => s.wgOf p c w.wg
  | none => false

def Job.of (j : Job) (p : BitVec 2) (c : BitVec 6) : Bool := j.part == p && j.ctx == c

/-- Is a request one that a context waits for? A record's waits, signals and ring reads, and what an engine has sent to a
peer's barrier, are not part of its image. -/
def State.extOf (s : State) (p : BitVec 2) (c : BitVec 6) (r : ExtReq) : Bool :=
  match r.use with
  | 3 => s.jobs.any fun j => j.id == r.job && j.of p c
  | 7 => s.wgOf p c r.job
  | 5 => false
  | n => decide (n < 5) && s.warpOf p c r.warp

/-! ## Halting (R110 step 1, R113) -/

/-- Has a split come to its issue boundary? -/
def Split.halted (p : Split) : Bool :=
  match p.wait with
  | .marker => false
  | .fence _ => false
  | .outcome => false
  | _ => true

/-- Has an engine operation stopped at a chunk or pass boundary (R107)? Tile loads and stores run to their end. -/
def Job.halted (j : Job) : Bool :=
  j.done || (j.kind.unit != 3 && !j.asking && j.got.isEmpty && j.cur.isEmpty && j.out.isNone)

/-- Is the halt of a context complete: every result has landed, every store is settled, every outcome is known, and the
engines have stopped (R110, R259)? -/
def State.haltDone (s : State) (p : BitVec 2) (c : BitVec 6) : Bool :=
  (s.warps.all fun w => !(s.wgOf p c w.wg) ||
    (w.pending.isEmpty && w.stores.isEmpty && w.splits.all fun o => match o with
      | some q => q.halted
      | none => true)) &&
  (s.jobs.all fun j => !(j.of p c) || j.halted) &&
  !(s.tableReqs.any fun r => r.part == p && r.ctx == c) && !(s.lookups.any fun r => r.part == p && r.ctx == c) &&
  !(s.exts.any fun r => s.extOf p c r)

/-- A split as it is saved (R129, R271): in the middle of a run it goes back to its first hint; one that waits in BWAIT,
WAITE, SLEEP, JOINW or for room issues its instruction again; one that yields is ready, or, under the switch marker, parked behind its
YIELD until the context resumes (R257). -/
def Split.save (p : Split) : Split :=
  let q := { p with pc := p.pc - BitVec.ofNat 64 (4 * p.hints.length), hints := [], seen := none, asked := false, lifted := false }
  match p.wait with
  | .stopped => q
  | .yield _ _ => { q with wait := if p.sw then .marker else .ready }
  | _ => { q with wait := .ready }

/-- The halt of a context takes hold: splits stand as they are saved, the context's bins are flushed (R299), and its cores'
row caches and operand latches are discarded (R120, R176). -/
def State.settleHalt (s : State) (p : BitVec 2) (c : BitVec 6) : State :=
  let s0 := s.flushWhere fun b => b.part == p && b.ctx == c
  let s1 := (s0.warps.filter fun w => s0.wgOf p c w.wg).foldl (fun t w => t.stopWalks w.id) s0
  let s2 : State := { s1 with
    warps := s1.warps.map fun w => if s1.wgOf p c w.wg then { w with splits := w.splits.map (Option.map Split.save) } else w
    latch := s1.latch.filter fun e => !(s1.warpOf p c e.warp)
    exts := s1.exts.filter fun r => !(r.use == 5 && s1.warpOf p c r.warp) }
  s2.dropCaches p

/-! ## Discarding a context (R61, R113) -/

/-- The engine operations of a context, or of a workgroup, complete as cancelled, with status bit 9. -/
def State.cancelJobs (s : State) (f : Job → Bool) : State :=
  (s.jobs.filter f).foldl (fun t j => t.completeJob { j with status := j.status ||| 0x200 }) s

/-- A context's work is gone: its image, bins, launches, barrier objects and save area; what it held is zeroed for its next
owner (R61, R62, R113, R299). -/
def State.discardCtx (s : State) (p : BitVec 2) (c : BitVec 6) : State :=
  let s1 := (s.cancelJobs fun j => j.of p c).dropReqs fun r => r.part == p && r.ctx == c
  let mine := fun (gid : Nat) => s1.wgOf p c gid
  let warp := fun (wid : Nat) => s1.warpOf p c wid
  let ls := s1.launches.filter fun l => l.part == p && l.ctx == c
  let s2 : State := { s1 with
    exts := s1.exts.filter fun r => !(s1.extOf p c r || (r.use == 5 && warp r.warp) || (r.use == 9 && ls.any fun l => l.id == r.job))
    latch := s1.latch.filter fun e => !(warp e.warp)
    retired := s1.retired.filter fun x => !(x.2.part == p && x.2.ctx == c)
    bins := s1.bins.filter fun b => !(b.part == p && b.ctx == c)
    warps := s1.warps.filter fun w => !(mine w.wg)
    wgs := s1.wgs.filter fun g => !(g.part == p && g.ctx == c) }
  let s3 := ls.foldl (fun t l => t.dropLaunch l.id) s2
  let s4 := s3.modCtx p c fun x => { x with raised := none, nets := [], zeroed := true, lastResident := s.cycle }
  ((s4.modPart p fun x => { x with save := Sparse.set [] x.save c.toNat [] }).dropCaches p).dropStale

/-- The records of a killed context's queues are no longer fetched, and none of them starts (R61). -/
def State.stopFetching (s : State) (p : BitVec 2) (c : BitVec 6) : State :=
  (s.part p).queues.foldl (fun t e =>
    if e.2.ctx = c ∧ e.2.fetch ≠ .idle then
      (t.modQueue p (BitVec.ofNat 6 e.1) fun x => { x with fetch := .idle }).dropRing p (BitVec.ofNat 6 e.1)
    else t) s

/-- Does a context's image stand on the cores, or in an exchange? -/
def State.inside (s : State) (p : BitVec 2) (c : BitVec 6) : Bool := (s.part p).resident == some c

/-- An operation of a killed context is cancelled, with status bit 9: at once, or at the end of a chunk that waits for an answer from
outside the device (R61, R113). -/
def Job.kill (j : Job) : Job :=
  if j.asking ∧ j.done = false then { j with killed := true } else { j with status := j.status ||| 0x200, done := true }

/-- KILL (R61, R113, R217): the context is killed at once; if it runs its halt begins, else its image is discarded. A fault
that waits for the host is answered. -/
def State.killCtx (s : State) (p : BitVec 2) (c : BitVec 6) : State :=
  if (s.ctx p c).state = .killed then s
  else
    let s1 := s.modCtx p c fun x =>
      { x with state := .killed, zeroed := false, raised := none, summary := { x.summary with pending := false } }
    let s2 := s1.stopFetching p c
    let s3 : State := { s2 with jobs := s2.jobs.map fun j => if j.of p c then j.kill else j }
    if s.inside p c then s3.modPart p fun x => { x with switch := if x.switch = .none then .halting none else x.switch }
    else s3.discardCtx p c

/-- CONTEXT_KILL (R61) of context `c` of partition `p`. -/
def execContextKill (s : State) : Host.Outcome State Fault Refusal := .next (s.killCtx s.args.p s.args.c)

/-- The frames that some contexts had mapped have no owner left (R62). -/
def State.disown (s : State) (f : BitVec 2 → BitVec 6 → Bool) : State :=
  { s with owners := s.owners.map fun o => if f o.part o.ctx then { o with gone := true } else o }

/-- CONTEXT_FREE (R61): a killed context whose VALID is clear, and whose storage is zeroed, is free. Its count of warps
starts anew (DEDUCED, log 30). -/
def execContextFree (s : State) : Host.Outcome State Fault Refusal :=
  let x := s.ctx s.args.p s.args.c
  .next (if x.state = .killed ∧ x.valid = false ∧ x.zeroed then
      (s.disown fun p c => p == s.args.p && c == s.args.c).modCtx s.args.p s.args.c fun x =>
        { x with state := .free, zeroed := false, serials := 0, everResident := false }
    else s)

/-! ## The steps of a switch (R110) -/

/-- HALT_COMPLETE (R110, R113) in partition `p`: the exchange begins, once the image to come is staged; a killed context's
image is discarded without one. -/
def execHaltComplete (s : State) : Host.Outcome State Fault Refusal :=
  let p := s.args.p
  let x := s.part p
  match x.switch, x.resident with
  | .halting n, some c =>
    if s.haltDone p c = false then .next s
    else if (s.ctx p c).state = .killed then
      .next ((s.discardCtx p c).modPart p fun y => { y with resident := none, switch := .none })
    else if x.staged = false ∨ x.writeback.isSome then .next s
    else .next ((s.settleHalt p c).modPart p fun y => { y with switch := .exchanging n })
  | .halting _, none => .next (s.modPart p fun y => { y with switch := .none })
  | _, _ => .next s

/-- Did an engine operation stop part-way (R107)? (DEDUCED, log 57). -/
def Job.begun (j : Job) : Bool := !j.done && j.kind.unit != 3 && j.kind != .adrn && j.kind != .afill && decide (0 < j.next)

/-- A context resumes (R107, R110 step 3, R112): ready splits have age 0, job records are re-entered, and time spent swapped
out does not count in timers. -/
def State.resumeCtx (s : State) (p : BitVec 2) (c : BitVec 6) : State :=
  let x := s.ctx p c
  let away := if x.everResident then s.cycle - x.lastResident else 0
  { s with
    warps := s.warps.map fun w => if s.wgOf p c w.wg then
        { w with splits := w.splits.map (Option.map fun q => { q with since := s.cycle + 1 })
                 handler := w.handler.map fun h => { h with entered := h.entered + away } }
      else w
    wgs := s.wgs.map fun g => if g.part = p ∧ g.ctx = c then
        { g with handler := g.handler.map (· + away), tornAt := g.tornAt + away }
      else g
    launches := s.launches.map fun l => if l.part = p ∧ l.ctx = c then
        { l with starve := l.starve + away, noCore := l.noCore.map (· + away) }
      else l
    jobs := s.jobs.map fun j => if j.of p c then { j with since := j.since + away, resumed := j.resumed || j.begun } else j }

/-- The SLOTMAP of the context that was resident is back at the default once another is (R138); one accepted for a context that is
swapped out stays until that is resident. -/
def State.resetMap (s : State) (p : BitVec 2) (c : BitVec 6) : State :=
  match (s.part p).lastIn with
  | some o => if o = c then s else s.modCtx p o fun x => { x with slotMap := 0x84 }
  | none => s

/-- The dies on which a context has workgroups. -/
def State.diesWith (s : State) (p : BitVec 2) (c : BitVec 6) : BitVec 4 :=
  (s.wgs.filter fun g => g.part == p && g.ctx == c).foldl (fun m g => m ||| (1#4 <<< dieOf g.core)) 0

/-- EXCHANGE_COMPLETE (R110, R138) in partition `p`: the outgoing context is swapped, and the incoming one is resident; splits saved under
the marker park until they have nothing outstanding (R257). While the package is in PS3, or enters or leaves it, the cores take no image
(DESIGN CHOICE, log 90). A die to which workgroups come leaves PS2 (R36). -/
def execExchangeComplete (s : State) : Host.Outcome State Fault Refusal :=
  let p := s.args.p
  let x := s.part p
  match x.switch with
  | .exchanging n =>
    if s.pkgState ≠ 0 then .next s else
    let out := match x.resident with
      | none => s.modPart p fun y => { y with staged := false }
      | some c =>
        if (s.ctx p c).state = CtxState.killed then
          (s.discardCtx p c).modPart p fun y => { y with staged := false }
        else
          (s.modCtx p c fun k => { k with state := .swapped, lastResident := s.cycle }).modPart p fun y =>
            { y with writeback := some c, staged := false }
    let in_ := n.filter fun c => (out.ctx p c).valid && ((out.ctx p c).state == .free || (out.ctx p c).state == .swapped) &&
      (out.ctx p c).raised.isNone
    match in_ with
    | none => .next (out.modPart p fun y => { y with resident := none, switch := .none })
    | some c =>
      let t := ((out.resumeCtx p c).resetMap p c).modPart p fun y =>
        { y with resident := some c, lastIn := some c, residentAt := s.cycle, switch := .none }
      let u := t.modCtx p c fun k => { k with state := .resident, everResident := true }
      let u1 : State := { u with ps2 := u.ps2 &&& ~~~(u.diesWith p c) }
      .next ((u1.warps.filter fun w => u1.wgOf p c w.wg).foldl (fun v w => v.unpark w.id) u1)
  | _ => .next s

/-- WRITEBACK_COMPLETE (R110 step 4, R127): the outgoing image of partition `p` stands in its save region. -/
def execWritebackComplete (s : State) : Host.Outcome State Fault Refusal :=
  let p := s.args.p
  match (s.part p).writeback with
  | none => .next s
  | some c =>
    let img := Cells.setBytes [] 0 (s.image p c)
    let gone := (s.ctx p c).state == CtxState.killed
    .next (s.modPart p fun x => { x with writeback := none, save := if gone then x.save else Sparse.set [] x.save c.toNat img })

/-- STAGING_COMPLETE (R110 step 4): the next image of partition `p` is in the shadow slot. Which one it is is not shown. -/
def execStagingComplete (s : State) : Host.Outcome State Fault Refusal :=
  .next (s.modPart s.args.p fun x => if x.writeback.isNone then { x with staged := true } else x)

/-! ## The CONTEXT rung (R217, R219) -/

/-- Can the halt of a context that runs begin: no switch is under way, and the last one's write-back and staging are over (R110)? -/
def State.mayHalt (s : State) (p : BitVec 2) : Bool :=
  let x := s.part p
  x.switch == .none && x.staged && x.writeback.isNone

/-- CONTEXT_RUNG_ENTRY (R217) of context `c` of partition `p`: the context is halted and switched out, and then its summary
is written and its vector raised. -/
def execContextRungEntry (s : State) : Host.Outcome State Fault Refusal :=
  let p := s.args.p
  let c := s.args.c
  match (s.ctx p c).raised with
  | none => .next s
  | some (_, m) =>
    if s.inside p c then .next (if s.mayHalt p then s.modPart p fun x => { x with switch := .halting none } else s)
    else if (s.part p).switch = .exchanging (some c) then .next s
    else
      let t := s.modCtx p c fun x => { x with state := .faulted, raised := none, summary := { m with raisedAt := s.cycle } }
      .next { t with irqs := t.irqs ++ [64 + 128 * p.toNat + c.toNat] }

/-- A workgroup is halted as under KILL, for itself alone (R217, R220): its stores are performed, its engine operations
complete with status bit 9, and its resources are released. -/
def State.endWg (s : State) (g : Workgroup) : State :=
  let s1 := (s.warpsOf g.id).foldl (fun t w => t.drain w.id 0xFFFFFFFF) s
  let s2 := s1.cancelJobs fun j => j.wg == g.id
  (s2.removeWg g).dropStale

/-- The host's answer is taken (R217): the context is eligible again (DEDUCED, log 72). -/
def State.resumeFaulted (s : State) (p : BitVec 2) (c : BitVec 6) : State :=
  s.modCtx p c fun x =>
    { x with state := if x.everResident then .swapped else .free, summary := { x.summary with pending := false } }

/-- Does a context wait for the host's answer? -/
def State.awaitsHost (s : State) (p : BitVec 2) (c : BitVec 6) : Bool :=
  (s.ctx p c).summary.pending && (s.ctx p c).state == .faulted

/-- CONTEXT_RESUME (R217): CMD 1 to context `c` of partition `p`. -/
def execContextResume (s : State) : Host.Outcome State Fault Refusal :=
  .next (if s.awaitsHost s.args.p s.args.c then s.resumeFaulted s.args.p s.args.c else s)

/-- WORKGROUP_END (R217): CMD 2; where the fault names no workgroup it acts as CMD 1. -/
def execWorkgroupEnd (s : State) : Host.Outcome State Fault Refusal :=
  let p := s.args.p
  let c := s.args.c
  let m := (s.ctx p c).summary
  .next (
    if s.awaitsHost p c = false then s
    else match if m.noWorkgroup then none else s.wg? m.wg with
      | some g => (s.endWg g).resumeFaulted p c
      | none => s.resumeFaulted p c)

/-- The TIMEOUT of a host that does not answer, and its summary (R209, R219). The manual gives it no lanes and no counter: it takes those
of the fault that the host was to answer (DESIGN CHOICE, log 101). -/
def hostTimeout (m : Summary) (now : Nat) : FaultRec × Summary :=
  let r : FaultRec := { code := .timeout, rung := 4, fmask := m.fmask, counter := m.counter, detail := 3 }
  (r, summaryOf r 4 m.serial false false m.noWorkgroup m.wg now)

/-- Has the host missed its time (R219)? -/
def State.hostLate (s : State) (p : BitVec 2) (c : BitVec 6) : Bool :=
  let x := s.ctx p c
  s.awaitsHost p c && (s.part p).raised.isNone && s.timeUp x.summary.raisedAt (1000 * max 1 (s.part p).ctxMs.toNat)

/-- HOST_RESPONSE_TIMEOUT (R219) for context `c` of partition `p`. -/
def execHostResponseTimeout (s : State) : Host.Outcome State Fault Refusal :=
  let p := s.args.p
  let c := s.args.c
  let x := hostTimeout (s.ctx p c).summary s.cycle
  .next (if s.hostLate p c then s.raisePart p x.1 x.2 else s)

/-! ## The PARTITION rung (R218) -/

/-- Is a context killed with its partition: resident, swapped or faulted (R58), and by a reset every other that is valid (R218)? -/
def Ctx.killable (x : Ctx) (reset : Bool) : Bool :=
  x.state == .resident || x.state == .swapped || x.state == .faulted || (reset && x.valid && x.state == .free)

/-- Kill and discard the contexts of a partition; with a fault, each one's summary holds it and its vector is raised. A killed context
waits for no answer (DEDUCED, log 30); one killed before whose halt has not ended is discarded now (R61). -/
def State.killAll (s : State) (p : BitVec 2) (f : Option Summary) : State :=
  (List.range 64).foldl (fun t n =>
    let c := BitVec.ofNat 6 n
    let x := t.ctx p c
    if x.state = .killed ∧ x.zeroed = false then (t.stopFetching p c).discardCtx p c
    else if x.killable f.isSome then
      let t1 := (t.stopFetching p c).discardCtx p c
      let t2 := t1.modCtx p c fun x =>
        { x with state := .killed, summary := match f with
            | some m => { m with pending := false, raisedAt := s.cycle }
            | none => { x.summary with pending := false } }
      if f.isSome then { t2 with irqs := t2.irqs ++ [64 + 128 * p.toNat + n] } else t2
    else t) s

/-- Every enabled queue of a partition stops with error code 0x06 (R58). -/
def State.stopQueues (s : State) (p : BitVec 2) : State :=
  (s.part p).queues.foldl (fun t e =>
    if e.2.en then (t.stopQueue p (BitVec.ofNat 6 e.1) 6 e.2.seq).dropRing p (BitVec.ofNat 6 e.1) else t) s

/-- A reset stops every queue of a partition with error code 0x06 (R218). -/
def State.stopAll (s : State) (p : BitVec 2) : State :=
  (List.range 64).foldl (fun t n =>
    let q := BitVec.ofNat 6 n
    (t.stopQueue p q 6 ((s.part p).queue q).seq).dropRing p q) s

/-- The cores and quads of a partition hold nothing any more (R218): what a quad atomic unit held is zeroed, not written back. -/
def State.zeroQuads (s : State) (p : BitVec 2) : State :=
  { s.dropCaches p with held := s.held.filter fun h => !((s.part p).dies.getLsbD (h.quad / 8)) }

/-- No context is resident and no switch is under way. Which context was resident last stays, so that its SLOTMAP returns to the default
once another is (R138). -/
def Part.cleared (x : Part) : Part :=
  { x with resident := none, switch := .none, writeback := none, staged := true, raised := none, resetAt := none, save := [] }

/-- PARTITION_RESET (R218): firmware resets partition `p`. -/
def execPartitionReset (s : State) : Host.Outcome State Fault Refusal :=
  let p := s.args.p
  match (s.part p).raised with
  | none => .next s
  | some (_, m) => .next (((((s.killAll p (some m)).stopAll p).zeroQuads p).closeSessions p).modPart p Part.cleared)

/-- PARTITION_RESET_TIMEOUT (R218, R219): firmware has not finished in time, or with `flag` has failed: the DEVICE rung. -/
def execPartitionResetTimeout (s : State) : Host.Outcome State Fault Refusal :=
  let x := s.part s.args.p
  match x.raised, x.resetAt with
  | some _, some t => .next (if s.args.flag ∨ s.timeUp t (1000 * max 1 x.partMs.toNat) then s.deviceReset else s)
  | _, _ => .next s

/-! ## Lost workgroups (R220) -/

/-- A fault of a context without a warp's record: ECC_UNCORR of lost state. -/
def State.raiseLost (s : State) (p : BitVec 2) (c : BitVec 6) (serial : Word) (noWg : Bool) (wg : Nat) : State :=
  let r : FaultRec := { code := .eccUncorr, detail := 2 }
  s.raiseCtx p c r (summaryOf r 3 serial false false noWg wg s.cycle)

/-- The greatest serial of a workgroup's warps. -/
def State.lastSerial (s : State) (gid : Nat) : Word :=
  (s.warpsOf gid).foldl (fun m w => if m < w.serial then w.serial else m) 0

/-- An error in the split table of a warp of a context, or, where `wid` names no warp of it, in the shadow store that holds its image
(R220). -/
def State.splitTableLost (s : State) (p : BitVec 2) (c : BitVec 6) (wid : Nat) : State :=
  let k := s.ctx p c
  if k.state ≠ .resident ∧ k.state ≠ .swapped ∧ k.state ≠ .faulted then s
  else match s.warp? wid with
    | some w => if s.wgOf p c w.wg then s.raiseLost p c w.serial false w.wg else s.raiseLost p c 0 true 0
    | none => s.raiseLost p c 0 true 0

/-- Lose a workgroup to an error of its storage; an MMA that met it in an operand or an accumulator, operation `job`, has stopped with
status bit 3 first (R220, R221, R394). -/
def State.loseWg (s : State) (g : Workgroup) (job : Nat) : State :=
  ((s.jobs.filter fun j => j.id == job && j.wg == g.id && j.kind == .mma).foldl (fun t j => (t.stopJob j.id 3)) s).endWg g

/-- A launch takes a lost workgroup back; its starvation timer starts where it held no unplaced one (R81). -/
def Launch.again (l : Launch) (r : Relaunch) (now : Nat) : Launch :=
  { l with relaunch := l.relaunch ++ [r], starve := if l.more then l.starve else now }

/-- WORKGROUP_STATE_ERROR (R220): an uncorrectable error in the storage of workgroup `i`, met by MMA `size` or by none, or with `flag` in
the split table of warp `i`, or the shadow store, of context `c` of partition `p`. -/
def execWorkgroupStateError (s : State) : Host.Outcome State Fault Refusal :=
  if s.args.flag then .next (s.splitTableLost s.args.p s.args.c s.args.i)
  else match s.wg? s.args.i with
    | none => .next s
    | some g =>
      if s.running g = false then .next s
      else
        let again := match s.launch? g.launch with
          | some l => l.record.idempotent && decide (g.losses < 2)
          | none => false
        let serial := s.lastSerial g.id
        let s1 := (s.loseWg g s.args.size).noteEcc true (64 + s.args.addr)
        .next (
          if again then
            let r : Relaunch := ⟨g.num, g.losses + 1, g.core, g.items⟩
            { s1.modLaunch g.launch fun l => l.again r s.cycle with
              lifeNow := { s1.lifeNow with relaunches := s1.lifeNow.relaunches + 1 } }
          else s1.raiseLost g.part g.ctx serial true 0)

/-! ## Partitions (R58, R426) -/

/-- Dies of the partitions other than `p` that are not deleted. -/
def State.diesTaken (s : State) (p : BitVec 2) : BitVec 4 :=
  (allParts.filter fun k => k != p && (s.part k).state != 0).foldl (fun m k => m ||| (s.part k).dies) 0

/-- Is a write of DIES rejected (R58) (DEDUCED, log 65)? A die that the configuration image does not enable can be in no partition
(R63; DEDUCED, log 83). -/
def State.diesRefused (s : State) (p : BitVec 2) (v : BitVec 4) : Bool :=
  let x := s.part p
  if x.state = 0 then v &&& s.diesTaken p != 0 || v &&& ~~~s.dieOn != 0
  else if x.state = 2 then v != x.dies && v != 0
  else true

/-- A write of DIES (R58). -/
def State.writeDies (s : State) (p : BitVec 2) (v : BitVec 4) : State :=
  let x := s.part p
  if s.diesRefused p v then s.raiseEvt 7
  else if x.state = 0 then
    if v = 0 then s
    else { s.modPart p fun x => { x.cleared with state := 2, dies := v, secret := s.draws } with draws := s.draws + 1 }
  else if v = x.dies then s
  else (((s.killAll p none).stopQueues p).closeSessions p).modPart p fun x => { x.cleared with state := 3, dies := 0, save := x.save }

/-- PARTITION_CREATE (R58): `val` is written to DIES of a deleted partition `p`. -/
def execPartitionCreate (s : State) : Host.Outcome State Fault Refusal :=
  match s.wakeFor .partitionCreate with
  | some t => .next t
  | none =>
    let v := BitVec.ofNat 4 s.args.val.toNat
    .next (if (s.part s.args.p).state = 0 ∧ v ≠ 0 then s.writeDies s.args.p v else s)

/-- PARTITION_DELETE (R58): 0 is written to DIES of a live partition `p`. -/
def execPartitionDelete (s : State) : Host.Outcome State Fault Refusal :=
  match s.wakeFor .partitionDelete with
  | some t => .next t
  | none => .next (if (s.part s.args.p).state = 2 then s.writeDies s.args.p 0 else s)

/-- PARTITION_DELETE_COMPLETE (R58): the shadow slots and save regions of partition `p` are zeroed. -/
def execPartitionDeleteComplete (s : State) : Host.Outcome State Fault Refusal :=
  .next (if (s.part s.args.p).state = 3 then
      (s.disown fun p _ => p == s.args.p).modPart s.args.p fun x => { x with state := 0, save := [] }
    else s)

end Sys2Proof.Machine
end

