-- ==== Sys2Proof/Machine/Window.lean ====
section
/-! DEFINITION. The control window (R39 to R50, R58, R59, R67 to R69): every register read and written under its access codes
(R6, R41), and the events that are writes of a register with a row of their own. -/
namespace Sys2Proof.Machine

/-! ## Reading (R40 to R46, R49, R58, R59, R108, R154, R217, R219, R426) -/

/-- A field at a bit. -/
def at_ (v lo : Nat) : Nat := v * 2 ^ lo

/-- An 8-byte word of a list of bytes, zero beyond it. -/
def wordOf (b : List Byte) (off : Nat) : Nat := leNat ((b.drop off).take 8)

/-- The DEV block (R42). -/
def State.devRead (s : State) (off : Nat) : Nat :=
  if off = 0x0000 then Config.stepping.toNat + at_ 0xBB08 8 + at_ (min Config.cert.length 0x1000) 40
  else if off = 0x0008 then s.bootStage.toNat + at_ s.bootErr.toNat 8
  else if off = 0x0010 then s.devEvt.toNat
  else if off = 0x0018 then s.cfgVersion.toNat + at_ s.fwVersion.toNat 32
  else if off = 0x0020 then s.fwRollback.toNat + at_ s.cfgRollback.toNat 32
  else if off = 0x0100 then s.fwPtr.toNat
  else if off = 0x0108 then s.fwLen.toNat
  else if off = 0x0110 then s.fwGo.toNat + at_ s.fwKind.toNat 1 + at_ s.fwResult.toNat 8
  else if 0x0200 ≤ off ∧ off < 0x0240 then bits s.attNonce.toNat (8 * (off - 0x200)) 64
  else if off = 0x0240 then s.attGo.toNat + at_ s.attLen.toNat 16
  else if 0x0400 ≤ off ∧ off < 0x0C00 then wordOf s.attReport (off - 0x400)
  else if 0x1000 ≤ off ∧ off < 0x2000 then wordOf Config.cert (off - 0x1000)
  else 0

/-- The PWR block (R43); temperatures and power are as the sensors read. -/
def State.pwrRead (s : State) (off : Nat) : Nat :=
  if off = 0x00 then s.pwrCap.toNat
  else if off = 0x08 then s.pkgState.toNat + at_ (s.ps1Cap ||| s.ps1Heat).toNat 4 + at_ s.ps2.toNat 8 + at_ s.pwrRefused.toNat 12 +
    at_ (Config.sensor s.free 8).toNat 16
  else if off = 0x10 then (List.range 4).foldl (fun m d => m + at_ (s.clock d).toNat (16 * d)) 0
  else if 0x40 ≤ off ∧ off < 0x60 then
    (Config.sensor s.free ((off - 0x40) / 8)).toNat + at_ (Config.sensor s.free ((off - 0x40) / 8 + 4)).toNat 16
  else 0

/-- The STAY block (R44). -/
def State.stayRead (s : State) (off : Nat) : Nat :=
  if off = 0x000 then s.podIndex.toNat
  else if off = 0x008 then s.ringTimeout.toNat
  else if 0x100 ≤ off ∧ off < 0x220 then
    let x := s.port ((off - 0x100) / 16)
    if off % 16 = 0 then x.state.toNat + at_ x.en.toNat 2 else x.drops.toNat
  else 0

/-- The CXLP block (R45). -/
def State.cxlpRead (s : State) (off : Nat) : Nat :=
  if off < 0x80 then
    let x := s.cxlPorts.getD (off / 16) {}
    if off % 16 = 0 then x.state.toNat + at_ x.lanes.toNat 4 else x.cap.toNat
  else if 0x100 ≤ off ∧ off < 0x140 then (s.cxlSets.getD ((off - 0x100) / 8) {}).word
  else 0

/-- HQ_CFG and HQ_STATUS (R49). -/
def Queue.cfgWord (x : Queue) : Nat :=
  x.en.toNat + at_ x.logSize.toNat 1 + at_ x.priMax.toNat 7 + at_ x.ctx.toNat 10 + at_ x.irqEvery.toNat 16
def Queue.statusWord (x : Queue) : Nat := x.err.toNat + at_ x.stopped.toNat 8 + at_ x.stSeq.toNat 32

/-- A queue's register set (R49). -/
def Queue.read (x : Queue) (off : Nat) : Nat :=
  match off with
  | 0x00 => x.cfgWord
  | 0x08 => x.base.toNat
  | 0x10 => x.headWb.toNat
  | 0x18 => x.head.toNat
  | 0x20 => x.statusWord
  | _ => 0

/-- The code of a context's state (R59). -/
def CtxState.code : CtxState → Nat
  | .free => 0
  | .resident => 1
  | .swapped => 2
  | .faulted => 3
  | .killed => 4

/-- CTX_CFG (R59). -/
def Ctx.cfgWord (x : Ctx) : Nat :=
  x.valid.toNat + at_ x.expertEn.toNat 3 + at_ x.state.code 4 + at_ x.placeDef.toNat 34 + at_ x.placeDies.toNat 36 + at_ x.tenant.toNat 48

/-- A context's entry (R59). -/
def Ctx.read (x : Ctx) (off : Nat) : Nat :=
  match off with
  | 0x00 => x.cfgWord
  | 0x08 => x.root.toNat
  | 0x10 => x.tableDir.toNat
  | 0x18 => x.shroud.toNat
  | 0x20 => x.vecBase.toNat
  | 0x28 => x.privKiB.toNat + at_ x.privBase.toNat 32
  | _ => 0

/-- A context's summary (R217). -/
def Summary.read (m : Summary) (off : Nat) : Nat :=
  match off with
  | 0x00 => m.code.toNat + at_ m.origin.toNat 8 + at_ (m.pending.toNat + at_ m.fromRing.toNat 1 + at_ m.fromPrologue.toNat 2 +
      at_ m.noWorkgroup.toNat 3) 24 + at_ m.fmask.toNat 32
  | 0x08 => m.serial.toNat
  | 0x10 => m.counter.toNat
  | _ => m.where_.toNat

/-- A session entry (R28). -/
def Session.word (x : Session) : Nat :=
  x.open_.toNat + at_ x.state.toNat 30 + at_ x.ctx.toNat 32 + at_ x.part.toNat 38 + at_ x.dev.toNat 40 + at_ x.gen.toNat 48

/-- HOST_MWIN (R46). -/
def Part.mwinWord (x : Part) : Nat := x.mwEn.toNat + at_ x.mwErr.toNat 1 + at_ x.mwCtx.toNat 10 + at_ x.mwBase.toNat 16

/-- PART_HMINT at the `n`-th step (R426): it answers only while the partition is live; what it reads otherwise the manual leaves open
(DESIGN CHOICE, log 36). -/
def Part.hmint (x : Part) (n : Nat) : Nat :=
  if x.state = 2 then x.hmintIndex.toNat + at_ x.hmintGen.toNat 32 +
    at_ (Config.shroudCheck x.secret x.hmintIndex x.hmintGen).toNat 48
  else (Config.deadMint n).toNat

/-- The control page of a partition (R58, R108, R154, R217, R219, R426), at the `n`-th step. -/
def Part.ctlRead (x : Part) (n off : Nat) : Option Nat :=
  if off = 0x00 then some (x.dies.toNat + at_ x.state.toNat 8 + at_ x.psReq.toNat 12)
  else if off = 0x08 then some ((x.resident.getD 0).toNat + at_ x.resident.isSome.toNat 7 + at_ x.minUs.toNat 8 + at_ x.sliceUs.toNat 16)
  else if off = 0x10 then some (x.xltGo.toNat + at_ x.xltAll.toNat 1 + at_ x.xltCtx.toNat 8 + at_ x.xltVa.toNat 16)
  else if off = 0x18 then some (x.warpUs.toNat + at_ x.wgUs.toNat 16 + at_ x.ctxMs.toNat 32 + at_ x.partMs.toNat 48)
  else if off = 0x20 then some (x.hmint n)
  else if 0x800 ≤ off then some ((x.ctx (BitVec.ofNat 6 ((off - 0x800) / 32))).summary.read (off % 32))
  else some 0

/-- A partition block (R40), at the `n`-th step. -/
def Part.read (x : Part) (n off : Nat) : Option Nat :=
  if off < 0x1000 then x.ctlRead n off
  else if off < 0x5000 then some ((x.queue (BitVec.ofNat 6 ((off - 0x1000) / 256))).read (off % 256))
  else if off < 0x6000 then some ((x.ctx (BitVec.ofNat 6 ((off - 0x5000) / 64))).read (off % 64))
  else if off < 0x6800 then some (x.session ((off - 0x6000) / 8)).word
  else if off = 0x7000 then some x.mwinWord
  else if 0x8000 ≤ off ∧ off < 0xA000 ∧ off % 128 < 0x28 then some ((x.ctx (BitVec.ofNat 6 ((off - 0x8000) / 128))).expert (off % 128 / 8))
  else some 0

/-- The counter region (R67). -/
def State.counterRead (s : State) (off : Nat) : Nat :=
  if off < 0x2000 then (Sparse.get 0 s.coreCounters (off / 8)).toNat
  else if 0x4000 ≤ off ∧ off < 0x14000 then
    let p := (off - 0x4000) / 0x4000
    let k := (off - 0x4000) % 0x4000 / 8
    if 8 ≤ k then (Sparse.get 0 s.tableCounters (8 * 256 * p + k)).toNat else 0
  else 0

/-- A word of the control window; none where nothing answers: before boot stage 5 all but the DEV block and the lifetime
record (R64) (PRESUMED, log 67). -/
def State.regRead (s : State) (off : Nat) : Option Nat :=
  if off < 0x10000 then some (s.devRead off)
  else if 0x50000 ≤ off ∧ off < 0x60000 then some (s.lifeRead (off - 0x50000))
  else if s.bootStage ≠ 5 then none
  else if off < 0x20000 then some (s.pwrRead (off - 0x10000))
  else if off < 0x30000 then some (s.stayRead (off - 0x20000))
  else if off < 0x40000 then some (s.cxlpRead (off - 0x30000))
  else if off < 0x48000 then some (Sparse.get 0 s.msix ((off - 0x40000) / 8)).toNat
  else if off < 0x1000000 then some 0
  else if off < 0x2000000 then (s.part (BitVec.ofNat 2 ((off - 0x1000000) / 0x400000))).read s.free ((off - 0x1000000) % 0x400000)
  else some (s.counterRead (off - 0x2000000))

/-! ## Writes with a row of their own -/

/-- A load of an image starts: with a context resident the write is ignored, with BADREG (R42), and while a load is under way it does
nothing (DESIGN CHOICE, log 66). -/
def State.startLoad (s : State) (kind : Bool) : State :=
  if allParts.any fun p => (s.part p).resident.isSome then s.raiseEvt 7
  else if s.fwGo then s
  else { s with fwGo := true, fwKind := kind }

/-- FWLOAD_FIRMWARE (R42): GO is written with KIND 0. -/
def execFwloadFirmware (s : State) : Host.Outcome State Fault Refusal := .next (s.startLoad false)

/-- FWLOAD_CONFIGURATION (R42): GO is written with KIND 1. -/
def execFwloadConfiguration (s : State) : Host.Outcome State Fault Refusal := .next (s.startLoad true)

/-- The verdict on the image at DEV_FWLOAD.PTR: its bytes, or the code of RESULT (R42). A PTR that is no HOST pointer, or not aligned to
4 KiB, is a read error (DESIGN CHOICE, log 84). -/
def State.loadImage (s : State) : Except (BitVec 8) (List Byte) :=
  let n := s.fwLen.toNat
  let p := s.fwPtr.toNat
  if n < 4096 ∨ 2 ^ 25 < n then .error 3
  else if hostPtr p = false ∨ p % 4096 ≠ 0 ∨ s.hostSilent (p % 2 ^ 57) n then .error 4
  else
    let img := s.host.bytes (p % 2 ^ 57) n
    if Config.imageGood s.fwKind img = false then .error 1
    else if Config.imageVersion s.fwKind img < (if s.fwKind then s.cfgRollback else s.fwRollback) then .error 2
    else .ok img

/-- FWLOAD_COMPLETE (R42): a good image stands in the serial flash for the next boot. -/
def execFwloadComplete (s : State) : Host.Outcome State Fault Refusal :=
  if s.fwGo = false then .next s
  else match s.loadImage with
    | .error r => .next { s with fwGo := false, fwResult := r }
    | .ok img => .next (if s.fwKind then { s with fwGo := false, fwResult := 0, flashCfg := img }
        else { s with fwGo := false, fwResult := 0, flashFw := img })

/-- ATTEST_START (R65): GO of DEV_ATTEST.CTL is written. -/
def execAttestStart (s : State) : Host.Outcome State Fault Refusal := .next { s with attGo := true }

/-- Each live context with its tenant (R65): partition, context, TENANT. Live are the contexts of live partitions that are neither free nor
killed (DESIGN CHOICE, log 32). -/
def State.tenants (s : State) : List Byte :=
  allParts.flatMap fun p => if (s.part p).state ≠ 2 then [] else (s.part p).ctxs.flatMap fun e =>
    if e.2.state == .free || e.2.state == .killed then [] else leBytes 1 p.toNat ++ leBytes 1 e.1 ++ leBytes 2 e.2.tenant.toNat

/-- What a report holds, in the order of R65, before its signature; each number little-endian, and the digests those of the images in the
flash (DESIGN CHOICE, log 32). The append count is the number of the last block appended, in 4 bytes (DESIGN CHOICE, log 91). -/
def State.reportBody (s : State) : List Byte :=
  leBytes 64 s.attNonce.toNat ++ leBytes 64 (Config.digest s.flashFw).toNat ++ leBytes 64 (Config.digest s.flashCfg).toNat ++
    (allParts.flatMap fun p => leBytes 1 (s.part p).dies.toNat) ++ s.tenants ++ leBytes 4 s.lifeSeq

/-- ATTEST_COMPLETE (R65): the report is ready. -/
def execAttestComplete (s : State) : Host.Outcome State Fault Refusal :=
  if s.attGo = false then .next s
  else
    let r := (s.reportBody ++ Config.signature s.reportBody).take 0x800
    .next { s with attGo := false, attLen := BitVec.ofNat 16 r.length, attReport := r }

/-- EXPERT_EN of a context is cleared (R68): every expert field returns to its default. -/
def Ctx.expertOff (x : Ctx) : Ctx := { x.expertDefaults with expertEn := false }

/-- EXPERT_DISABLE (R68) of context `c` of partition `p`. -/
def execExpertDisable (s : State) : Host.Outcome State Fault Refusal := .next (s.modCtx s.args.p s.args.c Ctx.expertOff)

/-- GO is written to PART_XLTINV with its fields (R154); while it reads 1 the register keeps them (DEDUCED, log 33). -/
def State.writeXlt (s : State) (p : BitVec 2) (v : Nat) : State :=
  s.modPart p fun x => if x.xltGo then x
    else { x with xltVa := BitVec.ofNat 41 (bits v 16 41), xltCtx := BitVec.ofNat 6 (bits v 8 6), xltAll := v.testBit 1, xltGo := v.testBit 0 }

/-- TRANSLATION_INVALIDATE (R154): `val`, with GO set, is written to PART_XLTINV of partition `p`. -/
def execTranslationInvalidate (s : State) : Host.Outcome State Fault Refusal :=
  .next (if s.args.val.toNat.testBit 0 then s.writeXlt s.args.p s.args.val.toNat else s)

/-- Is a cached translation among those that an invalidation names (R154)? -/
def TlbEntry.named (e : TlbEntry) (p : BitVec 2) (x : Part) : Bool :=
  e.part == p && e.ctx == x.xltCtx &&
  (x.xltAll || e.granule == x.xltVa.toNat || (e.big && e.granule / 32 == x.xltVa.toNat / 32))

/-- Is an entry that walkers hold among those that an invalidation names (R154)? -/
def WalkEntry.named (e : WalkEntry) (p : BitVec 2) (x : Part) : Bool :=
  e.part == p && e.ctx == x.xltCtx && (x.xltAll || e.index == walkIndex e.level (x.xltVa.toNat * 2 ^ 16))

/-- XLTINV_COMPLETE (R155): no translation cache of partition `p` holds the entries any more. -/
def execXltinvComplete (s : State) : Host.Outcome State Fault Refusal :=
  let p := s.args.p
  let x := s.part p
  .next (if x.xltGo then
      { s.modPart p fun x => { x with xltGo := false } with
        tlb := s.tlb.filter fun e => !(e.named p x), walks := s.walks.filter fun e => !(e.named p x) }
    else s)

/-- HANDLE_MINT (R426): a read of PART_HMINT of partition `p`. -/
def execHandleMint (s : State) : Host.Outcome State Fault Refusal :=
  .next { s with hostReply := some ⟨leBytes 8 ((s.part s.args.p).hmint s.free), false⟩ }

/-- Bits of CNT_CLR are written (R67). -/
def State.clearCounters (s : State) (v : Nat) : State :=
  { s with
    coreCounters := if v.testBit 0 then [] else s.coreCounters
    tableCounters := s.tableCounters.filter fun e => !(v.testBit (e.1 / 2048 + 1)) }

/-- COUNTER_CLEAR (R67): `val` is written to CNT_CLR. -/
def execCounterClear (s : State) : Host.Outcome State Fault Refusal := .next (s.clearCounters s.args.val.toNat)

/-! ## Writing -/

/-- DEV_FWLOAD.CTL (R42). While a load runs a write without GO leaves KIND as it is (DESIGN CHOICE, log 66). -/
def State.writeFwCtl (s : State) (v : Nat) : State :=
  if v.testBit 0 then s.startLoad (v.testBit 1) else if s.fwGo then s else { s with fwKind := v.testBit 1 }

/-- The DEV block; `v` is the word as it is to be, `w` the bits written, `m` the bits that the access covers. -/
def State.devWrite (s : State) (off v w m : Nat) : State :=
  if off = 0x0010 then { s with devEvt := s.devEvt &&& ~~~(BitVec.ofNat 64 w) }
  else if off = 0x0100 then { s with fwPtr := BitVec.ofNat 64 v }
  else if off = 0x0108 then { s with fwLen := BitVec.ofNat 64 v }
  else if off = 0x0110 then (if m.testBit 0 then s.writeFwCtl w else s)
  else if 0x0200 ≤ off ∧ off < 0x0240 then
    { s with attNonce := BitVec.ofNat 512 (setBits s.attNonce.toNat (8 * (off - 0x200)) 64 v) }
  else if off = 0x0240 then (if w.testBit 0 then { s with attGo := true } else s)
  else s

/-- The PWR block. -/
def State.pwrWrite (s : State) (off v w : Nat) : State :=
  if off = 0x00 then { s with pwrCap := BitVec.ofNat 16 v }
  else if off = 0x08 then { s with pwrRefused := s.pwrRefused && !(w.testBit 12) }
  else s

/-- Is a session entry of some partition opening or open (R44)? -/
def State.sessionsUp (s : State) : Bool := s.parts.any fun x => x.sessions.any fun e => e.2.state == 1 || e.2.state == 2

/-- The STAY block. -/
def State.stayWrite (s : State) (off v m : Nat) : State :=
  if off = 0x000 then
    (if m.testBit 0 = false then s else if s.sessionsUp then s.raiseEvt 7 else { s with podIndex := BitVec.ofNat 8 v })
  else if off = 0x008 then { s with ringTimeout := BitVec.ofNat 16 v }
  else if 0x100 ≤ off ∧ off < 0x220 ∧ off % 16 = 0 then (if m.testBit 0 then s.writePortEn ((off - 0x100) / 16) (v.testBit 2) else s)
  else s

/-- A queue's register set (R49, R55). -/
def State.queueWrite (s : State) (p : BitVec 2) (q : BitVec 6) (off v w m : Nat) : State :=
  match off with
  | 0x00 => if m.testBit 0 then s.writeQueueCfg p q v else s
  | 0x08 => s.modQueue p q fun x => { x with base := BitVec.ofNat 64 v }
  | 0x10 => s.modQueue p q fun x => { x with headWb := BitVec.ofNat 64 v }
  | 0x20 => s.modQueue p q fun x => x.writeStatus w
  | _ => s

/-- CTX_CFG (R59, R61, R68): fields, EXPERT_EN, KILL and VALID. -/
def State.writeCtxCfg (s : State) (p : BitVec 2) (c : BitVec 6) (v w : Nat) : State :=
  let s1 := s.modCtx p c fun x =>
    let y := { x with tenant := BitVec.ofNat 16 (bits v 48 16), placeDies := BitVec.ofNat 4 (bits v 36 4),
                      placeDef := BitVec.ofNat 2 (bits v 34 2), valid := v.testBit 0, expertEn := v.testBit 3 }
    -- a context that has never been resident waits from here on (R109)
    let z := if v.testBit 0 && !x.valid && !x.everResident then { y with lastResident := s.cycle } else y
    if v.testBit 3 then z else z.expertOff
  if w.testBit 2 then s1.killCtx p c else s1

/-- A context's entry (R59). -/
def State.ctxWrite (s : State) (p : BitVec 2) (c : BitVec 6) (off v w : Nat) : State :=
  let b := BitVec.ofNat 64 v
  match off with
  | 0x00 => s.writeCtxCfg p c v w
  | 0x08 => s.modCtx p c fun x => { x with root := b }
  | 0x10 => s.modCtx p c fun x => { x with tableDir := b }
  | 0x18 => s.modCtx p c fun x => { x with shroud := b }
  | 0x20 => s.modCtx p c fun x => { x with vecBase := b }
  | 0x28 => s.modCtx p c fun x => { x with privKiB := BitVec.ofNat 32 v, privBase := BitVec.ofNat 32 (v / 2 ^ 32) }
  | _ => s

/-- A session entry (R28, R29). -/
def State.sessionWrite (s : State) (p : BitVec 2) (i v m : Nat) : State :=
  let s1 := s.modSession p i fun x =>
    { x with ctx := BitVec.ofNat 6 (bits v 32 6), part := BitVec.ofNat 2 (bits v 38 2), dev := BitVec.ofNat 8 (bits v 40 8) }
  if m.testBit 0 = false then s1 else if v.testBit 0 then s1.openSession p i else s1.closeSession p i

/-- A context's expert block (R68, R69): ignored, with BADREG, while EXPERT_EN is 0 and where a value is not accepted. -/
def State.expertWrite (s : State) (p : BitVec 2) (c : BitVec 6) (n v : Nat) : State :=
  let x := s.ctx p c
  if x.expertEn = false ∨ (x.setExpert n v).2 = false then s.raiseEvt 7 else s.modCtx p c fun x => (x.setExpert n v).1

/-- PART_CTL (R37, R58): DIES, then PS_REQ; where DIES is rejected the register stays as it is. A wake event stands over till the package
is in PS0. -/
def State.writePartCtl (s : State) (p : BitVec 2) (v : Nat) : State :=
  let s1 := s.writeDies p (BitVec.ofNat 4 v)
  if s.diesRefused p (BitVec.ofNat 4 v) then s1
  else if bits v 12 4 = 3 then s1.askPs3 p else s1.dropPs3 p

/-- A context's summary (R217): CMD is taken at offset 0. -/
def State.cmdWrite (s : State) (p : BitVec 2) (c : BitVec 6) (cmd : Nat) : State :=
  if s.awaitsHost p c = false then s
  else if cmd = 1 then s.resumeFaulted p c
  else if cmd = 2 then
    let m := (s.ctx p c).summary
    match if m.noWorkgroup then none else s.wg? m.wg with
    | some g => (s.endWg g).resumeFaulted p c
    | none => s.resumeFaulted p c
  else s

/-- The control page of a partition. -/
def State.ctlWrite (s : State) (p : BitVec 2) (off v w m : Nat) : State :=
  if off = 0x00 then (if m.testBit 0 then s.writePartCtl p v else s)
  else if off = 0x08 then s.modPart p fun x => { x with minUs := BitVec.ofNat 8 (bits v 8 8), sliceUs := BitVec.ofNat 16 (bits v 16 16) }
  else if off = 0x10 then s.writeXlt p (setBits v 0 1 (w % 2))
  else if off = 0x18 then s.modPart p fun x =>
    { x with warpUs := BitVec.ofNat 16 v, wgUs := BitVec.ofNat 16 (bits v 16 16), ctxMs := BitVec.ofNat 16 (bits v 32 16),
             partMs := BitVec.ofNat 16 (bits v 48 16) }
  else if off = 0x20 then
    (if (s.part p).state = 2 then s.modPart p fun x => { x with hmintIndex := BitVec.ofNat 32 v, hmintGen := BitVec.ofNat 16 (bits v 32 16) }
      else s)
  else if 0x800 ≤ off ∧ off % 32 = 0 ∧ m.testBit 0 then s.cmdWrite p (BitVec.ofNat 6 ((off - 0x800) / 32)) (bits w 16 8)
  else s

/-- HOST_MWIN (R46). -/
def State.mwinWrite (s : State) (p : BitVec 2) (v w : Nat) : State :=
  s.modPart p fun x => { x with mwBase := BitVec.ofNat 48 (bits v 16 48), mwCtx := BitVec.ofNat 6 (bits v 10 6),
                                mwErr := x.mwErr && !(w.testBit 1), mwEn := v.testBit 0 }

/-- A partition block. -/
def State.partWrite (s : State) (p : BitVec 2) (off v w m : Nat) : State :=
  if off < 0x1000 then s.ctlWrite p off v w m
  else if off < 0x5000 then s.queueWrite p (BitVec.ofNat 6 ((off - 0x1000) / 256)) (off % 256) v w m
  else if off < 0x6000 then s.ctxWrite p (BitVec.ofNat 6 ((off - 0x5000) / 64)) (off % 64) v w
  else if off < 0x6800 then s.sessionWrite p ((off - 0x6000) / 8) v m
  else if off = 0x7000 then s.mwinWrite p v w
  else if 0x8000 ≤ off ∧ off < 0xA000 ∧ off % 128 < 0x28 then
    s.expertWrite p (BitVec.ofNat 6 ((off - 0x8000) / 128)) (off % 128 / 8) v
  else s

/-- A word of the control window is written: `m` covers the bits of the access, `w` holds what it writes there, and the
rest of the word stays as it reads. -/
def State.regWrite (s : State) (off w m : Nat) : State :=
  match s.regRead off with
  | none => if 0x1000000 ≤ off ∧ off < 0x2000000 ∧ s.bootStage = 5 then s.partWrite (BitVec.ofNat 2 ((off - 0x1000000) / 0x400000))
      ((off - 0x1000000) % 0x400000) w w m else s
  | some old =>
    let v := (old - (old &&& m)) ||| w
    if off < 0x10000 then s.devWrite off v w m
    else if off < 0x20000 then s.pwrWrite (off - 0x10000) v w
    else if off < 0x30000 then s.stayWrite (off - 0x20000) v m
    else if 0x30100 ≤ off ∧ off < 0x30140 then (if m % 2 ^ 32 = 0 then s else s.writeSet ((off - 0x30100) / 8) v)
    else if off < 0x40000 then s
    else if off < 0x48000 then { s with msix := Sparse.set 0 s.msix ((off - 0x40000) / 8) (BitVec.ofNat 64 v) }
    else if off < 0x1000000 then s
    else if off < 0x2000000 then s.partWrite (BitVec.ofNat 2 ((off - 0x1000000) / 0x400000)) ((off - 0x1000000) % 0x400000) v w m
    else if off = 0x2014000 then s.clearCounters w
    else s

/-- Does a write reach a PART_CTL, and so wake the package (R37)? -/
def isPartCtl (off : Nat) : Bool := decide (0x1000000 ≤ off) && decide (off < 0x2000000) && (off - 0x1000000) % 0x400000 == 0

/-- REGISTER_WRITE (R6, R41): `size` bytes of `val` are written at offset `addr` of the control window, or with `flag` read
there. An access of another size or alignment reads as all ones, is ignored, and sets BADREG. -/
def execRegisterWrite (s : State) : Host.Outcome State Fault Refusal :=
  let off := s.args.addr
  let n := s.args.size
  if 2 ^ 26 ≤ off then .next s
  else if (n ≠ 4 ∧ n ≠ 8) ∨ off % n ≠ 0 then
    .next ((if s.args.flag then { s with hostReply := some ⟨allOnes n, false⟩ } else s).raiseEvt 7)
  else
    let base := off / 8 * 8
    let sh := 8 * (off % 8)
    if s.args.flag then
      .next { s with hostReply := (s.regRead base).map fun v => ⟨leBytes n (v / 2 ^ sh), false⟩ }
    else match if isPartCtl base then s.wakeFor .registerWrite else none with
      | some t => .next t
      | none => .next (s.regWrite base (s.args.val.toNat % 2 ^ (8 * n) * 2 ^ sh) ((2 ^ (8 * n) - 1) * 2 ^ sh))

end Sys2Proof.Machine
end

