-- ==== Sys2Proof/Machine/Dispatch.lean ====
section
/-! DEFINITION. The dispatch: one arm per instruction, each one call of its meaning. -/
namespace Sys2Proof.Machine

def exec (i : Instr) (s : State) : Host.Outcome State Fault Refusal :=
  match i with
  | .iadd sw w h d a b => Sys2Proof.Machine.execIadd sw w h d a b s
  | .isub sw w h d a b => Sys2Proof.Machine.execIsub sw w h d a b s
  | .imul sw w h d a b => Sys2Proof.Machine.execImul sw w h d a b s
  | .imulh sw w h d a b => Sys2Proof.Machine.execImulh sw w h d a b s
  | .imulhu sw w h d a b => Sys2Proof.Machine.execImulhu sw w h d a b s
  | .imad sw w h d a b => Sys2Proof.Machine.execImad sw w h d a b s
  | .imin sw w h d a b => Sys2Proof.Machine.execImin sw w h d a b s
  | .iminu sw w h d a b => Sys2Proof.Machine.execIminu sw w h d a b s
  | .imax sw w h d a b => Sys2Proof.Machine.execImax sw w h d a b s
  | .imaxu sw w h d a b => Sys2Proof.Machine.execImaxu sw w h d a b s
  | .and sw w h d a b => Sys2Proof.Machine.execAnd sw w h d a b s
  | .or sw w h d a b => Sys2Proof.Machine.execOr sw w h d a b s
  | .xor sw w h d a b => Sys2Proof.Machine.execXor sw w h d a b s
  | .shl sw w h d a b => Sys2Proof.Machine.execShl sw w h d a b s
  | .shr sw w h d a b => Sys2Proof.Machine.execShr sw w h d a b s
  | .sra sw w h d a b => Sys2Proof.Machine.execSra sw w h d a b s
  | .fadd sw w h d a b => Sys2Proof.Machine.execFadd sw w h d a b s
  | .fsub sw w h d a b => Sys2Proof.Machine.execFsub sw w h d a b s
  | .fmul sw w h d a b => Sys2Proof.Machine.execFmul sw w h d a b s
  | .ffma sw w h d a b => Sys2Proof.Machine.execFfma sw w h d a b s
  | .fmin sw w h d a b => Sys2Proof.Machine.execFmin sw w h d a b s
  | .fmax sw w h d a b => Sys2Proof.Machine.execFmax sw w h d a b s
  | .shf sw w h d a b => Sys2Proof.Machine.execShf sw w h d a b s
  | .shfx sw w h d a b => Sys2Proof.Machine.execShfx sw w h d a b s
  | .mov sw w d a => Sys2Proof.Machine.execMov sw w d a s
  | .not sw w d a => Sys2Proof.Machine.execNot sw w d a s
  | .neg sw w d a f => Sys2Proof.Machine.execNeg sw w d a f s
  | .abs sw w d a f => Sys2Proof.Machine.execAbs sw w d a f s
  | .popc sw w d a => Sys2Proof.Machine.execPopc sw w d a s
  | .clz sw w d a => Sys2Proof.Machine.execClz sw w d a s
  | .ctz sw w d a => Sys2Proof.Machine.execCtz sw w d a s
  | .brev sw w d a => Sys2Proof.Machine.execBrev sw w d a s
  | .exts sw w d a x => Sys2Proof.Machine.execExts sw w d a x s
  | .extz sw w d a x => Sys2Proof.Machine.execExtz sw w d a x s
  | .cvt sw w d a x => Sys2Proof.Machine.execCvt sw w d a x s
  | .cvts sw w d a x => Sys2Proof.Machine.execCvts sw w d a x s
  | .icvt sw w d a x => Sys2Proof.Machine.execIcvt sw w d a x s
  | .ucvt sw w d a x => Sys2Proof.Machine.execUcvt sw w d a x s
  | .qhad sw w d a n r => Sys2Proof.Machine.execQhad sw w d a n r s
  | .frcp sw w d a => Sys2Proof.Machine.execFrcp sw w d a s
  | .frsq sw w d a => Sys2Proof.Machine.execFrsq sw w d a s
  | .fsqrt sw w d a => Sys2Proof.Machine.execFsqrt sw w d a s
  | .fexp2 sw w d a => Sys2Proof.Machine.execFexp2 sw w d a s
  | .flog2 sw w d a => Sys2Proof.Machine.execFlog2 sw w d a s
  | .fsin sw w d a => Sys2Proof.Machine.execFsin sw w d a s
  | .fcos sw w d a => Sys2Proof.Machine.execFcos sw w d a s
  | .ftanh sw w d a => Sys2Proof.Machine.execFtanh sw w d a s
  | .frnd sw w d a m => Sys2Proof.Machine.execFrnd sw w d a m s
  | .fcls sw w d a => Sys2Proof.Machine.execFcls sw w d a s
  | .laneid sw w d => Sys2Proof.Machine.execLaneid sw w d s
  | .movu sw w d u => Sys2Proof.Machine.execMovu sw w d u s
  | .vmovi sw w d imm => Sys2Proof.Machine.execVmovi sw w d imm s
  | .shli sw w d a k => Sys2Proof.Machine.execShli sw w d a k s
  | .shri sw w d a k => Sys2Proof.Machine.execShri sw w d a k s
  | .srai sw w d a k => Sys2Proof.Machine.execSrai sw w d a k s
  | .addi sw w d a k => Sys2Proof.Machine.execAddi sw w d a k s
  | .icmpEq sw w b a n p => Sys2Proof.Machine.execIcmpEq sw w b a n p s
  | .icmpNe sw w b a n p => Sys2Proof.Machine.execIcmpNe sw w b a n p s
  | .icmpLt sw w b a n p => Sys2Proof.Machine.execIcmpLt sw w b a n p s
  | .icmpLe sw w b a n p => Sys2Proof.Machine.execIcmpLe sw w b a n p s
  | .icmpLtu sw w b a n p => Sys2Proof.Machine.execIcmpLtu sw w b a n p s
  | .icmpLeu sw w b a n p => Sys2Proof.Machine.execIcmpLeu sw w b a n p s
  | .fcmpEq sw w b a n p => Sys2Proof.Machine.execFcmpEq sw w b a n p s
  | .fcmpNe sw w b a n p => Sys2Proof.Machine.execFcmpNe sw w b a n p s
  | .fcmpLt sw w b a n p => Sys2Proof.Machine.execFcmpLt sw w b a n p s
  | .fcmpLe sw w b a n p => Sys2Proof.Machine.execFcmpLe sw w b a n p s
  | .fcmpUn sw w b a n p => Sys2Proof.Machine.execFcmpUn sw w b a n p s
  | .sel sw w d a n p => Sys2Proof.Machine.execSel sw w d a n p s
  | .vscan sw w d a f h => Sys2Proof.Machine.execVscan sw w d a f h s
  | .vscanx sw w d a f h => Sys2Proof.Machine.execVscanx sw w d a f h s
  | .vred sw w d a f h => Sys2Proof.Machine.execVred sw w d a f h s
  | .vredmax sw w d a f h => Sys2Proof.Machine.execVredmax sw w d a f h s
  | .vredmin sw w d a f h => Sys2Proof.Machine.execVredmin sw w d a f h s
  | .ballot sw d p => Sys2Proof.Machine.execBallot sw d p s
  | .vpopc sw w d p => Sys2Proof.Machine.execVpopc sw w d p s
  | .shfu sw w d a k => Sys2Proof.Machine.execShfu sw w d a k s
  | .shfd sw w d a k => Sys2Proof.Machine.execShfd sw w d a k s
  | .shfxor sw w d a k => Sys2Proof.Machine.execShfxor sw w d a k s
  | .pand sw f g n p => Sys2Proof.Machine.execPand sw f g n p s
  | .por sw f g n p => Sys2Proof.Machine.execPor sw f g n p s
  | .pxor sw f g n p => Sys2Proof.Machine.execPxor sw f g n p s
  | .pnot sw f p => Sys2Proof.Machine.execPnot sw f p s
  | .pmovv sw w a n p => Sys2Proof.Machine.execPmovv sw w a n p s
  | .vmovp sw w d p => Sys2Proof.Machine.execVmovp sw w d p s
  | .vfirst sw w d p => Sys2Proof.Machine.execVfirst sw w d p s
  | .ld sw g w d a x => Sys2Proof.Machine.execLd sw g w d a x s
  | .st sw g w d a x => Sys2Proof.Machine.execSt sw g w d a x s
  | .ldl sw g w d a => Sys2Proof.Machine.execLdl sw g w d a s
  | .stc sw g w d a => Sys2Proof.Machine.execStc sw g w d a s
  | .lds sw g w d a x => Sys2Proof.Machine.execLds sw g w d a x s
  | .sts sw g w d a x => Sys2Proof.Machine.execSts sw g w d a x s
  | .pref sw g a => Sys2Proof.Machine.execPref sw g a s
  | .fence sw g c k => Sys2Proof.Machine.execFence sw g c k s
  | .atomAdd sw c g w d a n => Sys2Proof.Machine.execAtomAdd sw c g w d a n s
  | .atomMin sw c g w d a n => Sys2Proof.Machine.execAtomMin sw c g w d a n s
  | .atomMax sw c g w d a n => Sys2Proof.Machine.execAtomMax sw c g w d a n s
  | .atomMinu sw c g w d a n => Sys2Proof.Machine.execAtomMinu sw c g w d a n s
  | .atomMaxu sw c g w d a n => Sys2Proof.Machine.execAtomMaxu sw c g w d a n s
  | .atomAnd sw c g w d a n => Sys2Proof.Machine.execAtomAnd sw c g w d a n s
  | .atomOr sw c g w d a n => Sys2Proof.Machine.execAtomOr sw c g w d a n s
  | .atomXor sw c g w d a n => Sys2Proof.Machine.execAtomXor sw c g w d a n s
  | .atomExch sw c g w d a n => Sys2Proof.Machine.execAtomExch sw c g w d a n s
  | .atomCas sw c g w d a n => Sys2Proof.Machine.execAtomCas sw c g w d a n s
  | .atomFadd sw c g w d a n => Sys2Proof.Machine.execAtomFadd sw c g w d a n s
  | .atomFmin sw c g w d a n => Sys2Proof.Machine.execAtomFmin sw c g w d a n s
  | .atomFmax sw c g w d a n => Sys2Proof.Machine.execAtomFmax sw c g w d a n s
  | .atomRedc sw c g w d a n => Sys2Proof.Machine.execAtomRedc sw c g w d a n s
  | .atomInc sw c g w d a n => Sys2Proof.Machine.execAtomInc sw c g w d a n s
  | .sadd sw d a b => Sys2Proof.Machine.execSadd sw d a b s
  | .ssub sw d a b => Sys2Proof.Machine.execSsub sw d a b s
  | .smul sw d a b => Sys2Proof.Machine.execSmul sw d a b s
  | .smulh sw d a b => Sys2Proof.Machine.execSmulh sw d a b s
  | .sand sw d a b => Sys2Proof.Machine.execSand sw d a b s
  | .sor sw d a b => Sys2Proof.Machine.execSor sw d a b s
  | .sxor sw d a b => Sys2Proof.Machine.execSxor sw d a b s
  | .sshl sw d a b => Sys2Proof.Machine.execSshl sw d a b s
  | .sshr sw d a b => Sys2Proof.Machine.execSshr sw d a b s
  | .ssra sw d a b => Sys2Proof.Machine.execSsra sw d a b s
  | .smin sw d a b => Sys2Proof.Machine.execSmin sw d a b s
  | .smax sw d a b => Sys2Proof.Machine.execSmax sw d a b s
  | .sminu sw d a b => Sys2Proof.Machine.execSminu sw d a b s
  | .smaxu sw d a b => Sys2Proof.Machine.execSmaxu sw d a b s
  | .seq sw d a b => Sys2Proof.Machine.execSeq sw d a b s
  | .slt sw d a b => Sys2Proof.Machine.execSlt sw d a b s
  | .sltu sw d a b => Sys2Proof.Machine.execSltu sw d a b s
  | .smovi sw d imm => Sys2Proof.Machine.execSmovi sw d imm s
  | .slui sw d imm => Sys2Proof.Machine.execSlui sw d imm s
  | .spopc sw d a => Sys2Proof.Machine.execSpopc sw d a s
  | .sclz sw d a => Sys2Proof.Machine.execSclz sw d a s
  | .sctz sw d a => Sys2Proof.Machine.execSctz sw d a s
  | .sbfx sw d a b => Sys2Proof.Machine.execSbfx sw d a b s
  | .sbfi sw d a b => Sys2Proof.Machine.execSbfi sw d a b s
  | .sread sw d c => Sys2Proof.Machine.execSread sw d c s
  | .winImm sw imm => Sys2Proof.Machine.execWinImm sw imm s
  | .winReg sw a => Sys2Proof.Machine.execWinReg sw a s
  | .vtos sw d v => Sys2Proof.Machine.execVtos sw d v s
  | .sld sw d a x => Sys2Proof.Machine.execSld sw d a x s
  | .sst sw d a x => Sys2Proof.Machine.execSst sw d a x s
  | .saddi sw d a imm => Sys2Proof.Machine.execSaddi sw d a imm s
  | .csrr sw d c => Sys2Proof.Machine.execCsrr sw d c s
  | .csrw sw d c => Sys2Proof.Machine.execCsrw sw d c s
  | .bra sw o => Sys2Proof.Machine.execBra sw o s
  | .cbr sw g n o => Sys2Proof.Machine.execCbr sw g n o s
  | .brz sw r o => Sys2Proof.Machine.execBrz sw r o s
  | .brnz sw r o => Sys2Proof.Machine.execBrnz sw r o s
  | .call sw o => Sys2Proof.Machine.execCall sw o s
  | .ret sw => Sys2Proof.Machine.execRet sw s
  | .brx sw r => Sys2Proof.Machine.execBrx sw r s
  | .exit sw g n => Sys2Proof.Machine.execExit sw g n s
  | .yield sw o => Sys2Proof.Machine.execYield sw o s
  | .joinw sw o => Sys2Proof.Machine.execJoinw sw o s
  | .trap sw g n imm => Sys2Proof.Machine.execTrap sw g n imm s
  | .brk sw g n => Sys2Proof.Machine.execBrk sw g n s
  | .rett sw => Sys2Proof.Machine.execRett sw s
  | .sleep sw c => Sys2Proof.Machine.execSleep sw c s
  | .nop sw => Sys2Proof.Machine.execNop sw s
  | .binit sw b a => Sys2Proof.Machine.execBinit sw b a s
  | .barv sw b a p => Sys2Proof.Machine.execBarv sw b a p s
  | .bwait sw b a => Sys2Proof.Machine.execBwait sw b a s
  | .bexp sw b a => Sys2Proof.Machine.execBexp sw b a s
  | .btest sw b a p => Sys2Proof.Machine.execBtest sw b a p s
  | .bstat sw b d l => Sys2Proof.Machine.execBstat sw b d l s
  | .cpy sw d n b => Sys2Proof.Machine.execCpy sw d n b s
  | .gath sw d n b => Sys2Proof.Machine.execGath sw d n b s
  | .xfrm sw d n b => Sys2Proof.Machine.execXfrm sw d n b s
  | .tld sw t p b => Sys2Proof.Machine.execTld sw t p b s
  | .tst sw t p b o => Sys2Proof.Machine.execTst sw t p b o s
  | .tmov sw t u => Sys2Proof.Machine.execTmov sw t u s
  | .thdr sw t d => Sys2Proof.Machine.execThdr sw t d s
  | .thset sw t d => Sys2Proof.Machine.execThset sw t d s
  | .tcvt sw t u f => Sys2Proof.Machine.execTcvt sw t u f s
  | .tfill sw t v => Sys2Proof.Machine.execTfill sw t v s
  | .tdrn sw t d imm => Sys2Proof.Machine.execTdrn sw t d imm s
  | .mma sw a t u b z => Sys2Proof.Machine.execMma sw a t u b z s
  | .adrn sw a t f b => Sys2Proof.Machine.execAdrn sw a t f b s
  | .afill sw a v b => Sys2Proof.Machine.execAfill sw a v b s
  | .tbnd sw t => Sys2Proof.Machine.execTbnd sw t s
  | .prune sw t m p => Sys2Proof.Machine.execPrune sw t m p s
  | .ldh sw h p => Sys2Proof.Machine.execLdh sw h p s
  | .seth sw h d => Sys2Proof.Machine.execSeth sw h d s
  | .sth sw h p => Sys2Proof.Machine.execSth sw h p s
  | .tbind sw b h => Sys2Proof.Machine.execTbind sw b h s
  | .tget sw b d k p => Sys2Proof.Machine.execTget sw b d k p s
  | .tgetx sw b d k p => Sys2Proof.Machine.execTgetx sw b d k p s
  | .tins sw b d k p => Sys2Proof.Machine.execTins sw b d k p s
  | .tinsx sw b d k p => Sys2Proof.Machine.execTinsx sw b d k p s
  | .tups sw b d k p => Sys2Proof.Machine.execTups sw b d k p s
  | .tdel sw b k p => Sys2Proof.Machine.execTdel sw b k p s
  | .tscan sw b c k => Sys2Proof.Machine.execTscan sw b c k s
  | .tnext sw b d c p => Sys2Proof.Machine.execTnext sw b d c p s
  | .tcnt sw b d k => Sys2Proof.Machine.execTcnt sw b d k s
  | .tref sw b d k => Sys2Proof.Machine.execTref sw b d k s
  | .href sw d h => Sys2Proof.Machine.execHref sw d h s
  | .hbnd sw h => Sys2Proof.Machine.execHbnd sw h s
  | .spawn sw q e g p => Sys2Proof.Machine.execSpawn sw q e g p s
  | .qpush sw q g p => Sys2Proof.Machine.execQpush sw q g p s
  | .qpull sw q d p => Sys2Proof.Machine.execQpull sw q d p s
  | .qflush sw q => Sys2Proof.Machine.execQflush sw q s
  | .rsweep sw b d => Sys2Proof.Machine.execRsweep sw b d s
  | .rdue sw b k p => Sys2Proof.Machine.execRdue sw b k p s
  | .rvisit sw b c k p => Sys2Proof.Machine.execRvisit sw b c k p s
  | .rreadh sw b d k => Sys2Proof.Machine.execRreadh sw b d k s
  | .rreadx sw b d k => Sys2Proof.Machine.execRreadx sw b d k s
  | .rset sw b v k => Sys2Proof.Machine.execRset sw b v k s
  | .pcnt sw d e => Sys2Proof.Machine.execPcnt sw d e s
  | .waite sw p v => Sys2Proof.Machine.execWaite sw p v s
  | .sige sw p v => Sys2Proof.Machine.execSige sw p v s
  | .flushrc sw => Sys2Proof.Machine.execFlushrc sw s
  | .hintImm imm => Sys2Proof.Machine.execHintImm imm s
  | .hintImmhi imm => Sys2Proof.Machine.execHintImmhi imm s
  | .hintGuard n p => Sys2Proof.Machine.execHintGuard n p s
  | .hintRnd m => Sys2Proof.Machine.execHintRnd m s
  | .hintSat => Sys2Proof.Machine.execHintSat s
  | .hintOrd c o => Sys2Proof.Machine.execHintOrd c o s
  | .hintCache c => Sys2Proof.Machine.execHintCache c s
  | .hintOffs o => Sys2Proof.Machine.execHintOffs o s
  | .hintCheck => Sys2Proof.Machine.execHintCheck s
  | .hintPri p => Sys2Proof.Machine.execHintPri p s
  | .deviceReset => Sys2Proof.Machine.execDeviceReset s
  | .registerWrite => Sys2Proof.Machine.execRegisterWrite s
  | .fwloadFirmware => Sys2Proof.Machine.execFwloadFirmware s
  | .fwloadConfiguration => Sys2Proof.Machine.execFwloadConfiguration s
  | .fwloadComplete => Sys2Proof.Machine.execFwloadComplete s
  | .attestStart => Sys2Proof.Machine.execAttestStart s
  | .attestComplete => Sys2Proof.Machine.execAttestComplete s
  | .lifetimeAppend => Sys2Proof.Machine.execLifetimeAppend s
  | .thermalLimit105 => Sys2Proof.Machine.execThermalLimit105 s
  | .thermalRecover => Sys2Proof.Machine.execThermalRecover s
  | .thermalLimit115 => Sys2Proof.Machine.execThermalLimit115 s
  | .powerCapStep => Sys2Proof.Machine.execPowerCapStep s
  | .dieIdle => Sys2Proof.Machine.execDieIdle s
  | .psReqPs3 => Sys2Proof.Machine.execPsReqPs3 s
  | .psReqNone => Sys2Proof.Machine.execPsReqNone s
  | .ps3EntryComplete => Sys2Proof.Machine.execPs3EntryComplete s
  | .ps3WakeComplete => Sys2Proof.Machine.execPs3WakeComplete s
  | .partitionCreate => Sys2Proof.Machine.execPartitionCreate s
  | .partitionDelete => Sys2Proof.Machine.execPartitionDelete s
  | .partitionDeleteComplete => Sys2Proof.Machine.execPartitionDeleteComplete s
  | .contextKill => Sys2Proof.Machine.execContextKill s
  | .contextFree => Sys2Proof.Machine.execContextFree s
  | .expertDisable => Sys2Proof.Machine.execExpertDisable s
  | .cxlpSetEnable => Sys2Proof.Machine.execCxlpSetEnable s
  | .cxlpSetDisable => Sys2Proof.Machine.execCxlpSetDisable s
  | .cxlExpanderTimeout => Sys2Proof.Machine.execCxlExpanderTimeout s
  | .memoryErrorCorrected => Sys2Proof.Machine.execMemoryErrorCorrected s
  | .memoryErrorUncorrectable => Sys2Proof.Machine.execMemoryErrorUncorrectable s
  | .workgroupStateError => Sys2Proof.Machine.execWorkgroupStateError s
  | .hostMwinRead => Sys2Proof.Machine.execHostMwinRead s
  | .hostMwinWrite => Sys2Proof.Machine.execHostMwinWrite s
  | .hostCompletionTimeout => Sys2Proof.Machine.execHostCompletionTimeout s
  | .sessionOpen => Sys2Proof.Machine.execSessionOpen s
  | .sessionClose => Sys2Proof.Machine.execSessionClose s
  | .flitReceive => Sys2Proof.Machine.execFlitReceive s
  | .linkRetrainComplete => Sys2Proof.Machine.execLinkRetrainComplete s
  | .stayPortDown => Sys2Proof.Machine.execStayPortDown s
  | .peerRingTimeout => Sys2Proof.Machine.execPeerRingTimeout s
  | .queueEnable => Sys2Proof.Machine.execQueueEnable s
  | .queueResume => Sys2Proof.Machine.execQueueResume s
  | .queueDisable => Sys2Proof.Machine.execQueueDisable s
  | .hqStatusClear => Sys2Proof.Machine.execHqStatusClear s
  | .queueNotify => Sys2Proof.Machine.execQueueNotify s
  | .recordFetch => Sys2Proof.Machine.execRecordFetch s
  | .seqReadReturn => Sys2Proof.Machine.execSeqReadReturn s
  | .seqRetryTimer => Sys2Proof.Machine.execSeqRetryTimer s
  | .seqStallTimeout => Sys2Proof.Machine.execSeqStallTimeout s
  | .recordPayloadReturn => Sys2Proof.Machine.execRecordPayloadReturn s
  | .recordWaitPoll => Sys2Proof.Machine.execRecordWaitPoll s
  | .recordStart => Sys2Proof.Machine.execRecordStart s
  | .recordSignal => Sys2Proof.Machine.execRecordSignal s
  | .workgroupPlace => Sys2Proof.Machine.execWorkgroupPlace s
  | .drainReservation => Sys2Proof.Machine.execDrainReservation s
  | .coopDieReserve => Sys2Proof.Machine.execCoopDieReserve s
  | .jibChunkComplete => Sys2Proof.Machine.execJibChunkComplete s
  | .resourceRelease => Sys2Proof.Machine.execResourceRelease s
  | .packFlushTimeout => Sys2Proof.Machine.execPackFlushTimeout s
  | .splitLift => Sys2Proof.Machine.execSplitLift s
  | .resultLands => Sys2Proof.Machine.execResultLands s
  | .storeSettled => Sys2Proof.Machine.execStoreSettled s
  | .yieldTimeout => Sys2Proof.Machine.execYieldTimeout s
  | .sleepExpiry => Sys2Proof.Machine.execSleepExpiry s
  | .waitePoll => Sys2Proof.Machine.execWaitePoll s
  | .quadAtomicWriteback => Sys2Proof.Machine.execQuadAtomicWriteback s
  | .halyardCommit => Sys2Proof.Machine.execHalyardCommit s
  | .tableRetire => Sys2Proof.Machine.execTableRetire s
  | .nodeReadRetry => Sys2Proof.Machine.execNodeReadRetry s
  | .tileLoadRetry => Sys2Proof.Machine.execTileLoadRetry s
  | .journalApply => Sys2Proof.Machine.execJournalApply s
  | .sheetChunkComplete => Sys2Proof.Machine.execSheetChunkComplete s
  | .mainsailGrant => Sys2Proof.Machine.execMainsailGrant s
  | .engineOperationComplete => Sys2Proof.Machine.execEngineOperationComplete s
  | .barrierStarved => Sys2Proof.Machine.execBarrierStarved s
  | .contextSliceExpiry => Sys2Proof.Machine.execContextSliceExpiry s
  | .contextPreempt => Sys2Proof.Machine.execContextPreempt s
  | .haltComplete => Sys2Proof.Machine.execHaltComplete s
  | .exchangeComplete => Sys2Proof.Machine.execExchangeComplete s
  | .writebackComplete => Sys2Proof.Machine.execWritebackComplete s
  | .stagingComplete => Sys2Proof.Machine.execStagingComplete s
  | .translationInvalidate => Sys2Proof.Machine.execTranslationInvalidate s
  | .xltinvComplete => Sys2Proof.Machine.execXltinvComplete s
  | .handleMint => Sys2Proof.Machine.execHandleMint s
  | .counterClear => Sys2Proof.Machine.execCounterClear s
  | .warpRungEntry => Sys2Proof.Machine.execWarpRungEntry s
  | .workgroupRungEntry => Sys2Proof.Machine.execWorkgroupRungEntry s
  | .contextRungEntry => Sys2Proof.Machine.execContextRungEntry s
  | .contextResume => Sys2Proof.Machine.execContextResume s
  | .workgroupEnd => Sys2Proof.Machine.execWorkgroupEnd s
  | .handlerTimeout => Sys2Proof.Machine.execHandlerTimeout s
  | .hostResponseTimeout => Sys2Proof.Machine.execHostResponseTimeout s
  | .partitionReset => Sys2Proof.Machine.execPartitionReset s
  | .partitionResetTimeout => Sys2Proof.Machine.execPartitionResetTimeout s
  | .rowCacheEviction => Sys2Proof.Machine.execRowCacheEviction s
  | .powerLoss => Sys2Proof.Machine.execPowerLoss s
  | .stayPortTrained => Sys2Proof.Machine.execStayPortTrained s

end Sys2Proof.Machine
end

