-- ==== Sys2Proof/Machine/Due.lean ====
section
/-! DEFINITION. The events of the device, not of the world around it, that can happen next. Each is listed under the
condition that its meaning checks (DESIGN CHOICE, log 2). -/
namespace Sys2Proof.Machine

/-- A move under a condition. -/
def due (b : Bool) (row : Instr) (args : EventArgs) : List Move := if b then [⟨row, args⟩] else []

/-! ## Warps and workgroups -/

/-- What a split waits for has come. -/
def State.splitMoves (s : State) (w : Warp) (n : Nat) : List Move :=
  let a : EventArgs := { i := w.id, split := BitVec.ofNat 2 n }
  match w.split n with
  | none => []
  | some p =>
    match p.wait with
    | .ready => due (s.liftDue w p) .splitLift a
    | .yield d _ => due (decide (d ≤ s.cycle) && (s.wg? w.wg).any s.running) .yieldTimeout a
    | .sleep d => due (decide (d ≤ s.cycle) && (s.wg? w.wg).any s.running) .sleepExpiry a
    | .waite _ _ => due ((s.waitingIssue w.id n).any s.waiteDue) .waitePoll a
    | _ => []

/-- What a warp's results, stores and rungs can do. -/
def State.warpMoves (s : State) (w : Warp) : List Move :=
  ((List.range w.pending.length).flatMap fun k => due (w.landable k) .resultLands { i := w.id, addr := k }) ++
  ((List.range w.stores.length).flatMap fun k =>
    due ((s.wg? w.wg).any fun g => s.settleable w g k) .storeSettled { i := w.id, addr := k }) ++
  ((List.range 4).flatMap fun n => s.splitMoves w n) ++
  due (s.warpDue w) .warpRungEntry { i := w.id } ++
  due (s.handlerLate w).isSome .handlerTimeout { i := w.id } ++
  due (s.releasable w) .resourceRelease { i := w.id }

/-- Does an entry of the retired-warp ring of a workgroup find its rung free (R211)? -/
def State.ringDue (s : State) (g : Workgroup) : Bool :=
  g.raised.isNone && (s.retired.any fun x => x.2.wg == g.id) && decide (s.takeRetired.retired ≠ s.retired)

def State.wgMoves (s : State) (g : Workgroup) : List Move :=
  due ((g.raised.isSome && g.handler.isNone && s.running g && s.wgCanStop g.id) || s.ringDue g) .workgroupRungEntry { i := g.id } ++
  due (s.starved g) .barrierStarved { i := g.id } ++
  due (s.jibServes g) .jibChunkComplete { i := g.id } ++
  due (s.tornWg g) .tileLoadRetry { i := g.id, flag := true } ++
  due (s.wgOver g) .resourceRelease { i := g.id, flag := true }

/-! ## Engines, tables, caches -/

/-- Can an operation complete, or take its next step of itself (R344)? -/
def State.engineDue (s : State) (j : Job) : Bool :=
  s.jobReaches j && !j.asking && (j.done || (!j.torn && match j.kind with
    | .tld => true
    | .tst => !j.flag || !(s.journal.any fun e => e.job == j.id)
    | _ => false))

def State.jobMoves (s : State) (j : Job) : List Move :=
  due (s.sheetServes j) .sheetChunkComplete { i := j.id } ++
  due (j.kind.unit == 2 && (s.mainsailPick j.place).map (·.id) == some j.id) .mainsailGrant { i := j.id } ++
  due (s.engineDue j) .engineOperationComplete { i := j.id } ++
  due (s.tornJob j) .tileLoadRetry { i := j.id }

/-- Numbers of the entries of a list that meet a test. -/
def placesWhere {α : Type} (xs : List α) (f : Nat → Bool) : List Nat := (List.range xs.length).filter f

def State.unitMoves (s : State) : List Move :=
  ((placesWhere s.journal fun k => match s.journal[k]? with
      | some e => !((s.journal.take k).any fun x => x.addr == e.addr)
      | none => false).map fun k => ⟨.journalApply, { i := k }⟩) ++
  ((placesWhere s.tableReqs s.nextMutation).map fun k => ⟨.halyardCommit, { i := k }⟩) ++
  ((List.range s.lookups.length).map fun k => ⟨.nodeReadRetry, { i := k }⟩) ++
  ((placesWhere s.retiring fun k => match s.retiring[k]? with
      | some (p, c, ptr) => !(s.tableReqs.any fun r => r.part == p && r.ctx == c && tbPtr r.binding == ptr) &&
          !(s.lookups.any fun r => r.part == p && r.ctx == c && tbPtr r.binding == ptr)
      | none => false).map fun k => ⟨.tableRetire, { i := k }⟩) ++
  ((placesWhere s.bins fun k => match s.bins[k]? with
      | some b => s.dueBins.contains b
      | none => false).map fun k => ⟨.packFlushTimeout, { i := k }⟩) ++
  ((s.held.map fun h => (h.quad, h.addr / 32)).eraseDups.map fun h => ⟨.quadAtomicWriteback, { i := h.1, addr := h.2 }⟩) ++
  ((s.cache.map fun c => (c.core, c.sector / 4)).eraseDups.map fun c => ⟨.rowCacheEviction, { core := c.1, addr := c.2 }⟩)

/-! ## The Mast -/

/-- Does the Mast of a partition place something, or find of some launch for the first time that it cannot (R80 to R82)? -/
def State.placeDue (s : State) (p : BitVec 2) : Bool :=
  let o := s.placeOrder p
  (s.placeFirst o).isSome || o.any fun l => l.noCore.isNone

/-- Is no request of a queue for these bytes outstanding? -/
def State.ringQuiet (s : State) (p : BitVec 2) (q : BitVec 6) : Bool := !s.asked (ringReq p q)

def State.queueMoves (s : State) (p : BitVec 2) (q : BitVec 6) (x : Queue) : List Move :=
  let a : EventArgs := { p := p, q := q }
  match x.fetch with
  | .idle => []
  | .seqRead _ _ _ => due (s.ringQuiet p q) .seqReadReturn a
  | .retry t _ st stalled => due (decide (t ≤ s.cycle)) .seqRetryTimer a ++
      due (!stalled && decide (st + stallCycles ≤ s.cycle)) .seqStallTimeout a
  | .payload => due (s.ringQuiet p q) .recordPayloadReturn a
  | .waiting _ _ _ => due (s.pollDue p q) .recordWaitPoll a ++ due (s.startable p q).isSome .recordStart a

/-! ## Contexts and partitions -/

def State.ctxMoves (s : State) (p : BitVec 2) (c : BitVec 6) (x : Ctx) : List Move :=
  let a : EventArgs := { p := p, c := c }
  due (x.raised.isSome && match (s.part p).switch with
    | .none => !s.inside p c || s.mayHalt p
    | .halting _ => !s.inside p c
    | .exchanging n => !s.inside p c && n != some c) .contextRungEntry a ++
  due (x.state == .killed && !x.valid && x.zeroed) .contextFree a ++
  due (s.hostLate p c) .hostResponseTimeout a

/-- Can the halt of a partition's context end (R110)? -/
def State.haltDue (s : State) (p : BitVec 2) : Bool :=
  let x := s.part p
  match x.switch, x.resident with
  | .halting _, some c => s.haltDone p c && ((s.ctx p c).state == .killed || (x.staged && x.writeback.isNone))
  | .halting _, none => true
  | _, _ => false

def State.partMoves (s : State) (p : BitVec 2) (x : Part) : List Move :=
  let a : EventArgs := { p := p }
  due (s.placeDue p) .workgroupPlace a ++
  due (s.drainDue p).isSome .drainReservation a ++
  due (s.coopDue p).isSome .coopDieReserve a ++
  due (s.fetchTurn p).isSome .recordFetch a ++
  due (s.sliceDue p).isSome .contextSliceExpiry a ++
  due (s.preemptDue p).isSome .contextPreempt a ++
  due (s.haltDue p) .haltComplete a ++
  due (match x.switch with
    | .exchanging _ => true
    | _ => false) .exchangeComplete a ++
  due x.writeback.isSome .writebackComplete a ++
  due (!x.staged && x.writeback.isNone) .stagingComplete a ++
  due x.raised.isSome .partitionReset a ++
  due (x.raised.isSome && match x.resetAt with
    | some t => s.timeUp t (1000 * max 1 x.partMs.toNat)
    | none => false) .partitionResetTimeout a ++
  due (x.state == 3) .partitionDeleteComplete a ++
  due x.xltGo .xltinvComplete a ++
  (x.queues.flatMap fun e => s.queueMoves p (BitVec.ofNat 6 e.1) e.2) ++
  (x.ctxs.flatMap fun e => s.ctxMoves p (BitVec.ofNat 6 e.1) e.2)

/-! ## The device -/

/-- How often the model looks for dies without work, which R36 leaves open. DESIGN CHOICE, log 38. -/
def idlePeriod : Nat := 65536

/-- A block is appended at least every 60 s (R66). -/
def lifeCycles : Nat := 60000000 * Config.cyclesPerUs

def State.deviceMoves (s : State) : List Move :=
  due s.fwGo .fwloadComplete {} ++ due s.attGo .attestComplete {} ++
  due (decide (lifeCycles ≤ s.cycle - s.lifeAt)) .lifetimeAppend {} ++
  due (s.pkgState == 1) .ps3EntryComplete {} ++ due (s.pkgState == 3) .ps3WakeComplete {} ++
  ((List.range 4).flatMap fun d => due (s.bootStage == 5 && s.pkgState == 0 && s.cycle % idlePeriod == idlePeriod - 1 && !s.ps2.getLsbD d && !s.dieBusy d) .dieIdle { die := BitVec.ofNat 2 d }) ++
  ((placesWhere s.ports fun i => (s.port i).state == 3).map fun i => ⟨.linkRetrainComplete, { i := i }⟩) ++
  ((s.exts.filter fun r => decide (r.deadline ≤ s.cycle)).map fun r =>
    ⟨if r.peer.isSome then .peerRingTimeout else .hostCompletionTimeout, { i := r.tag }⟩) ++
  ((placesWhere s.inbox fun k => match s.inbox[k]? with
      | some x => s.mayServe x (s.inbox.take k)
      | none => false).map fun k => ⟨.flitReceive, { i := k, flag := true }⟩) ++
  ((placesWhere s.windows fun k => mayAccess (s.windows.take k)).map fun k =>
    ⟨if (s.windows[k]?).any fun x => x.data.isSome then .hostMwinWrite else .hostMwinRead, { i := k, flag := true }⟩) ++
  ((s.launches.filter fun l => l.queue.isSome && s.workDone l && !(s.exts.any fun r => r.use == 9 && r.job == l.id)).map fun l =>
    ⟨.recordSignal, { i := l.id }⟩)

/-- The rows that are work of the compute dies, the units of the base dies and the Masts, which stand still in PS3 (R36, R37). -/
def sleeps (i : Instr) : Bool :=
  [.recordFetch, .seqReadReturn, .seqRetryTimer, .seqStallTimeout, .recordPayloadReturn, .recordWaitPoll, .recordStart, .recordSignal,
    .workgroupPlace, .drainReservation, .coopDieReserve, .jibChunkComplete, .resourceRelease, .packFlushTimeout, .splitLift, .resultLands,
    .storeSettled, .yieldTimeout, .sleepExpiry, .waitePoll, .quadAtomicWriteback, .halyardCommit, .tableRetire, .nodeReadRetry,
    .tileLoadRetry, .sheetChunkComplete, .mainsailGrant, .engineOperationComplete, .barrierStarved, .contextSliceExpiry, .contextPreempt,
    .haltComplete, .exchangeComplete, .writebackComplete, .stagingComplete, .warpRungEntry, .workgroupRungEntry, .contextRungEntry,
    .handlerTimeout, .rowCacheEviction].contains i

/-- Is the package in PS3, or leaving it (R37)? -/
def State.asleep (s : State) : Bool := s.pkgState == 2 || s.pkgState == 3

/-- Every event of the device that is due. -/
def State.dueMoves (s : State) : List Move :=
  let ms := s.warps.flatMap s.warpMoves ++ s.wgs.flatMap s.wgMoves ++ s.jobs.flatMap s.jobMoves ++ s.unitMoves ++
    allParts.flatMap (fun p => s.partMoves p (s.part p)) ++ s.deviceMoves
  if s.asleep then ms.filter fun m => !sleeps m.row else ms

end Sys2Proof.Machine
end

