-- ==== Sys2Proof/Machine/Fetch.lean ====
section
/-! DEFINITION. The fetch and decoding of a chosen split's next word (R253, R254, R271 to R273). -/
namespace Sys2Proof.Machine

/-- Something that can happen next. -/
inductive Candidate where
  | event (m : Move)
  | issue (id : SplitId)
  deriving DecidableEq, Repr

/-- Everything that can happen next. -/
def State.candidates (s : State) : List Candidate := s.dueMoves.map .event ++ s.chosen.map .issue

/-! ## Fetching -/

/-- A split at its issue boundary: with no lane left its top deferral entry resumes, and due entries are popped (R103). -/
def Split.resumeLanes (p : Split) : Split :=
  if p.hints.isEmpty ∧ p.wait = .ready then
    let q := if p.mask = 0 then match p.defer with
        | (m, pc) :: rest => { p with mask := m, pc := pc, defer := rest }
        | [] => p
      else p
    Split.popDue q.defer.length q
  else p

/-- A split that issues: its own deferred lanes and those of the warp's other ready splits resume that are due (R103), and the
splits that may merge into it do (R104); the number it then bears. -/
def Warp.atBoundary (w : Warp) (n : Nat) : Warp × Nat :=
  let w1 := { w with splits := w.splits.map (Option.map Split.resumeLanes) }
  match w1.split n with
  | some p => if p.hints.isEmpty then w1.mergeInto n else (w1, n)
  | none => (w1, n)

/-- The word at a place: while a word has been overwritten since the workgroup started, the old or the new one, chosen
freely (R254; DESIGN CHOICE, log 1). -/
def State.staleWord (s : State) (g : Workgroup) (key : Nat) (now : IWord) : IWord :=
  match s.stale.filter fun x => x.key == key && decide (g.started ≤ x.at_) with
  | [] => now
  | xs => (now :: xs.map (·.old)).getD (Config.pick s.free 10 0 key % (xs.length + 1)) now

/-- Fetch the word at a counter (R253): a ROW pointer, from a page with X = 1. -/
def State.fetchWord (s : State) (ag : Agent) (g : Workgroup) (pc : Word) : State × Except MErr IWord :=
  if bits pc.toNat 60 4 ≠ 3 then (s, .error ⟨.badSpace, 0⟩)
  else match s.places ag .fetch pc.toNat 4 with
    | (s1, .error e) => (s1, .error e)
    | (s1, .ok ps) =>
      let w := BitVec.ofNat 32 (leNat (ps.flatMap fun x => match x.1 with
        | .mem key => s1.homeBytes key x.2
        | _ => []))
      match ps with
      | [(.mem key, _)] => (s1, .ok (s1.staleWord g key w))
      | _ => (s1, .ok w)

/-- What fetching and decoding a split's next word comes to: an instruction to run, or a state in which the word, a hint,
has joined its run or a fault has been taken. -/
inductive Fetched where
  | run (i : Instr) (s : State)
  | taken (s : State)
  deriving Repr

/-- Decode a fetched word of the issuing split. -/
def State.decodeFor (s : State) (c : Issue) (w : IWord) : Fetched :=
  match decode w with
  | .ok i => .run i s
  | .illegalOp => .taken (s.faultAt c .illegalOp c.p.mask 0 w.toNat)
  | .illegalWidth => .taken (s.faultAt c .illegalWidth c.p.mask 0 w.toNat)
  | .badHint k p => .taken (s.takeHint c ⟨k, p⟩)

/-- The chosen split has issued, a hint or an instruction, unless it waits for a result or for room to issue: splits that yielded to it
wait for it no longer (R281). -/
def State.issuedNow (s : State) : State :=
  match s.cur with
  | none => s
  | some id =>
    if ((s.warp? id.warp).bind fun w => w.split id.split).any fun p => p.wait == .full || p.wait == .results then s
    else s.yieldSweep (some id)

/-- The next word of a chosen split. -/
def State.fetch (s : State) (id : SplitId) : Fetched :=
  match s.warp? id.warp with
  | none => .taken s
  | some w =>
    let b := w.atBoundary id.split
    let s0 := s.modWarp id.warp fun _ => b.1
    let s0 := if b.1 = w then s0 else s0.dropLatch fun e => e.warp == id.warp
    let s1 := { s0.yieldSweep none with cur := some ⟨id.warp, b.2⟩ }
    match s1.issue? false with
    | none => .taken s1
    | some c =>
      match s1.fetchWord (c.agent none) c.g c.pc with
      | (s2, .error e) => .taken (s2.faultAt c e.code c.p.mask c.pc e.detail)
      | (s2, .ok x) => s2.decodeFor c x

end Sys2Proof.Machine
end

