-- ==== Sys2Proof/Machine/Perform.lean ====
section
/-! DEFINITION. What a step performs: an event or the issue of a split, the choice among what can happen, the passing of a
cycle, and the set-up that places one word (DESIGN CHOICE, log 2, DEDUCED, log 11). -/
namespace Sys2Proof.Machine

/-- Lines that a quad atomic unit has held for 2 µs are written back (R188). -/
def State.writeBackOld (s : State) : State :=
  if s.held.isEmpty then s
  else (List.range 32).foldl (fun t q =>
    if t.held.any fun h => h.quad == q && decide (h.since + 2 * Config.cyclesPerUs ≤ t.cycle) then t.writeBack q else t) s

/-- Warps whose last split is gone leave as soon as they can, and the entries of the retired-warp ring are raised as soon as their rung is
free (R211). -/
def State.leaveDue (s : State) : State :=
  let t := (s.warps.filter fun w => !w.exited && w.valid.isEmpty).foldl (fun t w => t.tryExit w.id) s
  if t.retired.isEmpty then t else t.takeRetired

/-- What a step brings with it of itself: peers found unreachable in it are lost (R32), splits that a marker held go on once their results
have landed (R257), warps that a full ring kept leave once it has room (R211), whoever waits for a word that it has
changed reads the word again (R75, R300), torn tile loads are repeated in their time (R180), and what has stood for as long as it may, in
a quad atomic unit or in a journal, is written out (R179, R188). -/
def State.keepTime (s : State) : State :=
  let s1 := s.lostDue.unparkDue.leaveDue.reread.retriesDue.writeBackOld
  s1.journalDue s1.journal.length

/-- A cycle has passed: the model's counters move on, and no split is issuing (DESIGN CHOICE, log 2). -/
def State.advance (s : State) : State :=
  { s with cycle := s.cycle + 1, free := s.free + 1, turn := s.turn + 1, cur := none }

/-- What stands behind every step; a device without power does nothing of itself (R36). -/
def State.tick (s : State) : State := (if s.off then s else s.keepTime).advance

/-- The outcome of a step around that of an instruction. -/
def ticked : Host.Outcome State Fault Refusal → Host.Outcome State Fault Refusal
  | .next s => .next s.tick
  | .fault f => .fault f
  | .refused r => .refused r

/-- The rows that act on a device without power, and before boot stage 5, where only the DEV block and the lifetime record
answer (R36, R64). -/
def wakesOff (i : Instr) : Bool := i == .deviceReset
def worksUnbooted (i : Instr) : Bool :=
  [.deviceReset, .powerLoss, .registerWrite, .fwloadFirmware, .fwloadConfiguration, .fwloadComplete, .attestStart, .attestComplete,
    .lifetimeAppend].contains i

/-- Does an event find the device in a state to take it? -/
def State.takes (s : State) (i : Instr) : Bool :=
  if s.off then wakesOff i else (s.bootStage == 5 || worksUnbooted i) && !(s.asleep && sleeps i)

/-- An event happens; a coded row is no event. -/
def State.happen (s : State) (m : Move) : Host.Outcome State Fault Refusal :=
  if (encodeNat m.row).isSome ∨ s.takes m.row = false then .next s else exec m.row { s with args := m.args, cur := none }

/-- What the issue of a split comes to, once those that yielded to it know of it (R281). -/
def issued : Host.Outcome State Fault Refusal → Host.Outcome State Fault Refusal
  | .next s => .next s.issuedNow
  | .fault f => .fault f
  | .refused r => .refused r

/-- One of the things that can happen does. -/
def State.perform (s : State) : Candidate → Host.Outcome State Fault Refusal
  | .event m => s.happen m
  | .issue id =>
    match s.fetch id with
    | .run i t => issued (exec i t)
    | .taken t => .next t.issuedNow

/-- Which candidate moves: the only one, or the one that the free value names (DESIGN CHOICE, log 2). -/
def State.pick (s : State) : List Candidate → Option Candidate
  | [] => none
  | [c] => some c
  | c :: cs => some ((c :: cs).getD (Config.pickMove s.turn (cs.length + 1) % (cs.length + 1)) c)

/-! ## Placing one instruction (DEDUCED, log 11) -/

/-- A page table of four levels for row address 0 of one context: root, level 1 and 2 tables, and leaves that map the
64 KiB of physical address 0x5_0000 for reading, writing and fetching (R149 to R151). -/
def placedTables : List (Nat × Nat) :=
  [(0x10000, 0x20001), (0x20000, 0x30001), (0x30000, 0x40001), (0x40000, 0x5000D)]

/-- Memory with the tables and the word at physical address 0x5_0000. -/
def placedMem (m : Cells) (w : Nat) : Cells :=
  (placedTables.foldl (fun m e => m.setBytes e.1 (leBytes 8 e.2)) m).setBytes 0x50000 (leBytes 8 (w % 2 ^ 32))

/-- The one context that runs. -/
def placedCtx : Ctx := { state := .resident, valid := true, root := 0x10000, tenant := 1, everResident := true }

/-- Its warp: one split with every lane, its counter at row address 0. -/
def placedWarp : Warp :=
  { id := 1, core := 0, slot := 0, wg := 1, num := 0, slicesA := 512, tCount := 2, cCount := 2, hCount := 2,
    tiles := [0, 0], accs := [0, 0], shapes := [0, 0],
    splits := [some { pc := 0x3000000000000000, mask := 0xFFFFFFFF }, none, none, none] }

end Sys2Proof.Machine
end

