-- ==== Sys2Proof/Machine/Step.lean ====
section
/-! DEFINITION. One step of the device, and the set-up that makes it fetch a given word next. -/
namespace Sys2Proof.Machine

/-- One step: the event whose turn it is; or, with none, one of the things that can happen next; or a cycle passes. -/
def step (s : State) : Host.Outcome State Fault Refusal :=
  match s.agenda with
  | m :: rest => ticked (State.happen { s with agenda := rest } m)
  | [] =>
    if s.off then .next s.tick
    else match s.pick s.candidates with
      | some c => ticked (s.perform c)
      | none => .next s.tick

/-- The device as it stands once a launch of one workgroup of one warp has been placed on core 0, with the word as its
first instruction: partition 0 of die 0, context 0. -/
def State.withFetchWord (s : State) (_nbits w : Nat) : State :=
  { s with
    agenda := [], off := false, ps2 := 0xE, mem := placedMem s.mem w
    parts := modifyAt (fun x => { x with state := 2, dies := 1, resident := some 0, switch := .none, raised := none, ctxs := [(0, placedCtx)] })
      s.parts 0
    launches := [{ id := 1, part := 0, ctx := 0, record := { entry := 0x3000000000000000 }, prio := 0, nextWg := 1, live := 1 }]
    wgs := [{ id := 1, launch := 1, tmpl := { slices := 512, tiles := 2, accs := 2, shapes := 2, barGranules := 1, scratchKiB := 1 } }]
    warps := [placedWarp]
    jobs := [], tableReqs := [], lookups := [], exts := [], locks := [], bins := [], reservations := [], retired := []
    inbox := [], windows := [], lost := []
    tlb := [], walks := [], owners := [], stale := [], latch := [], cache := [], held := [], journal := [], nudged := [], probed := [], nextId := 2 }

end Sys2Proof.Machine
end

