-- ==== Sys2Proof/Safety.lean ====
section
/-! DEFINITION. The terms that claims use: an outcome that goes on, the canonical form of a state's memories, an instruction
that passes the checks of its issue, and what an instruction leaves alone. -/
namespace Sys2Proof.Machine

/-- An outcome that goes on: no fault, no refusal. -/
def Completes (o : Host.Outcome State Fault Refusal) : Prop := ∃ t, o = .next t

/-- Row storage and host memory stand in their one form. -/
def State.memOk (s : State) : Prop := Memory.wf s.mem = true ∧ Memory.wf s.host = true

/-- Something keeps an instruction with operands `u` from its own effect: a check of R273 fails, a result it waits for is
pending (R259), or checked mode finds a hazard (R258). -/
def Uses.kept (u : Uses) (s : State) (i : Instr) (c : Issue) : Bool :=
  (u.check c i).isSome || u.stalled s c ||
  (s.checkedMode c && (u.hazard c (u.lanes c &&& ~~~(if u.keyProg then 0 else c.doneBefore))).isSome)

/-- An instruction with operands `u` issues and nothing keeps it from its own effect: the issuing split's surroundings, and
the state in which that effect begins. None where it does not issue, or is kept. -/
def Uses.begins (u : Uses) (s : State) (i : Instr) (sw : Bool) : Option (Issue × State) :=
  match s.issue? sw with
  | none => none
  | some c =>
    if u.kept s i c then none
    else
      let t := (s.bindSources u c).latchTick u c
      (t.warp? c.id.warp).map fun w => ({ c with w := w }, t)

/-- Every other part of the device is as before: only warp `id` and the operand latch may differ. -/
def OnlyWarp (id : Nat) (s t : State) : Prop :=
  t = { s with warps := t.warps, latch := t.latch } ∧ ∀ k, k ≠ id → t.warp? k = s.warp? k

/-- A lane of a warp. -/
def State.laneOf (s : State) (id l : Nat) : Lane := ((s.warp? id).map fun w => w.lane l).getD {}

/-- A split of the device. -/
def State.splitOf (s : State) (id : SplitId) : Option Split := (s.warp? id.warp).bind fun w => w.split id.split

end Sys2Proof.Machine
end

