-- ==== Sys2Proof/Certificates/Slice0/Obligations.lean ====
section
/-! DEFINITION. The statements for the provers. A claim that an instruction runs says: nothing keeps it from its own effect
(`Uses.begins`: the checks of R273, the interlock of R259 and checked mode), and then `exec` answers the next state given.
Shared operations that such a next state names (`vec`, `put`, `complete`, `finish` and so on) have statements of their own. -/
open Sys2Proof Sys2Proof.Machine

/-! ## Vector instructions (R303 to R324) -/

/-- A V3 word's constructor. -/
abbrev Sys2Proof.Machine.V3Row := Bool → BitVec 3 → BitVec 2 → BitVec 7 → BitVec 7 → BitVec 7 → Instr

/-- Operands of an integer V3 word (R261, R269, R270): HINT.SAT fits IADD and ISUB alone. -/
def Sys2Proof.Machine.v3IntForm (s : State) (w : BitVec 3) (h : BitVec 2) (d a b : BitVec 7) (sat addend : Bool) : Uses :=
  let u := v3Uses s.hintsNow h d a b (wSlices w) (wSlices w) addend
  { u with fits := if sat then 4 :: u.fits else u.fits }

/-- In each executing lane d takes trunc(f, n): `f` has SAT, n = 4w, and the values of a, b and the old d (R304, R307). -/
def Sys2Proof.Machine.V3IntRuns (row : V3Row) (sat addend : Bool) (f : Bool → Nat → Nat → Nat → Nat → Int) : Prop :=
  ∀ s c t sw w h d a b, (v3IntForm s w h d a b sat addend).begins s (row sw w h d a b) sw = some (c, t) →
    exec (row sw w h d a b) s = .next ((t.holdOps c h a b (wSlices w) (wSlices w)).vec c
      ((v3IntForm s w h d a b sat addend).lanes c) d.toNat (wSlices w) fun l =>
        trunc (f (satOf c.p.hints) (4 * wSlices w) (t.src c 0 l a.toNat (wSlices w)) (t.opB c l b (wSlices w))
          (t.src c 2 l d.toNat (wSlices w))) (4 * wSlices w))

def Obligations.IntegerVectorResults : Prop :=
  V3IntRuns .iadd true false (fun sat n x y _ =>
    if sat then max (-2 ^ (n - 1)) (min (sext x n + sext y n) (2 ^ (n - 1) - 1)) else x + y) ∧
  V3IntRuns .isub true false (fun sat n x y _ =>
    if sat then max (-2 ^ (n - 1)) (min (sext x n - sext y n) (2 ^ (n - 1) - 1)) else x - y) ∧
  V3IntRuns .imul false false (fun _ _ x y _ => x * y) ∧
  V3IntRuns .imulh false false (fun _ n x y _ => sext x n * sext y n / 2 ^ n) ∧
  V3IntRuns .imulhu false false (fun _ n x y _ => (x : Int) * y / 2 ^ n) ∧
  V3IntRuns .imad false true (fun _ _ x y z => x * y + z) ∧
  V3IntRuns .imin false false (fun _ n x y _ => min (sext x n) (sext y n)) ∧
  V3IntRuns .iminu false false (fun _ _ x y _ => min x y) ∧
  V3IntRuns .imax false false (fun _ n x y _ => max (sext x n) (sext y n)) ∧
  V3IntRuns .imaxu false false (fun _ _ x y _ => max x y) ∧
  V3IntRuns .and false false (fun _ _ x y _ => (x &&& y : Nat)) ∧
  V3IntRuns .or false false (fun _ _ x y _ => (x ||| y : Nat)) ∧
  V3IntRuns .xor false false (fun _ _ x y _ => (x ^^^ y : Nat)) ∧
  V3IntRuns .shl false false (fun _ n x k _ => if n ≤ k then 0 else x * 2 ^ k) ∧
  V3IntRuns .shr false false (fun _ n x k _ => if n ≤ k then 0 else (x : Int) / 2 ^ k) ∧
  V3IntRuns .sra false false (fun _ n x k _ =>
    if n ≤ k then (if sext x n < 0 then -1 else 0) else sext x n / 2 ^ k)

/-- Operands of a floating-point V3 word (R230, R308): HINT.RND fits where `rnd`, with SR at F16 and BF16 alone. -/
def Sys2Proof.Machine.v3FpForm (s : State) (w : BitVec 3) (h : BitVec 2) (d a b : BitVec 7) (rnd addend : Bool) : Uses :=
  let u := v3Uses s.hintsNow h d a b (fSlices w) (fSlices w) addend
  { u with okWidth := fmtW w, fits := if rnd then 3 :: u.fits else u.fits, srOk := w == 3 || w == 4 }

/-- In each executing lane d takes a rounded result, whose flags are ORed in and whose draw is taken (R231, R233). -/
def Sys2Proof.Machine.V3FpRuns (row : V3Row) (rnd addend : Bool) (f : FloatFmt → Rounding → Nat → Nat → Nat → Rounded) : Prop :=
  ∀ s c t sw w h d a b, (v3FpForm s w h d a b rnd addend).begins s (row sw w h d a b) sw = some (c, t) →
    exec (row sw w h d a b) s = .next ((t.holdOps c h a b (fSlices w) (fSlices w)).vecF c false
      ((v3FpForm s w h d a b rnd addend).lanes c) d.toNat (fSlices w) fun l =>
        f (wFmt w) (c.rounding l) (t.src c 0 l a.toNat (fSlices w)) (t.opB c l b (fSlices w)) (t.src c 2 l d.toNat (fSlices w)))

def Obligations.FloatVectorResults : Prop :=
  V3FpRuns .fadd true false (fun f r x y _ => f.addVal r (f.decode x) (f.decode y)) ∧
  V3FpRuns .fsub true false (fun f r x y _ => f.addVal r (f.decode x) (f.decode y).negate) ∧
  V3FpRuns .fmul true false (fun f r x y _ => f.mulVal r (f.decode x) (f.decode y)) ∧
  V3FpRuns .ffma true true (fun f r x y z => f.fmaVal r (f.decode x) (f.decode y) (f.decode z)) ∧
  V3FpRuns .fmin false false (fun f _ x y _ => f.minMax true x y) ∧
  V3FpRuns .fmax false false (fun f _ x y _ => f.minMax false x y)

/-- Operands of SHF and SHFX (R305, R321, R322): the index at 4 slices in the executing lanes, the `span` slices at a in
the lanes `all`. -/
def Sys2Proof.Machine.shuffleForm (s : State) (h : BitVec 2) (d a b : BitVec 7) (n span : Nat) (all : BitVec 32) : Uses :=
  let im := (hintOf s.hintsNow 0).isSome
  { fits := [0, 1, 2], immZero := b == 0 && !h.getLsbD 1
    vs := [(d.toNat, n), (a.toNat, span)] ++ (if im then [] else [(b.toNat, 4)])
    src := if im then [] else [(b.toNat, 4)]
    srcAll := [(a.toNat, span)], allLanes := all }

/-- The immediate of HINT.IMM, truncated to the index's 16 bits (R270), or the index operand; modulo `m`. -/
def Sys2Proof.Machine.indexOf (t : State) (c : Issue) (l : Nat) (b : BitVec 7) (m : Nat) : Nat :=
  match immOf c.p.hints with
  | some k => (k % 2 ^ 16).toNat % m
  | none => t.src c 1 l b.toNat 4 % m

/-- A V3 word (R261): SWITCH in bit 31, OP from bit 26 on, then W, HA and HB, d, a and b. -/
def Sys2Proof.Machine.v3Word (op : Nat) (sw : Bool) (w : BitVec 3) (h : BitVec 2) (d a b : BitVec 7) : BitVec 32 :=
  BitVec.ofNat 32 (2 ^ 31 * sw.toNat + 2 ^ 26 * op + 2 ^ 23 * w.toNat + 2 ^ 21 * h.toNat + 2 ^ 14 * d.toNat + 2 ^ 7 * a.toNat + b.toNat)

/-- Operands of SHF: the slices at a are those of the lanes that the executing lanes name (R305, R321). -/
def Sys2Proof.Machine.shfForm (s : State) (sw : Bool) (h : BitVec 2) (d a b : BitVec 7) (n : Nat) : Uses :=
  shuffleForm s h d a b n n (s.readLanes sw (shuffleForm s h d a b n n 0) fun c l => indexOf s c l b 32)

/-- SHF reads one lane's value by index (R321), SHFX an element of a 64-slice span (R322); both with their words. -/
def Obligations.LaneShuffles : Prop :=
  (∀ sw w h d a b, encode (.shf sw w h d a b) = some (v3Word 22 sw w h d a b) ∧
    encode (.shfx sw w h d a b) = some (v3Word 23 sw w h d a b)) ∧
  (∀ s c t sw w h d a b, (shfForm s sw h d a b (wSlices w)).begins s (.shf sw w h d a b) sw = some (c, t) →
    exec (.shf sw w h d a b) s = .next ((t.holdOps c h a b (wSlices w) 4).vec c
      ((shfForm s sw h d a b (wSlices w)).lanes c) d.toNat (wSlices w) fun l =>
        t.src c 0 (indexOf t c l b 32) a.toNat (wSlices w))) ∧
  (∀ s c t sw w h d a b, (shuffleForm s h d a b (wSlices w) 64 0xFFFFFFFF).begins s (.shfx sw w h d a b) sw = some (c, t) →
    exec (.shfx sw w h d a b) s = .next ((t.holdOps c h a b 64 4).vec c
      ((shuffleForm s h d a b (wSlices w) 64 0xFFFFFFFF).lanes c) d.toNat (wSlices w) fun l =>
        let e := indexOf t c l b (32 * (64 / wSlices w))
        t.src c 0 (e / (64 / wSlices w)) (a.toNat + wSlices w * (e % (64 / wSlices w))) (wSlices w)))

/-- Operands of a one-source VU word: `n` slices written, `m` read; HINT.GUARD fits besides `u.fits` (R262). -/
def Sys2Proof.Machine.vuForm (u : Uses) (d a : BitVec 7) (n m : Nat) : Uses :=
  { u with vs := [(d.toNat, n), (a.toNat, m)], src := [(a.toNat, m)], fits := 2 :: u.fits }

/-- In each executing lane l, d takes trunc(f c l x, 4n) of its source value x (R304, R310). -/
def Sys2Proof.Machine.VuRuns (i : Instr) (sw : Bool) (u : Uses) (d a : BitVec 7) (n m : Nat) (f : Issue → Nat → Nat → Int) : Prop :=
  ∀ s c t, (vuForm u d a n m).begins s i sw = some (c, t) →
    exec i s = .next (t.vec c ((vuForm u d a n m).lanes c) d.toNat n fun l => trunc (f c l (t.src c 0 l a.toNat m)) (4 * n))

def Sys2Proof.Machine.OneSources : Prop :=
  ∀ (sw : Bool) (w x : BitVec 3) (d a : BitVec 7) (k : BitVec 4),
    let n := wSlices w
    let imm := fun (c : Issue) (v : Int) => (immOf c.p.hints).getD v
    let cnt := fun (c : Issue) => (trunc (imm c k.toNat) (4 * n) : Nat)
    VuRuns (.mov sw w d a) sw {} d a n n (fun _ _ v => v) ∧
    VuRuns (.not sw w d a) sw {} d a n n (fun _ _ v => 2 ^ (4 * n) - 1 - v) ∧
    VuRuns (.neg sw w d a 0) sw {} d a n n (fun _ _ v => 0 - v) ∧
    VuRuns (.abs sw w d a 0) sw {} d a n n (fun _ _ v => |sext v (4 * n)|) ∧
    VuRuns (.neg sw w d a 1) sw { okWidth := fmtW w } d a (fSlices w) (fSlices w) (fun _ _ v =>
      if ((wFmt w).decode v).isNaN then (wFmt w).nanCode else (v ^^^ (wFmt w).signBit : Nat)) ∧
    VuRuns (.abs sw w d a 1) sw { okWidth := fmtW w } d a (fSlices w) (fSlices w) (fun _ _ v =>
      if ((wFmt w).decode v).isNaN then (wFmt w).nanCode else (v % (wFmt w).signBit : Nat)) ∧
    VuRuns (.popc sw w d a) sw {} d a n n (fun _ _ v => ((List.range (4 * n)).filter fun i => v.testBit i).length) ∧
    VuRuns (.clz sw w d a) sw {} d a n n (fun _ _ v => clzN (4 * n) v) ∧
    VuRuns (.ctz sw w d a) sw {} d a n n (fun _ _ v => ctzN (4 * n) v) ∧
    VuRuns (.brev sw w d a) sw {} d a n n (fun _ _ v =>
      (((List.range (4 * n)).filter fun i => v.testBit i).map fun i => 2 ^ (4 * n - 1 - i)).sum) ∧
    VuRuns (.exts sw w d a x) sw { okWidth := decide (x < w) } d a n (wSlices x) (fun _ _ v => sext v (4 * wSlices x)) ∧
    VuRuns (.extz sw w d a x) sw { okWidth := decide (x < w) } d a n (wSlices x) (fun _ _ v => v) ∧
    VuRuns (.fcls sw w d a) sw { okWidth := fmtW w } d a 3 (fSlices w) (fun _ _ v => (wFmt w).classMask v) ∧
    VuRuns (.shli sw w d a k) sw { immZero := k == 0, fits := [0, 1] } d a n n
      (fun c _ v => if 4 * n ≤ cnt c then 0 else v * 2 ^ cnt c) ∧
    VuRuns (.shri sw w d a k) sw { immZero := k == 0, fits := [0, 1] } d a n n
      (fun c _ v => if 4 * n ≤ cnt c then 0 else (v : Int) / 2 ^ cnt c) ∧
    VuRuns (.srai sw w d a k) sw { immZero := k == 0, fits := [0, 1] } d a n n
      (fun c _ v => if 4 * n ≤ cnt c then (if sext v (4 * n) < 0 then -1 else 0) else sext v (4 * n) / 2 ^ cnt c) ∧
    VuRuns (.addi sw w d a k) sw { immZero := k == 0, fits := [0, 1] } d a n n (fun c _ v => v + imm c (sext k.toNat 4))

/-- In each executing lane d takes a rounded result, late where the function has variable latency (R255, R306). -/
def Sys2Proof.Machine.VuFpRuns (i : Instr) (sw later : Bool) (u : Uses) (d a : BitVec 7) (n m : Nat) (f : Rounding → Nat → Rounded) : Prop :=
  ∀ s c t, (vuForm u d a n m).begins s i sw = some (c, t) →
    exec i s = .next (t.vecF c later ((vuForm u d a n m).lanes c) d.toNat n fun l => f (c.rounding l) (t.src c 0 l a.toNat m))

def Sys2Proof.Machine.Conversions : Prop :=
  ∀ (sw : Bool) (w : BitVec 3) (d a : BitVec 7) (x : BitVec 4),
    let e := elemBits x.toNat
    VuFpRuns (.cvt sw w d a x) sw false
      { okWidth := fmtW w && x != 7 && x != 15, fits := [3, 4], srOk := decide (e ≤ 16) } d a (e / 4) (fSlices w)
      (fun r v => convertFmt (wFmt w) x.toNat r v) ∧
    VuFpRuns (.cvts sw w d a x) sw false
      { okWidth := fmtW w && floatCode x, fits := [3, 4], srOk := w == 3 || w == 4 } d a (fSlices w) (e / 4)
      (fun r v => convertFmt ((elemFloat x.toNat).getD .f64) (codeOfW w) r v) ∧
    VuFpRuns (.icvt sw w d a x) sw false { okWidth := floatCode x, fits := [3, 4], srOk := decide (e ≤ 16) } d a (e / 4) (wSlices w)
      (fun r v => convertTo x.toNat r (.ofInt (sext v (4 * wSlices w)))) ∧
    VuFpRuns (.ucvt sw w d a x) sw false { okWidth := floatCode x, fits := [3, 4], srOk := decide (e ≤ 16) } d a (e / 4) (wSlices w)
      (fun r v => convertTo x.toNat r (.ofInt v)) ∧
    (∀ m : BitVec 3, VuFpRuns (.frnd sw w d a m) sw false { okOp := decide (m < 4), okWidth := fmtW w } d a (fSlices w) (fSlices w)
      (fun _ v => (wFmt w).toIntegral (Mode.ofCode m.toNat) v))

/-- Lane values of QHAD: the executing lanes' values widened to FP32, +0 elsewhere (R316). -/
def Sys2Proof.Machine.qhadIn (t : State) (c : Issue) (ls : BitVec 32) (w : BitVec 3) (a : BitVec 7) : List Nat :=
  (List.range 32).map fun l =>
    if ls.getLsbD l then (FloatFmt.f32.ofVal {} ((wFmt w).decode (t.src c 0 l a.toNat (fSlices w)))).code else 0

/-- Operands of QHAD: a is read in all 32 lanes (R305, R316). -/
def Sys2Proof.Machine.qhadForm (w : BitVec 3) (d a : BitVec 7) (r : BitVec 3) : Uses :=
  { okWidth := fmtW w && w != 7, fits := [2], vs := [(d.toNat, fSlices w), (a.toNat, fSlices w)], srcAll := [(a.toNat, fSlices w)],
    uregs := [r.toNat] }

def Sys2Proof.Machine.Functions : Prop :=
  (∀ (sw : Bool) (w : BitVec 3) (d a : BitVec 7),
    let f := wFmt w
    let k := fSlices w
    VuFpRuns (.frcp sw w d a) sw true { okWidth := fmtW w } d a k k (fun _ x => f.rcp x) ∧
    VuFpRuns (.frsq sw w d a) sw true { okWidth := fmtW w } d a k k (fun _ x => f.rsqrt x) ∧
    VuFpRuns (.fsqrt sw w d a) sw true { okWidth := fmtW w, fits := [3], srOk := w == 3 || w == 4 } d a k k (fun r x => f.sqrt r x) ∧
    VuFpRuns (.fexp2 sw w d a) sw true { okWidth := fmtW w && w != 7 } d a k k (fun _ x => f.exp2 x) ∧
    VuFpRuns (.flog2 sw w d a) sw true { okWidth := fmtW w && w != 7 } d a k k (fun _ x => f.log2 x) ∧
    VuFpRuns (.fsin sw w d a) sw true { okWidth := fmtW w && w != 7 } d a k k (fun _ x => f.sin x) ∧
    VuFpRuns (.fcos sw w d a) sw true { okWidth := fmtW w && w != 7 } d a k k (fun _ x => f.cos x) ∧
    VuFpRuns (.ftanh sw w d a) sw true { okWidth := fmtW w && w != 7 } d a k k (fun _ x => f.tanh x)) ∧
  (∀ s c t sw w d a n r, (qhadForm w d a r).begins s (.qhad sw w d a n r) sw = some (c, t) →
    let ls := (qhadForm w d a r).lanes c
    let y := hadamard (n == 1) (c.p.ureg r.toNat).toNat (qhadIn t c ls w a)
    let out := fun (l : Nat) => if w = 5 then (⟨y.1.getD l 0, 0, false⟩ : Rounded) else (wFmt w).ofVal {} (FloatFmt.f32.decode (y.1.getD l 0))
    -- a signalling NaN that is widened raises invalid (R233)
    let sn := (lanesOf ls).any fun l => ((wFmt w).decode (t.src c 0 l a.toNat (fSlices w))).isSignalling
    exec (.qhad sw w d a n r) s = .next (t.vecF c true ls d.toNat (fSlices w) fun l =>
      { out l with flags := (lanesOf ls).foldl (fun m i => m ||| (out i).flags) (if sn then y.2 ||| flInvalid else y.2) }))

/-- Conversions and the approximated functions. -/
def Obligations.ConversionResults : Prop := Conversions ∧ Functions

/-- A VU word without a slice source: in each executing lane d takes trunc(f c l, 4n) (R310). -/
def Sys2Proof.Machine.VuNoneRuns (i : Instr) (sw : Bool) (u : Uses) (d : BitVec 7) (n : Nat) (f : Issue → Nat → Int) : Prop :=
  let v : Uses := { u with vs := [(d.toNat, n)], fits := 2 :: u.fits }
  ∀ s c t, v.begins s i sw = some (c, t) →
    exec i s = .next (t.vec c (v.lanes c) d.toNat n fun l => trunc (f c l) (4 * n))

def Sys2Proof.Machine.Constants : Prop :=
  ∀ (sw : Bool) (w : BitVec 3) (d : BitVec 7) (r : BitVec 6) (k : BitVec 11),
    VuNoneRuns (.laneid sw w d) sw {} d (wSlices w) (fun _ l => l) ∧
    VuNoneRuns (.movu sw w d r) sw { uregs := [r.toNat] } d (wSlices w) (fun c _ => (c.p.ureg r.toNat).toNat) ∧
    VuNoneRuns (.vmovi sw w d k) sw { immZero := k == 0, fits := [0, 1] } d (wSlices w)
      (fun c _ => (immOf c.p.hints).getD (sext k.toNat 11))

/-- The one-source vector instructions, and those that make a constant. -/
def Obligations.OneSourceResults : Prop := OneSources ∧ Constants

/-! ## Compares, predicates and cross-lane instructions (R317 to R324) -/

/-- Operands of a compare: a at the a field, b at the d field (R317); with `.and` the destination is read too. -/
def Sys2Proof.Machine.cmpForm (okW : Bool) (b a : BitVec 7) (k : Nat) (n : BitVec 1) (p : BitVec 3) : Uses :=
  { okWidth := okW, fits := [2], vs := [(b.toNat, k), (a.toNat, k)], src := [(a.toNat, k), (b.toNat, k)],
    preds := if n = 1 then [p.toNat] else [] }

/-- A compare's constructor. -/
abbrev Sys2Proof.Machine.CmpRow := Bool → BitVec 3 → BitVec 7 → BitVec 7 → BitVec 1 → BitVec 3 → Instr

def Sys2Proof.Machine.IcmpRuns (row : CmpRow) (f : Nat → Nat → Nat → Bool) : Prop :=
  ∀ s c t sw w b a n p, (cmpForm true b a (wSlices w) n p).begins s (row sw w b a n p) sw = some (c, t) →
    exec (row sw w b a n p) s = .next (t.putPreds c ((cmpForm true b a (wSlices w) n p).lanes c) n p fun l =>
      f (4 * wSlices w) (t.src c 0 l a.toNat (wSlices w)) (t.src c 1 l b.toNat (wSlices w)))

/-- `quiet`: a quiet NaN raises nothing; a signalling NaN always raises invalid (R317). -/
def Sys2Proof.Machine.FcmpRuns (row : CmpRow) (quiet : Bool) (f : FVal → FVal → Bool) : Prop :=
  ∀ s c t sw w b a n p, (cmpForm (fmtW w) b a (fSlices w) n p).begins s (row sw w b a n p) sw = some (c, t) →
    let x := fun l => (wFmt w).decode (t.src c 0 l a.toNat (fSlices w))
    let y := fun l => (wFmt w).decode (t.src c 1 l b.toNat (fSlices w))
    let ls := (cmpForm (fmtW w) b a (fSlices w) n p).lanes c
    exec (row sw w b a n p) s = .next ((t.flagLanes c ((lanesOf ls).map fun l =>
      (l, ⟨0, if (x l).isSignalling || (y l).isSignalling || (!quiet && ((x l).isNaN || (y l).isNaN)) then flInvalid else 0, false⟩))).putPreds
        c ls n p fun l => f (x l) (y l))

def Obligations.CompareResults : Prop :=
  IcmpRuns .icmpEq (fun _ x y => x == y) ∧
  IcmpRuns .icmpNe (fun _ x y => x != y) ∧
  IcmpRuns .icmpLt (fun n x y => decide (sext x n < sext y n)) ∧
  IcmpRuns .icmpLe (fun n x y => decide (sext x n ≤ sext y n)) ∧
  IcmpRuns .icmpLtu (fun _ x y => decide (x < y)) ∧
  IcmpRuns .icmpLeu (fun _ x y => decide (x ≤ y)) ∧
  FcmpRuns .fcmpEq true (fun x y => x.eqNum y) ∧
  FcmpRuns .fcmpNe true (fun x y => !x.eqNum y) ∧
  FcmpRuns .fcmpLt false (fun x y => x.ltNum y) ∧
  FcmpRuns .fcmpLe false (fun x y => x.ltNum y || x.eqNum y) ∧
  FcmpRuns .fcmpUn true (fun x y => x.isNaN || y.isNaN)

/-- A predicate function: P(D) of each executing lane takes `f` of its lane (R319). -/
def Sys2Proof.Machine.PredRuns (i : Instr) (sw : Bool) (ps : List Nat) (p : BitVec 3) (f : Lane → Bool) : Prop :=
  let u : Uses := { fits := [2], preds := ps }
  ∀ s c t, u.begins s i sw = some (c, t) → exec i s = .next (t.putPreds c (u.lanes c) 0 p fun l => f (c.w.lane l))

def Obligations.PredicateResults : Prop :=
  (∀ (sw : Bool) (f g p : BitVec 3) (n : BitVec 1),
    PredRuns (.pand sw f g n p) sw [f.toNat, g.toNat] p (fun x => x.pred f.toNat && (x.pred g.toNat ^^ (n == 1))) ∧
    PredRuns (.por sw f g n p) sw [f.toNat, g.toNat] p (fun x => x.pred f.toNat || (x.pred g.toNat ^^ (n == 1))) ∧
    PredRuns (.pxor sw f g n p) sw [f.toNat, g.toNat] p (fun x => x.pred f.toNat ^^ (x.pred g.toNat ^^ (n == 1))) ∧
    PredRuns (.pnot sw f p) sw [f.toNat] p (fun x => !x.pred f.toNat)) ∧
  (∀ s c t sw w a (n : BitVec 1) p,
    let u : Uses := { fits := [2], vs := [(a.toNat, wSlices w)], src := [(a.toNat, wSlices w)], preds := if n = 1 then [p.toNat] else [] }
    u.begins s (.pmovv sw w a n p) sw = some (c, t) →
    exec (.pmovv sw w a n p) s = .next (t.putPreds c (u.lanes c) n p fun l => t.src c 0 l a.toNat (wSlices w) != 0)) ∧
  (∀ s c t sw w d p,
    let u : Uses := { fits := [2], vs := [(d.toNat, wSlices w)], preds := [p.toNat] }
    u.begins s (.vmovp sw w d p) sw = some (c, t) →
    exec (.vmovp sw w d p) s = .next (t.vec c (u.lanes c) d.toNat (wSlices w) fun l => if (c.w.lane l).pred p.toNat then 1 else 0)) ∧
  (∀ s c t sw w d a n p,
    let u : Uses := { fits := [2], vs := [(d.toNat, wSlices w), (a.toNat, wSlices w)], src := [(a.toNat, wSlices w)], preds := [p.toNat] }
    u.begins s (.sel sw w d a n p) sw = some (c, t) →
    exec (.sel sw w d a n p) s = .next (t.vec c
      (maskOf ((lanesOf (u.lanes c)).filter fun l => (c.w.lane l).pred p.toNat ^^ (n == 1))) d.toNat (wSlices w) fun l =>
        t.src c 0 l a.toNat (wSlices w)))

/-- A scan or reduction: each executing lane folds the values of those lanes of its segment that `part` picks, in ascending
order (R323). -/
def Sys2Proof.Machine.ScanRuns (row : Bool → BitVec 3 → BitVec 7 → BitVec 7 → BitVec 1 → BitVec 3 → Instr) (k : Fold) (part : Nat → Nat → Bool) : Prop :=
  ∀ s c t sw w d a (f : BitVec 1) h,
    let n := wfSlices (f == 1) w
    let u : Uses := { okWidth := f == 0 || fmtW w, fits := [2], vs := [(d.toNat, n), (a.toNat, n)], src := [(a.toNat, n)], preds := [h.toNat] }
    u.begins s (row sw w d a f h) sw = some (c, t) →
    exec (row sw w d a f h) s = .next (t.vecF c false (u.lanes c) d.toNat n fun l =>
      let seg := ((segments c h.toNat (lanesOf (u.lanes c))).find? fun g => g.contains l).getD []
      let v := k.over (f == 1) w ((seg.filter (part l)).map fun x => t.src c 0 x a.toNat n)
      ⟨v.1, v.2, false⟩)

def Sys2Proof.Machine.Scans : Prop :=
  ScanRuns .vscan .sum (fun l x => decide (x ≤ l)) ∧
  ScanRuns .vscanx .sum (fun l x => decide (x < l)) ∧
  ScanRuns .vred .sum (fun _ _ => true) ∧
  ScanRuns .vredmax .max (fun _ _ => true) ∧
  ScanRuns .vredmin .min (fun _ _ => true)

/-- A mask or count function: every executing lane takes `f` of the executing lanes whose predicate is true (R324). -/
def Sys2Proof.Machine.VoteRuns (i : Instr) (sw : Bool) (d : BitVec 7) (n : Nat) (p : BitVec 3) (f : List Nat → Nat) : Prop :=
  let u : Uses := { fits := [2], vs := [(d.toNat, n)], preds := [p.toNat] }
  ∀ s c t, u.begins s i sw = some (c, t) →
    exec i s = .next (t.vec c (u.lanes c) d.toNat n fun _ =>
      f ((List.range 32).filter fun l => (u.lanes c).getLsbD l && (c.w.lane l).pred p.toNat))

/-- A fixed shuffle: each executing lane l takes the value of lane `f l k` (R320). -/
def Sys2Proof.Machine.ShuffleRuns (row : Bool → BitVec 3 → BitVec 7 → BitVec 7 → BitVec 4 → Instr) (f : Nat → Nat → Nat) : Prop :=
  ∀ s c t sw w d a (k : BitVec 4),
    let n := wSlices w
    let from_ := fun (c : Issue) (l : Nat) => f l (((immOf c.p.hints).getD (k.toNat : Int)) % 32).toNat
    let v : Uses := { immZero := k == 0, fits := [0, 1, 2], vs := [(d.toNat, n), (a.toNat, n)], srcAll := [(a.toNat, n)] }
    -- the slices read are those of the source lanes (R305)
    let u : Uses := { v with allLanes := s.readLanes sw v from_ }
    u.begins s (row sw w d a k) sw = some (c, t) →
    exec (row sw w d a k) s = .next (t.vec c (u.lanes c) d.toNat n fun l => t.src c 0 (from_ c l) a.toNat n)

def Sys2Proof.Machine.Votes : Prop :=
  (∀ (sw : Bool) (w : BitVec 3) (d : BitVec 7) (p : BitVec 3),
    VoteRuns (.ballot sw d p) sw d 8 p (fun ls => (ls.map fun l => 2 ^ l).sum) ∧
    VoteRuns (.vpopc sw w d p) sw d (wSlices w) p (fun ls => ls.length) ∧
    VoteRuns (.vfirst sw w d p) sw d (wSlices w) p (fun ls => ls.headD (2 ^ (4 * wSlices w) - 1))) ∧
  ShuffleRuns .shfu (fun l k => if l < k then l else l - k) ∧
  ShuffleRuns .shfd (fun l k => if 31 < l + k then l else l + k) ∧
  ShuffleRuns .shfxor (fun l k => l ^^^ k)

/-- Scans, reductions, votes and fixed shuffles. -/
def Obligations.CrossLaneResults : Prop := Scans ∧ Votes

/-! ## Memory instructions (R326 to R337) -/

/-- The lanes of a precise instruction that this attempt has to do (R208). -/
def Sys2Proof.Machine.Uses.todo (u : Uses) (c : Issue) : List Nat := lanesOf (u.lanes c &&& ~~~c.doneBefore)

/-- Every lane of a run is done without a fault: nothing is awaited. -/
def Sys2Proof.Machine.LaneRun.clean (r : LaneRun) : Prop := r.waiting = 0 ∧ r.faults = []

/-- The accesses of a load: an acquire first, then the lanes in ascending order, each with a result on its way (R193, R206,
R327). -/
def Sys2Proof.Machine.loadRun (t : State) (c : Issue) (u : Uses) (d a : BitVec 7) (n k : Nat) (ptr : Nat → Nat) : LaneRun :=
  let cache := (hintOf c.p.hints 6).getD 0
  let t0 := match sideOf c with
    | some sc => if (u.todo c).isEmpty then t else t.acquire c.w.core sc
    | none => t
  (u.todo c).foldl (fun r l =>
    let q := ptr (t.lanePtr c l a)
    r.add l (BitVec.ofNat 64 q) (r.st.loadFor c (some l) q n (c.dst l d.toNat k) (sideOf c).isSome (cache == 1) (cache == 2)))
    { st := t0 }

/-- Operands of LD, LDL, ST and STC, and of LDS and STS (R264). -/
def Sys2Proof.Machine.loadForm (okW : Bool) (g : BitVec 3) (d a : BitVec 7) (k : Nat) (hints ords : List Nat) (data : Bool) : Uses :=
  { okWidth := okW, orders := !data, fits := hints, ords := ords, guard := some g, vs := [(d.toNat, k), (a.toNat, 16)]
    src := (a.toNat, 16) :: (if data then [(d.toNat, k)] else []) }

def Obligations.LoadsComplete : Prop :=
  (∀ s c t sw g w d a x,
    let n := if x = 1#1 then 32 else wSlices w / 2
    let u := loadForm (memWidthOk w x) g d a (2 * n) [2, 5, 6, 7] [0, 1] false
    u.begins s (.ld sw g w d a x) sw = some (c, t) → (loadRun t c u d a n (2 * n) id).clean →
    exec (.ld sw g w d a x) s = .next ((loadRun t c u d a n (2 * n) id).st.complete c)) ∧
  (∀ s c t sw g w d a,
    let n := 32 * 2 ^ w.toNat
    let u := loadForm (decide (w < 3)) g d a (2 * n) [2, 5, 6, 7] [0, 1] false
    u.begins s (.ldl sw g w d a) sw = some (c, t) → (loadRun t c u d a n (2 * n) fun p => p / 32 * 32).clean →
    exec (.ldl sw g w d a) s = .next ((loadRun t c u d a n (2 * n) fun p => p / 32 * 32).st.complete c)) ∧
  (∀ s c t sw g w d a x,
    let k := if x = 1#1 then 8 * wSlices w else wSlices w
    let u := loadForm true g d a k [2, 7] [] false
    u.begins s (.lds sw g w d a x) sw = some (c, t) → (loadRun t c u d a ((k + 1) / 2) k id).clean →
    exec (.lds sw g w d a x) s = .next ((loadRun t c u d a ((k + 1) / 2) k id).st.complete c))

/-- The stores of the executing lanes, in ascending order, each outstanding (R210, R327). -/
def Sys2Proof.Machine.storeRun (t : State) (c : Issue) (u : Uses) (d a : BitVec 7) (n k : Nat) : State :=
  (lanesOf (u.lanes c)).foldl (fun r l =>
    r.storeFor c (some l) (t.lanePtr c l a) (leBytes n (t.src c 1 l d.toNat k)) (sideOf c)) t

/-- Operands of STC: of the pointers only the lowest lane's is read, an earlier part's lanes counted in (R330). -/
def Sys2Proof.Machine.stcForm (s : State) (sw : Bool) (g w : BitVec 3) (d a : BitVec 7) : Uses :=
  let n := wSlices w / 2
  let u : Uses := { okWidth := memWidthOk w 0, fits := [2, 5, 7], ords := [0, 2], guard := some g
                    vs := [(d.toNat, 2 * n), (a.toNat, 16)], src := [(d.toNat, 2 * n)], src1 := [(a.toNat, 16)] }
  { u with lane1 := ((s.issue? sw).bind fun c => lowestLane (u.lanes c ||| c.doneBefore)).getD 0 }

def Obligations.StoresComplete : Prop :=
  (∀ s c t sw g w d a x,
    let n := if x = 1#1 then 32 else wSlices w / 2
    let u := loadForm (memWidthOk w x) g d a (2 * n) [2, 5, 7] [0, 2] true
    u.begins s (.st sw g w d a x) sw = some (c, t) →
    exec (.st sw g w d a x) s = .next ((storeRun t c u d a n (2 * n)).complete c)) ∧
  (∀ s c t sw g w d a x,
    let k := if x = 1#1 then 8 * wSlices w else wSlices w
    let u := loadForm true g d a k [2, 7] [] true
    u.begins s (.sts sw g w d a x) sw = some (c, t) →
    exec (.sts sw g w d a x) s = .next ((storeRun t c u d a ((k + 1) / 2) k).complete c)) ∧
  -- STC: consecutive places from the lowest executing lane's pointer, its sources read once; it may go on in a later step between two
  -- lanes, and behind a halt at the places that it would have filled (R106, R330, R331)
  (∀ s c t sw g w d a,
    let n := wSlices w / 2
    let u := stcForm s sw g w d a
    u.begins s (.stc sw g w d a) sw = some (c, t) →
    let xs := lanesOf (u.lanes c ||| c.doneBefore)
    let left := (List.range xs.length).filter fun k => !c.doneBefore.getLsbD (xs.getD k 0)
    let first : StoreRun :=
      { todo := left.map fun k => (xs.getD k 0, BitVec.ofNat 64 (t.lanePtr c (xs.headD 0) a + k * n),
          leBytes n (t.src c 1 (xs.getD k 0) d.toNat (2 * n)))
        done := c.doneBefore
        -- its stores are those of one instruction, behind a halt too (R210)
        seq := match c.p.stc with
          | some r => if c.doneBefore = 0 then t.free else r.seq
          | none => t.free }
    let run := match c.p.stc with
      | some r => if r.halted then first else r
      | none => first
    ∃ m, 1 ≤ m ∧
      let r := (run.todo.take m).foldl (fun r x => r.storeAs c run.seq (some x.1) x.2.1.toNat x.2.2 (sideOf c)) t
      exec (.stc sw g w d a) s = .next (if run.todo.length ≤ m then r.complete c
        else (r.waitAt c .ready).modSplit c.id fun p =>
          { p with stc := some { run with todo := run.todo.drop m, done := run.done ||| maskOf ((run.todo.take m).map (·.1)) } })) ∧
  -- a halt between two lanes leaves those that have stored as the progress (R106)
  (∀ (p : Split) r, p.stc = some r → r.halted = false →
    p.midway = true ∧ p.stopStc.midway = p.walk.isSome ∧ p.stopStc.progValid = true ∧ p.stopStc.prog = r.done.zeroExtend 64 ∧
    p.stopStc.progPc = p.pc - BitVec.ofNat 64 (4 * p.hints.length) ∧
    p.stopStc = { p with stc := p.stopStc.stc, prog := p.stopStc.prog, progValid := true, progPc := p.stopStc.progPc })

def Obligations.PrefetchAndFenceComplete : Prop :=
  (∀ s c t sw g a,
    let u : Uses := { fits := [2, 6, 7], guard := some g, vs := [(a.toNat, 16)], src := [(a.toNat, 16)], unchecked := true }
    u.begins s (.pref sw g a) sw = some (c, t) →
    exec (.pref sw g a) s = .next (((lanesOf (u.lanes c)).foldl (fun r l =>
      let p := t.lanePtr c l a
      let cache := (hintOf c.p.hints 6).getD 0
      if (bits p 60 4 = 3 ∨ bits p 60 4 = 5) ∧ cache ≠ 1 then r.prefetch c l p (cache == 2) else r) t).complete c)) ∧
  (∀ s c t sw, ({} : Uses).begins s (.flushrc sw) sw = some (c, t) →
    exec (.flushrc sw) s = .next ((t.dropCache c.w.core).complete c)) ∧
  -- FENCE: the split parks behind the fence, and goes on at once where nothing is outstanding (R334)
  (∀ s c t sw g sc k,
    let u : Uses := { okOp := decide (sc < 6#3), fits := [2], guard := some g }
    u.begins s (.fence sw g sc k) sw = some (c, t) →
    let on := decide (u.lanes c ≠ 0)
    let t1 := t.bindIf c.id.warp fun r => match r.lane with
      | some l => (u.lanes c).getLsbD l
      | none => true
    let t2 := if on ∧ 2 ≤ sc.toNat then t1.writeBack (quadOf c.w.core) else t1
    let t3 := if on ∧ k ≠ 1 ∧ 1 ≤ sc.toNat then t2.dropCache c.w.core else t2
    let t4 := if sw then t3.dropLatch fun e => e.core == c.w.core && e.group == slotGroup c.w.slot else t3
    exec (.fence sw g sc k) s = .next (((t4.complete { c with sw := false }).modSplit c.id fun p =>
      { p with wait := .fence (on && k != 1 && decide (1 ≤ sc.toNat)), sw := sw }).unpark c.id.warp))

/-- Operands of an ATOM word (R265, R336): `m` slices of data, two values for CAS. -/
def Sys2Proof.Machine.atomForm (op : Nat) (c g : BitVec 3) (d a : BitVec 7) (m : Nat) : Uses :=
  let dw := if op = 9 then 2 * m else m
  { orders := true, okOp := decide (c < 6), fits := [2, 5, 7], ords := [0, 1, 2, 3], ordScope := some c.toNat, guard := some g
    vs := [(d.toNat, dw), (a.toNat, 16)], src := [(d.toNat, dw), (a.toNat, 16)] }

/-- Behind a release of some lanes their stores are all performed, those to peers and to the host answered: it does not wait for them
(R192, R193). -/
def Sys2Proof.Machine.answered (t : State) (c : Issue) (lanes : BitVec 32) : Prop :=
  (t.drain c.id.warp lanes).unperformed c.id.warp lanes = false

/-- The lanes' atomics in ascending order, behind the orderings of R193, and an acquire behind them. -/
def Sys2Proof.Machine.atomRun (t : State) (k : Issue) (u : Uses) (op nb m : Nat) (sc : Nat) (d a : BitVec 7) (n : BitVec 1) : LaneRun :=
  let ls := u.todo k
  let ord := ((ordOf k.p.hints).map (·.1)).getD 0
  let t1 := if ls.isEmpty then t else if 2 ≤ ord then t.release k.id.warp k.w.core (maskOf ls) sc
    else if 2 ≤ sc then t.writeBack (quadOf k.w.core) else t
  let r := ls.foldl (fun (r : LaneRun) l =>
    r.add l (BitVec.ofNat 64 (t.lanePtr k l a)) (r.st.atomFor k (some l) op nb sc (t.lanePtr k l a) (t.src k 1 l d.toNat m)
      (if op = 9 then t.src k 2 l (d.toNat + m) m else 0) (if n = 1 then none else some (k.abs d.toNat, m)) (ord % 2 == 1)))
    { st := t1 }
  if ls.isEmpty ∨ ord % 2 = 0 then r else { r with st := r.st.acquire k.w.core sc }

/-- An ATOM instruction whose lanes all execute here completes: `op` is its row in R265. -/
def Sys2Proof.Machine.AtomRuns (row : Bool → BitVec 3 → BitVec 3 → BitVec 1 → BitVec 7 → BitVec 7 → BitVec 1 → Instr) (op : Nat) : Prop :=
  ∀ s k t sw c g w d a n,
    let nb := (if w = 1 then 8 else 4) * (if op = 13 then 2 else 1)
    let m := if op = 13 then nb else 2 * nb
    (atomForm op c g d a m).begins s (row sw c g w d a n) sw = some (k, t) →
    (2 ≤ ((ordOf k.p.hints).map (·.1)).getD 0 → answered t k (maskOf ((atomForm op c g d a m).todo k))) →
    (atomRun t k (atomForm op c g d a m) op nb m c.toNat d a n).clean →
    exec (row sw c g w d a n) s = .next ((atomRun t k (atomForm op c g d a m) op nb m c.toNat d a n).st.complete k)

def Sys2Proof.Machine.Atomics : Prop :=
  AtomRuns .atomAdd 0 ∧ AtomRuns .atomMin 1 ∧ AtomRuns .atomMax 2 ∧ AtomRuns .atomMinu 3 ∧ AtomRuns .atomMaxu 4 ∧
  AtomRuns .atomAnd 5 ∧ AtomRuns .atomOr 6 ∧ AtomRuns .atomXor 7 ∧ AtomRuns .atomExch 8 ∧ AtomRuns .atomCas 9 ∧
  AtomRuns .atomFadd 10 ∧ AtomRuns .atomFmin 11 ∧ AtomRuns .atomFmax 12 ∧ AtomRuns .atomRedc 13 ∧ AtomRuns .atomInc 14

/-- What an atomic writes, of `n` bytes, from the old value, v and the second operand (R336); CAS writes on a match alone. -/
def Sys2Proof.Machine.AtomValues : Prop :=
  ∀ n old v second : Nat, (n = 4 ∨ n = 8) → old < 2 ^ (8 * n) → v < 2 ^ (8 * n) →
    atomNew 0 n old v second = some ((old + v) % 2 ^ (8 * n)) ∧
    (atomNew 1 n old v second).map (fun x => sext x (8 * n)) = some (min (sext old (8 * n)) (sext v (8 * n))) ∧
    (atomNew 2 n old v second).map (fun x => sext x (8 * n)) = some (max (sext old (8 * n)) (sext v (8 * n))) ∧
    atomNew 3 n old v second = some (min old v) ∧
    atomNew 4 n old v second = some (max old v) ∧
    atomNew 5 n old v second = some (old &&& v) ∧
    atomNew 6 n old v second = some (old ||| v) ∧
    atomNew 7 n old v second = some (old ^^^ v) ∧
    atomNew 8 n old v second = some v ∧
    (old = v → atomNew 9 n old v second = some second) ∧
    (old ≠ v → atomNew 9 n old v second = none) ∧
    (v ≤ old → atomNew 14 n old v second = some 0) ∧
    (old < v → atomNew 14 n old v second = some (old + 1)) ∧
    (let f := if n = 4 then FloatFmt.f32 else FloatFmt.f64
     atomNew 10 n old v second = some (f.addVal {} (f.decode old) (f.decode v)).code ∧
     atomNew 11 n old v second = some (f.minMax true old v).code ∧
     atomNew 12 n old v second = some (f.minMax false old v).code ∧
     -- REDC of a pair (s, err) with x: one pair step of R252
     ∀ err, err < 2 ^ (8 * n) → atomNew 13 (2 * n) (old + err * 2 ^ (8 * n)) v second =
      some ((redcStep f old err v).1 + (redcStep f old err v).2 * 2 ^ (8 * n)))

/-- One pair step of REDC (R252): from s, err and x it makes s' and err', each operation rounded. -/
def Sys2Proof.Machine.PairSteps : Prop :=
  ∀ (f : FloatFmt) (s err x : Nat),
    let add := fun (y z : Nat) => (f.addVal {} (f.decode y) (f.decode z)).code
    let sub := fun (y z : Nat) => (f.addVal {} (f.decode y) (f.decode z).negate).code
    let s' := add s x
    let b := sub s' s
    let e := add (sub s (sub s' b)) (sub x b)
    let nan := (f.decode s).isNaN ∨ (f.decode err).isNaN ∨ (f.decode x).isNaN
    (nan → redcStep f s err x = (f.nanCode, f.nanCode)) ∧
    (¬nan → (∃ m n e, f.decode s' = .fin m n e) → redcStep f s err x = (s', add err e)) ∧
    (¬nan → (∀ m n e, f.decode s' ≠ .fin m n e) → redcStep f s err x = (s', err))

/-- Atomics complete, and what each writes. -/
def Obligations.AtomicResults : Prop := Atomics ∧ AtomValues ∧ PairSteps

/-! ## Uniform instructions (R285 to R294) -/

/-- A two-source uniform function writes trunc(f, 64) to S(sd) (R285). -/
def Sys2Proof.Machine.Uni2Runs (row : Bool → BitVec 6 → BitVec 6 → BitVec 6 → Instr) (f : Nat → Nat → Int) : Prop :=
  ∀ s c t sw d a b, Uses.begins { uregs := [a.toNat, b.toNat] } s (row sw d a b) sw = some (c, t) →
    exec (row sw d a b) s =
      .next ((t.put c [(.ureg d.toNat, trunc (f (c.p.ureg a.toNat).toNat (c.p.ureg b.toNat).toNat) 64)]).complete c)

def Sys2Proof.Machine.UniformArithmetic : Prop :=
  Uni2Runs .sadd (fun x y => x + y) ∧
  Uni2Runs .ssub (fun x y => x - y) ∧
  Uni2Runs .smul (fun x y => x * y) ∧
  Uni2Runs .smulh (fun x y => sext x 64 * sext y 64 / 2 ^ 64) ∧
  Uni2Runs .sand (fun x y => (x &&& y : Nat)) ∧
  Uni2Runs .sor (fun x y => (x ||| y : Nat)) ∧
  Uni2Runs .sxor (fun x y => (x ^^^ y : Nat)) ∧
  Uni2Runs .sshl (fun x y => x * 2 ^ (y % 64)) ∧
  Uni2Runs .sshr (fun x y => (x : Int) / 2 ^ (y % 64)) ∧
  Uni2Runs .ssra (fun x y => sext x 64 / 2 ^ (y % 64)) ∧
  Uni2Runs .smin (fun x y => min (sext x 64) (sext y 64)) ∧
  Uni2Runs .smax (fun x y => max (sext x 64) (sext y 64)) ∧
  Uni2Runs .sminu (fun x y => min x y) ∧
  Uni2Runs .smaxu (fun x y => max x y) ∧
  Uni2Runs .seq (fun x y => if x = y then 1 else 0) ∧
  Uni2Runs .slt (fun x y => if sext x 64 < sext y 64 then 1 else 0) ∧
  Uni2Runs .sltu (fun x y => if x < y then 1 else 0) ∧
  Uni2Runs .sbfx (fun x y => (x / 2 ^ (y % 64) % 2 ^ (y / 2 ^ 8 % 2 ^ 6) : Nat))

/-- A uniform instruction writes trunc(f, 64) to S(sd). -/
def Sys2Proof.Machine.UniRuns (i : Instr) (sw : Bool) (u : Uses) (d : BitVec 6) (f : Issue → State → Int) : Prop :=
  ∀ s c t, u.begins s i sw = some (c, t) → exec i s = .next ((t.put c [(.ureg d.toNat, trunc (f c t) 64)]).complete c)

def Sys2Proof.Machine.UniformFields : Prop :=
  ∀ (sw : Bool) (d a b : BitVec 6) (k : BitVec 14) (j : BitVec 8) (v : BitVec 7),
    let val := fun (c : Issue) (r : BitVec 6) => (c.p.ureg r.toNat).toNat
    UniRuns (.smovi sw d k) sw { fits := [0, 1], immZero := k == 0 } d (fun c _ => (immOf c.p.hints).getD (sext k.toNat 14)) ∧
    UniRuns (.slui sw d k) sw { fits := [0, 1], immZero := k == 0, uregs := [d.toNat] } d
      (fun c _ => (trunc ((immOf c.p.hints).getD k.toNat) 32 * 2 ^ 32 + val c d % 2 ^ 32 : Nat)) ∧
    UniRuns (.saddi sw d a j) sw { fits := [0, 1], immZero := j == 0, uregs := [a.toNat] } d
      (fun c _ => val c a + (immOf c.p.hints).getD (sext j.toNat 8)) ∧
    UniRuns (.spopc sw d a) sw { uregs := [a.toNat] } d (fun c _ => ((List.range 64).filter fun i => (val c a).testBit i).length) ∧
    UniRuns (.sclz sw d a) sw { uregs := [a.toNat] } d (fun c _ => clzN 64 (val c a)) ∧
    UniRuns (.sctz sw d a) sw { uregs := [a.toNat] } d (fun c _ => ctzN 64 (val c a)) ∧
    UniRuns (.sbfi sw d a b) sw { uregs := [d.toNat, a.toNat, b.toNat] } d
      (fun c _ => setBits (val c d) (val c b % 64) (val c b / 2 ^ 8 % 64) (val c a)) ∧
    UniRuns (.sread sw d a) sw { okOp := decide (a < 15) } d (fun c t => t.special c a.toNat) ∧
    UniRuns (.vtos sw d v) sw { vs := [(v.toNat, 16)], src := [(v.toNat, 16)], lowestOnly := true } d
      (fun c t => t.src c 0 ((lowestLane c.p.mask).getD 0) v.toNat 16)

/-- The two-source functions in the order of fn (R285). -/
def Sys2Proof.Machine.uni2Rows : List (Bool → BitVec 6 → BitVec 6 → BitVec 6 → Instr) :=
  [.sadd, .ssub, .smul, .smulh, .sand, .sor, .sxor, .sshl, .sshr, .ssra, .smin, .smax, .sminu, .smaxu, .seq, .slt, .sltu]

/-- The uniform instructions that write S(sd); the words of the two-source functions, fn 0 to 16 with x = 0; and s0, which
reads as 0 and takes no write (R121, R285). -/
def Obligations.UniformResults : Prop :=
  UniformArithmetic ∧ UniformFields ∧
  (∀ k row, uni2Rows[k]? = some row → ∀ sw d a b, encode (row sw d a b) = some (BitVec.ofNat 32
    (2 ^ 31 * sw.toNat + 0x70000000 + 2 ^ 20 * k + 2 ^ 14 * d.toNat + 2 ^ 8 * a.toNat + 2 ^ 2 * b.toNat))) ∧
  (∀ p : Split, p.ureg 0 = 0 ∧ ∀ many v, p.setUreg many 0 v = p)

/-- What SREAD reads, by code (R115, R266, R288). -/
def Sys2Proof.Machine.SpecialCodes : Prop :=
  ∀ (s : State) (c : Issue),
    s.special c 0 = c.w.num ∧ s.special c 1 = c.id.split ∧ s.special c 2 = c.g.num.toNat ∧ s.special c 3 = c.w.core ∧
    s.special c 4 = c.w.core / 4 ∧ s.special c 5 = c.w.core / 32 ∧ s.special c 6 = s.podIndex.toNat ∧
    s.special c 7 = c.p.mask.toNat ∧ s.special c 8 = c.w.fmask.toNat ∧ s.special c 9 = c.w.serial.toNat ∧
    (s.cycle < 2 ^ 64 → s.special c 10 = s.cycle) ∧
    (c.w.inHandler c.id.split = false → s.special c 11 = c.p.prog.toNat) ∧
    (c.w.inHandler c.id.split = true → s.special c 11 = 0) ∧
    s.special c 12 = c.p.wb.toNat ∧ s.special c 13 = c.p.mconf.toNat ∧ s.special c 14 = c.w.seed.toNat

/-- CSRW of a queue binding with a descriptor's pointer (R293): one that is no ROW pointer is BAD_SPACE, one that is misaligned QUEUE
once it can be read; else the two sectors of the descriptor are read, one at each issue, in either order, and a descriptor that passes
its checks is bound, another is QUEUE. -/
def Sys2Proof.Machine.QueueBindings : Prop :=
  ∀ s c t sw d n, 0x10 ≤ n → n ≤ (0x17 : BitVec 12) →
    Uses.begins { orders := true, okOp := csrCode n, uregs := [d.toNat] } s (.csrw sw d n) sw = some (c, t) →
    let v := (c.p.ureg d.toNat).toNat
    let i := n.toNat - 0x10
    let runs := exec (.csrw sw d n) s
    let faults := fun (u : State) (e : MErr) => u.faultAt c e.code c.p.mask (c.p.ureg d.toNat) e.detail
    let read := fun (up : Bool) => t.readSeen c (v + 32 * up.toNat) 32
    v ≠ 0 →
    (v / 2 ^ 60 ≠ 3 → runs = .next (t.faultAt c .badSpace c.p.mask (c.p.ureg d.toNat) 0)) ∧
    (v / 2 ^ 60 = 3 → v % 64 ≠ 0 →
      (∀ u b, t.readSeen c v 64 = (u, .ok b) → runs = .next (u.faultAt c .queue c.p.mask 0 i)) ∧
      (∀ u e, t.readSeen c v 64 = (u, .error e) → runs = .next (faults u e))) ∧
    -- the first sector: either of the two
    (v / 2 ^ 60 = 3 → v % 64 = 0 → c.p.seen = none → ∃ up,
      (∀ u b, read up = (u, .ok b) → runs = .next ((u.waitAt c .ready).modSplit c.id fun p => { p with seen := some (up, b) })) ∧
      (∀ u e, read up = (u, .error e) → runs = .next (faults u e))) ∧
    -- the other
    (∀ up old, v / 2 ^ 60 = 3 → v % 64 = 0 → c.p.seen = some (up, old) →
      (∀ u e, read (!up) = (u, .error e) → runs = .next (faults u e)) ∧
      (∀ u b, read (!up) = (u, .ok b) →
        let raw := if up then b ++ old else old ++ b
        let q := qdescOf raw
        (qdescOk raw (u.part c.g.part).dies.toNat = true →
          runs = .next ((u.modSplit c.id fun p => { p with qb := Sparse.set 0 p.qb i (qbindOf v q.kind q.dieMask) }).complete c)) ∧
        (qdescOk raw (u.part c.g.part).dies.toNat = false → runs = .next (u.faultAt c .queue c.p.mask 0 i))))

def Sys2Proof.Machine.WindowAndCsrs : Prop :=
  (∀ s c t sw k, Uses.begins {} s (.winImm sw k) sw = some (c, t) →
    exec (.winImm sw k) s = .next ((t.modSplit c.id fun p => { p with wb := k }).complete c)) ∧
  (∀ s c t sw a, Uses.begins { uregs := [a.toNat] } s (.winReg sw a) sw = some (c, t) →
    exec (.winReg sw a) s = .next ((t.modSplit c.id fun p => { p with wb := (c.p.ureg a.toNat).truncate 5 }).complete c)) ∧
  (∀ s c t sw d n, Uses.begins { okOp := csrCode n } s (.csrr sw d n) sw = some (c, t) →
    exec (.csrr sw d n) s = .next ((t.putLater c [(.ureg d.toNat, t.csr c n.toNat)]).complete c)) ∧
  -- the CSRW of mconf, of the seed, and of the flags of every active lane
  (∀ s c t sw d, Uses.begins { orders := true, okOp := csrCode 0, uregs := [d.toNat] } s (.csrw sw d 0) sw = some (c, t) →
    exec (.csrw sw d 0) s = .next ((t.modSplit c.id fun p => { p with mconf := c.p.ureg d.toNat }).complete c)) ∧
  (∀ s c t sw d, Uses.begins { orders := true, okOp := csrCode 1, uregs := [d.toNat] } s (.csrw sw d 1) sw = some (c, t) →
    exec (.csrw sw d 1) s = .next ((t.modWarp c.id.warp fun w => w.reseed (c.p.ureg d.toNat)).complete c)) ∧
  (∀ s c t sw d, Uses.begins { orders := true, okOp := csrCode 2, uregs := [d.toNat] } s (.csrw sw d 2) sw = some (c, t) →
    exec (.csrw sw d 2) s = .next ((t.modWarp c.id.warp fun w => (lanesOf c.p.mask).foldl (fun w l =>
      w.modLane l fun x => { x with fpflags := (c.p.ureg d.toNat).truncate 5 }) w).complete c)) ∧
  -- a queue binding is cleared by 0
  (∀ s c t sw d n, 0x10 ≤ n → n ≤ (0x17 : BitVec 12) →
    Uses.begins { orders := true, okOp := csrCode n, uregs := [d.toNat] } s (.csrw sw d n) sw = some (c, t) → c.p.ureg d.toNat = 0 →
    exec (.csrw sw d n) s =
      .next ((t.modSplit c.id fun p => { p with qb := Sparse.set 0 p.qb (n.toNat - 0x10) 0 }).complete c)) ∧
  QueueBindings ∧
  -- an expert field: PRIV_VIOLATION while EXPERT_EN is 0, else its clamped value
  (∀ s c t sw d n, 0x100 ≤ n → n ≤ (0x104 : BitVec 12) →
    Uses.begins { orders := true, okOp := csrCode n, uregs := [d.toNat] } s (.csrw sw d n) sw = some (c, t) →
    exec (.csrw sw d n) s = .next (
      if (t.ctx c.g.part c.g.ctx).expertEn then
        (t.modCtx c.g.part c.g.ctx fun x => (x.setExpert (n.toNat - 0x100) (c.p.ureg d.toNat).toNat).1).complete c
      else t.faultAt c .privViolation c.p.mask 0 1))

/-- What SREAD reads by code; WIN, CSRR and CSRW complete. That an expert field changes for all cores at once is the model's (log 47), as
are the lanes that a fault names (log 15) and the order in which a descriptor's sectors are read (log 1). -/
def Obligations.SpecialRegisters : Prop := SpecialCodes ∧ WindowAndCsrs

def Obligations.UniformMemoryCompletes : Prop :=
  (∀ s c t r sw d a x,
    let u : Uses := { orders := true, okOp := decide (x < 2#2), fits := [7], uregs := [a.toNat] }
    u.begins s (.sld sw d a x) sw = some (c, t) →
    t.loadFor c none (uniformPtr c a) (if x = 0 then 8 else 4) (.ureg d.toNat) false false false = (r, .done) →
    exec (.sld sw d a x) s = .next (r.complete c)) ∧
  (∀ s c t sw d a x,
    let u : Uses := { okOp := decide (x < 2#2), fits := [7], uregs := [d.toNat, a.toNat] }
    u.begins s (.sst sw d a x) sw = some (c, t) →
    exec (.sst sw d a x) s = .next ((t.storeFor c none (uniformPtr c a)
      (leBytes (if x = 0 then 8 else 4) (c.p.ureg d.toNat).toNat) none).complete c)) ∧
  (∀ s c t r sw h p,
    let u : Uses := { orders := true, fits := [7], uregs := [p.toNat], shapes := [h.toNat] }
    u.begins s (.ldh sw h p) sw = some (c, t) →
    t.loadFor c none (uniformPtr c p) 64 (.shape h.toNat) false false false = (r, .done) →
    exec (.ldh sw h p) s = .next (r.complete c)) ∧
  (∀ s c t sw h p,
    let u : Uses := { fits := [7], uregs := [p.toNat], shapes := [h.toNat] }
    u.begins s (.sth sw h p) sw = some (c, t) →
    exec (.sth sw h p) s =
      .next ((t.storeFor c none (uniformPtr c p) (leBytes 64 (c.w.shape h.toNat).toNat) none).complete c)) ∧
  (∀ s c t sw h d,
    let rs := (List.range 8).map fun i => (d : BitVec 6).toNat + i
    let u : Uses := { okOp := decide (d.toNat ≤ 56), uregs := rs, shapes := [h.toNat] }
    u.begins s (.seth sw h d) sw = some (c, t) →
    exec (.seth sw h d) s =
      .next ((t.putLater c [(.shape h.toNat, rs.foldr (fun r v => (c.p.ureg r).toNat + 2 ^ 64 * v) 0)]).complete c))

/-! ## Control flow (R276 to R284) -/

/-- The address a branch names: its own address and 4 times its signed offset (R267). -/
def Sys2Proof.Machine.branchTo (c : Issue) (n : Nat) (o : BitVec n) : Word := c.pc + 4 * o.signExtend 64

def Sys2Proof.Machine.Branches : Prop :=
  (∀ s c t sw o, Uses.begins {} s (.bra sw o) sw = some (c, t) → exec (.bra sw o) s = .next (t.goTo c (branchTo c 18 o))) ∧
  (∀ s c t sw r o, Uses.begins { uregs := [r.toNat] } s (.brz sw r o) sw = some (c, t) →
    exec (.brz sw r o) s = .next (t.goTo c (if c.p.ureg r.toNat = 0 then branchTo c 12 o else c.pc + 4))) ∧
  (∀ s c t sw r o, Uses.begins { uregs := [r.toNat] } s (.brnz sw r o) sw = some (c, t) →
    exec (.brnz sw r o) s = .next (t.goTo c (if c.p.ureg r.toNat = 0 then c.pc + 4 else branchTo c 12 o))) ∧
  (∀ s c t sw o, Uses.begins {} s (.call sw o) sw = some (c, t) →
    exec (.call sw o) s = .next ((t.put c [(.ureg 63, (c.pc + 4).toNat)]).goTo c (branchTo c 18 o))) ∧
  (∀ s c t sw, Uses.begins { uregs := [63] } s (.ret sw) sw = some (c, t) →
    (c.p.ureg 63).toNat / 2 ^ 60 = 3 → (c.p.ureg 63).toNat % 4 = 0 → exec (.ret sw) s = .next (t.goTo c (c.p.ureg 63))) ∧
  (∀ s c t sw r, Uses.begins { uregs := [r.toNat] } s (.brx sw r) sw = some (c, t) →
    (c.p.ureg r.toNat).toNat / 2 ^ 60 = 3 → (c.p.ureg r.toNat).toNat % 4 = 0 →
    exec (.brx sw r) s = .next (t.goTo c (c.p.ureg r.toNat))) ∧
  (∀ s c t sw, Uses.begins {} s (.nop sw) sw = some (c, t) → exec (.nop sw) s = .next (t.complete c)) ∧
  (∀ s c t sw n, Uses.begins {} s (.sleep sw n) sw = some (c, t) →
    exec (.sleep sw n) s = .next (t.waitAt c (.sleep (t.cycle + max 1 (16 * n.toNat)))))

/-- A jump or return to an address from a register that is no instruction address stops with BAD_SPACE (R276). -/
def Sys2Proof.Machine.BadJumps : Prop :=
  (∀ s c t sw r, Uses.begins { uregs := [r.toNat] } s (.brx sw r) sw = some (c, t) →
    (c.p.ureg r.toNat).toNat / 2 ^ 60 ≠ 3 ∨ (c.p.ureg r.toNat).toNat % 4 ≠ 0 →
    exec (.brx sw r) s = .next (t.faultAt c .badSpace c.p.mask (c.p.ureg r.toNat) 0)) ∧
  (∀ s c t sw, Uses.begins { uregs := [63] } s (.ret sw) sw = some (c, t) →
    (c.p.ureg 63).toNat / 2 ^ 60 ≠ 3 ∨ (c.p.ureg 63).toNat % 4 ≠ 0 →
    exec (.ret sw) s = .next (t.faultAt c .badSpace c.p.mask (c.p.ureg 63) 0))

/-- A branch, call, return, NOP or SLEEP takes its effect, and a jump or return through a register to no instruction address faults, in
the active lanes (the model's choice, log 15). -/
def Obligations.BranchesComplete : Prop := Branches ∧ BadJumps

/-- Active lanes whose predicate, negated by `n`, is true. -/
def Sys2Proof.Machine.Issue.chosen (c : Issue) (g : BitVec 3) (n : BitVec 1) : BitVec 32 :=
  maskOf ((List.range 32).filter fun l => c.p.mask.getLsbD l && ((c.w.lane l).pred g.toNat ^^ (n == 1)))

/-- A fork (R102): with a split entry free, and outside a handler, the lanes whose branch is taken go to the free split of the lowest
number, at the target, with the parent's window and uniform file, no deferrals and no valid progress; else they go on the deferral stack
of the split, on which a ninth entry is RESOURCE. The other lanes go on behind the branch. -/
def Sys2Proof.Machine.Forks : Prop :=
  ∀ (t : State) (c : Issue) (taken : BitVec 32) (target : Word), t.warp? c.id.warp = some c.w → c.w.split c.id.split = some c.p →
    c.w.splits.length = 4 →
    let r := t.fork c taken target
    let rest := c.p.mask &&& ~~~taken
    (∀ k, c.w.inHandler c.id.split = false → c.w.split k = none → k < 4 → (∀ j, j < k → c.w.split j ≠ none) → c.sw = false →
      (∃ q, r.splitOf ⟨c.id.warp, k⟩ = some q ∧ q.pc = target ∧ q.mask = taken ∧ q.wb = c.p.wb ∧ q.sregs = c.p.sregs ∧ q.tb = c.p.tb ∧
        q.qb = c.p.qb ∧ q.defer = [] ∧ q.progValid = false ∧ q.hints = [] ∧ q.wait = .ready) ∧
      (∃ q, r.splitOf c.id = some q ∧ q.pc = c.pc + 4 ∧ q.mask = rest ∧ q.defer = c.p.defer ∧ q.wait = .ready) ∧
      ∀ j, j ≠ k → j ≠ c.id.split → r.splitOf ⟨c.id.warp, j⟩ = t.splitOf ⟨c.id.warp, j⟩) ∧
    (c.w.inHandler c.id.split = true ∨ (∀ j, j < 4 → c.w.split j ≠ none) →
      (c.p.defer.length < 8 → c.sw = false →
        (∃ q, r.splitOf c.id = some q ∧ q.pc = c.pc + 4 ∧ q.mask = rest ∧ q.defer = (taken, target) :: c.p.defer ∧ q.wait = .ready) ∧
        ∀ j, j ≠ c.id.split → r.splitOf ⟨c.id.warp, j⟩ = t.splitOf ⟨c.id.warp, j⟩) ∧
      (8 ≤ c.p.defer.length → r = t.faultAt c .resource c.p.mask 0 0)) ∧
    -- the operands that the latch holds for the warp go (R120)
    (c.p.defer.length < 8 → c.sw = false → ∀ e ∈ r.latch, e.warp ≠ c.id.warp)

/-- CBR, EXIT, YIELD and JOINW. The lanes that ILLEGAL_OP and RESOURCE name are the model's choice (log 15). -/
def Obligations.DivergenceCompletes : Prop :=
  (∀ s c t sw g n o, Uses.begins { allUregs := true, preds := [g.toNat] } s (.cbr sw g n o) sw = some (c, t) →
    (c.chosen g n = c.p.mask → exec (.cbr sw g n o) s = .next (t.goTo c (branchTo c 18 o))) ∧
    (c.chosen g n ≠ c.p.mask → c.chosen g n = 0 → exec (.cbr sw g n o) s = .next (t.complete c)) ∧
    (c.chosen g n ≠ c.p.mask → c.chosen g n ≠ 0 →
      exec (.cbr sw g n o) s = .next (t.fork c (c.chosen g n) (branchTo c 18 o)))) ∧
  (∀ s c t sw g n, Uses.begins { preds := [g.toNat] } s (.exit sw g n) sw = some (c, t) →
    (∀ d, s.issue? sw = some d → d.w.inHandler d.id.split = false) →
    exec (.exit sw g n) s =
      .next (((t.modSplit c.id fun p => { p with mask := p.mask &&& ~~~c.chosen g n }).stepTo c (c.pc + 4)).emptied c.id)) ∧
  -- an EXIT in a handler split is ILLEGAL_OP (R282)
  (∀ s c sw g n, s.issue? sw = some c → c.w.inHandler c.id.split = true →
    exec (.exit sw g n) s = .next (s.faultAt c .illegalOp c.p.mask 0 (encodeWord (.exit sw g n)).toNat)) ∧
  Forks ∧
  (∀ s c t sw o, Uses.begins {} s (.yield sw o) sw = some (c, t) →
    let os := t.readyPeers c
    exec (.yield sw o) s = .next (
      if c.w.inHandler c.id.split = true ∨ os = [] then t.goTo c (branchTo c 18 o)
      else (t.stepTo c (branchTo c 18 o)).modSplit c.id fun p => { p with wait := .yield (t.cycle + 64) os, sw := sw })) ∧
  (∀ s c t sw o, Uses.begins {} s (.joinw sw o) sw = some (c, t) →
    exec (.joinw sw o) s = .next (
      if c.w.valid.length ≤ 1 ∨ c.w.inHandler c.id.split = true then t.goTo c (branchTo c 18 o)
      else (t.waitAt c (.joinw (branchTo c 18 o))).joinCheck c.id.warp))

/-! ## Traps and the return from a handler (R214, R216, R283) -/

/-- The fault of a TRAP or BRK (R205, R283): the counter stands behind the instruction, and a fault that a rung gives up issues it again
(R427); under the marker the split parks first, and the fault stays with it (R257). -/
def Sys2Proof.Machine.trapped (t : State) (c : Issue) (r : FaultRec) : State :=
  if c.sw then (t.modSplit c.id fun p => { p with
    trap := some { r with again := c.start, split := BitVec.ofNat 8 c.id.split, serial := c.w.serial } }).complete c
  else (t.modSplit c.id fun p => { p with count := p.count + 1 }).takeFault c.id (c.pc + 4) { r with again := c.start }

/-- TRAP and BRK: with no lane chosen they complete; else the fault is taken with the counter behind the instruction, the
record naming the instruction's own address (R283). RETT returns from the handler (R216), behind the stores of its warp. -/
def Obligations.TrapsTaken : Prop :=
  (∀ s c t sw g n k, Uses.begins { preds := [g.toNat] } s (.trap sw g n k) sw = some (c, t) →
    exec (.trap sw g n k) s = .next (
      if c.chosen g n = 0 then t.complete c
      else trapped t c { code := .trap, fmask := c.chosen g n, counter := c.pc, detail := (k : BitVec 18).zeroExtend 64 })) ∧
  (∀ s c t sw g n, Uses.begins { preds := [g.toNat] } s (.brk sw g n) sw = some (c, t) →
    exec (.brk sw g n) s = .next (
      if c.chosen g n = 0 then t.complete c
      else trapped t c { code := .brk, fmask := c.chosen g n, counter := c.pc })) ∧
  (∀ s c t sw, Uses.begins {} s (.rett sw) sw = some (c, t) →
    (∀ d, s.issue? sw = some d → d.w.inHandler d.id.split = true) →
    let landed := c.w.resultsOut c.id.split = false ∧ t.storesSettled c.id.warp = true
    let late := ∃ l, l ∈ c.w.late ∧ l.inHandler = true
    let left := (t.drain c.id.warp 0xFFFFFFFF).storesLeft c.id.warp
    (sw = false ∨ (landed ∧ ¬late) → left = false → exec (.rett sw) s = .next (t.returnFrom c.id c.pc (encodeWord (.rett sw)))) ∧
    -- a store of the warp waits for the answer to another
    (sw = false ∨ (landed ∧ ¬late) → left = true → exec (.rett sw) s = .next ((t.drain c.id.warp 0xFFFFFFFF).waitAt c .results)) ∧
    (sw = true → landed → late → exec (.rett sw) s = .next (t.deliverLate c.id.warp c.id.split)) ∧
    -- under the marker it waits for the results, and a late store's fault comes first (R257)
    (sw = true → ¬landed → exec (.rett sw) s = .next ((t.waitAt c .results).dropLatch fun e =>
      e.core == c.w.core && e.group == slotGroup c.w.slot)))

/-! ## Barriers and event words (R300, R301, R338 to R346) -/

/-- A barrier instruction on an object of this device: `here` acts on it, behind the release of an arrival, whose stores to other
devices have been answered (R338, R342). -/
def Sys2Proof.Machine.BarrierRuns (i : Instr) (sw : Bool) (b a : BitVec 6) (fresh release : Bool) (here : Issue → BarAt → State → State) : Prop :=
  ∀ s c t x, Uses.begins { uregs := [b.toNat, a.toNat] } s i sw = some (c, t) →
    t.findBar c (c.p.ureg b.toNat).toNat fresh = .ok x → (∀ p dev k, x ≠ .pod p dev k) →
    (release = true → answered t c c.p.mask) →
    exec i s = .next (here c x (if release then t.release c.id.warp c.w.core c.p.mask x.scope else t))

def Sys2Proof.Machine.Barriers : Prop :=
  ∀ (sw : Bool) (b a : BitVec 6) (p : BitVec 3) (l : BitVec 1),
    let v := fun (c : Issue) => (c.p.ureg a.toNat).toNat
    BarrierRuns (.binit sw b a) sw b a true false (fun c x t =>
      if (v c).testBit 16 = false ∧ x.scope ≠ 0 then t.faultAt c .badSpace c.p.mask (c.p.ureg b.toNat) 0
      else (t.binitAt x (v c) c.g.live c.w.serial).complete c) ∧
    BarrierRuns (.barv sw b a p) sw b a false true (fun c x t =>
      match t.arrive x c.w.num (v c % 2 ^ 16) with
      | (t1, .counted) => (t1.predLater c p true).complete c
      | (t1, .refused) => (t1.predLater c p false).complete c
      | (t1, .overflow) => t1.faultAt c .barrierOverflow c.p.mask 0 (BarAt.number c.g (c.p.ureg b.toNat).toNat)) ∧
    BarrierRuns (.bwait sw b a) sw b a false false (fun c x t =>
      if (t.bar x).phase.toNat ≠ v c % 2 ^ 16 then (t.observe c.w.core x (v c % 2 ^ 16)).complete c
      else t.waitAt c (.bwait (c.p.ureg b.toNat) ((c.p.ureg a.toNat).truncate 16))) ∧
    BarrierRuns (.bexp sw b a) sw b a false false (fun c x t =>
      ((t.setBar x { t.bar x with pending := (t.bar x).pending + (c.p.ureg a.toNat).truncate 32 }).testBar x).complete c) ∧
    BarrierRuns (.btest sw b a p) sw b a false false (fun c x t =>
      if (t.bar x).phase.toNat ≠ v c % 2 ^ 16 then ((t.observe c.w.core x (v c % 2 ^ 16)).predLater c p true).complete c
      else (t.predLater c p false).complete c) ∧
    (∀ s c t x, Uses.begins { uregs := [b.toNat] } s (.bstat sw b a l) sw = some (c, t) →
      t.findBar c (c.p.ureg b.toNat).toNat false = .ok x → (∀ p dev k, x ≠ .pod p dev k) →
      exec (.bstat sw b a l) s = .next ((t.putLater c
        [(.ureg a.toNat, (if l = 1 then (t.bar x).last else (t.bar x).current).toNat)]).complete c))

/-- A barrier instruction on a POD object of another device with an open session asks that device by function `fn` (R340), an arrival
behind its release. -/
def Sys2Proof.Machine.BarrierAsks (i : Instr) (sw : Bool) (b : BitVec 6) (us : List Nat) (fn dest : Nat) (release : Bool)
    (arg : Issue → Nat) (fits : Issue → Prop) : Prop :=
  ∀ s c t p dev k, Uses.begins { uregs := us } s i sw = some (c, t) →
    t.findBar c (c.p.ureg b.toNat).toNat (fn == 0) = .ok (.pod p dev k) → fits c → (release = true → answered t c c.p.mask) →
    exec i s = .next ((if release then t.release c.id.warp c.w.core c.p.mask 4 else t).askBarrier c p dev fn k (arg c) dest
      (c.p.ureg b.toNat).toNat)

def Sys2Proof.Machine.PodBarriers : Prop :=
  ∀ (sw : Bool) (b a : BitVec 6) (p : BitVec 3) (l : BitVec 1),
    let v := fun (c : Issue) => (c.p.ureg a.toNat).toNat
    let us := [b.toNat, a.toNat]
    -- an AUTO object lies at CORE scope alone (R341)
    BarrierAsks (.binit sw b a) sw b us 0 0 false (fun c => v c + 2 ^ 64 * c.w.serial.toNat) (fun c => (v c).testBit 16 = true) ∧
    (∀ s c t q dev k, Uses.begins { uregs := us } s (.binit sw b a) sw = some (c, t) →
      t.findBar c (c.p.ureg b.toNat).toNat true = .ok (.pod q dev k) → (v c).testBit 16 = false →
      exec (.binit sw b a) s = .next (t.faultAt c .badSpace c.p.mask (c.p.ureg b.toNat) 0)) ∧
    BarrierAsks (.barv sw b a p) sw b us 1 p.toNat true v (fun _ => True) ∧
    -- a BWAIT names its split and says whether it has asked before (R341)
    BarrierAsks (.bwait sw b a) sw b us 2 0 false (fun c =>
      v c % 2 ^ 16 + 2 ^ 16 * c.p.asked.toNat + 2 ^ 17 * (4 * c.id.warp + c.id.split)) (fun _ => True) ∧
    BarrierAsks (.bexp sw b a) sw b us 3 0 false v (fun _ => True) ∧
    BarrierAsks (.btest sw b a p) sw b us 4 p.toNat false v (fun _ => True) ∧
    BarrierAsks (.bstat sw b a l) sw b [b.toNat] 5 a.toNat false (fun _ => l.toNat) (fun _ => True) ∧
    -- the device is asked on the plane of address 0, and the split waits for its answer
    (∀ (t u : State) (c : Issue) q dev fn k arg dest ref,
      (t.beforePeer dev 0).peerRequest q dev 0 (.barrier fn k arg)
        { c.ext none 4 ref (t.beforePeer dev 0).free with dest := dest, width := fn } = some u →
      t.askBarrier c q dev fn k arg dest ref = (u.waitAt c .outcome).modSplit c.id fun p => { p with out := some ⟨1, 0, [], c.sw⟩ })

def Sys2Proof.Machine.EventWords : Prop :=
  -- WAITE of the value 0 completes at once, as an acquire at the scope of its pointer (R300)
  (∀ s c t sw p v sc, Uses.begins { orders := true, uregs := [p.toNat, v.toNat] } s (.waite sw p v) sw = some (c, t) →
    eventScope (c.p.ureg p.toNat).toNat = some sc → (c.p.ureg p.toNat).toNat % 8 = 0 →
    exec (.waite sw p v) s = .next (
      if c.p.ureg v.toNat = 0 then (t.acquire c.w.core sc).complete c
      else t.readEvent c (c.p.ureg p.toNat).toNat (c.p.ureg v.toNat).toNat)) ∧
  -- SIGE adds its value to the word, as a release (R301)
  (∀ s c t r sw p v sc, Uses.begins { orders := true, uregs := [p.toNat, v.toNat] } s (.sige sw p v) sw = some (c, t) →
    eventScope (c.p.ureg p.toNat).toNat = some sc →
    answered t c c.p.mask →
    (t.release c.id.warp c.w.core c.p.mask sc).atomFor c none 0 8 sc (c.p.ureg p.toNat).toNat (c.p.ureg v.toNat).toNat 0 none false =
      (r, .done) →
    exec (.sige sw p v) s = .next (r.complete c)) ∧
  -- at a null pointer it faults as an atomic does (R145, R209)
  (∀ s c t sw p v, Uses.begins { orders := true, uregs := [p.toNat, v.toNat] } s (.sige sw p v) sw = some (c, t) →
    (c.p.ureg p.toNat).toNat < 2 ^ 60 →
    exec (.sige sw p v) s = .next (t.faultAt c .nullDeref c.p.mask (BitVec.ofNat 64 (c.p.ureg p.toNat).toNat) 0)) ∧
  -- a release waits at its instruction for the answers to its lanes' stores (R192, R193)
  (∀ s c t sw p v sc, Uses.begins { orders := true, uregs := [p.toNat, v.toNat] } s (.sige sw p v) sw = some (c, t) →
    eventScope (c.p.ureg p.toNat).toNat = some sc → ¬answered t c c.p.mask →
    exec (.sige sw p v) s = .next ((t.drain c.id.warp c.p.mask).waitAt c .results)) ∧
  -- PCNT of a core's counter, of one of a table set, and of a selector that breaks R414
  (∀ s c t sw d e, Uses.begins { uregs := [e.toNat] } s (.pcnt sw d e) sw = some (c, t) →
    let x := (c.p.ureg e.toNat).toNat
    let reads := fun (v : Nat) => exec (.pcnt sw d e) s = .next ((t.putLater c [(.ureg d.toNat, v)]).complete c)
    let set := x / 2 ^ 8 % 2 ^ 8
    (x < 8 → reads (Sparse.get 0 t.coreCounters (8 * c.w.core + x)).toNat) ∧
    (x < 2 ^ 16 → 8 ≤ x % 2 ^ 8 → x % 2 ^ 8 < 16 → set ≠ 0 →
      reads (Sparse.get 0 t.tableCounters (8 * (256 * c.g.part.toNat + set) + x % 8)).toNat) ∧
    (2 ^ 16 ≤ x ∨ 16 ≤ x % 2 ^ 8 ∨ (x % 2 ^ 8 < 8 ∧ set ≠ 0) ∨ (8 ≤ x % 2 ^ 8 ∧ set = 0) → reads (2 ^ 64 - 1)))

/-- Barriers, event words and the traffic counters. That a barrier of another device is asked on the plane of address 0 and that its split
waits for the answer is the model's (logs 8 and 16), as are the lanes that BAD_SPACE and BARRIER_OVERFLOW name (log 15). -/
def Obligations.BarriersComplete : Prop := Barriers ∧ PodBarriers ∧ EventWords

/-! ## Device queues (R295 to R298) -/

/-- The items of a push, lane by lane, behind the release of its lanes (R295, R296). -/
def Sys2Proof.Machine.pushRun (t2 : State) (t : State) (c : Issue) (raw : List Byte) (ls : List Nat) (q : BitVec 3) (e : Option (BitVec 7)) (g : BitVec 7)
    (p : BitVec 3) : QRun :=
  let desc := qbPtr (c.p.qbind q.toNat)
  let d := qdescOf raw
  let t3 := if d.kind = 0 then t2.ensureLaunch c.g.part c.g.ctx (BitVec.ofNat 64 desc) d else t2
  ls.foldl (fun (x : QRun) l =>
    let en := match e with
      | some f => t.src c 0 l f.toNat 16
      | none => 0
    if e.isSome ∧ (en / 2 ^ 60 ≠ 3 ∨ en % 4 ≠ 0) then
      let r := x.run.addT c l (x.st, .error (.fault .queue 0 q.toNat))
      { x with st := r.st, run := r }
    else x.push c d (BitVec.ofNat 64 desc) (BitVec.ofNat 64 en) (BitVec.ofNat 64 (t.src c 1 l g.toNat 16)) l p.toNat)
    { st := t3, head := d.head, tail := d.tail, dropped := fieldOf raw 0x28 8, run := { st := t3 } }

/-- A push instruction on a binding of its kind, whose descriptor can be read, completes. -/
def Sys2Proof.Machine.PushRuns (i : Instr) (sw : Bool) (u : Uses) (kind : Nat) (q : BitVec 3) (e : Option (BitVec 7)) (g : BitVec 7) (p : BitVec 3) : Prop :=
  ∀ s c t t2 raw, u.begins s i sw = some (c, t) →
    let ls := u.todo c
    let desc := qbPtr (c.p.qbind q.toNat)
    ls ≠ [] → desc ≠ 0 → qbKind (c.p.qbind q.toNat) = kind → answered t c (maskOf ls) →
    (t.release c.id.warp c.w.core (maskOf ls) 3).hwRead (c.hw none) desc 64 = (t2, .ok raw) →
    let x := pushRun t2 t c raw ls q e g p
    x.run.clean → exec i s = .next ((x.st.queueBack (c.hw none) (qdescOf raw).kind desc x).complete c)

def Sys2Proof.Machine.QueueWords : Prop :=
  (∀ sw q e g p, PushRuns (.spawn sw q e g p) sw
    { orders := true, fits := [2], vs := [(e.toNat, 16), (g.toNat, 16)], src := [(e.toNat, 16), (g.toNat, 16)] } 0 q (some e) g p) ∧
  (∀ sw q g p, PushRuns (.qpush sw q g p) sw { orders := true, fits := [2], vs := [(g.toNat, 16)], src := [(g.toNat, 16)] } 1 q none g p) ∧
  (∀ s c t t2 raw sw q d p,
    let u : Uses := { orders := true, fits := [2], vs := [((d : BitVec 7).toNat, 16)] }
    u.begins s (.qpull sw q d p) sw = some (c, t) →
    let desc := qbPtr (c.p.qbind q.toNat)
    u.todo c ≠ [] → desc ≠ 0 → qbKind (c.p.qbind q.toNat) = 1 →
    (t.acquire c.w.core 3).hwRead (c.hw none) desc 64 = (t2, .ok raw) →
    let x := (u.todo c).foldl (fun (x : QRun) l => x.pull c (qdescOf raw) d l p.toNat)
      { st := t2, head := (qdescOf raw).head, tail := (qdescOf raw).tail, dropped := fieldOf raw 0x28 8, run := { st := t2 } : QRun }
    x.run.clean → exec (.qpull sw q d p) s = .next ((x.st.queueBack (c.hw none) (qdescOf raw).kind desc x).complete c)) ∧
  -- QFLUSH flushes the bins of a packed queue, and does nothing for another (R298)
  (∀ s c t sw q, Uses.begins {} s (.qflush sw q) sw = some (c, t) → qbPtr (c.p.qbind q.toNat) ≠ 0 →
    exec (.qflush sw q) s = .next ((if qbKind (c.p.qbind q.toNat) = 0 then
      t.flushWhere fun x => x.part == c.g.part && x.ctx == c.g.ctx && x.desc == BitVec.ofNat 64 (qbPtr (c.p.qbind q.toNat))
      else t).complete c))

/-- A pull takes the item at the head; a push adds one at the tail while there is room and no lane before it was refused; else they
answer 0 and change no pointer, a push counting what it drops (R295, R297). -/
def Sys2Proof.Machine.Occupancy : Prop :=
  (∀ (x : QRun) c q desc entry arg l p, x.run.faults = [] → q.kind ≠ 0 →
    (x.full = true ∨ 2 ^ q.logCap ≤ x.tail - x.head →
      let y := x.push c q desc entry arg l p
      y.head = x.head ∧ y.tail = x.tail ∧ y.dropped = x.dropped + 1 ∧ y.full = true) ∧
    (∀ t b, x.full = false → x.tail - x.head < 2 ^ q.logCap →
      (x.st.countEntry (c.hw (some l)) (q.ring + 16 * (x.tail % 2 ^ q.logCap)) true).hwWrite (c.hw (some l)) (q.ring + 16 * (x.tail % 2 ^ q.logCap)) (leBytes 8 entry.toNat ++ leBytes 8 arg.toNat) = (t, .ok b) →
      let y := x.push c q desc entry arg l p
      y.tail = x.tail + 1 ∧ y.head = x.head ∧ y.dropped = x.dropped ∧ y.full = false)) ∧
  (∀ (x : QRun) c q d l p, x.run.faults = [] →
    (x.tail ≤ x.head → (x.pull c q d l p).head = x.head) ∧
    (∀ t e, x.head < x.tail →
      (x.st.countEntry (c.hw (some l)) (q.ring + 16 * (x.head % 2 ^ q.logCap)) false).hwRead (c.hw (some l)) (q.ring + 16 * (x.head % 2 ^ q.logCap)) 16 = (t, .ok e) →
      (x.pull c q d l p).head = x.head + 1 ∧ (x.pull c q d l p).tail = x.tail))

/-- The queue instructions complete, and what a push and a pull do to the pointers. -/
def Obligations.QueueInstructionsComplete : Prop := QueueWords ∧ Occupancy

/-! ## Tables and cache handles (R359 to R373) -/

/-- TBIND of handle 0 unbinds; of a table that is found, or made, it writes the binding and the full handle (R361). -/
def Sys2Proof.Machine.TableBindings : Prop :=
  ∀ s c t sw b h, Uses.begins { orders := true, uregs := [h.toNat], tbs := [b.toNat] } s (.tbind sw b h) sw = some (c, t) →
    let x := (c.p.ureg h.toNat).toNat % 2 ^ 32
    (x = 0 → exec (.tbind sw b h) s = .next ((t.putLater c [(.tbind b.toNat, 0)]).complete c)) ∧
    (∀ t1 g d, x ≠ 0 → t.bindTable (c.hw none) x = (t1, .ok (g, d)) →
      exec (.tbind sw b h) s = .next ((t1.putLater c
        [(.tbind b.toNat, (d.binding g (d.far (t1.ctx c.g.part c.g.ctx))).toNat), (.ureg h.toNat, g)]).complete c)) ∧
    (∀ t1 code addr detail, x ≠ 0 → t.bindTable (c.hw none) x = (t1, .error (.fault code addr detail)) →
      exec (.tbind sw b h) s = .next (t1.faultAt c code c.p.mask (BitVec.ofNat 64 addr) detail))

/-- The lanes of a lookup, in ascending order, behind the acquire that HINT.ORD asks for, which comes again with a step that is repeated
later (R365, R366). -/
def Sys2Proof.Machine.lookRun (t : State) (c : Issue) (ls : List Nat) (acq : Option Nat) (q : Nat → TableReq) : LaneRun :=
  ls.foldl (fun r l => r.look c (q l)) { st := match acq with
    | some sc => if ls.isEmpty then t else t.acquire c.w.core sc
    | none => t }

/-- A lookup whose lanes all find valid nodes and meet no fault completes: `q` makes each lane's request. -/
def Sys2Proof.Machine.LookupRuns (i : Instr) (sw : Bool) (u : Uses) (q : Issue → State → Nat → TableReq) : Prop :=
  ∀ s c t, u.begins s i sw = some (c, t) →
    let r := lookRun t c (u.todo c) (sideOf c) fun l => { q c t l with acq := sideOf c }
    r.clean → exec i s = .next (r.st.complete c)

/-- A request of an instruction as issued: its binding and number. -/
def Sys2Proof.Machine.lookReq (op : TableOp) (b : BitVec 3) (c : Issue) (t : State) (l : Nat) : TableReq := c.treq op (c.p.tbind b.toNat) l t.free

def Sys2Proof.Machine.TableLookups : Prop :=
  ∀ (sw : Bool) (b : BitVec 3) (d k : BitVec 7) (p : BitVec 3),
    LookupRuns (.tget sw b d k p) sw (tableUses b [0, 1] [(d.toNat, 16)] [(k.toNat, 16)]) (fun c t l =>
      { lookReq .tget b c t l with key := t.src c 0 l k.toNat 16, dest := c.abs d.toNat, pred := p.toNat }) ∧
    LookupRuns (.tgetx sw b d k p) sw (tableUses b [0, 1] [(d.toNat, 16)] [(k.toNat, 16)]) (fun c t l =>
      { lookReq .tgetx b c t l with key := t.src c 0 l k.toNat 16, dest := c.abs d.toNat, pred := p.toNat }) ∧
    LookupRuns (.tref sw b d k) sw (tableUses b [] [(d.toNat, 16)] [(k.toNat, 16)]) (fun c t l =>
      { lookReq .tref b c t l with key := t.src c 0 l k.toNat 16, dest := c.abs d.toNat }) ∧
    LookupRuns (.tnext sw b d k p) sw (tableUses b [0, 1] [(d.toNat, 16)] [(k.toNat, 32)]) (fun c t l =>
      { lookReq .tnext b c t l with
        cursor := t.src c 0 l k.toNat 32, dest := c.abs d.toNat, cdest := c.abs k.toNat, pred := p.toNat }) ∧
    -- TSCAN makes a cursor at its key (R369)
    (∀ s c t,
      let u := tableUses b [] [(d.toNat, 32)] [(k.toNat, 16)]
      u.begins s (.tscan sw b d k) sw = some (c, t) →
      let r := (u.todo c).foldl (fun (r : LaneRun) l => r.addT c l
        ((r.st.tableCheck (c.hw (some l)) (c.p.tbind b.toNat) .ordered).andThen fun t2 x =>
          let key := t.src c 0 l k.toNat 16
          (t2, .ok [(c.dst l d.toNat 32, key + tbHandle (c.p.tbind b.toNat) * 2 ^ 64 + x.stripeOf key * 2 ^ 96)]))) { st := t }
      r.clean → exec (.tscan sw b d k) s = .next (r.st.complete c)) ∧
    -- TCNT reads its ranges and begins its walk, from 0 or from where it stopped (R106, R371)
    (∀ s c t t2 x,
      let u := { tableUses b [0, 1] [(d.toNat, 16)] [(k.toNat, 32)] with keyProg := true }
      let ls := lanesOf (u.lanes c)
      let above := if c.p.progValid = true ∧ c.p.progPc = c.start then some c.p.prog.toNat else none
      let ranges := ls.map fun l => (l, t.src c 0 l k.toNat 16, t.src c 0 l (k.toNat + 16) 16)
      u.begins s (.tcnt sw b d k) sw = some (c, t) → c.p.walk = none → ls ≠ [] →
      (above ≠ none → ∀ l, l ∈ ls → c.w.pending.any (fun y => y.dest.overlaps (c.dst l d.toNat 16)) = false) →
      let t1 := match sideOf c with
        | some sc => if above = none then t.acquire c.w.core sc else t
        | none => t
      t1.tableCheck (c.hw none) (c.p.tbind b.toNat) .ordered = (t2, .ok x) →
      -- a DENSE table has every key below its capacity
      (x.kind = 0 → exec (.tcnt sw b d k) s = .next ((t2.putLater c (ranges.map fun y =>
        (c.dst y.1 d.toNat 16, min y.2.2 (x.rowcap - 1) + 1 - y.2.1))).complete c)) ∧
      (x.kind ≠ 0 → exec (.tcnt sw b d k) s = .next (t2.walkOn c (u.lanes c)
        { bind := b.toNat, ranges := ranges, above := above, dest := c.abs d.toNat
          counts := ls.map fun l => if above = none then 0 else t.src c 1 l d.toNat 16 }))) ∧
    -- and goes on with a walk that has begun, without its sources
    (∀ s c t run,
      let u := { tableUses b [0, 1] [(d.toNat, 16)] [(k.toNat, 32)] with keyProg := true }
      u.begins s (.tcnt sw b d k) sw = some (c, t) → c.p.walk = some run →
      exec (.tcnt sw b d k) s = .next (t.walkOn c (u.lanes c) run))

/-- A stretch of a TCNT's walk (R371): the keys met add to the counts of the ranges that hold them, which are written at the walk's end;
an invalid node has the read repeated, and after 64 the Halyard resolves what is left between two commits (R169). A walk that a halt
stops leaves its counts in the destination and its last key as the progress (R106). -/
def Sys2Proof.Machine.CountWalks : Prop :=
  ∀ (s : State) (c : Issue) (ls : BitVec 32) (run : CountRun) t x, s.readDesc (c.hw none) (tbPtr (c.p.tbind run.bind)) = (t, .ok x) →
    let force := decide (64 ≤ run.retries) && !(t.committing c.g.part c.g.ctx (c.p.tbind run.bind))
    let later := fun (u : State) (y : CountRun) => (u.waitAt c .ready).modSplit c.id fun p => { p with walk := some y }
    (∀ u ks, t.tcount (c.hw none) x force run.ranges run.above = (u, .ok ks) → ∃ m, 1 ≤ m ∧
      let met := ks.take m
      let counts := (run.ranges.zip run.counts).map fun y =>
        (y.2 + (met.filter fun z => decide (y.1.2.1 ≤ z ∧ z ≤ y.1.2.2)).length) % 2 ^ 64
      s.walkOn c ls run = if ks.length ≤ m then
        (u.putLater c ((run.ranges.zip counts).map fun y => (.slices y.1.1 run.dest 16, y.2))).complete c
        else later u { run with counts := counts, above := met.getLast? }) ∧
    (∀ u, t.tcount (c.hw none) x force run.ranges run.above = (u, .error .retry) →
      s.walkOn c ls run = later u { run with retries := run.retries + 1 }) ∧
    (∀ u code addr detail, t.tcount (c.hw none) x force run.ranges run.above = (u, .error (.fault code addr detail)) →
      s.walkOn c ls run = u.faultAt c code ls (BitVec.ofNat 64 addr) detail)

def Sys2Proof.Machine.WalksStop : Prop :=
  ∀ (w : Warp) (n : Nat) (p : Split) (run : CountRun) k, w.split n = some p → p.walk = some run → p.stc = none → run.above = some k → n < 4 →
    w.splits.length = 4 →
    let v := w.stopWalk n
    v.split n = some { p with
      walk := none, prog := BitVec.ofNat 64 k, progValid := true, progPc := p.pc - BitVec.ofNat 64 (4 * p.hints.length) } ∧
    (∀ j, j ≠ n → v.split j = w.split j) ∧
    -- the count of a lane, with no result on its way to its destination
    (∀ l lo hi m, run.ranges.zip run.counts = [((l, lo, hi), m)] → l < 32 → w.lanes.length = 32 → run.dest + 16 ≤ 1024 →
      (w.pending.any fun x => x.dest.overlaps (.slices l run.dest 16)) = false →
      (v.lane l).get run.dest 16 = m % 2 ^ 64)

/-- Lookups, cursors and counts complete. Where a count's walk stops between two keys is a free value (log 22). -/
def Obligations.TableLookupsComplete : Prop := TableLookups ∧ CountWalks ∧ WalksStop

/-- A mutation whose lanes' bindings are in order is sent, lane by lane, behind a release where HINT.ORD asks for one; its
split waits for the commits (R364, R367, R368). -/
def Sys2Proof.Machine.MutationRuns (i : Instr) (sw : Bool) (b : BitVec 3) (op : TableOp) (dst : List (Nat × Nat)) (d : Nat) (k : BitVec 7)
    (p : BitVec 3) : Prop :=
  let u := tableUses b [0, 2] dst [(k.toNat, 16)]
  ∀ s c t, u.begins s i sw = some (c, t) →
    let ls := u.todo c
    ((sideOf c).isSome → answered t c (maskOf ls)) →
    let t1 := match sideOf c with
      | some sc => if ls.isEmpty then t else t.release c.id.warp c.w.core (maskOf ls) sc
      | none => t
    let r := ls.foldl (fun (r : LaneRun) l =>
      match r.st.tableCheck (c.hw (some l)) (c.p.tbind b.toNat) .indexed with
      | (t2, .error e) => r.addT c l (t2, .error e)
      | (t2, .ok _) =>
        { r with st := { t2 with tableReqs := t2.tableReqs ++
                   [{ lookReq op b c t l with key := t.src c 0 l k.toNat 16, dest := c.abs d, pred := p.toNat }] },
                 waiting := r.waiting ||| (1#32 <<< l) }) { st := t1 }
    r.faults = [] → r.waiting ≠ 0 → exec i s = .next (r.st.awaitOutcome c r.waiting c.doneBefore [])

def Obligations.TableMutationsSent : Prop :=
  ∀ (sw : Bool) (b : BitVec 3) (d k : BitVec 7) (p : BitVec 3),
    MutationRuns (.tins sw b d k p) sw b .tins [(d.toNat, 16)] d.toNat k p ∧
    MutationRuns (.tinsx sw b d k p) sw b .tinsx [(d.toNat, 16)] d.toNat k p ∧
    MutationRuns (.tups sw b d k p) sw b .tups [(d.toNat, 16)] d.toNat k p ∧
    MutationRuns (.tdel sw b k p) sw b .tdel [] 0 k p

def Sys2Proof.Machine.Handles : Prop :=
  (∀ s c t sw d h,
    let u : Uses := { orders := true, fits := [2], vs := [((d : BitVec 7).toNat, 16), ((h : BitVec 7).toNat, 28)], src := [(h.toNat, 28)] }
    u.begins s (.href sw d h) sw = some (c, t) →
    let ls := u.todo c
    let r := ls.foldl (fun (r : LaneRun) l =>
      match r.st.shroudKey (c.hw (some l)) (t.src c 0 l h.toNat 16) (t.src c 1 l (h.toNat + 16) 8) (t.src c 2 l (h.toNat + 24) 4) with
      | (t2, .error e) => r.addT c l (t2, .error e)
      | (t2, .ok x) => { r with st := t2 }.look c { c.treq .href x.1 l t.free with key := x.2, dest := c.abs d.toNat, acq := some 3 })
      { st := if ls.isEmpty then t else t.acquire c.w.core 3 }
    r.clean → exec (.href sw d h) s = .next (r.st.complete c)) ∧
  (∀ s c t sw h,
    let u : Uses := { orders := true, fits := [2], vs := [((h : BitVec 7).toNat, 24)], src := [(h.toNat, 24)] }
    u.begins s (.hbnd sw h) sw = some (c, t) →
    let ls := u.todo c
    (ls ≠ [] → answered t c (maskOf ls)) →
    let r := ls.foldl (fun (r : LaneRun) l =>
      let b := t.src c 1 l (h.toNat + 16) 8
      r.addT c l ((r.st.shroudEntry (c.hw (some l)) (t.src c 0 l h.toNat 16)).andThen fun t2 x =>
        if 64 * fieldOf x.2 0x10 4 < b then (t2, .error (.fault .handleBounds 0 (b * 2 ^ 16)))
        else if b ≤ fieldOf x.2 0x14 4 then (t2, .ok [])
        else (t2.hwKey (c.hw (some l)) true (x.1 + 0x14)).andThen fun t3 key =>
          -- under an engine's lock it stops as an atomic does (R198)
          match t3.rowLocked (c.hw (some l)) key 4 with
          | some w => (t3, .error (.fault .rangeLock (x.1 + 0x14) w.toNat))
          | none => (((t3.countHw (c.hw (some l)) (x.1 + 0x14) 4 true).dropLines c.w.core key 4).homeWrite key (leBytes 4 b), .ok [])))
      { st := if ls.isEmpty then t else t.release c.id.warp c.w.core (maskOf ls) 3 }
    r.clean → exec (.hbnd sw h) s = .next (r.st.complete c))

/-- TBIND, HREF and HBND complete. The lanes that a TBIND's fault names are the model's choice (log 15). -/
def Obligations.BindingAndHandles : Prop := TableBindings ∧ Handles

/-! ## Rate sets (R401 to R411) -/

/-- A rate instruction whose lanes meet no fault completes: `f` is its rule on one member. While the nodes of a mutation of its table are
being written it waits (R203, R404). -/
def Sys2Proof.Machine.RateRuns (i : Instr) (sw : Bool) (u : Uses) (b : BitVec 3) (k : BitVec 7) (write : Bool)
    (f : Issue → State → Nat → RatePar → RateHdr → RateHdr × List (Dest × Nat)) : Prop :=
  ∀ s c t, u.begins s i sw = some (c, t) →
    let between := t.committing c.g.part c.g.ctx (c.p.tbind b.toNat) = true
    let r := (u.todo c).foldl (fun (r : LaneRun) l =>
      r.addT c l (r.st.rateOp (c.hw (some l)) (c.p.tbind b.toNat) (t.src c 0 l k.toNat 16) write (f c t l))) { st := t }
    (¬between ∨ u.todo c = [] → r.clean → exec i s = .next (r.st.complete c)) ∧
    (between → u.todo c ≠ [] → exec i s = .next (t.waitAt c .ready))

/-- The rate instructions complete where no lane meets a fault. That engine locks over a member stop a lane is the model's choice (log
24), as are the node writes that a mutation comes to in steps (log 81); the locks do not stop RSWEEP (R407). -/
def Obligations.RateInstructionsComplete : Prop :=
  (∀ (sw : Bool) (b : BitVec 3) (d k : BitVec 7) (p : BitVec 3),
    RateRuns (.rdue sw b k p) sw (tableUses b [] [] [(k.toNat, 16)]) b k false (fun _ _ l par h =>
      (h, [(.pred l p.toNat, if par.sweep % 2 ^ h.r = 0 then 1 else 0)])) ∧
    RateRuns (.rvisit sw b d k p) sw (tableUses b [] [] [(d.toNat, 8), (k.toNat, 16)]) b k true (fun c t l par h =>
      (rateVisit par h (t.src c 1 l d.toNat 8), [(.pred l p.toNat, (rateVisit par h (t.src c 1 l d.toNat 8)).propagate.toNat)])) ∧
    RateRuns (.rreadh sw b d k) sw (tableUses b [] [(d.toNat, 8)] [(k.toNat, 16)]) b k false (fun c _ l _ h =>
      (h, [(c.dst l d.toNat 8, h.v1)])) ∧
    RateRuns (.rreadx sw b d k) sw (tableUses b [] [(d.toNat, 8)] [(k.toNat, 16)]) b k false (fun c _ l par h =>
      (h, [(c.dst l d.toNat 8, rateRead par.sweep h)])) ∧
    RateRuns (.rset sw b d k) sw (tableUses b [] [] [(d.toNat, 16), (k.toNat, 16)]) b k true (fun c t l par _ =>
      (rateSet par (t.src c 1 l d.toNat 16), []))) ∧
  -- RSWEEP opens the next sweep, whatever engines have locked (R407)
  (∀ s c t t1 t2 x key sw b d, Uses.begins { orders := true, tbs := [b.toNat] } s (.rsweep sw b d) sw = some (c, t) →
    (t.writeBack (quadOf c.w.core)).rateSetOf (c.hw none) (c.p.tbind b.toNat) = (t1, .ok x) →
    t1.hwKey (c.hw none) true (tbPtr (c.p.tbind b.toNat) + 0x3E) = (t2, .ok key) →
    let n := (x.par.sweep + 1) % 2 ^ 16
    let t3 := t2.bindIf c.id.warp fun y => placesOverlap y.unread [(.mem key, 2)]
    exec (.rsweep sw b d) s =
      .next ((((t3.dropLines c.w.core key 2).homeWrite key (leBytes 2 n)).putLater c [(.ureg d.toNat, n)]).complete c))

/-! ## Tiles (R378 to R391, R397) -/

/-- The tile registers of an instruction are free of engine locks that keep it (R380). -/
def Sys2Proof.Machine.tilesOk (t : State) (c : Issue) (ts : List (BitVec 4 × Bool)) : Prop :=
  t.tilesLocked c (ts.map fun x => (x.1.toNat, x.2)) = none

/-- A tile that a thread instruction writes: later, and only its own bits. -/
def Obligations.TileInstructionsComplete : Prop :=
  (∀ s c t sw a b, Uses.begins { tiles := [a.toNat, b.toNat] } s (.tmov sw a b) sw = some (c, t) →
    tilesOk t c [(b, false), (a, true)] → hdrCheck4 (c.w.tile b.toNat).toNat = none →
    exec (.tmov sw a b) s = .next (if a = b then t.complete c
      else (t.putLater c [(.tile a.toNat, (c.w.tile b.toNat).toNat)]).complete c)) ∧
  (∀ s c t sw a d, Uses.begins { okOp := decide ((d : BitVec 6).toNat ≤ 60), tiles := [a.toNat] } s (.thdr sw a d) sw = some (c, t) →
    tilesOk t c [(a, false)] →
    exec (.thdr sw a d) s = .next ((t.putLater c ((List.range 4).map fun i =>
      (.ureg (d.toNat + i), (c.w.tile a.toNat).toNat / 2 ^ (64 * i) % 2 ^ 64))).complete c)) ∧
  (∀ s c t sw a d,
    let rs := (List.range 4).map fun i => (d : BitVec 6).toNat + i
    Uses.begins { okOp := decide (d.toNat ≤ 60), tiles := [a.toNat], uregs := rs } s (.thset sw a d) sw = some (c, t) →
    tilesOk t c [(a, true)] →
    let given := rs.foldr (fun r v => (c.p.ureg r).toNat + 2 ^ 64 * v) 0
    let h := given % 2 ^ 240 + hdrCrc given * 2 ^ 240
    hdrCheck4 h = none → (tileHdr h).version % 2 = 0 →
    exec (.thset sw a d) s = .next ((t.putLater c [(.tile a.toNat, setBits (c.w.tile a.toNat).toNat 0 256 h)]).complete c)) ∧
  (∀ s c t sw a v, Uses.begins { tiles := [a.toNat], uregs := [v.toNat] } s (.tfill sw a v) sw = some (c, t) →
    tilesOk t c [(a, true)] → hdrCheck4 (c.w.tile a.toNat).toNat = none →
    exec (.tfill sw a v) s = .next ((t.putLater c
      [(.tile a.toNat, fillTile (c.w.tile a.toNat).toNat (c.p.ureg v.toNat).toNat)]).complete c)) ∧
  (∀ s c t sw a d i,
    Uses.begins { tiles := [a.toNat], uregs := [i.toNat], vs := [(d.toNat, 64)] } s (.tdrn sw a d i) sw = some (c, t) →
    tilesOk t c [(a, false)] → hdrCheck3 (c.w.tile a.toNat).toNat = none →
    let j := (c.p.ureg i.toNat).toNat % 16
    exec (.tdrn sw a d i) s = .next ((t.putLater c ((lanesOf c.p.mask).map fun l =>
      (c.dst l d.toNat 64, if 8 < j then 0 else (c.w.tile a.toNat).toNat / 2 ^ (8 * (32 + 1024 * j + 32 * l)) % 2 ^ 256))).complete c)) ∧
  -- TBND: the bound and its CRC alone change; where step 4 of R243 refuses the header the bound is any value
  (∀ s c t sw a, Uses.begins { tiles := [a.toNat] } s (.tbnd sw a) sw = some (c, t) →
    tilesOk t c [(a, true)] → hdrCheck3 (c.w.tile a.toNat).toNat = none →
    ∃ b, (hdrCheck4 (c.w.tile a.toNat).toNat = none →
        b = boundOf ((tileHdr (c.w.tile a.toNat).toNat).maxMag (c.w.tile a.toNat).toNat)) ∧
      let v := setBits (c.w.tile a.toNat).toNat 128 32 b
      exec (.tbnd sw a) s = .next ((t.putLater c [(.tile a.toNat, setBits v 240 16 (hdrCrc v))]).complete c)) ∧
  (∀ s c t sw a m p, Uses.begins { tiles := [a.toNat], uregs := [m.toNat] } s (.prune sw a m p) sw = some (c, t) →
    tilesOk t c [(a, false)] → hdrCheck3 (c.w.tile a.toNat).toNat = none →
    let b := FloatFmt.f32.decode (tileHdr (c.w.tile a.toNat).toNat).bound
    let k := FloatFmt.f32.decode ((c.p.ureg m.toNat).toNat % 2 ^ 32)
    exec (.prune sw a m p) s = .next ((t.predLater c p (!b.isNaN && !k.isNaN && b.ltNum k)).complete c)) ∧
  -- TCVT: a new tile of the target's format, whatever its bytes outside the areas; flags in every active lane, draws from the lowest
  -- (R388)
  (∀ s c t sw a b f g, 
    Uses.begins { fits := [3, 4], tiles := [a.toNat, b.toNat], uregs := [f.toNat], target := some f } s (.tcvt sw a b f) sw = some (c, t) →
    let v := (c.w.tile b.toNat).toNat
    let h := tileHdr v
    let d := (c.p.ureg f.toNat).toNat
    tilesOk t c [(b, false), (a, true)] → hdrCheck4 v = none →
    targetOf d h.rows h.cols h.seed false = some g →
    let low := (lowestLane c.p.mask).getD 0
    ∃ rest,
    let r := encodeTile rest g.hdr { mode := modeOf c.p.hints, sat := satOf c.p.hints } (c.w.lane low).sr.toNat false
      fun i j => (h.decoded v i j).1
    let fl := (List.range (h.rows * h.cols)).foldl (fun x n => x ||| (h.decoded v (n / h.cols) (n % h.cols)).2) 0
    exec (.tcvt sw a b f) s = .next (((t.modWarp c.id.warp fun w =>
      ((lanesOf c.p.mask).foldl (fun w l => w.addFlags l (r.flags ||| fl)) w).modLane low fun y =>
        { y with sr := BitVec.ofNat 64 r.stream }).putLater c [(.tile a.toNat, r.tile)]).complete c))

/-! ## Engine operations (R348 to R351, R383, R384, R392 to R396) -/

/-- Room in the engine's queue and in the lock tables (R196, R348). -/
def Sys2Proof.Machine.roomFor (t : State) (c : Issue) (j : Job) (locks : List (LockOn × Bool)) : Prop :=
  t.engineFull j.kind c.w.core = false ∧ t.lockRoom (locks.map fun l => ⟨t.nextId, l.2, l.1⟩) = true

/-- An operation is entered with its locks, behind what the split's lanes did before, and the instruction completes (R196, R197); without
room it waits for some (R348). -/
def Sys2Proof.Machine.EnteredWith (i : Instr) (s t : State) (c : Issue) (j : Job) (locks : List (LockOn × Bool)) (fix : State → State) :
    Prop :=
  (roomFor t c j locks → answered t c c.p.mask →
    exec i s = .next ((fix ((t.drain c.id.warp c.p.mask).enterJob c j locks)).complete c)) ∧
  (¬roomFor t c j locks → exec i s = .next (t.waitAt c .full))

/-- One whose ranges meet earlier locks, or each other, moves nothing and locks no range: it completes with status bit 10 (R200, R349). -/
def Sys2Proof.Machine.Clashes (i : Instr) (s t : State) (c : Issue) (j : Job) (regs : List (LockOn × Bool)) (fix : State → State) : Prop :=
  EnteredWith i s t c { j with status := j.status ||| 0x400, done := j.done || j.kind.unit == 3 } regs fix

/-- An operation is entered with the locks of its ranges where these meet no earlier ones. -/
def Sys2Proof.Machine.Entered (i : Instr) (s t : State) (c : Issue) (j : Job) (dst src : List LockOn) (regs : List (LockOn × Bool))
    (fix : State → State) : Prop :=
  (t.rangeConflict dst src = false → EnteredWith i s t c j (regs ++ (src.map (·, false) ++ dst.map (·, true))) fix) ∧
  (t.rangeConflict dst src = true → Clashes i s t c j regs fix)

/-- An operation of no bytes completes at once, behind what the split's lanes did before (R348). -/
def Sys2Proof.Machine.Empties (i : Instr) (s t : State) (c : Issue) (j : Job) : Prop :=
  answered t c c.p.mask → exec i s = .next ((((t.drain c.id.warp c.p.mask).writeBack (quadOf c.w.core)).completeJob
    { j with core := c.w.core, wg := c.g.id, bytes := 0 }).complete c)

/-- The header of a tile register reads zero from the issue of a TLD or ADRN on (R381). -/
def Sys2Proof.Machine.noHeader (c : Issue) (a : BitVec 4) (t : State) : State :=
  t.modWarp c.id.warp fun w => w.setTile a.toNat (BitVec.ofNat 73984 (setBits (w.tile a.toNat).toNat 0 256 0))

/-- The name under which a split notes that a peer has answered for an object. -/
def Sys2Proof.Machine.barKey (c : Issue) (b : BitVec 6) : Nat × Nat × Word := (c.id.warp, c.id.split, c.p.ureg b.toNat)

/-- The barrier reference in S(b) names an initialised object here, or one of an open peer that has answered that it is (R339, R340); the
answer is used up. -/
def Sys2Proof.Machine.BarOk (t : State) (c : Issue) (b : BitVec 6) (u : State) : Prop :=
  ∃ x, t.findBar c (c.p.ureg b.toNat).toNat false = .ok x ∧
    (((∀ p dev k, x ≠ .pod p dev k) ∧ u = t) ∨
     ((∃ p dev k, x = .pod p dev k) ∧ t.probed.contains (barKey c b) = true ∧ u = { t with probed := t.probed.filter (· != barKey c b) }))

/-- An object of another device whose state is not known yet is asked for; a reference that names none, or an uninitialised one, is
a fault (R340). -/
def Sys2Proof.Machine.BarChecks : Prop :=
  ∀ (t : State) (c : Issue) (b : BitVec 6) (go : State → State),
    (∀ p dev k, t.findBar c (c.p.ureg b.toNat).toNat false = .ok (.pod p dev k) → t.probed.contains (barKey c b) = false →
      t.withBar c (c.p.ureg b.toNat).toNat go = t.askBarrier c p dev 7 k 0 0 (c.p.ureg b.toNat).toNat) ∧
    (∀ e, t.findBar c (c.p.ureg b.toNat).toNat false = .error e →
      t.withBar c (c.p.ureg b.toNat).toNat go = t.faultAt c e.code c.p.mask (c.p.ureg b.toNat) e.detail)

def Sys2Proof.Machine.TileOps : Prop :=
  -- TLD and TST
  (∀ s c t u t1 ls sw a p b,
    Uses.begins { fits := [5, 7], ords := [0, 1], uregs := [p.toNat, b.toNat], tiles := [a.toNat] } s (.tld sw a p b) sw = some (c, t) →
    let q := uniformPtr c p
    tilePtrBad q = none → BarOk t c b u → tilesOk u c [(a, true)] →
    u.rangeNames c.engine .load q (min 9248 (65536 - q % 65536)) = (t1, ls) →
    -- a range that an engine has locked for writing is a precise fault (R198)
    ((∃ o, o ∈ ls ∧ t1.lockOn c.g.part c.g.ctx o = some true) →
      exec (.tld sw a p b) s = .next (t1.faultAt c .rangeLock c.p.mask (BitVec.ofNat 64 q) 1)) ∧
    ((∀ o, o ∈ ls → t1.lockOn c.g.part c.g.ctx o ≠ some true) → Entered (.tld sw a p b) s t1 c
      { newJob .tld (c.p.ureg b.toNat).toNat with src := BitVec.ofNat 64 q, tA := a.toNat, bytes := 9248, acquire := sideOf c } [] ls
      [(.tile c.id.warp a.toNat, true)] (noHeader c a))) ∧
  (∀ s c t u t1 ls sw a p b o,
    Uses.begins { fits := [5, 7], ords := [0, 2], uregs := [p.toNat, b.toNat], tiles := [a.toNat] } s (.tst sw a p b o) sw = some (c, t) →
    let q := uniformPtr c p
    let n := 32 + (tileHdr (c.w.tile a.toNat).toNat).span
    tilePtrBad q = none → hdrCheck4 (c.w.tile a.toNat).toNat = none → q % 65536 + n ≤ 65536 → BarOk t c b u → tilesOk u c [(a, false)] →
    u.rangeNames c.engine .store q n = (t1, ls) →
    Entered (.tst sw a p b o) s t1 c
      { newJob .tst (c.p.ureg b.toNat).toNat with dst := BitVec.ofNat 64 q, tA := a.toNat, bytes := n, flag := o == 1 } ls []
      [(.tile c.id.warp a.toNat, false)] id) ∧
  -- MMA: both tiles are read, and its accumulators written
  (∀ s c t u sw a x y b z p,
    Uses.begins { fits := [9], uregs := [b.toNat], tiles := [x.toNat, y.toNat], accs := [a.toNat] } s (.mma sw a x y b z) sw = some (c, t) →
    BarOk t c b u → mmaCheck x y (c.w.tile x.toNat).toNat (c.w.tile y.toNat).toNat = .ok p → pairBad c a (p.acc == 2) = none →
    tilesOk u c [(x, false), (y, false)] →
    let as := if p.acc = 2 then [a.toNat, a.toNat + 1] else [a.toNat]
    u.accsLocked c (as.map fun n => (n, true)) = none →
    Entered (.mma sw a x y b z) s u c
      { newJob .mma (c.p.ureg b.toNat).toNat with
        acc := a.toNat, tA := x.toNat, tB := y.toNat, flag := z == 1, desc := BitVec.ofNat 64 p.acc, total := p.passes
        bytes := 16384 * as.length } [] []
      ([(.tile c.id.warp x.toNat, false), (.tile c.id.warp y.toNat, false)] ++ as.map fun n => (.acc c.id.warp n, true)) id) ∧
  -- ADRN and AFILL
  (∀ s c t u sw a x f b g,
    Uses.begins { fits := [4], uregs := [f.toNat, b.toNat], tiles := [x.toNat], accs := [a.toNat] } s (.adrn sw a x f b) sw = some (c, t) →
    BarOk t c b u → targetOf (c.p.ureg f.toNat).toNat 0 0 0 true = some g → pairBad c a (g.acc == 2) = none → tilesOk u c [(x, true)] →
    let as := if g.acc = 2 then [a.toNat, a.toNat + 1] else [a.toNat]
    u.accsLocked c (as.map fun n => (n, false)) = none →
    Entered (.adrn sw a x f b) s u c
      { newJob .adrn (c.p.ureg b.toNat).toNat with
        acc := a.toNat, tA := x.toNat, flag := satOf c.p.hints, desc := c.p.ureg f.toNat, total := 1, bytes := 32 + g.hdr.span } [] []
      ((.tile c.id.warp x.toNat, true) :: as.map fun n => (.acc c.id.warp n, false)) (noHeader c x)) ∧
  (∀ s c t u t1 ls sw a v b,
    Uses.begins { uregs := [v.toNat, b.toNat], accs := [a.toNat] } s (.afill sw a v b) sw = some (c, t) →
    let src := (c.p.ureg v.toNat).toNat
    BarOk t c b u → afillOk src = true → u.accsLocked c [(a.toNat, true)] = none →
    (if src / 2 ^ 60 = 2 then u.rangeNames c.engine .load src 16384 else (u, [])) = (t1, ls) →
    Entered (.afill sw a v b) s t1 c
      { newJob .afill (c.p.ureg b.toNat).toNat with acc := a.toNat, desc := c.p.ureg v.toNat, total := 1, bytes := 16384 } [] ls
      [(.acc c.id.warp a.toNat, true)] id)

/-- Pointers, barrier and reservations of a CPY, GATH or XFRM (R348). -/
def Sys2Proof.Machine.sheetForm (d n b : BitVec 6) : Uses := { orders := true, okOp := d != 63, fits := [9], uregs := [d.toNat, d.toNat + 1, n.toNat, b.toNat] }

/-- A Sheet or Jib operation is entered, one of no bytes completes at once, a CPY whose own ranges overlap moves nothing (R349), and a
GATH or XFRM whose size or descriptor is refused is entered as done with status bit 3 (R348 to R351). -/
def Sys2Proof.Machine.SheetOps : Prop :=
  ∀ (s : State) (c : Issue) (t u : State) (sw : Bool) (d n b : BitVec 6),
    let to_ := (c.p.ureg d.toNat).toNat
    let fr := (c.p.ureg (d.toNat + 1)).toNat
    let arg := (c.p.ureg n.toNat).toNat
    BarOk t c b u → pointerBad to_ = none → pointerBad fr = none →
    (∀ t1 t2 ds ss, (sheetForm d n b).begins s (.cpy sw d n b) sw = some (c, t) →
      let len := arg % 2 ^ 31
      let j := { newJob .cpy (c.p.ureg b.toNat).toNat with
        dst := BitVec.ofNat 64 to_, src := BitVec.ofNat 64 fr, bytes := len, total := (len + 4095) / 4096 }
      (len = 0 → Empties (.cpy sw d n b) s u c j) ∧
      (0 < len → u.rangeNames c.engine .store to_ len = (t1, ds) → t1.rangeNames c.engine .load fr len = (t2, ss) →
      -- a PEER pointer to this device is the ROW pointer it stands for (R27)
      let meet := pointersMeet (u.ownPtr to_) (u.ownPtr fr) len = true ∨ (ds.any fun o => ss.any o.meets) = true
      (¬meet → Entered (.cpy sw d n b) s t2 c j ds ss [] id) ∧ (meet → Clashes (.cpy sw d n b) s t2 c j [] id))) ∧
    (∀ t1 t2 ds ss, (sheetForm d n b).begins s (.gath sw d n b) sw = some (c, t) → fr % 8 = 0 →
      let count := arg % 2 ^ 16
      let code := arg / 2 ^ 16 % 16
      let len := count * (32 * 2 ^ code)
      let bad := 11 < code ∨ 2 ^ 31 ≤ len
      let j := { newJob .gath (c.p.ureg b.toNat).toNat with
        dst := BitVec.ofNat 64 to_, src := BitVec.ofNat 64 fr, desc := BitVec.ofNat 64 code, bytes := len
        status := if bad then 8 else 0 }
      (len = 0 → Empties (.gath sw d n b) s u c j) ∧
      (0 < len → bad → Entered (.gath sw d n b) s u c { j with done := true } [] [] [] id) ∧
      (0 < len → ¬bad → u.rangeNames c.engine .store to_ len = (t1, ds) → t1.rangeNames c.engine .load fr (8 * count) = (t2, ss) →
        Entered (.gath sw d n b) s t2 c { j with total := (len + 4095) / 4096 } ds ss [] id)) ∧
    (∀ t0 t1 t2 ds ss desc, (sheetForm d n b).begins s (.xfrm sw d n b) sw = some (c, t) → arg / 2 ^ 60 = 3 → arg % 32 = 0 →
      u.readSeen c arg 32 = (t0, .ok desc) →
      let x := bindingOf desc
      let j := { newJob .xfrm (c.p.ureg b.toNat).toNat with
        dst := BitVec.ofNat 64 to_, src := BitVec.ofNat 64 fr, xf := x, bytes := x.length }
      (x.length = 0 → Empties (.xfrm sw d n b) s t0 c { j with status := 8 }) ∧
      (0 < x.length → x.ok = false → Entered (.xfrm sw d n b) s t0 c { j with status := 8, done := true } [] [] [] id) ∧
      (0 < x.length → x.ok = true → t0.rangeNames c.engine .store to_ x.length = (t1, ds) →
        (if x.code = 2 ∨ x.code = 3 then (t1, []) else t1.rangeNames c.engine .load fr x.length) = (t2, ss) →
        Entered (.xfrm sw d n b) s t2 c { j with total := (x.length + 4095) / 4096 } ds ss [] id))

/-- The Mainsail, tile, Sheet and Jib operations enter their engine. That ranges are named by translation at entry, that the barrier of
another device is asked about first, and the lanes that the checks' faults name are the model's choice (logs 40, 16 and 15). -/
def Obligations.EngineOperationsEntered : Prop := TileOps ∧ SheetOps ∧ BarChecks

/-! ## Hints (R269 to R271) -/

/-- A HINT word joins the run of its split, and the counter goes on by 4; a fourth in a row is ILLEGAL_HINT (R271). -/
def Sys2Proof.Machine.HintRuns (i : Instr) (kind payload : Nat) : Prop :=
  ∀ s c, s.issue? false = some c →
    (c.p.hints.length < 3 → exec i s = .next (s.modSplit c.id fun p =>
      { p with hints := p.hints ++ [⟨BitVec.ofNat 5 kind, BitVec.ofNat 21 payload⟩], pc := p.pc + 4, since := s.cycle + 1, lifted := false })) ∧
    (3 ≤ c.p.hints.length → exec i s = .next (s.faultAt c .illegalHint c.p.mask 0 ((encodeWord i).toNat + 3 * 2 ^ 32)))

/-- The ten HINT words. The lanes that the fault of a fourth hint names are the model's choice (log 15). -/
def Obligations.HintsJoinTheRun : Prop :=
  (∀ i, HintRuns (.hintImm i) 0 i.toNat) ∧ (∀ i, HintRuns (.hintImmhi i) 1 i.toNat) ∧
  (∀ n p, HintRuns (.hintGuard n p) 2 (8 * n.toNat + p.toNat)) ∧ (∀ m, HintRuns (.hintRnd m) 3 m.toNat) ∧ HintRuns .hintSat 4 0 ∧
  (∀ c o, HintRuns (.hintOrd c o) 5 (4 * c.toNat + o.toNat)) ∧ (∀ c, HintRuns (.hintCache c) 6 c.toNat) ∧
  (∀ o, HintRuns (.hintOffs o) 7 o.toNat) ∧ HintRuns .hintCheck 8 0 ∧ (∀ p, HintRuns (.hintPri p) 9 p.toNat)

/-! ## Events: power, sleep and reset (R35 to R38, R43, R63, R64)

The operands of an event stand in `s.args`. Each clause says under which condition the event acts, and what it does. -/

/-- Row `i` takes `s` to `t`. -/
abbrev Sys2Proof.Machine.Goes (i : Instr) (s t : State) : Prop := exec i s = .next t

def Obligations.PowerEvents : Prop :=
  ∀ s : State,
    let d := s.args.die.toNat
    let w := s.args.val.toNat
    let bit : BitVec 4 := 1#4 <<< d
    -- above the cap the clock steps down by 100 MHz, to no less than 800 MHz; within it a die in PS1 steps up again, and leaves PS1 at
    -- its limit, or at the clock of its thermal cap
    (w < 2 ^ 16 → s.powerCap < w → 900 ≤ s.clock d →
      Goes .powerCapStep s { s.setClock d (s.clock d - 100) with ps1Cap := s.ps1Cap ||| bit }) ∧
    (w < 2 ^ 16 → s.powerCap < w → 800 < s.clock d → s.clock d < 900 →
      Goes .powerCapStep s { s.setClock d 800 with ps1Cap := s.ps1Cap ||| bit }) ∧
    (w < 2 ^ 16 → s.powerCap < w → s.clock d ≤ 800 → Goes .powerCapStep s s) ∧
    (w < 2 ^ 16 → w ≤ s.powerCap → s.ps1Cap.getLsbD d = true → s.clock d + 100 < s.fullClock d →
      Goes .powerCapStep s (s.setClock d (s.clock d + 100))) ∧
    (w < 2 ^ 16 → w ≤ s.powerCap → s.ps1Cap.getLsbD d = true → s.fullClock d ≤ s.clock d + 100 → s.ps1Heat.getLsbD d = false →
      Goes .powerCapStep s { s.setClock d (s.fullClock d) with ps1Cap := s.ps1Cap &&& ~~~bit }) ∧
    (w < 2 ^ 16 → w ≤ s.powerCap → s.ps1Cap.getLsbD d = true → s.fullClock d ≤ s.clock d + 100 → s.ps1Heat.getLsbD d = true →
      Goes .powerCapStep s { s.setClock d (s.cappedClock d) with ps1Cap := s.ps1Cap &&& ~~~bit }) ∧
    (w < 2 ^ 16 → w ≤ s.powerCap → s.ps1Cap.getLsbD d = false → Goes .powerCapStep s s) ∧
    -- 105 °C: PS1 and a management event; 5 °C below it the thermal cap ends; 115 °C: a reset, and an event that outlives it
    (105 * 16 ≤ w → s.ps1Heat.getLsbD d = false →
      Goes .thermalLimit105 s
        ({ s.setClock d (if s.clock d = s.fullClock d then s.cappedClock d else s.clock d) with ps1Heat := s.ps1Heat ||| bit }.raiseEvt 0)) ∧
    (w < 105 * 16 ∨ s.ps1Heat.getLsbD d = true → Goes .thermalLimit105 s s) ∧
    (w ≤ 100 * 16 → s.ps1Heat.getLsbD d = true → s.ps1Cap.getLsbD d = false →
      Goes .thermalRecover s { s.setClock d (s.fullClock d) with ps1Heat := s.ps1Heat &&& ~~~bit }) ∧
    (w ≤ 100 * 16 → s.ps1Heat.getLsbD d = true → s.ps1Cap.getLsbD d = true →
      Goes .thermalRecover s { s.setClock d (s.clock d) with ps1Heat := s.ps1Heat &&& ~~~bit }) ∧
    (100 * 16 < w ∨ s.ps1Heat.getLsbD d = false → Goes .thermalRecover s s) ∧
    (115 * 16 ≤ w → Goes .thermalLimit115 s (s.deviceReset.raiseEvt 0)) ∧
    (w < 115 * 16 → Goes .thermalLimit115 s s) ∧
    -- a die without a resident workgroup enters PS2
    (s.dieBusy d = false → s.pkgState = 0 → Goes .dieIdle s { s with ps2 := s.ps2 ||| bit }) ∧
    (s.dieBusy d = true ∨ s.pkgState ≠ 0 → Goes .dieIdle s s)

def Sys2Proof.Machine.SleepRows : Prop :=
  ∀ s : State,
    let p := s.args.p
    let asked := s.modPart p fun x => { x with psReq := 3 }
    -- another live partition has not asked
    (s.live.all (fun k => (asked.part k).psReq == 3) = false → Goes .psReqPs3 s asked) ∧
    -- the last live partition asks
    ((s.part p).state = 2 → (s.part p).psReq ≠ 3 → s.live.all (fun k => (asked.part k).psReq == 3) = true → s.pkgState = 0 →
      Goes .psReqPs3 s (
        if allParts.any (fun k => (s.part k).resident.isSome) then { asked.clearPsReq with pwrRefused := true }
        else { allParts.foldl (fun t k => t.closeSessions k) asked with pkgState := 1 })) ∧
    Goes .psReqNone s (s.modPart p fun x => { x with psReq := 0 }).wake ∧
    -- the dies lose their power: what their quads hold goes home first, and caches, latches and translations are gone
    (s.pkgState = 1 → ∃ t, Goes .ps3EntryComplete s t ∧ t = { s.gateDies with pkgState := 2 } ∧ t.cache = [] ∧ t.latch = [] ∧ t.tlb = [] ∧
      t.walks = [] ∧ ((∀ h, h ∈ s.held → h.quad < 32) → t.held = [])) ∧
    (s.pkgState = 3 → Goes .ps3WakeComplete s
      { s.clearPsReq with pkgState := 0, agenda := s.deferred ++ s.agenda, deferred := [] }) ∧
    -- Off holds nothing but the flash and the lifetime record, to which an orderly shutdown appends first
    (∃ t, Goes .powerLoss s t ∧ t.off = true ∧ t.mem = [] ∧ t.warps = [] ∧ t.wgs = [] ∧ t.cache = [] ∧ t.parts = State.reset.parts ∧
      t.flashFw = s.flashFw ∧ t.flashCfg = s.flashCfg ∧ t.life = (if s.args.flag then s.appendLife.life else s.life) ∧ t.lifeNow = {} ∧
      t.host = s.host)

/-- A reset, of a package that is Off too, loses every context and keeps the flash and the lifetime record, and outside Off its pending
counts; the boot ends at stage
5, or stops with the cause that R64 lists for the stage. -/
def Sys2Proof.Machine.BootRows : Prop :=
  ∀ s : State, ∃ t, Goes .deviceReset s t ∧ t.off = false ∧
    t.mem = [] ∧ t.warps = [] ∧ t.wgs = [] ∧ t.jobs = [] ∧ t.cache = [] ∧ t.parts = State.reset.parts ∧ t.devEvt.toNat % 64 = 0 ∧
    t.life = s.life ∧ t.lifeNow = (if s.off then {} else { s.lifeNow with thermalHours := s.thermalTime }) ∧ t.flashFw = s.flashFw ∧ t.flashCfg = s.flashCfg ∧
    ((t.bootStage = 5 ∧ t.bootErr = 0) ∨ (t.bootStage = 0 ∧ (t.bootErr = 1 ∨ t.bootErr = 2)) ∨
      (t.bootStage = 1 ∧ (t.bootErr = 3 ∨ t.bootErr = 4)) ∨ (t.bootStage = 3 ∧ (t.bootErr = 5 ∨ t.bootErr = 6))) ∧
    (t.bootStage = 5 → t.dieOn = Config.imageDies s.flashCfg ∧ t.capMax = wattsIn 800 3300 (Config.imageWatts s.flashCfg) ∧
      ∀ d, d < 4 → t.fullClock d = wattsIn 800 1700 (Config.imageClock s.flashCfg d) ∧ t.clock d = t.fullClock d) ∧
    (t.bootErr = 1 ↔ Config.imageGood false s.flashFw = false) ∧ s.fwRollback ≤ t.fwRollback ∧ s.cfgRollback ≤ t.cfgRollback

/-- The sleep states and the stages of a boot. What the lifetime record counts, that reset is the state after boot stage 5, and that an
access which wakes the package completes behind the wake are the model's choice (logs 32, 5 and 70), as is that a context on its way in
does not keep the package awake (log 90). -/
def Obligations.ResetEvents : Prop := SleepRows ∧ BootRows

/-! ## Events: the control window and the host (R6, R41, R46, R47, R67, R154, R426) -/

def Sys2Proof.Machine.RegisterRows : Prop :=
  ∀ s : State,
    let off := s.args.addr
    let n := s.args.size
    let p := s.args.p
    let v := s.args.val.toNat
    -- an aligned access of 4 or 8 bytes reads or writes; a PART_CTL is written once the package is awake
    let word := off / 8 * 8
    let awake := s.pkgState = 0 ∨ isPartCtl word = false
    (off < 2 ^ 26 → n = 8 → off % 8 = 0 → s.args.flag = true →
      Goes .registerWrite s { s with hostReply := (s.regRead off).map fun x => ⟨leBytes 8 x, false⟩ }) ∧
    (off < 2 ^ 26 → n = 4 → off % 8 = 0 → s.args.flag = true →
      Goes .registerWrite s { s with hostReply := (s.regRead off).map fun x => ⟨leBytes 4 x, false⟩ }) ∧
    (off < 2 ^ 26 → n = 4 → off % 8 = 4 → s.args.flag = true →
      Goes .registerWrite s { s with hostReply := (s.regRead (off - 4)).map fun x => ⟨leBytes 4 (x / 2 ^ 32), false⟩ }) ∧
    (off < 2 ^ 26 → n = 8 → off % 8 = 0 → s.args.flag = false → awake →
      Goes .registerWrite s (s.regWrite off v (2 ^ 64 - 1))) ∧
    (off < 2 ^ 26 → n = 4 → off % 8 = 0 → s.args.flag = false → awake →
      Goes .registerWrite s (s.regWrite off (v % 2 ^ 32) (2 ^ 32 - 1))) ∧
    (off < 2 ^ 26 → n = 4 → off % 8 = 4 → s.args.flag = false → awake →
      Goes .registerWrite s (s.regWrite (off - 4) (v % 2 ^ 32 * 2 ^ 32) ((2 ^ 32 - 1) * 2 ^ 32))) ∧
    (off < 2 ^ 26 → (n = 4 ∨ n = 8) → off % n = 0 → s.args.flag = false → ¬awake →
      Goes .registerWrite s { s.wake with deferred := s.deferred ++ [⟨.registerWrite, s.args⟩] }) ∧
    -- one of another size, or misaligned, is ignored, reads as ones, and sets bit 7 of DEV_EVT
    (off < 2 ^ 26 → ((n ≠ 4 ∧ n ≠ 8) ∨ off % n ≠ 0) → s.args.flag = false → Goes .registerWrite s (s.raiseEvt 7)) ∧
    (off < 2 ^ 26 → ((n ≠ 4 ∧ n ≠ 8) ∨ off % n ≠ 0) → s.args.flag = true →
      Goes .registerWrite s ({ s with hostReply := some ⟨List.replicate n 0xFF, false⟩ }.raiseEvt 7)) ∧
    -- PART_HMINT, CNT_CLR, PART_XLTINV
    ((s.part p).state = 2 → Goes .handleMint s { s with hostReply := some ⟨leBytes 8
      ((s.part p).hmintIndex.toNat + 2 ^ 32 * (s.part p).hmintGen.toNat +
        2 ^ 48 * (Config.shroudCheck (s.part p).secret (s.part p).hmintIndex (s.part p).hmintGen).toNat), false⟩ }) ∧
    (∃ t, Goes .counterClear s t ∧ (v.testBit 0 = true → t.coreCounters = []) ∧ (v.testBit 0 = false → t.coreCounters = s.coreCounters) ∧
      t = { s with coreCounters := t.coreCounters, tableCounters := t.tableCounters }) ∧
    (v % 2 = 1 → (s.part p).xltGo = false → Goes .translationInvalidate s (s.modPart p fun x =>
      { x with xltVa := BitVec.ofNat 41 (v / 2 ^ 16), xltCtx := BitVec.ofNat 6 (v / 2 ^ 8), xltAll := v.testBit 1, xltGo := true })) ∧
    ((s.part p).xltGo = true → Goes .xltinvComplete s
      { s.modPart p fun x => { x with xltGo := false } with
        tlb := s.tlb.filter fun e => !(e.named p (s.part p)), walks := s.walks.filter fun e => !(e.named p (s.part p)) })

/-- What the registers of the control window do with a read and a write, by their access codes (R6, R42 to R46, R49, R58, R59): an RW
field reads back what was written, the fields beside it as reserved ones do; W1C bits are cleared by ones; an RO register ignores a
write; a reserved range reads zero and ignores a write. -/
def Sys2Proof.Machine.RegisterCodes : Prop :=
  ∀ (s : State) (p : BitVec 2) (c q : BitVec 6) (off v m : Nat), s.bootStage = 5 → v < 2 ^ 64 → p.toNat < s.parts.length →
    let all := 2 ^ 64 - 1
    let readsBack := fun (off x : Nat) => (s.regWrite off v all).regRead off = some x
    let block := 0x1000000 + 0x400000 * p.toNat
    -- RW: DEV_FWLOAD.PTR and LEN, the nonce, PWR_CAP, the ring timeout, the MSI-X table, the times of a partition
    (off = 0x100 ∨ off = 0x108 ∨ (0x200 ≤ off ∧ off < 0x240 ∧ off % 8 = 0) → readsBack off v) ∧
    readsBack 0x10000 (v % 2 ^ 16) ∧ readsBack 0x20008 (v % 2 ^ 16) ∧ readsBack (block + 0x18) v ∧
    (Sparse.wf 0 s.msix = true → 0x40000 ≤ off → off < 0x48000 → off % 8 = 0 → readsBack off v) ∧
    -- of a queue, its ring and its write-back pointer; of a context, its root, its tables and its private space
    (Sparse.wf {} (s.part p).queues = true → off = 0x08 ∨ off = 0x10 → readsBack (block + 0x1000 + 256 * q.toNat + off) v) ∧
    (Sparse.wf {} (s.part p).ctxs = true → off = 0x08 ∨ off = 0x10 ∨ off = 0x18 ∨ off = 0x20 ∨ off = 0x28 →
      readsBack (block + 0x5000 + 64 * c.toNat + off) v) ∧
    -- one half written, the other stays
    (s.regWrite 0x100 (v % 2 ^ 32) (2 ^ 32 - 1)).regRead 0x100 = some (s.fwPtr.toNat / 2 ^ 32 * 2 ^ 32 + v % 2 ^ 32) ∧
    -- W1C: DEV_EVT, REFUSED of PWR_STATE, ERR of HOST_MWIN, whose other fields are RW
    s.regWrite 0x10 v all = { s with devEvt := s.devEvt &&& ~~~(BitVec.ofNat 64 v) } ∧
    s.regWrite 0x10008 v all = { s with pwrRefused := s.pwrRefused && !(v.testBit 12) } ∧
    readsBack (block + 0x7000) (v % 2 + 2 * ((s.part p).mwErr && !(v.testBit 1)).toNat + v / 2 ^ 10 * 2 ^ 10) ∧
    -- RO: identity, boot, versions, counters, reports; the clocks, the sensors; CXL ports; the lifetime record; traffic counters
    (off = 0 ∨ off = 0x08 ∨ off = 0x18 ∨ off = 0x20 ∨ (0x400 ≤ off ∧ off < 0xC00) ∨ (0x1000 ≤ off ∧ off < 0x2000) ∨ off = 0x10010 ∨
      (0x10040 ≤ off ∧ off < 0x10060) ∨ (0x30000 ≤ off ∧ off < 0x30080) ∨ (0x50000 ≤ off ∧ off < 0x60000) ∨
      (0x2000000 ≤ off ∧ off < 0x2014000) → s.regWrite off v m = s) ∧
    -- RSV: what R42 does not list, and what lies between the blocks
    ((0x28 ≤ off ∧ off < 0x100) ∨ (0x118 ≤ off ∧ off < 0x200) ∨ (0x248 ≤ off ∧ off < 0x400) ∨ (0xC00 ≤ off ∧ off < 0x1000) ∨
      (0x2000 ≤ off ∧ off < 0x10000) ∨ (0x48000 ≤ off ∧ off < 0x50000) ∨ (0x60000 ≤ off ∧ off < 0x1000000) →
      s.regRead off = some 0 ∧ s.regWrite off v m = s)

/-- Host accesses through an aperture (R46, R47): within a sector at once, and else a sector part at a time, in no order (R182). -/
def Sys2Proof.Machine.HostWindowRows : Prop :=
  ∀ s : State,
    let p := s.args.p
    let a := s.args.addr
    let i := s.args.i
    let ones := fun (n : Nat) => List.replicate n (0xFF : Byte)
    let rd : WindowAcc := { part := p, ctx := (s.part p).mwCtx, va := (s.part p).mwBase.toNat * 2 ^ 16 + a, size := s.args.size }
    let wr : WindowAcc := { rd with size := s.args.data.length, data := some s.args.data }
    let failed := fun (t : State) => t.modPart p fun y => { y with mwErr := true }
    (s.pkgState = 0 → s.args.flag = false → a + rd.size ≤ 2 ^ 36 →
      -- off: all ones, and nothing written
      ((s.part p).mwEn = false → Goes .hostMwinRead s { s with hostReply := some ⟨ones rd.size, false⟩ }) ∧
      ((s.part p).mwEn = true →
        -- on, within a sector, behind no write: the bytes at home, a poisoned completion, or all ones for a page that is missing
        (rd.parts = [(0, rd.size)] → (∀ y ∈ s.windows, y.data = none) →
          (∀ t key, s.windowKey rd.agent rd.va false = (t, some key) →
            let bad := t.poison.contains (key / 32) || t.farDead key
            (bad = false → Goes .hostMwinRead s { t with hostReply := some ⟨t.homeBytes key rd.size, false⟩ }) ∧
            (bad = true → Goes .hostMwinRead s { t.raiseEvt 4 with hostReply := some ⟨ones rd.size, true⟩ })) ∧
          (∀ t, s.windowKey rd.agent rd.va false = (t, none) →
            Goes .hostMwinRead s { failed t with hostReply := some ⟨ones rd.size, false⟩ })) ∧
        (1 < rd.parts.length ∨ (∃ y ∈ s.windows, y.data ≠ none) → Goes .hostMwinRead s { s with windows := s.windows ++ [rd] }))) ∧
    (s.pkgState = 0 → s.args.flag = false → a + wr.size ≤ 2 ^ 36 →
      ((s.part p).mwEn = false → Goes .hostMwinWrite s s) ∧
      ((s.part p).mwEn = true →
        (wr.parts = [(0, wr.size)] → (∀ y ∈ s.windows, y.data = none) →
          (∀ t key, s.windowKey wr.agent wr.va true = (t, some key) → Goes .hostMwinWrite s (t.writeHome key s.args.data)) ∧
          (∀ t, s.windowKey wr.agent wr.va true = (t, none) → Goes .hostMwinWrite s (failed t))) ∧
        (1 < wr.parts.length ∨ (∃ y ∈ s.windows, y.data ≠ none) → Goes .hostMwinWrite s { s with windows := s.windows ++ [wr] }))) ∧
    -- a sector part of an access that is under way, no write of the host standing before it
    (∀ x, s.args.flag = true → s.windows[i]? = some x → (∀ y ∈ s.windows.take i, y.data = none) → x.left ≠ [] →
      ∃ k, k ∈ x.left ∧ ∀ o n t, x.parts[k]? = some (o, n) →
        let next := fun (row : Instr) (u : State) (y : WindowAcc) => Goes row s (
          if y.left = [] then { u with windows := u.windows.eraseIdx i }.windowDone y
          else { u with windows := modifyAt (fun _ => y) u.windows i })
        let ended := fun (d : List Byte) => { x with did := x.did ++ [(k, d)] }
        (∀ key d, x.data = some d → s.windowKey x.agent (x.va + o) true = (t, some key) →
          next .hostMwinWrite (t.writeHome key ((d.drop o).take n)) (ended [])) ∧
        (∀ key, x.data = none → s.windowKey x.agent (x.va + o) false = (t, some key) →
          next .hostMwinRead t { ended (t.homeBytes key n) with
            poisoned := x.poisoned || t.poison.contains (key / 32) || t.farDead key }) ∧
        (s.windowKey x.agent (x.va + o) x.data.isSome = (t, none) →
          let u := t.modPart x.part fun y => { y with mwErr := true }
          next .hostMwinWrite u { ended [] with missing := true } ∧ next .hostMwinRead u { ended [] with missing := true })) ∧
    -- and the reply of a read whose parts are all performed
    (∀ (u : State) (y : WindowAcc), y.data = none →
      (y.missing = true → u.windowDone y = { u with hostReply := some ⟨ones y.size, false⟩ }) ∧
      (y.missing = false → y.poisoned = true → u.windowDone y = { u.raiseEvt 4 with hostReply := some ⟨ones y.size, true⟩ }) ∧
      (y.missing = false → y.poisoned = false → u.windowDone y =
        let d := (List.range y.parts.length).flatMap fun k => (y.did.lookup k).getD []
        { u with hostReply := some ⟨d, false⟩ }))

/-- Host reads and writes of registers, and of the memory window. The model's choice: a write of PART_CTL waits while the package is
asleep (log 70), a write through the window to an expander that does not respond lands, its bytes read poisoned and reads are in no order
(log 31), PART_XLTINV keeps its fields while GO reads 1 (log 33), and PART_HMINT answers while its partition is live alone (log 36). -/
def Obligations.RegisterEvents : Prop := RegisterRows ∧ RegisterCodes ∧ HostWindowRows

/-- Firmware images, attestation, the lifetime record (R42, R65, R66). The model's choice: GO is ignored while a load runs (log 66), what
a report and an entry hold (log 32), and a pointer that no image can be read from (log 84). -/
def Obligations.FirmwareEvents : Prop :=
  ∀ s : State,
    let idle := allParts.any (fun p => (s.part p).resident.isSome) = false
    (s.fwGo = false → idle → Goes .fwloadFirmware s { s with fwGo := true, fwKind := false }) ∧
    (s.fwGo = false → idle → Goes .fwloadConfiguration s { s with fwGo := true, fwKind := true }) ∧
    (s.fwGo = true → idle → Goes .fwloadFirmware s s ∧ Goes .fwloadConfiguration s s) ∧
    (¬ idle → Goes .fwloadFirmware s (s.raiseEvt 7) ∧ Goes .fwloadConfiguration s (s.raiseEvt 7)) ∧
    (s.fwGo = true → (s.fwLen.toNat < 4096 ∨ 2 ^ 25 < s.fwLen.toNat) → Goes .fwloadComplete s { s with fwGo := false, fwResult := 3 }) ∧
    (s.fwGo = true → (∃ t, Goes .fwloadComplete s t ∧ t.fwGo = false ∧ (t.fwResult.toNat ≤ 4) ∧ t.fwRollback = s.fwRollback ∧
      t.cfgRollback = s.cfgRollback ∧ (t.fwResult ≠ 0 → t.flashFw = s.flashFw ∧ t.flashCfg = s.flashCfg))) ∧
    -- an image of 4 KiB to 32 MiB that can be read: it is accepted with the signature and the version in order, and stands in the flash,
    -- whence the next boot takes it; else RESULT names the cause
    (let n := s.fwLen.toNat
     let a := s.fwPtr.toNat
     let img := s.host.bytes (a % 2 ^ 57) n
     let counter := if s.fwKind then s.cfgRollback else s.fwRollback
     let ends := fun (r : BitVec 8) => Goes .fwloadComplete s { s with fwGo := false, fwResult := r }
     s.fwGo = true → 4096 ≤ n → n ≤ 2 ^ 25 →
      ((hostPtr a = false ∨ a % 4096 ≠ 0 ∨ s.hostSilent (a % 2 ^ 57) n = true) → ends 4) ∧
      (hostPtr a = true → a % 4096 = 0 → s.hostSilent (a % 2 ^ 57) n = false →
        (Config.imageGood s.fwKind img = false → ends 1) ∧
        (Config.imageGood s.fwKind img = true → Config.imageVersion s.fwKind img < counter → ends 2) ∧
        (Config.imageGood s.fwKind img = true → counter ≤ Config.imageVersion s.fwKind img → Goes .fwloadComplete s { s with
          fwGo := false, fwResult := 0
          flashFw := if s.fwKind then s.flashFw else img
          flashCfg := if s.fwKind then img else s.flashCfg }))) ∧
    Goes .attestStart s { s with attGo := true } ∧
    (s.attGo = true → ∃ t, Goes .attestComplete s t ∧ t.attGo = false ∧ t.attReport.length ≤ 0x800 ∧
      t.attLen.toNat = t.attReport.length ∧ t.attReport.take 64 = leBytes 64 s.attNonce.toNat) ∧
    -- the counts are appended in signed blocks of up to 60 entries with rising numbers; a log that is full is merged first
    (let es := { s.lifeNow with thermalHours := s.thermalTime }.entries s.fwRollback.toNat s.cfgRollback.toNat
     let new := lifeBlocks es.length (s.lifeSeq + 1) es
     let old := if s.lifeCap < s.life.length + new.length then mergeLife s.life else s.life
     (old.length + new.length ≤ s.lifeCap → ∃ t, Goes .lifetimeAppend s t ∧ t.life = old ++ new ∧ t.lifeNow = {} ∧ t.lifeAt = s.cycle ∧
       t.lifeSeq = s.lifeSeq + new.length ∧
       (10 * s.life.length < 9 * s.lifeCap → 9 * s.lifeCap ≤ 10 * t.life.length → t.devEvt.getLsbD 8 = true)) ∧
     (s.lifeCap < old.length + new.length → Goes .lifetimeAppend s s) ∧
     new.flatMap (·.entries) = es ∧ new.map (·.seq) = (List.range new.length).map (s.lifeSeq + 1 + ·) ∧
     ∀ b, b ∈ new → b.entries.length ≤ 60 ∧ b.first = b.seq ∧ b.last = b.seq ∧
       b.signature = Config.signature (blockText b.seq b.first b.last b.entries))

/-! ## Events: memories, far tier, caches, requests (R17, R19, R45, R148, R176, R188) -/

/-- Memory errors, far sets, time-outs, evictions. That an uncorrectable error of an expander is counted under the event's package number
is the model's choice (log 85). -/
def Obligations.MemoryEvents : Prop :=
  ∀ s : State,
    let k := s.args.addr
    let i := s.args.i
    let v := s.args.val.toNat
    (s.args.flag = true → Goes .memoryErrorCorrected s (s.noteEcc false (64 + i))) ∧
    (s.args.flag = false → Goes .memoryErrorCorrected s { s.noteEcc false (i % 64) with
      jobs := s.jobs.map fun j =>
        -- an operation that has touched the sector (R221)
        if j.touched.any fun x => decide (x.1 ≤ k) && decide (k < x.1 + x.2) then { j with status := j.status ||| 4 } else j }) ∧
    (∃ t, Goes .memoryErrorUncorrectable s t ∧ t.poison.contains k = true ∧ t.devEvt.getLsbD 4 = true ∧ t.mem = s.mem) ∧
    -- a set is enabled where R45 allows it, and disabled where no page is mapped on it
    (i < 8 → v < 2 ^ 13 → (cxlSetOf v).en = true → (s.cxlSets.getD i {}).en = false → s.setAllowed i (cxlSetOf v) = true →
      Goes .cxlpSetEnable s { s with cxlSets := modifyAt (fun _ => cxlSetOf v) s.cxlSets i }) ∧
    (i < 8 → (cxlSetOf v).en = false → (s.cxlSets.getD i {}).en = true → s.setMapped (s.cxlSets.getD i {}) = false →
      Goes .cxlpSetDisable s { s with cxlSets := modifyAt (fun _ => cxlSetOf v) s.cxlSets i }) ∧
    (i < 8 → (cxlSetOf v).en = false → (s.cxlSets.getD i {}).en = true → s.setMapped (s.cxlSets.getD i {}) = true →
      Goes .cxlpSetDisable s (s.raiseEvt 7)) ∧
    ((s.cxlPorts.getD i {}).state = 2 → Goes .cxlExpanderTimeout s
      ({ s with cxlPorts := modifyAt (fun x => { x with state := 3 }) s.cxlPorts i }.raiseEvt 2)) ∧
    (∀ r, (s.exts.find? fun r => r.tag == i) = some r → r.peer = none → s.args.flag = true ∨ r.deadline ≤ s.cycle →
      Goes .hostCompletionTimeout s (s.extFail r .xlate 3 0)) ∧
    -- a line leaves a row cache, and nothing else changes; a line of a quad's atomic unit goes to its home slice
    Goes .rowCacheEviction s { s with cache := s.cache.filter fun c => !(c.core == s.args.core && c.sector / 4 == k) } ∧
    (∃ t, Goes .quadAtomicWriteback s t ∧ t.held = (s.held.filter fun h => !(h.quad == i && h.addr / 32 == k)) ∧
      (Memory.wf s.mem = true → Memory.wf t.mem = true ∧
        (∀ h ∈ s.held, h.quad = i → h.addr / 32 = k → (∀ x ∈ s.held, x.quad = i → x.addr = h.addr → x.byte = h.byte) →
          t.mem.byte h.addr = h.byte) ∧
        ∀ a, (∀ h ∈ s.held, h.quad = i → h.addr / 32 = k → h.addr ≠ a) → t.mem.byte a = s.mem.byte a))

/-! ## Events: links (R25, R26, R28 to R33, R44) -/

/-- Sessions (R28, R29, R32): OPEN asks the peer, CLOSE tells it and keeps the generation. -/
def Sys2Proof.Machine.SessionRows : Prop :=
  ∀ s : State,
    let i := s.args.i
    let p := s.args.p
    let e := (s.part p).session i
    let dev : BitVec 8 := BitVec.ofNat 8 i
    let asked := s.modSession p i fun x => { x with state := 1, open_ := true }
    let closed := s.modSession p i fun x => { x with state := 0, open_ := false }
    i < 256 →
    (e.state = 1 ∨ e.state = 2 → Goes .sessionOpen s (s.modSession p i fun x => { x with open_ := true })) ∧
    (e.state ≠ 1 → e.state ≠ 2 →
      (∀ pl, asked.plane dev 0 = some pl → Goes .sessionOpen s (asked.sendMsg pl dev 2 e.gen (.openSession e.part e.gen false))) ∧
      -- no plane reaches the peer: it is lost
      (asked.plane dev 0 = none → Goes .sessionOpen s (asked.peerLost p dev))) ∧
    (e.state ≠ 1 → e.state ≠ 2 → Goes .sessionClose s closed) ∧
    (e.state = 1 ∨ e.state = 2 →
      (∀ pl, s.plane dev 0 = some pl → Goes .sessionClose s (closed.sendMsg pl dev 2 e.gen (.closeSession e.part))) ∧
      (s.plane dev 0 = none → Goes .sessionClose s closed)) ∧
    -- a closed entry has state 0 and its old generation, in a session table in its one form, which a write keeps
    (∃ t, Goes .sessionClose s t ∧ t.parts = closed.parts ∧ (Sparse.wf {} (s.part p).sessions = true →
      ((t.part p).session i).state = 0 ∧ ((t.part p).session i).gen = e.gen)) ∧
    (∀ f : Session → Session, Sparse.wf {} (s.part p).sessions = true → Sparse.wf {} ((s.modSession p i f).part p).sessions = true)

/-- Flits at an enabled port that is up (R23, R25): which are delivered, and what is answered. -/
def Sys2Proof.Machine.FlitRows : Prop :=
  ∀ (s : State) (f : Flit),
    let i := s.args.i
    let x := s.port i
    s.args.flit = some f → x.state = 2 → x.en = true →
    let refused := s.sendMsg i f.src 2 0 (.nak x.rxSeq)
    -- one whose CRC fails, or that skips a number, is answered by a NAK of the number awaited
    (flitSound f = false → Goes .flitReceive s refused) ∧
    (flitSound f = true → f.seq ≠ x.rxSeq → (f.seq - x.rxSeq).toNat < 2 ^ 31 → Goes .flitReceive s refused) ∧
    -- one that has come before is not delivered again, nor are its credits taken
    (flitSound f = true → 2 ^ 31 ≤ (f.seq - x.rxSeq).toNat → Goes .flitReceive s (s.takeAck i f.ack)) ∧
    -- one in order is taken: acknowledgement, credits, messages, and its own credit goes back; another type is dropped
    (flitSound f = true → f.seq = x.rxSeq →
      let t := s.modPort i fun x => { x with rxSeq := x.rxSeq + 1 }
      let u := f.msgs.foldl (fun t m => t.deliverMsg i f m) ((t.takeAck i f.ack).takeCredit i f.credit)
      (f.type = 3 → Goes .flitReceive s u) ∧
      (f.type = 1 ∨ f.type = 2 ∨ f.type = 4 → Goes .flitReceive s (u.oweCredit i (f.vc.toNat % 16))) ∧
      (f.type = 0 ∨ 4 < f.type.toNat → Goes .flitReceive s t))

/-- Messages (R30): a request is performed, and a response completes its request, only where the entry for the sender is open, has the
message's generation and names the context that the message targets; any other is dropped whole, and counted. A request within a sector is
performed at once, and the sector parts of another one at a time, each whole (R24, R182), in no order. -/
def Sys2Proof.Machine.MessageRows : Prop :=
  ∀ (s : State) (i : Nat) (f : Flit) (tag : Nat) (p : BitVec 2) (c : BitVec 6),
    let open_ := fun (q : BitVec 2) =>
      let e := (s.part q).session f.src.toNat
      e.state = 2 ∧ e.gen = f.gen ∧ e.part = p ∧ e.ctx = c
    let dropped := s.modPort i fun x => { x with drops := x.drops + 1 }
    (∀ addr op, f.type = 1 → ¬open_ p → s.deliverMsg i f (.request tag p c addr op) = dropped) ∧
    (∀ addr op, f.type = 1 → open_ p →
      let x : Inbound := { port := i, dev := f.src, gen := f.gen, tag := tag, part := p, ctx := c, addr := addr, op := op }
      (x.parts = 1 → s.mayServe x s.inbox = true →
        (∀ t d, s.servePart x 0 = (t, .ok d) → (t.port i).alive = true →
          s.deliverMsg i f (.request tag p c addr op) = t.sendMsg i f.src 1 f.gen (.response tag p c 0 (addr.toNat % 32) d)) ∧
        (∀ t e, s.servePart x 0 = (t, .error e) → (t.port i).alive = true →
          s.deliverMsg i f (.request tag p c addr op) = t.sendMsg i f.src 1 f.gen (.response tag p c e.status 0 []))) ∧
      (1 < x.parts ∨ s.mayServe x s.inbox = false → s.deliverMsg i f (.request tag p c addr op) = { s with inbox := s.inbox ++ [x] })) ∧
    -- a part of a request that waits, and with the last one the answer
    (∀ x k, s.args.flit = none → s.args.flag = true → s.inbox[s.args.i]? = some x → s.mayServe x (s.inbox.take s.args.i) = true →
      x.left = k :: x.left.tail → ∃ n, n ∈ x.left ∧ ∀ t r, s.servePart x n = (t, r) →
        let y := match r with
          | .ok d => { x with did := x.did ++ [(n, d)] }
          | .error e => { x with bad := x.bad ++ [(n, e.status)] }
        Goes .flitReceive s (if y.left = [] then { t with inbox := t.inbox.eraseIdx s.args.i }.answerPeer y
          else { t with inbox := modifyAt (fun _ => y) t.inbox s.args.i })) ∧
    -- what a part does: a read takes the bytes at home, a write its masked bytes of a sector or none
    (∀ (x : Inbound) k t,
      let ag : Agent := { part := x.part, ctx := x.ctx }
      (∀ n o m pl, x.op = .read n → (partsOf x.ptr n)[k]? = some (o, m) → s.place ag .load x.ptr o m n = (t, .ok pl) →
        s.servePart x k = (t, .ok (t.readPlace 32 pl m))) ∧
      (∀ masks d, x.op = .write masks d →
        let at_ := State.runPlaces ag (x.ptr / 32 * 32 + 32 * k) (maskRuns (masks.getD k 0)) s
        (∀ ps, at_ = (t, .ok ps) → s.servePart x k =
          (ps.foldl (fun t y => t.writePlace y.1 ((((d.drop (32 * k)).take 32).drop y.2.1).take y.2.2)) t, .ok [])) ∧
        (∀ e, at_ = (t, .error e) → s.servePart x k = (t, .error e)))) ∧
    -- no request reaches the barriers of a context that is being exchanged (R111)
    (∀ (x : Inbound) fn k arg n before, x.op = .barrier fn k arg → (s.part x.part).switch = .exchanging n →
      (s.part x.part).resident = some x.ctx ∨ n = some x.ctx → s.mayServe x before = false) ∧
    (∀ r v lead d, f.type = 2 → (s.exts.find? fun r => r.tag == tag && r.peer == some f.src) = some r →
      (¬open_ r.part → s.deliverMsg i f (.response tag p c v lead d) = dropped) ∧
      (open_ r.part → v = 0 → s.deliverMsg i f (.response tag p c v lead d) = s.extAnswer r d))

/-- Ports that retrain, go down and come up (R25, R26, R44, R66), and peers that do not answer (R32). -/
def Sys2Proof.Machine.PortRows : Prop :=
  ∀ s : State,
    let i := s.args.i
    let x := s.port i
    let far := (BitVec.ofNat 8 s.args.val.toNat, s.planes.getD i 18)
    (s.args.flag = false → x.state = 3 →
      Goes .linkRetrainComplete s (((s.modPort i fun x => { x with state := 2 }).pump i).raiseEvt 3)) ∧
    (s.args.flag = false → x.state ≠ 3 → Goes .linkRetrainComplete s s) ∧
    -- a CXL port or the host link has retrained: the lifetime record counts it
    (s.args.flag = true → i < 8 → Goes .linkRetrainComplete s (s.noteRetrain (32 + i))) ∧
    (s.args.flag = true → i = 8 → Goes .linkRetrainComplete s (s.noteRetrain 64)) ∧
    -- a port that is down is left for the next plane up
    (s.args.flag = false → x.en = true → x.state = 2 ∨ x.state = 3 → Goes .stayPortDown s (s.portDown i 1)) ∧
    (s.args.flag = false → x.en = false ∨ x.state = 0 ∨ x.state = 1 → Goes .stayPortDown s s) ∧
    (s.args.flag = true → Goes .stayPortDown s (s.farPortDown i far.1)) ∧
    (s.args.flag = false → x.en = true → x.state = 1 → ∃ t, Goes .stayPortTrained s t ∧ (i < s.ports.length → (t.port i).state = 2)) ∧
    (s.args.flag = false → x.en = false ∨ x.state ≠ 1 → Goes .stayPortTrained s s) ∧
    (s.args.flag = true → Goes .stayPortTrained s { s with peerDown := s.peerDown.filter (· != far) }) ∧
    -- a peer that does not answer within the ring timeout is lost
    (∀ r dev, (s.exts.find? fun r => r.tag == i) = some r → r.peer = some dev →
      (r.deadline ≤ s.cycle → Goes .peerRingTimeout s (s.peerLost r.part dev)) ∧ (s.cycle < r.deadline → Goes .peerRingTimeout s s))

/-- The link events complete: sessions, flits, messages and ports. The model's choice: how messages are carried (log 8), and the unit
numbers 32 and on, and 64, under which retraining is counted in the lifetime record (log 32). -/
def Obligations.LinkEvents : Prop := SessionRows ∧ FlitRows ∧ MessageRows ∧ PortRows

/-! ## Events: queues and records (R49 to R56, R70 to R77) -/

/-- Enabling, resuming, disabling and notifying a queue. That the SEQ of a stop for a full ring is HEAD + 1 is the model's choice (log
64). -/
def Obligations.QueueEvents : Prop :=
  ∀ s : State,
    let p := s.args.p
    let q := s.args.q
    let x := (s.part p).queue q
    let v := s.args.val.toNat
    -- EN from 0 to 1 takes the fields and starts from HEAD and TAIL 0
    (x.en = false → v.testBit 0 = true → x.fetch = .idle →
      Goes .queueEnable s (s.modQueue p q fun y =>
        { y with irqEvery := BitVec.ofNat 8 (v / 2 ^ 16), ctx := BitVec.ofNat 6 (v / 2 ^ 10), priMax := BitVec.ofNat 3 (v / 2 ^ 7)
                 logSize := BitVec.ofNat 5 (v / 2), en := true, head := 0, tail := 0, halted := false, irqCount := 0, fetch := .idle })) ∧
    -- a stopped queue goes on, unless more records are left than its ring holds
    (x.en = true → x.halted = true → x.fetch = .idle →
      let t := s.modQueue p q fun y => { y with halted := false, fetch := .idle }
      Goes .queueResume s (if (x.tail - x.head).toNat ≤ 2 ^ x.log then t else t.stopQueue p q 1 (x.head + 1))) ∧
    (x.en = true → x.fetch = .idle → Sparse.wf {} (s.part p).queues = true →
      Goes .queueDisable s (s.modQueue p q fun y => { y with en := false, tail := 0, fetch := .idle })) ∧
    Goes .hqStatusClear s (s.modQueue p q fun y => { y with err := 0, stopped := false, stSeq := 0 }) ∧
    -- TAIL: taken by an enabled queue; more records than the ring holds stop it with error 1
    (s.args.flag = false → s.pkgState = 0 → s.args.addr = 0 →
      let t := { s with ps2 := s.ps2 &&& ~~~(s.part p).dies }
      let tail : BitVec 32 := BitVec.ofNat 32 v
      (x.en = false → Goes .queueNotify s t) ∧
      (x.en = true → x.halted = false → (tail - x.head).toNat ≤ 2 ^ x.log →
        Goes .queueNotify s (t.modQueue p q fun y => { y with tail := tail })) ∧
      (x.en = true → x.halted = false → 2 ^ x.log < (tail - x.head).toNat →
        Goes .queueNotify s ((t.modQueue p q fun y => { y with tail := tail }).stopQueue p q 1 (x.head + 1)))) ∧
    -- the queue table in its one form, which a write keeps
    (∀ f : Queue → Queue, Sparse.wf {} (s.part p).queues = true → Sparse.wf {} ((s.modQueue p q f).part p).queues = true)

/-- The start of a copy record (R53, R74): each Sheet of the launch's dies takes every n-th chunk of 4 KiB, n the number of Sheets. -/
def Sys2Proof.Machine.CopyStarts : Prop :=
  ∀ s : State,
    let p := s.args.p
    let q := s.args.q
    (∀ r, s.startable p q = some r → r.kind = 1 →
      let t := (if r.waits.any (fun w => w.1 != 0) then s.dropCaches p else s).consume p q
      let l : Launch :=
        { id := t.nextId, part := p, ctx := ((s.part p).queue q).ctx, queue := some q, record := r, prio := r.prio, started := s.cycle,
          starve := s.cycle }
      let u := { t with nextId := t.nextId + 1, launches := t.launches ++ [l] }
      let ks := coresOf (u.launchDies l)
      Goes .recordStart s ((List.range ks.length).foldl
        (fun v i => v.copyShare u.locks l (ks.getD i 0) i ks.length ((r.count + 4095) / 4096)) u)) ∧
    (∀ earlier l k i n chunks,
      (chunks ≤ i → s.copyShare earlier l k i n chunks = s) ∧
      (i < chunks → ∃ j, (s.copyShare earlier l k i n chunks).jobs.getLast? = some j ∧ j.kind = .copyRecord ∧ j.core = k ∧
        j.part = l.part ∧ j.ctx = l.ctx ∧ j.launch = l.id ∧ j.dst = l.record.arg ∧ j.src = l.record.entry ∧ j.len = l.record.count ∧
        j.tA = i ∧ j.tB = n ∧ j.total = (chunks - i + n - 1) / n ∧ j.prio = l.record.prio / 2))

/-- The signal of a record whose work is complete (R54): its increment is added to the event word, which those that wait for the word
read again (R75); a signal that cannot be applied stops the queue with code 0x08. -/
def Sys2Proof.Machine.SignalRows : Prop :=
  ∀ (s : State) (l : Launch),
    let ptr := l.record.signal.1.toNat
    (∀ k, s.launch? s.args.i = some l → l.queue = some k → s.workDone l = true →
      (s.exts.any fun r => r.use == 9 && r.job == l.id) = false → l.record.signal.1 ≠ 0 → (s.ctx l.part l.ctx).state ≠ .killed →
      l.copyStatus.getLsbD 9 = false → (l.record.kind ≠ 1 ∨ l.copyStatus &&& 0x42B = 0) →
      Goes .recordSignal s ((s.writeBacks l.part).signalAdd l)) ∧
    (∀ u e, s.places (mastAgent l.part l.ctx) .atomic ptr 8 = (u, .error e) → s.signalAdd l = u.signalFailed l.id) ∧
    (∀ u key, s.places (mastAgent l.part l.ctx) .atomic ptr 8 = (u, .ok [(.mem key, 8)]) →
      let old := leNat (u.readPlace 32 (.mem key) 8)
      s.signalAdd l =
        ((u.writeHome key (leBytes 8 (old + l.record.signal.2.toNat))).nudge (.mem key) 8).dropLaunch l.id) ∧
    (∀ k, s.launch? l.id = some l → l.queue = some k →
      s.signalFailed l.id = (s.dropLaunch l.id).failQueue l.part k l.ctx 8 l.record.seq 0)

/-- A record that can never be placed stops its queue with the code of its demand (R85): 3 where one workgroup exceeds an empty core, 4
where a COOP_DIE launch exceeds its dies, 5 where a COOP_QUAD group exceeds a quad's accumulators. -/
def Sys2Proof.Machine.RefusalRows : Prop :=
  ∀ s : State,
    let p := s.args.p
    let q := s.args.q
    let x := (s.part p).queue q
    (∀ t bs code, x.fetch = .payload →
      s.mastRead x.ctx (x.slot + 4) 252 { tag := 0, part := p, use := 10, job := q.toNat } = (t, .bytes bs) →
      let raw := leBytes 4 (x.head + 1).toNat ++ bs
      let r := recordOf raw
      let dies := (s.part p).dies.toNat
      recordOk raw x.priMax.toNat dies (s.ctx p x.ctx).expertEn = true →
      refusalOf r (diesOf (if r.dieMask = 0 then dies else r.dieMask.toNat &&& dies)).length = some code →
      Goes .recordPayloadReturn s (t.failQueue p q x.ctx code (x.head + 1) 0)) ∧
    (∀ (r : LaunchRec) (n : Nat), r.kind = 0 →
      (refusalOf r n = some 3 ↔ r.tmpl.fits = false) ∧
      (refusalOf r n = some 4 ↔ r.tmpl.fits = true ∧ r.coopDie = true ∧ diesHold r.tmpl n (r.gx * r.gy * r.gz) = false) ∧
      (r.coopDie = false →
        (refusalOf r n = some 5 ↔ r.tmpl.fits = true ∧ r.coopQuad = true ∧ 256 < 4 * r.tmpl.accDemand)))

def Sys2Proof.Machine.RecordRows : Prop :=
  ∀ s : State,
    let p := s.args.p
    let q := s.args.q
    let x := (s.part p).queue q
    -- the next queue of the round robin reads the SEQ of its next record
    (∀ k, s.fetchTurn p = some k →
      let y := (s.part p).queue k
      (y.base.toNat / 2 ^ 60 = 3 ∨ y.base.toNat / 2 ^ 60 = 4) → y.base.toNat % 256 = 0 →
      Goes .recordFetch s ((s.modPart p fun z => { z with rr := k }).modQueue p k fun z => { z with fetch := .seqRead 0 0 false })) ∧
    -- SEQ: a match goes on with the record; else the queue polls, first after 100 ns, and then after twice the time up to 6.4 µs
    (∀ d st b t bs, x.fetch = .seqRead d st b →
      s.mastRead x.ctx x.slot 4 { tag := 0, part := p, use := 10, job := q.toNat } = (t, .bytes bs) →
      Goes .seqReadReturn s (t.modQueue p q fun y =>
        { y with
          fetch := if leNat bs = (x.head + 1).toNat then .payload
            else if d = 0 then .retry (s.cycle + 170) 170 s.cycle b
            else .retry (s.cycle + min 10880 (2 * d)) (min 10880 (2 * d)) st b })) ∧
    (∀ at_ d st b, x.fetch = .retry at_ d st b → at_ ≤ s.cycle →
      Goes .seqRetryTimer s (s.modQueue p q fun y => { y with fetch := .seqRead d st b })) ∧
    (∀ at_ d st, x.fetch = .retry at_ d st false → st + 1000 * Config.cyclesPerUs ≤ s.cycle →
      Goes .seqStallTimeout s ((s.modQueue p q fun y => { y with fetch := .retry at_ d st true }).raiseEvt 5)) ∧
    -- the record: malformed ones stop the queue with error 2, the others wait
    (∀ t bs, x.fetch = .payload → s.mastRead x.ctx (x.slot + 4) 252 { tag := 0, part := p, use := 10, job := q.toNat } = (t, .bytes bs) →
      let raw := leBytes 4 (x.head + 1).toNat ++ bs
      let ok := recordOk raw x.priMax.toNat (s.part p).dies.toNat (s.ctx p x.ctx).expertEn
      let r := recordOf raw
      let dies := (s.part p).dies.toNat
      (ok = false → Goes .recordPayloadReturn s (t.failQueue p q x.ctx 2 (x.head + 1) 0)) ∧
      (ok = true → refusalOf r (diesOf (if r.dieMask = 0 then dies else r.dieMask.toNat &&& dies)).length = none →
        Goes .recordPayloadReturn s ((t.modQueue p q fun y =>
          { y with fetch := .waiting r (r.waits.map fun w => w.1 == 0 || w.2 == 0) s.cycle }).pollWaits p q))) ∧
    (s.pollDue p q = true → Goes .recordWaitPoll s (s.pollWaits p q)) ∧
    -- a record whose waits are met starts: HEAD advances, and the launch is known
    (∀ r, s.startable p q = some r → r.kind ≠ 1 →
      let t := (if r.waits.any (fun w => w.1 != 0) then s.dropCaches p else s).consume p q
      Goes .recordStart s { t with nextId := t.nextId + 1, launches := t.launches ++
        [{ id := t.nextId, part := p, ctx := x.ctx, queue := some q, record := r, prio := r.prio, started := s.cycle, starve := s.cycle }] }) ∧
    -- a launch that is done, without a signal, is forgotten behind the write-back of its partition's quads
    (∀ l k, s.launch? s.args.i = some l → l.queue = some k → s.workDone l = true →
      (s.exts.any fun r => r.use == 9 && r.job == l.id) = false → l.record.kind ≠ 1 → l.record.signal.1 = 0 →
      Goes .recordSignal s ((s.writeBacks l.part).dropLaunch l.id)) ∧
    -- the signal of a killed context's record, or of a cancelled copy record, is not applied; an error of a copy record stops its queue
    (∀ l k, s.launch? s.args.i = some l → l.queue = some k → s.workDone l = true →
      (s.exts.any fun r => r.use == 9 && r.job == l.id) = false →
      let bad := l.copyStatus &&& 0x42B
      (l.record.kind ≠ 1 ∨ bad = 0 → (s.ctx l.part l.ctx).state = .killed ∨ l.copyStatus.getLsbD 9 = true →
        Goes .recordSignal s ((s.writeBacks l.part).dropLaunch l.id)) ∧
      (l.record.kind = 1 → bad ≠ 0 → Goes .recordSignal s
        (((s.writeBacks l.part).dropLaunch l.id).failQueue l.part k l.ctx 9 l.record.seq (l.copyStatus.toNat % 2 ^ 11))))

/-- Fetching, checking, starting and signalling records. When a copy record's locks are taken, and that accesses of the Mast meet none, is
the model's choice (log 63). -/
def Obligations.RecordEvents : Prop := RecordRows ∧ CopyStarts ∧ SignalRows ∧ RefusalRows

/-! ## Events: placement (R80 to R87, R92) -/

/-- Placement, reservations and releases. The model's choice: a drain reservation weighs the cores of dies without a reservation alone
(log 86), the order of R81 is taken anew at each placement (log 92), and log 27. -/
def Obligations.PlacementEvents : Prop :=
  ∀ s : State,
    let p := s.args.p
    -- the first launch in the order of R81 that places something does
    (∀ l ls t, (s.noteStuck p).placeOrder p = l :: ls → (s.noteStuck p).placeNext l = some t → Goes .workgroupPlace s t) ∧
    -- where the launches before it in that order place nothing, a later one may
    (∀ ls m ms t, (s.noteStuck p).placeOrder p = ls ++ m :: ms → (∀ k ∈ ls, (s.noteStuck p).placeNext k = none) →
      (s.noteStuck p).placeNext m = some t → Goes .workgroupPlace s t) ∧
    ((s.noteStuck p).placeFirst ((s.noteStuck p).placeOrder p) = none → Goes .workgroupPlace s (s.noteStuck p)) ∧
    -- 100 µs without a core: the core with the greatest ratio is reserved
    (∀ l x k, s.drainDue p = some (l, x) → l.record.coopQuad = false →
      s.bestRatio l.record.tmpl ((s.candidateCores l x).filter fun k => !s.dieReserved (dieOf k)) = some k →
      Goes .drainReservation s { s with reservations := s.reservations ++ [⟨BitVec.ofNat 2 (dieOf k), l.id, some k⟩] }) ∧
    -- where a core is reserved for it a workgroup goes there and nowhere else, as soon as it fits, and the reservation ends (R82)
    (∀ l x k, l.next = some x → l.record.coopDie = false → l.record.coopQuad = false ∨ x.was ≠ none → s.reservedFor l x = some k →
      s.placeNext l = if s.coreFits k l.record.tmpl then some (s.placeOn l x k) else none) ∧
    (∀ l x k, (s.placeOn l x k).reservations = s.reservations.filter fun r => !(r.launch == l.id && r.core == some k)) ∧
    (∀ l, s.coopDue p = some l → Goes .coopDieReserve s
      { s with reservations := s.reservations ++ (diesOf (s.launchDies l)).map fun d => ⟨BitVec.ofNat 2 d, l.id, none⟩ }) ∧
    -- an exited warp gives up its registers, and its accumulators once its MMAs are complete; a workgroup that is over goes
    (∀ w, s.args.flag = false → s.warp? s.args.i = some w → w.exited = true →
      Goes .resourceRelease s (s.modWarp w.id fun x => { x with
        reserved := false, accsReserved := x.accsReserved && s.jobs.any fun j => j.kind == .mma && j.warp == w.id })) ∧
    (∀ g, s.args.flag = true → s.wg? s.args.i = some g → (∀ w ∈ s.warpsOf g.id, w.exited = true) → (∀ j ∈ s.jobs, j.wg ≠ g.id) →
      Goes .resourceRelease s (s.removeWg g).dropStale) ∧
    -- a bin's time is the one that its context had when it was opened
    (∀ b, s.bins[s.args.i]? = some b → 17 * b.flushNs ≤ 10 * (s.cycle - b.first) →
      Goes .packFlushTimeout s (s.flushBin b))

/-! ## Events: warps (R97, R210, R256, R257, R281, R284, R300) -/

/-- Results land, stores settle, splits wake. A SLEEP does not end before its time; that a split's readiness counts from the cycle behind
the event that wakes it is the model's choice (log 39). -/
def Obligations.WarpEvents : Prop :=
  ∀ s : State,
    let i := s.args.i
    let id : SplitId := ⟨i, s.args.split.toNat⟩
    -- an access that crosses sectors reads, or is performed, a sector at a time
    (∀ w, s.warp? i = some w → w.landable s.args.addr = true →
      (w.partsLeft s.args.addr ≤ 1 →
        Goes .resultLands s (State.landFixed w.pending.length w.id
          (match w.pending[s.args.addr]? with
            -- an acquire over several sectors, for whose outcome its split waits (R193)
            | some x => if x.acq.isSome then (s.landAt w.id s.args.addr).laneOutcome ⟨w.id, x.split⟩ (match x.dest with
                | .slices l _ _ => l
                | _ => 32) none
              else s.landAt w.id s.args.addr
            | none => s.landAt w.id s.args.addr))) ∧
      (1 < w.partsLeft s.args.addr → Goes .resultLands s (s.bindPart w.id s.args.addr))) ∧
    (∀ w g, s.warp? i = some w → s.wg? w.wg = some g → s.settleable w g s.args.addr = true →
      Goes .storeSettled s (((s.settlePart w.id s.args.addr).unpark w.id).tryExit w.id)) ∧
    (∀ w p, s.warp? i = some w → w.split id.split = some p →
      -- 64 cycles after a YIELD, and when a SLEEP's time is over, the split goes on
      (∀ d os, p.wait = .yield d os → d ≤ s.cycle →
        Goes .yieldTimeout s (s.resume id fun p => p.goOn (s.cycle + 1))) ∧
      (∀ d, p.wait = .sleep d → d ≤ s.cycle → Goes .sleepExpiry s (s.resume id fun p => p.wake (s.cycle + 1))) ∧
      (∀ d, p.wait = .sleep d → s.cycle < d → Goes .sleepExpiry s s) ∧
      (s.liftDue w p = true → Goes .splitLift s (s.modSplit ⟨w.id, id.split⟩ fun p => { p with lifted := true }))) ∧
    (∀ c q v, s.waitingIssue i id.split = some c → c.p.wait = .waite q v → s.waiteDue c = true →
      Goes .waitePoll s (s.readEvent c q.toNat v.toNat))

/-! ## Events: tables and engines (R139, R159, R167 to R169, R177 to R180, R348, R393 to R396) -/

/-- Mutations, lookups that read again, retirement. That a mutation writes its row, and then one node a step, is the model's choice (log
81), as is when a lookup reads again (log 61). -/
def Obligations.TableEvents : Prop :=
  ∀ s : State,
    let k := s.args.i
    -- the first mutation of a stripe: one that changes no index is applied, and its lane answered
    (∀ r, s.tableReqs[k]? = some r → s.nextMutation k = true →
      let ag := s.reqAgent r
      let keep := fun (t : State) (w : TableWork) =>
        Goes .halyardCommit s { t with tableReqs := modifyAt (fun q => { q with work := some w }) t.tableReqs k }
      let ends := fun (t : State) (v : Bool) (ref : Option Nat) => Goes .halyardCommit s
        ({ t with tableReqs := removeAt t.tableReqs k }.tableEnd r (.ok ((match ref with
          | some a => [(Dest.slices r.lane r.dest 16, a)]
          | none => []) ++ [(Dest.pred r.lane r.pred, v.toNat)])))
      -- one that fails leaves its stripe as it was
      let fails := fun (e : TErr) =>
        Goes .halyardCommit s (({ s with tableReqs := removeAt s.tableReqs k }.undoWork ag r).tableEnd r (.error e))
      (∀ t e, r.work = none → s.mutation ag r.binding r.op r.key = (t, .error e) → fails e) ∧
      (∀ t d m, r.work = none → s.mutation ag r.binding r.op r.key = (t, .ok (d, m)) → m.plan = none →
        (∀ u v ref, s.mutate ag r.binding r.op r.key = (u, .ok (v, ref)) → ends u v ref) ∧
        (∀ u e, s.mutate ag r.binding r.op r.key = (u, .error e) → fails e)) ∧
      -- one that does is taken in steps: its row, its node writes in their order, the commit
      (∀ t d m x, r.work = none → s.mutation ag r.binding r.op r.key = (t, .ok (d, m)) → m.plan = some x →
        (∀ u w, t.beginWork ag d r.key x = (u, .ok w) → keep u w) ∧ (∀ u e, t.beginWork ag d r.key x = (u, .error e) → fails e)) ∧
      (∀ w y ys t d, r.work = some w → w.todo = y :: ys → s.readDesc ag (tbPtr r.binding) = (t, .ok d) →
        (∀ u, t.workNode ag d y = (u, .ok ()) → keep u { w with todo := ys }) ∧ (∀ u e, t.workNode ag d y = (u, .error e) → fails e)) ∧
      (∀ w t d, r.work = some w → w.todo = [] → s.readDesc ag (tbPtr r.binding) = (t, .ok d) →
        (∀ u, t.commitWork ag d (d.stripeOf r.key) w = (u, .ok ()) → ends u true w.ref) ∧
        (∀ u e, t.commitWork ag d (d.stripeOf r.key) w = (u, .error e) → fails e))) ∧
    -- what a mutation begins with: the row of an insert is written, and the nodes are still to be, each under an odd version (R164, R167)
    (∀ (t u : State) (ag : Agent) (d : TDesc) (key : Nat) (x : Plan) (w : TableWork), t.beginWork ag d key x = (u, .ok w) → w.ref = x.row ∧ w.todo = x.nodes.flatMap fun n =>
      if n.version = 0 then [(n.n, 1024, leNat n.bytes)] else [(n.n, 8, n.version - 1), (n.n, 1024, leNat n.bytes)]) ∧
    -- a lookup, past its handle check, reads its nodes again; after 64 reads the Halyard resolves it between two commits
    (∀ r, s.lookups[k]? = some r →
      let s1 := { s with lookups := removeAt s.lookups k }
      let ag := s1.reqAgent r
      let force := decide (64 ≤ r.retries) && !(s.tableReqs.any fun q =>
        q.work.isSome && q.part == r.part && q.ctx == r.ctx && tbPtr q.binding == tbPtr r.binding)
      -- an acquire takes place again with the step
      let s2 := match r.acq with
        | some sc => s1.acquire r.core sc
        | none => s1
      ∀ t d, s2.readDesc ag (tbPtr r.binding) = (t, .ok d) →
      (∀ u ds, t.lookupIn ag r force d = (u, .ok ds) → Goes .nodeReadRetry s (u.tableEnd r (.ok ds))) ∧
      (∀ u e, e ≠ .retry → t.lookupIn ag r force d = (u, .error e) → Goes .nodeReadRetry s (u.tableEnd r (.error e))) ∧
      (∀ u, t.lookupIn ag r force d = (u, .error .retry) →
        Goes .nodeReadRetry s { u with lookups := u.lookups ++ [{ r with retries := r.retries + 1 }] })) ∧
    -- a table retires once the mutations received have committed
    (∀ p c ptr, s.retiring[k]? = some (p, c, ptr) →
      let mine := fun (r : TableReq) => r.part == p && r.ctx == c && tbPtr r.binding == ptr
      ((s.tableReqs.any mine || s.lookups.any mine) = false →
        Goes .tableRetire s ({ s with retiring := removeAt s.retiring k }.retire p c ptr)) ∧
      ((s.tableReqs.any mine || s.lookups.any mine) = true → Goes .tableRetire s s))

def Sys2Proof.Machine.EngineRows : Prop :=
  ∀ (s : State) (j : Job), (s.jobs.find? fun j => j.id == s.args.i) = some j →
    -- a Sheet or Jib does the next chunk of the operation it serves
    (s.sheetServes j = true → j.kind ≠ .copyRecord → j.clash.contains j.next = false →
      Goes .sheetChunkComplete s (State.runChunk 5000 j.id s)) ∧
    -- the chunks of a copy record: none once its record has stopped; one that met earlier locks moves nothing (R428)
    (s.sheetServes j = true → j.kind = .copyRecord →
      (∀ l, s.launch? j.launch = some l → s.recordStopped j = ((l.copyStatus &&& 0x42B) != 0)) ∧
      (s.recordStopped j = true → Goes .sheetChunkComplete s (s.modJob j.id fun j => { j with done := true })) ∧
      (s.recordStopped j = false →
        let t := if j.clash.contains j.next then s.stopJob j.id 10 else State.runChunk 5000 j.id s
        Goes .sheetChunkComplete s (t.modLaunch j.launch fun l =>
          { l with copyStatus := l.copyStatus ||| ((t.jobs.find? fun k => k.id == j.id).elim 0 (·.status)) }))) ∧
    -- a Mainsail grants an ADRN or AFILL whole, an MMA up to four passes
    (j.kind.unit = 2 → (s.mainsailPick j.place).map (·.id) = some j.id → j.status.getLsbD 10 = false →
      let t := s.modJob j.id fun j => { j with since := s.cycle }
      (j.kind = .adrn → Goes .mainsailGrant s (t.runAdrn j)) ∧
      (j.kind = .afill → Goes .mainsailGrant s (t.runAfill j)) ∧
      (j.kind = .mma → ∃ n, 1 ≤ n ∧ n ≤ 8 ∧ Goes .mainsailGrant s (State.passes j.id n t))) ∧
    -- an operation that is done completes; a tile load makes its attempt and a tile store its next step
    (s.jobReaches j = true → j.asking = false →
      (j.done = true → j.kind ≠ .copyRecord → Goes .engineOperationComplete s (s.completeJob j)) ∧
      (j.done = true → j.kind = .copyRecord → Goes .engineOperationComplete s ((s.completeJob j).modLaunch j.launch fun l =>
        -- with bit 8 where a halt came between (R221)
        { l with copyStatus := l.copyStatus ||| j.status ||| (if j.resumed then 256 else 0) })) ∧
      (j.done = false → j.torn = false → j.kind = .tld → Goes .engineOperationComplete s (s.tldAttempt j)) ∧
      (j.done = false → j.torn = false → j.kind = .tst → j.flag = false → Goes .engineOperationComplete s (s.tstStep j)) ∧
      (j.done = false → j.torn = false → j.kind = .tst → j.flag = true → Goes .engineOperationComplete s (s.tstCommit j)))

def Sys2Proof.Machine.JournalRows : Prop :=
  ∀ s : State,
    let i := s.args.i
    -- 46 cycles after a failed attempt the operation, or the prologue, reads again; a TLD in a halt too (R384)
    (∀ j, s.args.flag = false → (s.jobs.find? fun j => j.id == i) = some j →
      (s.tornJob j = true ↔ j.torn = true ∧ 46 ≤ s.cycle - j.since ∧ (if j.kind.unit = 3 then s.jobReaches j else s.jobRuns j) = true) ∧
      (s.tornJob j = false → Goes .tileLoadRetry s s) ∧
      (let t := s.modJob j.id fun j => { j with torn := false }
       s.tornJob j = true → (j.kind = .tld → Goes .tileLoadRetry s (t.tldAttempt { j with torn := false })) ∧
        (j.kind ≠ .tld → Goes .tileLoadRetry s (State.runChunk 5000 j.id t)))) ∧
    (∀ g, s.args.flag = true → s.wg? i = some g →
      (s.tornWg g = true ↔ g.torn = true ∧ 46 ≤ s.cycle - g.tornAt ∧ s.running g = true) ∧
      (s.tornWg g = false → Goes .tileLoadRetry s s) ∧
      (s.tornWg g = true → Goes .tileLoadRetry s ((s.modWg g.id fun g => { g with torn := false }).jibChunk { g with torn := false }))) ∧
    -- the first entry of its tile is written out with an even version, freed, and its TST done
    (∀ e, s.journal[i]? = some e → ((s.journal.take i).any fun x => x.addr == e.addr) = false →
      ((removeAt s.journal i).any fun x => x.addr == e.addr) = false →
      let t := s.homeWrite e.addr (e.data.take 8 ++ leBytes 4 (e.version + 2).toNat ++ e.data.drop 12)
      t.journal = s.journal ∧
      Goes .journalApply s ({ t with journal := removeAt s.journal i }.modJob e.job fun j => { j with done := true })) ∧
    (∀ g b k, s.wg? i = some g → g.prologue = some (b, k) → s.jibServes g = true →
      Goes .jibChunkComplete s (State.jibGo g b k ((s.bindingsOf g).getD b {}) 5000 [] s))

/-- Engine steps, the tile journal and workgroup prologues. The model's choice: how many passes a grant does (log 53), the steps of a tile
store (log 56), the 46 cycles between two attempts (log 61), that a prologue ends at its fault (log 20), and that a chunk is written
whole (log 19). -/
def Obligations.EngineEvents : Prop := EngineRows ∧ JournalRows

/-! ## Events: contexts, rungs and partitions (R58, R61, R108 to R113, R214 to R220, R347) -/

def Sys2Proof.Machine.SwitchRows : Prop :=
  ∀ s : State,
    let p := s.args.p
    let x := s.part p
    (∀ n, s.sliceDue p = some n → Goes .contextSliceExpiry s (s.modPart p fun y => { y with switch := .halting (some n) })) ∧
    (∀ n, s.preemptDue p = some n → Goes .contextPreempt s (s.modPart p fun y =>
      { y with switch := if y.resident.isNone then .exchanging (some n) else .halting (some n) })) ∧
    (∀ n c, x.switch = .halting n → x.resident = some c → s.haltDone p c = true → (s.ctx p c).state ≠ .killed → x.staged = true →
      x.writeback = none → Goes .haltComplete s ((s.settleHalt p c).modPart p fun y => { y with switch := .exchanging n })) ∧
    (∀ n c, x.switch = .halting n → x.resident = some c → s.haltDone p c = true → (s.ctx p c).state = .killed →
      Goes .haltComplete s ((s.discardCtx p c).modPart p fun y => { y with resident := none, switch := .none })) ∧
    (∀ c, x.switch = .exchanging (some c) → x.resident = none → (s.ctx p c).valid = true → (s.ctx p c).state = .free →
      (s.ctx p c).raised = none → p.toNat < s.parts.length → s.pkgState = 0 →
      ∃ t : State, (t.part p).resident = some c ∧ (t.part p).switch = .none ∧ (t.part p).residentAt = s.cycle ∧ (t.ctx p c).state = .resident ∧
        -- a die that its workgroups are on leaves PS2 (R36)
        (∀ g ∈ t.wgs, g.part = p → g.ctx = c → t.ps2.getLsbD (dieOf g.core) = false) ∧
        -- what is parked under the switch marker goes on where nothing is outstanding (R257)
        Goes .exchangeComplete s ((t.warps.filter fun w => t.wgOf p c w.wg).foldl (fun u w => u.unpark w.id) t)) ∧
    -- the slot map of the context that was resident before goes back to its default, and no other (R138)
    (∀ o c, p.toNat < s.parts.length → Sparse.wf {} x.ctxs = true → x.lastIn = some o → o ≠ c →
      ((s.resetMap p c).ctx p o).slotMap = 0x84 ∧ ∀ k, k ≠ o → (s.resetMap p c).ctx p k = s.ctx p k) ∧
    -- not while the package sleeps
    (∀ n, x.switch = .exchanging n → s.pkgState ≠ 0 → Goes .exchangeComplete s s) ∧
    (∀ c, x.switch = .exchanging none → x.resident = some c → (s.ctx p c).state = .resident → p.toNat < s.parts.length → s.pkgState = 0 →
      ∃ t : State, Goes .exchangeComplete s t ∧ (t.part p).resident = none ∧ (t.part p).switch = .none ∧ (t.part p).writeback = some c ∧
        (t.ctx p c).state = .swapped) ∧
    (∀ c, x.writeback = some c → (s.ctx p c).state ≠ .killed → Goes .writebackComplete s (s.modPart p fun y =>
      { y with writeback := none, save := Sparse.set [] y.save c.toNat (Cells.setBytes [] 0 (s.image p c)) })) ∧
    (x.writeback = none → Goes .stagingComplete s (s.modPart p fun y =>
      if y.writeback.isNone then { y with staged := true } else y))

def Sys2Proof.Machine.LifeRows : Prop :=
  ∀ s : State,
    let p := s.args.p
    let c := s.args.c
    let k := s.ctx p c
    -- EXPERT_EN cleared: the expert fields go back to their defaults
    Goes .expertDisable s (s.modCtx p c fun x => { x.expertDefaults with expertEn := false }) ∧
    (k.state = .killed → Goes .contextKill s s) ∧
    (k.state ≠ .killed → p.toNat < s.parts.length → ∃ t, Goes .contextKill s t ∧ (t.ctx p c).state = .killed) ∧
    -- a freed context's pages have no owner left
    (k.state = .killed → k.valid = false → k.zeroed = true → Goes .contextFree s (({ s with owners := s.owners.map fun o =>
        if o.part = p ∧ o.ctx = c then { o with gone := true } else o } : State).modCtx p c fun x =>
      { x with state := .free, zeroed := false, serials := 0, everResident := false })) ∧
    -- CMD 1 and CMD 2 of a faulted context
    (k.summary.pending = true → k.state = .faulted → Goes .contextResume s (s.modCtx p c fun x =>
      { x with state := if x.everResident then .swapped else .free, summary := { x.summary with pending := false } })) ∧
    (∀ g, k.summary.pending = true → k.state = .faulted → k.summary.noWorkgroup = false → s.wg? k.summary.wg = some g →
      Goes .workgroupEnd s ((s.endWg g).modCtx p c fun x =>
        { x with state := if x.everResident then .swapped else .free, summary := { x.summary with pending := false } }))

/-- Context switching and the life of a context. The model's choice: a resumed context that was never resident is free (log 72), a freed
context's frames have no owner (log 78), counts start anew at a free (log 30), when a context gives way (log 34), and that no exchange
ends in a sleeping package (log 90). -/
def Obligations.ContextEvents : Prop := SwitchRows ∧ LifeRows

/-- Entry to the WARP rung (R212 to R214): once every split of the warp stands at an issue boundary the frame is written, and no other
byte of memory, and the handler runs as one split in the subject's place, its counter the vector, with every live lane; nothing else of
the warp changes. Where no vector is set or the frame cannot be written the fault climbs. -/
def Sys2Proof.Machine.WarpRung (s : State) (i : Nat) : Prop :=
  ∀ w g r w1, s.warp? i = some w → s.wg? w.wg = some g → w.raised = some r → w.handler = none →
    (s.running g = true → s.canStop w = true → g.raised = none →
      let n := if (w.split r.split.toNat).isSome then r.split.toNat else w.valid.headD 0
      let r1 : FaultRec := { r with rung := 1 }
      let s1 := s.modWarp i fun x => { x with raised := none, delivering := [], splits := x.splits.map (Option.map Split.stop) }
      let vec := s1.vector (w.agent g n none) (s.vecBase g) 1 r.code.num
      s1.warp? i = some w1 →
      (vec = none → Goes .warpRungEntry s (s1.raiseWg g.id r)) ∧
      (∀ t2 v, vec = some (t2, v) →
        let wrote := t2.writeCore (w.agent g n none) (frameAddr (s.vecBase g) w.core w.slot 1) (w1.header g w1.splits (some r1))
        (∀ t3 e, wrote = (t3, .error e) → Goes .warpRungEntry s (t3.raiseWg g.id r)) ∧
        (∀ t3, wrote = (t3, .ok ()) → ∃ t, Goes .warpRungEntry s t ∧ t.mem = t3.mem ∧ t.host = t3.host ∧ t.wgs = t3.wgs ∧
          (∀ k, k ≠ i → t.warp? k = s.warp? k) ∧
          t.warp? i = some { w1 with
            fmask := r.fmask, frec := some r1, handler := some ⟨1, n, true, w1.splits, s.cycle⟩
            late := w1.late.map fun l => { l with inHandler := false }
            splits := modifyAt (Option.map fun q => handlerSplit q v (liveLanes w1.splits) (s.cycle + 1)) w1.splits n }))) ∧
    -- not before: a split between two issue boundaries, or another context on its cores (R110, R214)
    (s.running g = false ∨ s.canStop w = false → Goes .warpRungEntry s s)

/-- Entry to the WORKGROUP rung of a workgroup none of whose warps runs a handler (R215): its warps stop, a frame is written for each live
one, and the handler runs in the warp of the lowest number, while the others stand. -/
def Sys2Proof.Machine.WorkgroupRung (s : State) (i : Nat) : Prop :=
  ∀ g r w v s3 s4, s.wg? i = some g → g.raised = some r → g.handler = none → s.running g = true → s.wgCanStop g.id = true →
    (∀ x ∈ s.warps, s.warp? x.id = some x) → (∀ x ∈ s.warpsOf g.id, x.handler = none ∧ x.raised = none) →
    let r2 : FaultRec := { r with rung := 2 }
    let s2 := (s.warpsOf g.id).foldl (fun t x => t.modWarp x.id fun y => { y with splits := y.splits.map (Option.map Split.stop) }) s
    let live := (s2.warpsOf g.id).filter fun x => !x.exited && !x.valid.isEmpty
    (live = [] → Goes .workgroupRungEntry s (s2.climbCtx g.id r)) ∧
    (w ∈ live → (∀ x ∈ live, x ≠ w → w.num < x.num) →
      s2.vector (w.agent g (w.valid.headD 0) none) (s.vecBase g) 2 r.code.num = some (s3, v) →
      State.writeFrames g w.id r2 live s3 = some s4 →
      ∃ t, Goes .workgroupRungEntry s t ∧ t.mem = s4.mem ∧ t.host = s4.host ∧
        (t.wg? g.id).map (fun x => (x.raised, x.handler)) = some (none, some s.cycle) ∧
        (t.warp? w.id).map (fun x => (x.frec, x.fmask)) = some (some r2, r.fmask) ∧
        ∀ x ∈ live, (t.warp? x.id).map (fun y => (y.handler, y.splits)) = some
          (some ⟨2, x.valid.headD 0, x.id == w.id, x.splits, s.cycle⟩,
           if x.id = w.id then modifyAt (Option.map fun p => handlerSplit p v (liveLanes x.splits) (s.cycle + 1)) x.splits (x.valid.headD 0)
           else x.splits))

/-- Rungs, missed times, resets and starved barriers. What the records of missed times and of BARRIER_STARVED name is the model's choice
(logs 26, 37 and 101). -/
def Obligations.RungEvents : Prop :=
  ∀ s : State,
    let i := s.args.i
    let p := s.args.p
    let c := s.args.c
    Goes .warpRungEntry s (s.warpEnters i) ∧
    (∀ g r, s.wg? i = some g → g.raised = some r → g.handler = none → s.running g = true → s.wgCanStop g.id = true →
      Goes .workgroupRungEntry s (s.enterWg g.id)) ∧
    WarpRung s i ∧ WorkgroupRung s i ∧
    -- the CONTEXT rung: a resident context halts first; then the summary is written and the vector raised
    (∀ f m, (s.ctx p c).raised = some (f, m) → (s.part p).resident = some c → (s.part p).switch = .none →
      ((s.part p).staged = true → (s.part p).writeback = none →
        Goes .contextRungEntry s (s.modPart p fun x => { x with switch := .halting none })) ∧
      -- not while the last switch's image is written back or staged (R110)
      ((s.part p).staged = false ∨ (s.part p).writeback ≠ none → Goes .contextRungEntry s s)) ∧
    (∀ f m, (s.ctx p c).raised = some (f, m) → (s.part p).resident ≠ some c → (s.part p).switch = .none →
      let t := s.modCtx p c fun x => { x with state := .faulted, raised := none, summary := { m with raisedAt := s.cycle } }
      Goes .contextRungEntry s { t with irqs := t.irqs ++ [64 + 128 * p.toNat + c.toNat] }) ∧
    -- missed times (R219): a WARP handler's is a fault at the WORKGROUP rung, a WORKGROUP handler's at the CONTEXT rung, the
    -- host's at the PARTITION rung, firmware's at the DEVICE rung
    (∀ w g h, s.warp? i = some w → s.handlerLate w = some (g, h) → h.rung = 1 →
      Goes .handlerTimeout s (s.raiseWg g.id (lateRecord w h 1))) ∧
    (∀ w g h, s.warp? i = some w → s.handlerLate w = some (g, h) → h.rung = 2 →
      Goes .handlerTimeout s (s.climbCtx g.id (lateRecord w h 2))) ∧
    (s.hostLate p c = true → Goes .hostResponseTimeout s
      (s.raisePart p (hostTimeout (s.ctx p c).summary s.cycle).1 (hostTimeout (s.ctx p c).summary s.cycle).2)) ∧
    (∀ f m, (s.part p).raised = some (f, m) → Goes .partitionReset s
      (((((s.killAll p (some m)).stopAll p).zeroQuads p).closeSessions p).modPart p Part.cleared)) ∧
    (∀ f at_, (s.part p).raised = some f → (s.part p).resetAt = some at_ →
      1000 * Config.cyclesPerUs * max 1 (s.part p).partMs.toNat ≤ s.cycle - at_ → Goes .partitionResetTimeout s s.deviceReset) ∧
    -- a workgroup all of whose splits are parked on barriers that nothing can complete
    (∀ g, s.wg? i = some g → s.starved g = true → ∃ r, r.code = .barrierStarved ∧ Goes .barrierStarved s (s.raiseWg g.id r)) ∧
    -- storage of a workgroup is lost: the workgroup ends, and is placed again if its launch allows it
    (∀ g, s.args.flag = false → s.wg? i = some g → s.running g = true →
      let t := (s.loseWg g s.args.size).noteEcc true (64 + s.args.addr)
      (((s.launch? g.launch).any fun l => l.record.idempotent && decide (g.losses < 2)) = false →
        Goes .workgroupStateError s (t.raiseLost g.part g.ctx (s.lastSerial g.id) true 0)) ∧
      (((s.launch? g.launch).any fun l => l.record.idempotent && decide (g.losses < 2)) = true →
        Goes .workgroupStateError s { t.modLaunch g.launch fun l => l.again ⟨g.num, g.losses + 1, g.core, g.items⟩ s.cycle with
          lifeNow := { t.lifeNow with relaunches := t.lifeNow.relaunches + 1 } })) ∧
    -- a split table that is lost names its warp, the shadow store none
    (s.args.flag = true → Goes .workgroupStateError s (s.splitTableLost p c i))

/-- Creating and deleting a partition. That a creation takes one step (log 65), and what a disabled die means (log 83), are the model's
choice. -/
def Obligations.PartitionEvents : Prop :=
  ∀ s : State,
    let p := s.args.p
    let v : BitVec 4 := BitVec.ofNat 4 s.args.val.toNat
    -- creation over free dies that the configuration enables; other dies set bit 7 of DEV_EVT
    (s.pkgState = 0 → (s.part p).state = 0 → v ≠ 0 → v &&& s.diesTaken p = 0 → v &&& ~~~s.dieOn = 0 → Goes .partitionCreate s
      { s.modPart p fun x => { x.cleared with state := 2, dies := v, secret := s.draws } with draws := s.draws + 1 }) ∧
    (s.pkgState = 0 → (s.part p).state = 0 → v ≠ 0 → v &&& s.diesTaken p ≠ 0 ∨ v &&& ~~~s.dieOn ≠ 0 →
      Goes .partitionCreate s (s.raiseEvt 7)) ∧
    -- deletion: every context is killed, every queue stops, every session closes
    (s.pkgState = 0 → (s.part p).state = 2 → (s.part p).dies ≠ 0 → Goes .partitionDelete s
      ((((s.killAll p none).stopQueues p).closeSessions p).modPart p fun x =>
        { x.cleared with state := 3, dies := 0, save := x.save })) ∧
    (∃ t, Goes .partitionDeleteComplete s t ∧ ((s.part p).state = 3 → p.toNat < s.parts.length → (t.part p).state = 0 ∧ (t.part p).save = []) ∧
      ((s.part p).state ≠ 3 → t.parts = s.parts))


/-! ## The machine as a whole -/

/-- The issuing split's warp at an issue boundary, and the state in which the word is fetched (R103, R104, R281). -/
def Sys2Proof.Machine.State.atIssue (s : State) (id : SplitId) (w : Warp) : State :=
  let b := w.atBoundary id.split
  let s1 := s.modWarp id.warp fun _ => b.1
  let s2 := if b.1 = w then s1 else s1.dropLatch fun e => e.warp == id.warp
  { s2.yieldSweep none with cur := some ⟨id.warp, b.2⟩ }

/-- A step is the meaning of what happens, and then a cycle passes. An issue fetches the word at the counter of its split
(R253) and runs what it decodes to. -/
def Obligations.StepRunsDecoded : Prop :=
  -- an event brought from outside runs if the device takes it
  (∀ s m rest, s.agenda = m :: rest → (encodeNat m.row).isSome = false → ({ s with agenda := rest } : State).takes m.row = true →
    step s = ticked (exec m.row { s with agenda := rest, args := m.args, cur := none })) ∧
  (∀ s m rest, s.agenda = m :: rest → ({ s with agenda := rest } : State).takes m.row = false →
    step s = .next ({ s with agenda := rest } : State).tick) ∧
  -- without one, the machine's own event, or an issue, or nothing
  (∀ s m, s.agenda = [] → s.off = false → s.pick s.candidates = some (.event m) → (encodeNat m.row).isSome = false →
    s.takes m.row = true → step s = ticked (exec m.row { s with args := m.args, cur := none })) ∧
  (∀ s, s.agenda = [] → s.off = true ∨ s.candidates = [] → step s = .next s.tick) ∧
  (∀ s id w c t x i, s.agenda = [] → s.off = false → s.pick s.candidates = some (.issue id) → s.warp? id.warp = some w →
    (s.atIssue id w).issue? false = some c → (s.atIssue id w).fetchWord (c.agent none) c.g c.pc = (t, .ok x) → decode x = .ok i →
    step s = ticked (issued (exec i t))) ∧
  -- behind an issue the splits that yielded to the split wait for it no longer, unless it waits for a result or for room (R281)
  (∀ (t : State) id w p, t.cur = some id → t.warp? id.warp = some w → w.split id.split = some p →
    (p.wait = .full ∨ p.wait = .results → issued (.next t) = .next t) ∧
    (p.wait ≠ .full → p.wait ≠ .results → issued (.next t) = .next (t.yieldSweep (some id)))) ∧
  -- the word fetched: four bytes at the counter's place, little-endian, where none of them was overwritten meanwhile (R254)
  (∀ (s t : State) ag g (pc : Word) key, pc.toNat / 2 ^ 60 = 3 → s.places ag .fetch pc.toNat 4 = (t, .ok [(.mem key, 4)]) →
    (t.stale.any fun x => x.key == key && decide (g.started ≤ x.at_)) = false →
    s.fetchWord ag g pc = (t, .ok (BitVec.ofNat 32 (leNat (t.homeBytes key 4))))) ∧
  -- the only candidate is picked; of several, one of them
  (∀ s c, State.pick s [c] = some c) ∧
  (∀ s cs, cs ≠ [] → ∃ c ∈ cs, State.pick s cs = some c)

/-- No instruction stops the machine: each answers a next state, but for a coded instruction that no split issues. And a
step always answers a next state. -/
def Obligations.StepGoesOn : Prop :=
  (∀ i s, Completes (exec i s) ∨ (s.issue? false = none ∧ (encodeNat i).isSome = true ∧ exec i s = .fault .noIssuingSplit)) ∧
  (∀ s, ∃ t, step s = .next t)

/-- A step that finds the device without power leaves all but the model's own counters, unless it is a reset (R36). -/
def Obligations.OffStays : Prop :=
  ∀ s t, s.off = true → (∀ m rest, s.agenda = m :: rest → m.row ≠ .deviceReset) → step s = .next t →
    t = { s with agenda := s.agenda.drop 1, cycle := s.cycle + 1, free := s.free + 1, turn := s.turn + 1, cur := none }

/-- After boot stage 5: memory zeroed (R63 stage 4), no work, no context, the defaults of the control window (R39, R44,
R59, R69, R108, R219). -/
def Obligations.ResetState : Prop :=
  let s := State.reset
  s.memOk ∧ (∀ a, s.mem.byte a = 0 ∧ s.host.byte a = 0) ∧ s.bootStage = 5 ∧ s.bootErr = 0 ∧ s.off = false ∧ s.pkgState = 0 ∧
  s.warps = [] ∧ s.wgs = [] ∧ s.launches = [] ∧ s.jobs = [] ∧ s.irqs = [] ∧ s.devEvt = 0 ∧ s.candidates = [] ∧
  s.ringTimeout = 50 ∧ s.parts.length = 4 ∧ s.ports.length = 18 ∧
  (∀ p, (s.part p).state = 0 ∧ (s.part p).dies = 0 ∧ (s.part p).resident = none ∧ (s.part p).sliceUs = 2000 ∧ (s.part p).minUs = 200 ∧
    (s.part p).partMs = 100 ∧ (s.part p).ctxMs = 10 ∧ (s.part p).wgUs = 1000 ∧ (s.part p).warpUs = 200) ∧
  (∀ p c, (s.ctx p c).state = .free ∧ (s.ctx p c).valid = false ∧ (s.ctx p c).expertEn = false ∧ (s.ctx p c).root = 0 ∧
    (s.ctx p c).vecBase = 0)

/-! ## Encoding (R253, R261 to R272) -/

/-- Decoding the word of an instruction gives it back. -/
def Obligations.RoundTrip : Prop := ∀ i w, i.wf = true → encode i = some w → decode w = .ok i

/-- A word that decodes to an instruction is the word of that instruction: no bit of a word is ignored. -/
def Obligations.DecodeEncode : Prop := ∀ w i, decode w = .ok i → encode i = some w

/-- Words that the manual writes out. -/
def Obligations.DecodeWords : Prop :=
  decode 0x7780_0000 = .ok (.nop false) ∧ decode 0xF780_0000 = .ok (.nop true) ∧
  decode 0x743B_FFFD = .ok (.bra false 0x3FFFD) ∧ decode 0x74F8_5FF8 = .ok (.brnz false 5 0xFF8) ∧
  decode 0x7454_0010 = .ok (.cbr false 2 1 16) ∧ decode 0x7000_C414 = .ok (.sadd false 3 4 5) ∧
  decode 0x7110_FFFB = .ok (.smovi false 3 0x3FFB) ∧ decode 0x7180_8200 = .ok (.sread false 2 2) ∧
  decode 0x7190_0300 = .ok (.winImm false 3) ∧ decode 0x636D_47FD = .ok (.vmovi false 3 40 0x7FD) ∧
  decode 0x6155_4088 = .ok (.cvt false 5 40 8 8) ∧ decode 0x5D8A_2008 = .ok (.shfx false 3 0 40 64 8) ∧
  decode 0x6455_8282 = .ok (.icmpLt false 5 48 40 0 2) ∧ decode 0x6595_4305 = .ok (.vscan false 5 40 48 0 5) ∧
  decode 0x7C80_0000 = .ok .hintSat

/-! ## Checks and faults (R205, R207, R271 to R273, R277) -/

/-- What keeps an instruction with operands `u` from its effect, in the order of R273, R259 and R258; the order of the
checks of a run; and the faults of a fetch (R277) and of a word that is no instruction (R272). The lanes that these faults name (log 15)
and those that RUN_HAZARD names (log 49) are the model's choice. -/
def Obligations.IssueChecks : Prop :=
  (∀ (s : State) i sw (u : Uses) body, s.issue? sw = none → s.issueWith i sw u body = .fault .noIssuingSplit) ∧
  (∀ (s : State) i sw (u : Uses) body c, s.issue? sw = some c →
    (∀ code n, u.check c i = some (code, n) → s.issueWith i sw u body = .next (s.faultAt c code c.p.mask 0 n)) ∧
    (u.check c i = none → u.stalled s c = true → s.issueWith i sw u body = .next (s.waitAt c .results)) ∧
    (∀ n, u.check c i = none → u.stalled s c = false → s.checkedMode c = true →
      let todo := u.lanes c &&& ~~~(if u.keyProg then 0 else c.doneBefore)
      u.hazard c todo = some n → s.issueWith i sw u body = .next (s.faultAt c .runHazard todo 0 (n % 1024))) ∧
    (u.kept s i c = false → Completes (s.issueWith i sw u body))) ∧
  (∀ (u : Uses) (c : Issue) (i : Instr),
    (u.okOp = false → u.check c i = some (.illegalOp, (encodeWord i).toNat)) ∧
    (u.okOp = true → u.okWidth = false → u.check c i = some (.illegalWidth, (encodeWord i).toNat)) ∧
    (∀ d, u.okOp = true → u.okWidth = true → u.hintFault c.p.hints = some d → u.check c i = some (.illegalHint, d)) ∧
    -- a hint that a register decides (TCVT, R388), once that has landed, and then the registers
    (∀ d r, u.okOp = true → u.okWidth = true → u.hintFault c.p.hints = none → u.target = some r → u.targetWaits c = false →
      tcvtHint c.p.hints ((c.p.ureg r.toNat).toNat % 16) = some d → u.check c i = some (.illegalHint, d)) ∧
    (∀ d, u.okOp = true → u.okWidth = true → u.hintFault c.p.hints = none → u.windowFault c = some d →
      (∀ r, u.target = some r → u.targetWaits c = false ∧ tcvtHint c.p.hints ((c.p.ureg r.toNat).toNat % 16) = none) →
      u.check c i = some (.window, d)) ∧
    -- a slice operand must lie within the allocation (R117), a hint must fit and stand once (R271)
    (∀ v ∈ u.vs, c.w.slicesA < c.abs v.1 + v.2 → u.targetWaits c = false → (u.check c i).isSome = true) ∧
    (∀ (k : Nat) h, c.p.hints[k]? = some h → h.kind ≠ 8 → u.fits.contains h.kind.toNat = false → (u.check c i).isSome = true) ∧
    (∀ (j k : Nat) h h', j < k → c.p.hints[j]? = some h → c.p.hints[k]? = some h' → h.kind = h'.kind → (u.check c i).isSome = true)) ∧
  (∀ (s t : State) ag g (pc : Word) e, s.places ag .fetch pc.toNat 4 = (t, .error e) → pc.toNat / 2 ^ 60 = 3 →
    s.fetchWord ag g pc = (t, .error e)) ∧
  (∀ (s : State) ag g (pc : Word), pc.toNat / 2 ^ 60 ≠ 3 → s.fetchWord ag g pc = (s, .error ⟨.badSpace, 0⟩)) ∧
  (∀ (s t : State) (id : SplitId) w c e, s.warp? id.warp = some w → (s.atIssue id w).issue? false = some c →
    (s.atIssue id w).fetchWord (c.agent none) c.g c.pc = (t, .error e) →
    s.fetch id = .taken (t.faultAt c e.code c.p.mask c.pc e.detail)) ∧
  (∀ (s : State) c x,
    (decode x = .illegalOp → s.decodeFor c x = .taken (s.faultAt c .illegalOp c.p.mask 0 x.toNat)) ∧
    (decode x = .illegalWidth → s.decodeFor c x = .taken (s.faultAt c .illegalWidth c.p.mask 0 x.toNat)))

/-- A warp in which a fault can be taken at once: no rung is being entered or run, and its other splits stand at an issue
boundary. -/
def Sys2Proof.Machine.State.calm (s : State) (id : SplitId) (w : Warp) (g : Workgroup) (p : Split) : Prop :=
  s.warp? id.warp = some w ∧ s.wg? w.wg = some g ∧ w.split id.split = some p ∧ w.splits.length = 4 ∧ w.handler = none ∧ w.raised = none ∧
  g.raised = none ∧ g.handler = none ∧ s.running g = true ∧
  (∀ n q, n ≠ id.split → w.split n = some q → q.canStop (!w.resultsOut n && s.storesSettled w.id) = true)

/-- The faulting split with its counter at `stop`: nothing of its instruction is left over. -/
def Sys2Proof.Machine.Split.faulted (p : Split) (stop : Word) : Split :=
  { p with
    pc := stop, hints := [], wait := .stopped, out := none, seen := none, asked := false, walk := none, stc := none, lifted := false }

/-- The device with the splits of a warp stopped for a fault of split `id`, its counter at `stop`. -/
def Sys2Proof.Machine.State.stoppedFor (s : State) (id : SplitId) (stop : Word) : State :=
  (s.modSplit id fun p => p.faulted stop).modWarp id.warp fun x =>
    { x with raised := none, delivering := [], splits := x.splits.map (Option.map Split.stop) }

/-- TAKING A FAULT at the WARP rung (R205, R213, R214): the frame is written and no other byte of memory, the record and the fault
mask kept, and the handler runs as one split in the subject's place, its counter the vector, with every live lane; nothing else of
the warp changes. -/
def Obligations.TakingAFault : Prop :=
  ∀ (s : State) id w g p w1 stop (r : FaultRec) v t2 t3, s.calm id w g p → r.split ≠ 0xFF →
    let n := id.split
    let r1 : FaultRec := { r with rung := 1, split := BitVec.ofNat 8 n, serial := w.serial }
    let s1 := s.stoppedFor id stop
    s1.warp? id.warp = some w1 →
    s1.vector (w.agent g n none) (s.vecBase g) 1 r.code.num = some (t2, v) →
    t2.writeCore (w.agent g n none) (frameAddr (s.vecBase g) w.core w.slot 1) (w1.header g w1.splits (some r1)) = (t3, .ok ()) →
    let t := s.takeFault id stop r
    -- memory is as the write of the frame leaves it: the frame's 256 bytes at its pointer, and nothing else
    (w1.header g w1.splits (some r1)).length = 256 ∧ t.mem = t3.mem ∧ t.host = t3.host ∧ t.wgs = t3.wgs ∧
    (∀ u ps, t2.places (w.agent g n none) .store (frameAddr (s.vecBase g) w.core w.slot 1) 256 = (u, .ok ps) → Memory.wf u.mem = true →
      ∀ a, (∀ x ∈ ps, ∀ key, x.1 = .mem key → a < key ∨ key + x.2 ≤ a) → t.mem.byte a = u.mem.byte a) ∧
    (∀ k, k ≠ id.warp → t.warp? k = s.warp? k) ∧
    t.warp? id.warp = some { w1 with
      fmask := r.fmask, frec := some r1, handler := some ⟨1, n, true, w1.splits, s.cycle⟩
      -- a late store of an earlier handler is the warp's from here on (R210)
      late := w1.late.map fun l => { l with inHandler := false }
      splits := modifyAt (Option.map fun q => handlerSplit q v (liveLanes w1.splits) (s.cycle + 1)) w1.splits n } ∧
    -- the saved entry of the faulting split stands at its stop position, and the handler has its window and uniform file
    w1.split n = some (p.faulted stop) ∧
    ((t.splitOf id).map fun q => (q.pc, q.mask, q.wb, q.sregs, q.wait, q.progValid, q.defer)) =
      some (BitVec.ofNat 64 v, liveLanes w1.splits, p.wb, p.sregs, .ready, false, [])

/-- A fault without a handler climbs (R212, R213, R217): where the vector base is 0, and no handler runs, it comes to the
CONTEXT rung, with its own record; and where the context's summary is pending already, to the PARTITION rung. -/
def Obligations.FaultClimbs : Prop :=
  ∀ (s : State) id w g p stop (r : FaultRec), s.calm id w g p → r.split ≠ 0xFF → s.vecBase g = 0 → g.part.toNat < s.parts.length →
    s.warpsOf g.id = [w] → w.id = id.warp → w.exited = false → (∀ v ∈ s.warps, v.handler = none) → (∀ x ∈ s.wgs, x.handler = none) →
    let t := s.takeFault id stop r
    let r1 : FaultRec := { r with split := BitVec.ofNat 8 id.split, serial := w.serial }
    let x := s.ctx g.part g.ctx
    (x.summary.pending = false → x.raised = none → ∃ m, (t.ctx g.part g.ctx).raised = some ({ r1 with rung := 3 }, m) ∧
      m.code = BitVec.ofNat 8 r.code.num ∧ m.pending = true ∧ m.fmask = r.fmask ∧ m.serial = w.serial ∧ m.counter = r.counter) ∧
    (x.summary.pending = true → (s.part g.part).raised = none → ∃ m, (t.part g.part).raised = some ({ r1 with rung := 4 }, m)) ∧
    -- %fmask holds the lanes of the fault (R115), and the split stands at its stop position
    (t.warp? id.warp).map (·.fmask) = some r.fmask ∧
    (p.trap = none → (t.splitOf id).map (·.pc) = some stop)

/-- RETURNING FROM A HANDLER of the WARP rung (R216): the stopped splits go on from what the frame in memory says; one that the
frame leaves without lanes resumes a deferral or becomes free (R103), and then the first fault held is raised (R427). That of several
failures the first in the order of R216 gives the cause (log 44), and the lanes that this fault names (log 15), are the model's choice. -/
def Obligations.ReturnFromHandler : Prop :=
  ∀ (s : State) (id : SplitId) pc word w g h s1 fr, (s.drain id.warp 0xFFFFFFFF).warp? id.warp = some w →
    (s.drain id.warp 0xFFFFFFFF).wg? w.wg = some g → w.handler = some h → h.rung = 1 → w.id = id.warp →
    (s.drain id.warp 0xFFFFFFFF).readDirect (w.agent g 0 none) (frameAddr ((s.drain id.warp 0xFFFFFFFF).vecBase g) w.core w.slot 1) 256 =
      (s1, .ok fr) →
    (∀ cause, rettCause (h.stopped w) fr = some cause →
      s.returnFrom id pc word = s1.takeFault id pc
        -- it comes to the next rung (R209)
        { code := .illegalOp, first := h.rung + 1, fmask := (w.split id.split).elim 0 (·.mask), counter := pc,
          detail := BitVec.ofNat 64 (word.toNat + 2 ^ 32 * cause) }) ∧
    (rettCause (h.stopped w) fr = none →
      let back := s1.modWarp id.warp fun y => match y.handler with
        | some k => { y with
            splits := (reloadAll (k.stopped y) fr).map (Option.map fun p =>
              { p with wait := .ready, since := (s.drain id.warp 0xFFFFFFFF).cycle + 1, hints := [] })
            handler := none }
        | none => y
      s.returnFrom id pc word = ((List.range 4).foldl (fun t n => t.emptied ⟨id.warp, n⟩) back).raiseHeld id.warp) ∧
    -- where every split has lanes and no fault is held, nothing but the splits changes
    (rettCause (h.stopped w) fr = none → w.held = [] →
      (∀ p, some p ∈ reloadAll (h.stopped w) fr → p.mask ≠ 0 ∧ p.trap = none) → (∀ k, k ≠ id.warp → (s.returnFrom id pc word).warp? k = s1.warp? k) ∧
      (s.returnFrom id pc word).mem = s1.mem ∧
      (s.returnFrom id pc word).warp? id.warp = some { w with
        handler := none
        splits := (reloadAll (h.stopped w) fr).map (Option.map fun p =>
          { p with wait := .ready, since := (s.drain id.warp 0xFFFFFFFF).cycle + 1, hints := [] }) })

/-! ## Frames: what an instruction's own effect leaves alone -/

/-- The issuing split as the effect of its instruction begins, with no result pending and no marker; `t` is the state. -/
def Sys2Proof.Machine.Issue.plain (c : Issue) (t : State) : Prop :=
  t.warp? c.id.warp = some c.w ∧ c.w.split c.id.split = some c.p ∧ c.w.pending = [] ∧ c.sw = false ∧ c.w.lanes.length = 32

/-- The split behind an instruction that goes on to the next word in cycle `now`; it is ready from the next one on. -/
def Sys2Proof.Machine.Issue.behind (c : Issue) (now : Nat) : Split :=
  { c.p with
    pc := c.pc + 4, hints := [], progValid := false, seen := none, asked := false, walk := none, stc := none, count := c.p.count + 1
    since := now + 1, lifted := false, wait := .ready }

/-- Of warp `id` only the lanes and the splits may differ, of the splits only `n`, which becomes `p`. -/
def Sys2Proof.Machine.OnlyLanes (id n : Nat) (p : Split) (w : Warp) (s t : State) : Prop :=
  OnlyWarp id s t ∧ t.splitOf ⟨id, n⟩ = some p ∧ (∀ k, k ≠ n → t.splitOf ⟨id, k⟩ = s.splitOf ⟨id, k⟩) ∧
  (t.warp? id).map (fun x => { x with lanes := [], splits := [] }) = some { w with lanes := [], splits := [] }

/-- The vector instructions (R304): an executing lane's destination slices take the result; every other slice of every lane,
every predicate, flag and stream, every other register, other warps and all of memory are unchanged, and the counter
advances by 4 (R276). -/
def Obligations.VectorFrame : Prop :=
  ∀ (t : State) (c : Issue) (ls : BitVec 32) (d n : Nat) (f : Nat → Nat), c.plain t → c.abs d + n ≤ 1024 →
    let r := t.vec c ls d n f
    let id := c.id.warp
    OnlyLanes id c.id.split (c.behind t.cycle) c.w t r ∧
    (∀ l, ls.getLsbD l = true → (r.laneOf id l).get (c.abs d) n = trunc (f l) (4 * n)) ∧
    (∀ l k, ls.getLsbD l = false ∨ k < c.abs d ∨ c.abs d + n ≤ k → (r.laneOf id l).get k 1 = (t.laneOf id l).get k 1) ∧
    (∀ l, { r.laneOf id l with slices := 0 } = { t.laneOf id l with slices := 0 })

/-- Rounded results (R231, R233) also OR their flags into their lane and take its draw; a result of variable latency (R255)
waits, and leaves the slices alone. The predicate functions (R319, R124) write P(D) in executing lanes, p7 staying true. -/
def Obligations.FlagAndPredicateFrame : Prop :=
  (∀ (t : State) (c : Issue) (later : Bool) (ls : BitVec 32) (d n : Nat) (f : Nat → Rounded), c.plain t → c.abs d + n ≤ 1024 →
    let r := t.vecF c later ls d n f
    let id := c.id.warp
    OnlyWarp id t r ∧ (∀ k, k ≠ c.id.split → r.splitOf ⟨id, k⟩ = t.splitOf ⟨id, k⟩) ∧ r.splitOf c.id = some (c.behind t.cycle) ∧
    (r.warp? id).map (fun x => { x with lanes := [], splits := [], pending := [] }) = some { c.w with lanes := [], splits := [] } ∧
    (later = false → (r.warp? id).map (·.pending) = some []) ∧
    (∀ l, l < 32 → (r.laneOf id l).preds = (t.laneOf id l).preds ∧
      (r.laneOf id l).fpflags = (if ls.getLsbD l then (t.laneOf id l).fpflags ||| BitVec.ofNat 5 (f l).flags else (t.laneOf id l).fpflags) ∧
      (r.laneOf id l).sr = (if ls.getLsbD l && (f l).drew then BitVec.ofNat 64 (drawNext (t.laneOf id l).sr.toNat) else (t.laneOf id l).sr)) ∧
    (later = false → (∀ l, ls.getLsbD l = true → (r.laneOf id l).get (c.abs d) n = trunc (f l).code (4 * n)) ∧
      ∀ l k, ls.getLsbD l = false ∨ k < c.abs d ∨ c.abs d + n ≤ k → (r.laneOf id l).get k 1 = (t.laneOf id l).get k 1) ∧
    (later = true → (∀ l, (r.laneOf id l).slices = (t.laneOf id l).slices) ∧
      (r.warp? id).map (·.pending) = some ((lanesOf ls).map fun l =>
        { split := c.id.split, dest := .slices l (c.abs d) n, value := trunc (f l).code (4 * n) }))) ∧
  (∀ (t : State) (c : Issue) (ls : BitVec 32) (m : BitVec 1) (p : BitVec 3) (f : Nat → Bool), c.plain t →
    let r := t.putPreds c ls m p f
    let id := c.id.warp
    OnlyLanes id c.id.split (c.behind t.cycle) c.w t r ∧
    (∀ l, ls.getLsbD l = true → p ≠ 7 → (r.laneOf id l).pred p.toNat = (f l && (m == 0 || (c.w.lane l).pred p.toNat))) ∧
    (∀ l, (r.laneOf id l).pred 7 = true) ∧
    (∀ l k, k < 8 → ls.getLsbD l = false ∨ k ≠ p.toNat → (r.laneOf id l).pred k = (t.laneOf id l).pred k) ∧
    (∀ l, { r.laneOf id l with preds := 0 } = { t.laneOf id l with preds := 0 }))

/-- The uniform instructions (R121, R122, R276, R285): S(n) alone changes, s0 discards and reads as zero, the written mask
records the write while the warp has more than one valid split; a jump changes the counter alone; a result of variable
latency waits. -/
def Obligations.UniformFrame : Prop :=
  (∀ p : Split, p.ureg 0 = 0 ∧ (∀ many v, p.setUreg many 0 v = p) ∧
    (∀ many n v, n ≠ 0 → (p.setUreg many n v).written = if many then p.written ||| (1#64 <<< n) else p.written) ∧
    -- a uniform file in its one form, which a write keeps
    (∀ many n v, n ≠ 0 → Sparse.wf 0 p.sregs = true → Sparse.wf 0 (p.setUreg many n v).sregs = true ∧
      (p.setUreg many n v).ureg n = v ∧ ∀ k, k ≠ n → (p.setUreg many n v).ureg k = p.ureg k)) ∧
  (∀ (t : State) (c : Issue) (n v : Nat), c.plain t → v < 2 ^ 64 →
    let r := (t.put c [(.ureg n, v)]).complete c
    OnlyWarp c.id.warp t r ∧ (∀ k, k ≠ c.id.split → r.splitOf ⟨c.id.warp, k⟩ = t.splitOf ⟨c.id.warp, k⟩) ∧
    r.splitOf c.id = some ((c.behind t.cycle).setUreg c.many n (BitVec.ofNat 64 v)) ∧
    (r.warp? c.id.warp).map (fun x => { x with splits := [] }) = some { c.w with splits := [] }) ∧
  (∀ (t : State) (c : Issue) (target : Word), c.plain t →
    let r := t.goTo c target
    r = t.stepTo c target ∧ OnlyWarp c.id.warp t r ∧ (∀ k, k ≠ c.id.split → r.splitOf ⟨c.id.warp, k⟩ = t.splitOf ⟨c.id.warp, k⟩) ∧
    r.splitOf c.id = some { c.behind t.cycle with pc := target } ∧
    (r.warp? c.id.warp).map (fun x => { x with splits := [] }) = some { c.w with splits := [] }) ∧
  (∀ (t : State) (c : Issue) (xs : List (Dest × Nat)), c.plain t →
    let r := (t.putLater c xs).complete c
    OnlyWarp c.id.warp t r ∧ (∀ k, k ≠ c.id.split → r.splitOf ⟨c.id.warp, k⟩ = t.splitOf ⟨c.id.warp, k⟩) ∧
    r.splitOf c.id = some (c.behind t.cycle) ∧
    (r.warp? c.id.warp).map (fun x => { x with splits := [] }) = some { c.w with
      splits := [], pending := xs.map fun x => { split := c.id.split, dest := x.1, value := x.2 } })

/-- Under the switch marker (R257, R210) a split parks: while it has results outstanding or its warp has stores outstanding it
stays so, and with neither, where no late store, no TRAP and no other fault waits for it, it is ready from the next cycle on. -/
def Sys2Proof.Machine.MarkerParks : Prop :=
  ∀ (t : State) (c : Issue) (target : Word), t.warp? c.id.warp = some c.w → c.w.split c.id.split = some c.p → c.id.split < 4 → c.sw = true →
    let r := t.goTo c target
    let q : Split := { c.behind t.cycle with pc := target, wait := .marker }
    (t.stepTo c target).splitOf c.id = some q ∧
    ((c.w.resultsOut c.id.split = true ∧ c.w.late = [] ∧ c.w.raised = none) ∨ t.storesSettled c.id.warp = false → r.splitOf c.id = some q) ∧
    (c.w.resultsOut c.id.split = false → t.storesSettled c.id.warp = true → c.w.late = [] → c.w.raised = none →
      (∀ j p, c.w.split j = some p → p.trap = none) → r.splitOf c.id = some { q with wait := .ready, since := t.cycle + 1 }) ∧
    -- one that parks still goes on behind the step that lands its last result or settles its warp's last store
    (∀ (s : State) w n p, s.warp? w.id = some w → w.split n = some p → p.wait = .marker → n < 4 → w.raised = none →
      (w.resultsOut n = true ∨ s.storesSettled w.id = false → s.unpark1 w.id n = s) ∧
      (w.resultsOut n = false → s.storesSettled w.id = true → w.late = [] → p.trap = none →
        s.unpark1 w.id n = s.modSplit ⟨w.id, n⟩ fun p => { p with wait := .ready, since := s.cycle + 1 }))

/-! ## Memory (R4, R17, R182, R210) -/

/-- Every step that goes on keeps the canonical form of row storage and of host memory: addresses strictly rising, and no byte listed that
reads as an unlisted one does (that unlisted bytes read 0 is, for host memory, the model's choice, log 7). -/
def Obligations.StepKeepsMemory : Prop := ∀ s t : State, s.memOk → step s = .next t → t.memOk

/-- Bytes written read back, every other byte reads as before, and memory keeps its one form. -/
def Obligations.MemoryBytes : Prop :=
  (∀ (m : Cells) a (bs : List Byte), Memory.wf m = true →
    Memory.wf (m.setBytes a bs) = true ∧ (m.setBytes a bs).bytes a bs.length = bs ∧
    (∀ k, k < a ∨ a + bs.length ≤ k → (m.setBytes a bs).byte k = m.byte k) ∧
    (∀ k, k < bs.length → (m.setBytes a bs).byte (a + k) = bs.getD k 0)) ∧
  (∀ (m : Cells) a n, Memory.wf m = true → m.bytes a n = (List.range n).map fun k => m.byte (a + k)) ∧
  (∀ (m : Cells) a v, Memory.wf m = true → Memory.wf (m.setByte a v) = true ∧ (m.setByte a v).byte a = v ∧
    ∀ k, k ≠ a → (m.setByte a v).byte k = m.byte k) ∧
  -- equal memories are equal data
  (∀ m n : Cells, Memory.wf m = true → Memory.wf n = true → (∀ a, m.byte a = n.byte a) → m = n) ∧
  (∀ n v, leNat (leBytes n v) = v % 2 ^ (8 * n)) ∧
  (∀ bs : List Byte, leBytes bs.length (leNat bs) = bs)

/-- A store writes no memory when it issues: it is outstanding (R210). When it settles, each of its sector parts (R182) writes its bytes
at its place and no others, whichever of those that are left; one whose place cannot be reached is dropped, writes nothing,
and is recorded for STORE_LATE. What comes before a part (`beforeStore`: loads that its lane made earlier read their bytes, a release
writes back, R188, R328) comes first. -/
def Sys2Proof.Machine.Settling : Prop :=
  (∀ (t : State) (c : Issue) lane p data rel, t.warp? c.id.warp = some c.w →
    ∃ q : StoreReq, q.ptr = BitVec.ofNat 64 p ∧ q.data = data ∧ q.lane = lane ∧ q.pc = c.pc ∧ q.release = rel ∧ q.did = [] ∧
      (t.storeFor c lane p data rel).warp? c.id.warp = some { c.w with stores := c.w.stores ++ [q] }) ∧
  -- the last part that is left
  (∀ (s t : State) (w : Warp) (g : Workgroup) (q : StoreReq) k i n, s.warp? w.id = some w → s.wg? w.wg = some g → w.stores[k]? = some q →
    q.left = [(i, n)] →
    let at_ := (s.beforeStore w g q).place { w.agent g 0 q.lane with handler := q.inHandler } .store q.ptr.toNat i n q.data.length
    let part := (q.data.drop i).take n
    (∀ key, at_ = (t, .ok (.mem key)) → (s.settlePart w.id k).mem = t.mem.setBytes key part ∧ (s.settlePart w.id k).host = t.host ∧
      ∃ u, (s.settlePart w.id k).warp? w.id = some u ∧ u.stores = removeAt w.stores k ∧ u.late = w.late) ∧
    (∀ e, at_ = (t, .error e) → (s.settlePart w.id k).mem = t.mem ∧ (s.settlePart w.id k).host = t.host ∧
      ∃ u, (s.settlePart w.id k).warp? w.id = some u ∧ u.stores = removeAt w.stores k ∧ u.late = (w.addLate q e).late)) ∧
  -- with others left, any of them; of a store to a peer the first (R26)
  (∀ (s : State) (w : Warp) (g : Workgroup) (q : StoreReq) k x y rest, s.warp? w.id = some w → s.wg? w.wg = some g →
    w.stores[k]? = some q → q.left = x :: y :: rest →
    ∃ z, z ∈ q.left ∧ (s.peerPages w g q ≠ [] → z = x) ∧
    let at_ := (s.beforeStore w g q).place { w.agent g 0 q.lane with handler := q.inHandler } .store q.ptr.toNat z.1 z.2 q.data.length
    let left := modifyAt (fun q => { q with did := q.did ++ [z.1] }) w.stores k
    (∀ t key, at_ = (t, .ok (.mem key)) → (s.settlePart w.id k).mem = t.mem.setBytes key ((q.data.drop z.1).take z.2) ∧
      (s.settlePart w.id k).host = t.host ∧
      ∃ u, (s.settlePart w.id k).warp? w.id = some u ∧ u.stores = left ∧ u.late = w.late) ∧
    (∀ t e, at_ = (t, .error e) → (s.settlePart w.id k).mem = t.mem ∧ (s.settlePart w.id k).host = t.host ∧
      ∃ u, (s.settlePart w.id k).warp? w.id = some u ∧ u.stores = left ∧ u.late = (w.addLate q e).late)) ∧
  -- no store within one sector has more than one part
  (∀ p n, 0 < n → p % 32 + n ≤ 32 → partsOf p n = [(0, n)])

/-- Stores settle, and a split under the marker waits for its warp's stores. -/
def Obligations.StoreSettles : Prop := Settling ∧ MarkerParks

/-- R228. -/
def Obligations.ScaleDecode : Prop :=
  ∀ e : Nat, e < 256 → (e ≤ 254 → e8m0 e = .fin false 1 (e - 127)) ∧ (e = 255 → (e8m0 e).isNaN = true) ∧
    (e8m0 e).neg = false ∧ (e8m0 e).isZero = false ∧ ∀ n, e8m0 e ≠ .inf n
end

