-- ==== Sys2Proof/Laws/Bits.lean ====
section
/-! SUPPORT. Signed and truncated numbers (R8). -/
namespace Sys2Proof.Machine

theorem trunc_emod (x : Int) (n : Nat) : trunc x n = trunc (x % 2 ^ n) n := by simp [trunc]

theorem sext_emod (x n : Nat) : (sext x n : Int) % 2 ^ n = (x : Int) % 2 ^ n := by
  unfold sext
  simp only
  split <;> simp

/-- Truncation undoes sign extension. -/
theorem trunc_sext (x n : Nat) : trunc (sext x n) n = trunc x n := by
  rw [trunc_emod, sext_emod, ← trunc_emod]

theorem two_pow_pred {n : Nat} (h : 0 < n) : 2 ^ n = 2 * 2 ^ (n - 1) := by
  obtain ⟨m, rfl⟩ := Nat.exists_eq_succ_of_ne_zero (by omega : n ≠ 0)
  simp [pow_succ, Nat.mul_comm]

theorem sext_lt (x : Nat) {n : Nat} (h : 0 < n) : sext x n < 2 ^ (n - 1) := by
  unfold sext
  have e := two_pow_pred h
  have h2 : x % 2 ^ n < 2 ^ n := Nat.mod_lt _ (by positivity)
  have h3 : (0 : Int) < 2 ^ (n - 1) := by positivity
  simp only
  split
  · have : (2 : Int) ^ n = 2 * 2 ^ (n - 1) := by exact_mod_cast e
    have : ((x % 2 ^ n : Nat) : Int) < 2 ^ n := by exact_mod_cast h2
    omega
  · exact_mod_cast (by omega : x % 2 ^ n < 2 ^ (n - 1))

theorem sext_ge (x : Nat) {n : Nat} (h : 0 < n) : -2 ^ (n - 1) ≤ sext x n := by
  unfold sext
  have e := two_pow_pred h
  have h3 : (0 : Int) < 2 ^ (n - 1) := by positivity
  simp only
  split
  · rename_i h'
    have : (2 : Int) ^ n = 2 * 2 ^ (n - 1) := by exact_mod_cast e
    have : (2 : Int) ^ (n - 1) ≤ ((x % 2 ^ n : Nat) : Int) := by exact_mod_cast h'
    omega
  · have : (0 : Int) ≤ ((x % 2 ^ n : Nat) : Int) := by positivity
    omega

theorem trunc_lt (x : Int) (n : Nat) : trunc x n < 2 ^ n := by
  have h : (0 : Int) < ((2 ^ n : Nat) : Int) := by positivity
  have := Int.emod_lt_of_pos x h
  have := Int.emod_nonneg x h.ne'
  unfold trunc
  omega

end Sys2Proof.Machine
end

