-- ==== Sys2Proof/Laws/Dispatch.lean ====
section
/-! SUPPORT. Each instruction's arm: `exec` is its meaning. -/
namespace Sys2Proof.Machine

@[simp] theorem exec_iadd (sw : Bool) (w : BitVec 3) (h : BitVec 2) (d : BitVec 7) (a : BitVec 7) (b : BitVec 7) (s : State) : exec (.iadd sw w h d a b) s = execIadd sw w h d a b s := rfl
@[simp] theorem exec_isub (sw : Bool) (w : BitVec 3) (h : BitVec 2) (d : BitVec 7) (a : BitVec 7) (b : BitVec 7) (s : State) : exec (.isub sw w h d a b) s = execIsub sw w h d a b s := rfl
@[simp] theorem exec_imul (sw : Bool) (w : BitVec 3) (h : BitVec 2) (d : BitVec 7) (a : BitVec 7) (b : BitVec 7) (s : State) : exec (.imul sw w h d a b) s = execImul sw w h d a b s := rfl
@[simp] theorem exec_imulh (sw : Bool) (w : BitVec 3) (h : BitVec 2) (d : BitVec 7) (a : BitVec 7) (b : BitVec 7) (s : State) : exec (.imulh sw w h d a b) s = execImulh sw w h d a b s := rfl
@[simp] theorem exec_imulhu (sw : Bool) (w : BitVec 3) (h : BitVec 2) (d : BitVec 7) (a : BitVec 7) (b : BitVec 7) (s : State) : exec (.imulhu sw w h d a b) s = execImulhu sw w h d a b s := rfl
@[simp] theorem exec_imad (sw : Bool) (w : BitVec 3) (h : BitVec 2) (d : BitVec 7) (a : BitVec 7) (b : BitVec 7) (s : State) : exec (.imad sw w h d a b) s = execImad sw w h d a b s := rfl
@[simp] theorem exec_imin (sw : Bool) (w : BitVec 3) (h : BitVec 2) (d : BitVec 7) (a : BitVec 7) (b : BitVec 7) (s : State) : exec (.imin sw w h d a b) s = execImin sw w h d a b s := rfl
@[simp] theorem exec_iminu (sw : Bool) (w : BitVec 3) (h : BitVec 2) (d : BitVec 7) (a : BitVec 7) (b : BitVec 7) (s : State) : exec (.iminu sw w h d a b) s = execIminu sw w h d a b s := rfl
@[simp] theorem exec_imax (sw : Bool) (w : BitVec 3) (h : BitVec 2) (d : BitVec 7) (a : BitVec 7) (b : BitVec 7) (s : State) : exec (.imax sw w h d a b) s = execImax sw w h d a b s := rfl
@[simp] theorem exec_imaxu (sw : Bool) (w : BitVec 3) (h : BitVec 2) (d : BitVec 7) (a : BitVec 7) (b : BitVec 7) (s : State) : exec (.imaxu sw w h d a b) s = execImaxu sw w h d a b s := rfl
@[simp] theorem exec_and (sw : Bool) (w : BitVec 3) (h : BitVec 2) (d : BitVec 7) (a : BitVec 7) (b : BitVec 7) (s : State) : exec (.and sw w h d a b) s = execAnd sw w h d a b s := rfl
@[simp] theorem exec_or (sw : Bool) (w : BitVec 3) (h : BitVec 2) (d : BitVec 7) (a : BitVec 7) (b : BitVec 7) (s : State) : exec (.or sw w h d a b) s = execOr sw w h d a b s := rfl
@[simp] theorem exec_xor (sw : Bool) (w : BitVec 3) (h : BitVec 2) (d : BitVec 7) (a : BitVec 7) (b : BitVec 7) (s : State) : exec (.xor sw w h d a b) s = execXor sw w h d a b s := rfl
@[simp] theorem exec_shl (sw : Bool) (w : BitVec 3) (h : BitVec 2) (d : BitVec 7) (a : BitVec 7) (b : BitVec 7) (s : State) : exec (.shl sw w h d a b) s = execShl sw w h d a b s := rfl
@[simp] theorem exec_shr (sw : Bool) (w : BitVec 3) (h : BitVec 2) (d : BitVec 7) (a : BitVec 7) (b : BitVec 7) (s : State) : exec (.shr sw w h d a b) s = execShr sw w h d a b s := rfl
@[simp] theorem exec_sra (sw : Bool) (w : BitVec 3) (h : BitVec 2) (d : BitVec 7) (a : BitVec 7) (b : BitVec 7) (s : State) : exec (.sra sw w h d a b) s = execSra sw w h d a b s := rfl
@[simp] theorem exec_fadd (sw : Bool) (w : BitVec 3) (h : BitVec 2) (d : BitVec 7) (a : BitVec 7) (b : BitVec 7) (s : State) : exec (.fadd sw w h d a b) s = execFadd sw w h d a b s := rfl
@[simp] theorem exec_fsub (sw : Bool) (w : BitVec 3) (h : BitVec 2) (d : BitVec 7) (a : BitVec 7) (b : BitVec 7) (s : State) : exec (.fsub sw w h d a b) s = execFsub sw w h d a b s := rfl
@[simp] theorem exec_fmul (sw : Bool) (w : BitVec 3) (h : BitVec 2) (d : BitVec 7) (a : BitVec 7) (b : BitVec 7) (s : State) : exec (.fmul sw w h d a b) s = execFmul sw w h d a b s := rfl
@[simp] theorem exec_ffma (sw : Bool) (w : BitVec 3) (h : BitVec 2) (d : BitVec 7) (a : BitVec 7) (b : BitVec 7) (s : State) : exec (.ffma sw w h d a b) s = execFfma sw w h d a b s := rfl
@[simp] theorem exec_fmin (sw : Bool) (w : BitVec 3) (h : BitVec 2) (d : BitVec 7) (a : BitVec 7) (b : BitVec 7) (s : State) : exec (.fmin sw w h d a b) s = execFmin sw w h d a b s := rfl
@[simp] theorem exec_fmax (sw : Bool) (w : BitVec 3) (h : BitVec 2) (d : BitVec 7) (a : BitVec 7) (b : BitVec 7) (s : State) : exec (.fmax sw w h d a b) s = execFmax sw w h d a b s := rfl
@[simp] theorem exec_shf (sw : Bool) (w : BitVec 3) (h : BitVec 2) (d : BitVec 7) (a : BitVec 7) (b : BitVec 7) (s : State) : exec (.shf sw w h d a b) s = execShf sw w h d a b s := rfl
@[simp] theorem exec_shfx (sw : Bool) (w : BitVec 3) (h : BitVec 2) (d : BitVec 7) (a : BitVec 7) (b : BitVec 7) (s : State) : exec (.shfx sw w h d a b) s = execShfx sw w h d a b s := rfl
@[simp] theorem exec_mov (sw : Bool) (w : BitVec 3) (d : BitVec 7) (a : BitVec 7) (s : State) : exec (.mov sw w d a) s = execMov sw w d a s := rfl
@[simp] theorem exec_not (sw : Bool) (w : BitVec 3) (d : BitVec 7) (a : BitVec 7) (s : State) : exec (.not sw w d a) s = execNot sw w d a s := rfl
@[simp] theorem exec_neg (sw : Bool) (w : BitVec 3) (d : BitVec 7) (a : BitVec 7) (f : BitVec 1) (s : State) : exec (.neg sw w d a f) s = execNeg sw w d a f s := rfl
@[simp] theorem exec_abs (sw : Bool) (w : BitVec 3) (d : BitVec 7) (a : BitVec 7) (f : BitVec 1) (s : State) : exec (.abs sw w d a f) s = execAbs sw w d a f s := rfl
@[simp] theorem exec_popc (sw : Bool) (w : BitVec 3) (d : BitVec 7) (a : BitVec 7) (s : State) : exec (.popc sw w d a) s = execPopc sw w d a s := rfl
@[simp] theorem exec_clz (sw : Bool) (w : BitVec 3) (d : BitVec 7) (a : BitVec 7) (s : State) : exec (.clz sw w d a) s = execClz sw w d a s := rfl
@[simp] theorem exec_ctz (sw : Bool) (w : BitVec 3) (d : BitVec 7) (a : BitVec 7) (s : State) : exec (.ctz sw w d a) s = execCtz sw w d a s := rfl
@[simp] theorem exec_brev (sw : Bool) (w : BitVec 3) (d : BitVec 7) (a : BitVec 7) (s : State) : exec (.brev sw w d a) s = execBrev sw w d a s := rfl
@[simp] theorem exec_exts (sw : Bool) (w : BitVec 3) (d : BitVec 7) (a : BitVec 7) (x : BitVec 3) (s : State) : exec (.exts sw w d a x) s = execExts sw w d a x s := rfl
@[simp] theorem exec_extz (sw : Bool) (w : BitVec 3) (d : BitVec 7) (a : BitVec 7) (x : BitVec 3) (s : State) : exec (.extz sw w d a x) s = execExtz sw w d a x s := rfl
@[simp] theorem exec_cvt (sw : Bool) (w : BitVec 3) (d : BitVec 7) (a : BitVec 7) (x : BitVec 4) (s : State) : exec (.cvt sw w d a x) s = execCvt sw w d a x s := rfl
@[simp] theorem exec_cvts (sw : Bool) (w : BitVec 3) (d : BitVec 7) (a : BitVec 7) (x : BitVec 4) (s : State) : exec (.cvts sw w d a x) s = execCvts sw w d a x s := rfl
@[simp] theorem exec_icvt (sw : Bool) (w : BitVec 3) (d : BitVec 7) (a : BitVec 7) (x : BitVec 4) (s : State) : exec (.icvt sw w d a x) s = execIcvt sw w d a x s := rfl
@[simp] theorem exec_ucvt (sw : Bool) (w : BitVec 3) (d : BitVec 7) (a : BitVec 7) (x : BitVec 4) (s : State) : exec (.ucvt sw w d a x) s = execUcvt sw w d a x s := rfl
@[simp] theorem exec_qhad (sw : Bool) (w : BitVec 3) (d : BitVec 7) (a : BitVec 7) (n : BitVec 1) (r : BitVec 3) (s : State) : exec (.qhad sw w d a n r) s = execQhad sw w d a n r s := rfl
@[simp] theorem exec_frcp (sw : Bool) (w : BitVec 3) (d : BitVec 7) (a : BitVec 7) (s : State) : exec (.frcp sw w d a) s = execFrcp sw w d a s := rfl
@[simp] theorem exec_frsq (sw : Bool) (w : BitVec 3) (d : BitVec 7) (a : BitVec 7) (s : State) : exec (.frsq sw w d a) s = execFrsq sw w d a s := rfl
@[simp] theorem exec_fsqrt (sw : Bool) (w : BitVec 3) (d : BitVec 7) (a : BitVec 7) (s : State) : exec (.fsqrt sw w d a) s = execFsqrt sw w d a s := rfl
@[simp] theorem exec_fexp2 (sw : Bool) (w : BitVec 3) (d : BitVec 7) (a : BitVec 7) (s : State) : exec (.fexp2 sw w d a) s = execFexp2 sw w d a s := rfl
@[simp] theorem exec_flog2 (sw : Bool) (w : BitVec 3) (d : BitVec 7) (a : BitVec 7) (s : State) : exec (.flog2 sw w d a) s = execFlog2 sw w d a s := rfl
@[simp] theorem exec_fsin (sw : Bool) (w : BitVec 3) (d : BitVec 7) (a : BitVec 7) (s : State) : exec (.fsin sw w d a) s = execFsin sw w d a s := rfl
@[simp] theorem exec_fcos (sw : Bool) (w : BitVec 3) (d : BitVec 7) (a : BitVec 7) (s : State) : exec (.fcos sw w d a) s = execFcos sw w d a s := rfl
@[simp] theorem exec_ftanh (sw : Bool) (w : BitVec 3) (d : BitVec 7) (a : BitVec 7) (s : State) : exec (.ftanh sw w d a) s = execFtanh sw w d a s := rfl
@[simp] theorem exec_frnd (sw : Bool) (w : BitVec 3) (d : BitVec 7) (a : BitVec 7) (m : BitVec 3) (s : State) : exec (.frnd sw w d a m) s = execFrnd sw w d a m s := rfl
@[simp] theorem exec_fcls (sw : Bool) (w : BitVec 3) (d : BitVec 7) (a : BitVec 7) (s : State) : exec (.fcls sw w d a) s = execFcls sw w d a s := rfl
@[simp] theorem exec_laneid (sw : Bool) (w : BitVec 3) (d : BitVec 7) (s : State) : exec (.laneid sw w d) s = execLaneid sw w d s := rfl
@[simp] theorem exec_movu (sw : Bool) (w : BitVec 3) (d : BitVec 7) (u : BitVec 6) (s : State) : exec (.movu sw w d u) s = execMovu sw w d u s := rfl
@[simp] theorem exec_vmovi (sw : Bool) (w : BitVec 3) (d : BitVec 7) (imm : BitVec 11) (s : State) : exec (.vmovi sw w d imm) s = execVmovi sw w d imm s := rfl
@[simp] theorem exec_shli (sw : Bool) (w : BitVec 3) (d : BitVec 7) (a : BitVec 7) (k : BitVec 4) (s : State) : exec (.shli sw w d a k) s = execShli sw w d a k s := rfl
@[simp] theorem exec_shri (sw : Bool) (w : BitVec 3) (d : BitVec 7) (a : BitVec 7) (k : BitVec 4) (s : State) : exec (.shri sw w d a k) s = execShri sw w d a k s := rfl
@[simp] theorem exec_srai (sw : Bool) (w : BitVec 3) (d : BitVec 7) (a : BitVec 7) (k : BitVec 4) (s : State) : exec (.srai sw w d a k) s = execSrai sw w d a k s := rfl
@[simp] theorem exec_addi (sw : Bool) (w : BitVec 3) (d : BitVec 7) (a : BitVec 7) (k : BitVec 4) (s : State) : exec (.addi sw w d a k) s = execAddi sw w d a k s := rfl
@[simp] theorem exec_icmpEq (sw : Bool) (w : BitVec 3) (b : BitVec 7) (a : BitVec 7) (n : BitVec 1) (p : BitVec 3) (s : State) : exec (.icmpEq sw w b a n p) s = execIcmpEq sw w b a n p s := rfl
@[simp] theorem exec_icmpNe (sw : Bool) (w : BitVec 3) (b : BitVec 7) (a : BitVec 7) (n : BitVec 1) (p : BitVec 3) (s : State) : exec (.icmpNe sw w b a n p) s = execIcmpNe sw w b a n p s := rfl
@[simp] theorem exec_icmpLt (sw : Bool) (w : BitVec 3) (b : BitVec 7) (a : BitVec 7) (n : BitVec 1) (p : BitVec 3) (s : State) : exec (.icmpLt sw w b a n p) s = execIcmpLt sw w b a n p s := rfl
@[simp] theorem exec_icmpLe (sw : Bool) (w : BitVec 3) (b : BitVec 7) (a : BitVec 7) (n : BitVec 1) (p : BitVec 3) (s : State) : exec (.icmpLe sw w b a n p) s = execIcmpLe sw w b a n p s := rfl
@[simp] theorem exec_icmpLtu (sw : Bool) (w : BitVec 3) (b : BitVec 7) (a : BitVec 7) (n : BitVec 1) (p : BitVec 3) (s : State) : exec (.icmpLtu sw w b a n p) s = execIcmpLtu sw w b a n p s := rfl
@[simp] theorem exec_icmpLeu (sw : Bool) (w : BitVec 3) (b : BitVec 7) (a : BitVec 7) (n : BitVec 1) (p : BitVec 3) (s : State) : exec (.icmpLeu sw w b a n p) s = execIcmpLeu sw w b a n p s := rfl
@[simp] theorem exec_fcmpEq (sw : Bool) (w : BitVec 3) (b : BitVec 7) (a : BitVec 7) (n : BitVec 1) (p : BitVec 3) (s : State) : exec (.fcmpEq sw w b a n p) s = execFcmpEq sw w b a n p s := rfl
@[simp] theorem exec_fcmpNe (sw : Bool) (w : BitVec 3) (b : BitVec 7) (a : BitVec 7) (n : BitVec 1) (p : BitVec 3) (s : State) : exec (.fcmpNe sw w b a n p) s = execFcmpNe sw w b a n p s := rfl
@[simp] theorem exec_fcmpLt (sw : Bool) (w : BitVec 3) (b : BitVec 7) (a : BitVec 7) (n : BitVec 1) (p : BitVec 3) (s : State) : exec (.fcmpLt sw w b a n p) s = execFcmpLt sw w b a n p s := rfl
@[simp] theorem exec_fcmpLe (sw : Bool) (w : BitVec 3) (b : BitVec 7) (a : BitVec 7) (n : BitVec 1) (p : BitVec 3) (s : State) : exec (.fcmpLe sw w b a n p) s = execFcmpLe sw w b a n p s := rfl
@[simp] theorem exec_fcmpUn (sw : Bool) (w : BitVec 3) (b : BitVec 7) (a : BitVec 7) (n : BitVec 1) (p : BitVec 3) (s : State) : exec (.fcmpUn sw w b a n p) s = execFcmpUn sw w b a n p s := rfl
@[simp] theorem exec_sel (sw : Bool) (w : BitVec 3) (d : BitVec 7) (a : BitVec 7) (n : BitVec 1) (p : BitVec 3) (s : State) : exec (.sel sw w d a n p) s = execSel sw w d a n p s := rfl
@[simp] theorem exec_vscan (sw : Bool) (w : BitVec 3) (d : BitVec 7) (a : BitVec 7) (f : BitVec 1) (h : BitVec 3) (s : State) : exec (.vscan sw w d a f h) s = execVscan sw w d a f h s := rfl
@[simp] theorem exec_vscanx (sw : Bool) (w : BitVec 3) (d : BitVec 7) (a : BitVec 7) (f : BitVec 1) (h : BitVec 3) (s : State) : exec (.vscanx sw w d a f h) s = execVscanx sw w d a f h s := rfl
@[simp] theorem exec_vred (sw : Bool) (w : BitVec 3) (d : BitVec 7) (a : BitVec 7) (f : BitVec 1) (h : BitVec 3) (s : State) : exec (.vred sw w d a f h) s = execVred sw w d a f h s := rfl
@[simp] theorem exec_vredmax (sw : Bool) (w : BitVec 3) (d : BitVec 7) (a : BitVec 7) (f : BitVec 1) (h : BitVec 3) (s : State) : exec (.vredmax sw w d a f h) s = execVredmax sw w d a f h s := rfl
@[simp] theorem exec_vredmin (sw : Bool) (w : BitVec 3) (d : BitVec 7) (a : BitVec 7) (f : BitVec 1) (h : BitVec 3) (s : State) : exec (.vredmin sw w d a f h) s = execVredmin sw w d a f h s := rfl
@[simp] theorem exec_ballot (sw : Bool) (d : BitVec 7) (p : BitVec 3) (s : State) : exec (.ballot sw d p) s = execBallot sw d p s := rfl
@[simp] theorem exec_vpopc (sw : Bool) (w : BitVec 3) (d : BitVec 7) (p : BitVec 3) (s : State) : exec (.vpopc sw w d p) s = execVpopc sw w d p s := rfl
@[simp] theorem exec_shfu (sw : Bool) (w : BitVec 3) (d : BitVec 7) (a : BitVec 7) (k : BitVec 4) (s : State) : exec (.shfu sw w d a k) s = execShfu sw w d a k s := rfl
@[simp] theorem exec_shfd (sw : Bool) (w : BitVec 3) (d : BitVec 7) (a : BitVec 7) (k : BitVec 4) (s : State) : exec (.shfd sw w d a k) s = execShfd sw w d a k s := rfl
@[simp] theorem exec_shfxor (sw : Bool) (w : BitVec 3) (d : BitVec 7) (a : BitVec 7) (k : BitVec 4) (s : State) : exec (.shfxor sw w d a k) s = execShfxor sw w d a k s := rfl
@[simp] theorem exec_pand (sw : Bool) (f : BitVec 3) (g : BitVec 3) (n : BitVec 1) (p : BitVec 3) (s : State) : exec (.pand sw f g n p) s = execPand sw f g n p s := rfl
@[simp] theorem exec_por (sw : Bool) (f : BitVec 3) (g : BitVec 3) (n : BitVec 1) (p : BitVec 3) (s : State) : exec (.por sw f g n p) s = execPor sw f g n p s := rfl
@[simp] theorem exec_pxor (sw : Bool) (f : BitVec 3) (g : BitVec 3) (n : BitVec 1) (p : BitVec 3) (s : State) : exec (.pxor sw f g n p) s = execPxor sw f g n p s := rfl
@[simp] theorem exec_pnot (sw : Bool) (f : BitVec 3) (p : BitVec 3) (s : State) : exec (.pnot sw f p) s = execPnot sw f p s := rfl
@[simp] theorem exec_pmovv (sw : Bool) (w : BitVec 3) (a : BitVec 7) (n : BitVec 1) (p : BitVec 3) (s : State) : exec (.pmovv sw w a n p) s = execPmovv sw w a n p s := rfl
@[simp] theorem exec_vmovp (sw : Bool) (w : BitVec 3) (d : BitVec 7) (p : BitVec 3) (s : State) : exec (.vmovp sw w d p) s = execVmovp sw w d p s := rfl
@[simp] theorem exec_vfirst (sw : Bool) (w : BitVec 3) (d : BitVec 7) (p : BitVec 3) (s : State) : exec (.vfirst sw w d p) s = execVfirst sw w d p s := rfl
@[simp] theorem exec_ld (sw : Bool) (g : BitVec 3) (w : BitVec 3) (d : BitVec 7) (a : BitVec 7) (x : BitVec 1) (s : State) : exec (.ld sw g w d a x) s = execLd sw g w d a x s := rfl
@[simp] theorem exec_st (sw : Bool) (g : BitVec 3) (w : BitVec 3) (d : BitVec 7) (a : BitVec 7) (x : BitVec 1) (s : State) : exec (.st sw g w d a x) s = execSt sw g w d a x s := rfl
@[simp] theorem exec_ldl (sw : Bool) (g : BitVec 3) (w : BitVec 3) (d : BitVec 7) (a : BitVec 7) (s : State) : exec (.ldl sw g w d a) s = execLdl sw g w d a s := rfl
@[simp] theorem exec_stc (sw : Bool) (g : BitVec 3) (w : BitVec 3) (d : BitVec 7) (a : BitVec 7) (s : State) : exec (.stc sw g w d a) s = execStc sw g w d a s := rfl
@[simp] theorem exec_lds (sw : Bool) (g : BitVec 3) (w : BitVec 3) (d : BitVec 7) (a : BitVec 7) (x : BitVec 1) (s : State) : exec (.lds sw g w d a x) s = execLds sw g w d a x s := rfl
@[simp] theorem exec_sts (sw : Bool) (g : BitVec 3) (w : BitVec 3) (d : BitVec 7) (a : BitVec 7) (x : BitVec 1) (s : State) : exec (.sts sw g w d a x) s = execSts sw g w d a x s := rfl
@[simp] theorem exec_pref (sw : Bool) (g : BitVec 3) (a : BitVec 7) (s : State) : exec (.pref sw g a) s = execPref sw g a s := rfl
@[simp] theorem exec_fence (sw : Bool) (g : BitVec 3) (c : BitVec 3) (k : BitVec 2) (s : State) : exec (.fence sw g c k) s = execFence sw g c k s := rfl
@[simp] theorem exec_atomAdd (sw : Bool) (c : BitVec 3) (g : BitVec 3) (w : BitVec 1) (d : BitVec 7) (a : BitVec 7) (n : BitVec 1) (s : State) : exec (.atomAdd sw c g w d a n) s = execAtomAdd sw c g w d a n s := rfl
@[simp] theorem exec_atomMin (sw : Bool) (c : BitVec 3) (g : BitVec 3) (w : BitVec 1) (d : BitVec 7) (a : BitVec 7) (n : BitVec 1) (s : State) : exec (.atomMin sw c g w d a n) s = execAtomMin sw c g w d a n s := rfl
@[simp] theorem exec_atomMax (sw : Bool) (c : BitVec 3) (g : BitVec 3) (w : BitVec 1) (d : BitVec 7) (a : BitVec 7) (n : BitVec 1) (s : State) : exec (.atomMax sw c g w d a n) s = execAtomMax sw c g w d a n s := rfl
@[simp] theorem exec_atomMinu (sw : Bool) (c : BitVec 3) (g : BitVec 3) (w : BitVec 1) (d : BitVec 7) (a : BitVec 7) (n : BitVec 1) (s : State) : exec (.atomMinu sw c g w d a n) s = execAtomMinu sw c g w d a n s := rfl
@[simp] theorem exec_atomMaxu (sw : Bool) (c : BitVec 3) (g : BitVec 3) (w : BitVec 1) (d : BitVec 7) (a : BitVec 7) (n : BitVec 1) (s : State) : exec (.atomMaxu sw c g w d a n) s = execAtomMaxu sw c g w d a n s := rfl
@[simp] theorem exec_atomAnd (sw : Bool) (c : BitVec 3) (g : BitVec 3) (w : BitVec 1) (d : BitVec 7) (a : BitVec 7) (n : BitVec 1) (s : State) : exec (.atomAnd sw c g w d a n) s = execAtomAnd sw c g w d a n s := rfl
@[simp] theorem exec_atomOr (sw : Bool) (c : BitVec 3) (g : BitVec 3) (w : BitVec 1) (d : BitVec 7) (a : BitVec 7) (n : BitVec 1) (s : State) : exec (.atomOr sw c g w d a n) s = execAtomOr sw c g w d a n s := rfl
@[simp] theorem exec_atomXor (sw : Bool) (c : BitVec 3) (g : BitVec 3) (w : BitVec 1) (d : BitVec 7) (a : BitVec 7) (n : BitVec 1) (s : State) : exec (.atomXor sw c g w d a n) s = execAtomXor sw c g w d a n s := rfl
@[simp] theorem exec_atomExch (sw : Bool) (c : BitVec 3) (g : BitVec 3) (w : BitVec 1) (d : BitVec 7) (a : BitVec 7) (n : BitVec 1) (s : State) : exec (.atomExch sw c g w d a n) s = execAtomExch sw c g w d a n s := rfl
@[simp] theorem exec_atomCas (sw : Bool) (c : BitVec 3) (g : BitVec 3) (w : BitVec 1) (d : BitVec 7) (a : BitVec 7) (n : BitVec 1) (s : State) : exec (.atomCas sw c g w d a n) s = execAtomCas sw c g w d a n s := rfl
@[simp] theorem exec_atomFadd (sw : Bool) (c : BitVec 3) (g : BitVec 3) (w : BitVec 1) (d : BitVec 7) (a : BitVec 7) (n : BitVec 1) (s : State) : exec (.atomFadd sw c g w d a n) s = execAtomFadd sw c g w d a n s := rfl
@[simp] theorem exec_atomFmin (sw : Bool) (c : BitVec 3) (g : BitVec 3) (w : BitVec 1) (d : BitVec 7) (a : BitVec 7) (n : BitVec 1) (s : State) : exec (.atomFmin sw c g w d a n) s = execAtomFmin sw c g w d a n s := rfl
@[simp] theorem exec_atomFmax (sw : Bool) (c : BitVec 3) (g : BitVec 3) (w : BitVec 1) (d : BitVec 7) (a : BitVec 7) (n : BitVec 1) (s : State) : exec (.atomFmax sw c g w d a n) s = execAtomFmax sw c g w d a n s := rfl
@[simp] theorem exec_atomRedc (sw : Bool) (c : BitVec 3) (g : BitVec 3) (w : BitVec 1) (d : BitVec 7) (a : BitVec 7) (n : BitVec 1) (s : State) : exec (.atomRedc sw c g w d a n) s = execAtomRedc sw c g w d a n s := rfl
@[simp] theorem exec_atomInc (sw : Bool) (c : BitVec 3) (g : BitVec 3) (w : BitVec 1) (d : BitVec 7) (a : BitVec 7) (n : BitVec 1) (s : State) : exec (.atomInc sw c g w d a n) s = execAtomInc sw c g w d a n s := rfl
@[simp] theorem exec_sadd (sw : Bool) (d : BitVec 6) (a : BitVec 6) (b : BitVec 6) (s : State) : exec (.sadd sw d a b) s = execSadd sw d a b s := rfl
@[simp] theorem exec_ssub (sw : Bool) (d : BitVec 6) (a : BitVec 6) (b : BitVec 6) (s : State) : exec (.ssub sw d a b) s = execSsub sw d a b s := rfl
@[simp] theorem exec_smul (sw : Bool) (d : BitVec 6) (a : BitVec 6) (b : BitVec 6) (s : State) : exec (.smul sw d a b) s = execSmul sw d a b s := rfl
@[simp] theorem exec_smulh (sw : Bool) (d : BitVec 6) (a : BitVec 6) (b : BitVec 6) (s : State) : exec (.smulh sw d a b) s = execSmulh sw d a b s := rfl
@[simp] theorem exec_sand (sw : Bool) (d : BitVec 6) (a : BitVec 6) (b : BitVec 6) (s : State) : exec (.sand sw d a b) s = execSand sw d a b s := rfl
@[simp] theorem exec_sor (sw : Bool) (d : BitVec 6) (a : BitVec 6) (b : BitVec 6) (s : State) : exec (.sor sw d a b) s = execSor sw d a b s := rfl
@[simp] theorem exec_sxor (sw : Bool) (d : BitVec 6) (a : BitVec 6) (b : BitVec 6) (s : State) : exec (.sxor sw d a b) s = execSxor sw d a b s := rfl
@[simp] theorem exec_sshl (sw : Bool) (d : BitVec 6) (a : BitVec 6) (b : BitVec 6) (s : State) : exec (.sshl sw d a b) s = execSshl sw d a b s := rfl
@[simp] theorem exec_sshr (sw : Bool) (d : BitVec 6) (a : BitVec 6) (b : BitVec 6) (s : State) : exec (.sshr sw d a b) s = execSshr sw d a b s := rfl
@[simp] theorem exec_ssra (sw : Bool) (d : BitVec 6) (a : BitVec 6) (b : BitVec 6) (s : State) : exec (.ssra sw d a b) s = execSsra sw d a b s := rfl
@[simp] theorem exec_smin (sw : Bool) (d : BitVec 6) (a : BitVec 6) (b : BitVec 6) (s : State) : exec (.smin sw d a b) s = execSmin sw d a b s := rfl
@[simp] theorem exec_smax (sw : Bool) (d : BitVec 6) (a : BitVec 6) (b : BitVec 6) (s : State) : exec (.smax sw d a b) s = execSmax sw d a b s := rfl
@[simp] theorem exec_sminu (sw : Bool) (d : BitVec 6) (a : BitVec 6) (b : BitVec 6) (s : State) : exec (.sminu sw d a b) s = execSminu sw d a b s := rfl
@[simp] theorem exec_smaxu (sw : Bool) (d : BitVec 6) (a : BitVec 6) (b : BitVec 6) (s : State) : exec (.smaxu sw d a b) s = execSmaxu sw d a b s := rfl
@[simp] theorem exec_seq (sw : Bool) (d : BitVec 6) (a : BitVec 6) (b : BitVec 6) (s : State) : exec (.seq sw d a b) s = execSeq sw d a b s := rfl
@[simp] theorem exec_slt (sw : Bool) (d : BitVec 6) (a : BitVec 6) (b : BitVec 6) (s : State) : exec (.slt sw d a b) s = execSlt sw d a b s := rfl
@[simp] theorem exec_sltu (sw : Bool) (d : BitVec 6) (a : BitVec 6) (b : BitVec 6) (s : State) : exec (.sltu sw d a b) s = execSltu sw d a b s := rfl
@[simp] theorem exec_smovi (sw : Bool) (d : BitVec 6) (imm : BitVec 14) (s : State) : exec (.smovi sw d imm) s = execSmovi sw d imm s := rfl
@[simp] theorem exec_slui (sw : Bool) (d : BitVec 6) (imm : BitVec 14) (s : State) : exec (.slui sw d imm) s = execSlui sw d imm s := rfl
@[simp] theorem exec_spopc (sw : Bool) (d : BitVec 6) (a : BitVec 6) (s : State) : exec (.spopc sw d a) s = execSpopc sw d a s := rfl
@[simp] theorem exec_sclz (sw : Bool) (d : BitVec 6) (a : BitVec 6) (s : State) : exec (.sclz sw d a) s = execSclz sw d a s := rfl
@[simp] theorem exec_sctz (sw : Bool) (d : BitVec 6) (a : BitVec 6) (s : State) : exec (.sctz sw d a) s = execSctz sw d a s := rfl
@[simp] theorem exec_sbfx (sw : Bool) (d : BitVec 6) (a : BitVec 6) (b : BitVec 6) (s : State) : exec (.sbfx sw d a b) s = execSbfx sw d a b s := rfl
@[simp] theorem exec_sbfi (sw : Bool) (d : BitVec 6) (a : BitVec 6) (b : BitVec 6) (s : State) : exec (.sbfi sw d a b) s = execSbfi sw d a b s := rfl
@[simp] theorem exec_sread (sw : Bool) (d : BitVec 6) (c : BitVec 6) (s : State) : exec (.sread sw d c) s = execSread sw d c s := rfl
@[simp] theorem exec_winImm (sw : Bool) (imm : BitVec 5) (s : State) : exec (.winImm sw imm) s = execWinImm sw imm s := rfl
@[simp] theorem exec_winReg (sw : Bool) (a : BitVec 6) (s : State) : exec (.winReg sw a) s = execWinReg sw a s := rfl
@[simp] theorem exec_vtos (sw : Bool) (d : BitVec 6) (v : BitVec 7) (s : State) : exec (.vtos sw d v) s = execVtos sw d v s := rfl
@[simp] theorem exec_sld (sw : Bool) (d : BitVec 6) (a : BitVec 6) (x : BitVec 2) (s : State) : exec (.sld sw d a x) s = execSld sw d a x s := rfl
@[simp] theorem exec_sst (sw : Bool) (d : BitVec 6) (a : BitVec 6) (x : BitVec 2) (s : State) : exec (.sst sw d a x) s = execSst sw d a x s := rfl
@[simp] theorem exec_saddi (sw : Bool) (d : BitVec 6) (a : BitVec 6) (imm : BitVec 8) (s : State) : exec (.saddi sw d a imm) s = execSaddi sw d a imm s := rfl
@[simp] theorem exec_csrr (sw : Bool) (d : BitVec 6) (c : BitVec 12) (s : State) : exec (.csrr sw d c) s = execCsrr sw d c s := rfl
@[simp] theorem exec_csrw (sw : Bool) (d : BitVec 6) (c : BitVec 12) (s : State) : exec (.csrw sw d c) s = execCsrw sw d c s := rfl
@[simp] theorem exec_bra (sw : Bool) (o : BitVec 18) (s : State) : exec (.bra sw o) s = execBra sw o s := rfl
@[simp] theorem exec_cbr (sw : Bool) (g : BitVec 3) (n : BitVec 1) (o : BitVec 18) (s : State) : exec (.cbr sw g n o) s = execCbr sw g n o s := rfl
@[simp] theorem exec_brz (sw : Bool) (r : BitVec 6) (o : BitVec 12) (s : State) : exec (.brz sw r o) s = execBrz sw r o s := rfl
@[simp] theorem exec_brnz (sw : Bool) (r : BitVec 6) (o : BitVec 12) (s : State) : exec (.brnz sw r o) s = execBrnz sw r o s := rfl
@[simp] theorem exec_call (sw : Bool) (o : BitVec 18) (s : State) : exec (.call sw o) s = execCall sw o s := rfl
@[simp] theorem exec_ret (sw : Bool) (s : State) : exec (.ret sw) s = execRet sw s := rfl
@[simp] theorem exec_brx (sw : Bool) (r : BitVec 6) (s : State) : exec (.brx sw r) s = execBrx sw r s := rfl
@[simp] theorem exec_exit (sw : Bool) (g : BitVec 3) (n : BitVec 1) (s : State) : exec (.exit sw g n) s = execExit sw g n s := rfl
@[simp] theorem exec_yield (sw : Bool) (o : BitVec 18) (s : State) : exec (.yield sw o) s = execYield sw o s := rfl
@[simp] theorem exec_joinw (sw : Bool) (o : BitVec 18) (s : State) : exec (.joinw sw o) s = execJoinw sw o s := rfl
@[simp] theorem exec_trap (sw : Bool) (g : BitVec 3) (n : BitVec 1) (imm : BitVec 18) (s : State) : exec (.trap sw g n imm) s = execTrap sw g n imm s := rfl
@[simp] theorem exec_brk (sw : Bool) (g : BitVec 3) (n : BitVec 1) (s : State) : exec (.brk sw g n) s = execBrk sw g n s := rfl
@[simp] theorem exec_rett (sw : Bool) (s : State) : exec (.rett sw) s = execRett sw s := rfl
@[simp] theorem exec_sleep (sw : Bool) (c : BitVec 18) (s : State) : exec (.sleep sw c) s = execSleep sw c s := rfl
@[simp] theorem exec_nop (sw : Bool) (s : State) : exec (.nop sw) s = execNop sw s := rfl
@[simp] theorem exec_binit (sw : Bool) (b : BitVec 6) (a : BitVec 6) (s : State) : exec (.binit sw b a) s = execBinit sw b a s := rfl
@[simp] theorem exec_barv (sw : Bool) (b : BitVec 6) (a : BitVec 6) (p : BitVec 3) (s : State) : exec (.barv sw b a p) s = execBarv sw b a p s := rfl
@[simp] theorem exec_bwait (sw : Bool) (b : BitVec 6) (a : BitVec 6) (s : State) : exec (.bwait sw b a) s = execBwait sw b a s := rfl
@[simp] theorem exec_bexp (sw : Bool) (b : BitVec 6) (a : BitVec 6) (s : State) : exec (.bexp sw b a) s = execBexp sw b a s := rfl
@[simp] theorem exec_btest (sw : Bool) (b : BitVec 6) (a : BitVec 6) (p : BitVec 3) (s : State) : exec (.btest sw b a p) s = execBtest sw b a p s := rfl
@[simp] theorem exec_bstat (sw : Bool) (b : BitVec 6) (d : BitVec 6) (l : BitVec 1) (s : State) : exec (.bstat sw b d l) s = execBstat sw b d l s := rfl
@[simp] theorem exec_cpy (sw : Bool) (d : BitVec 6) (n : BitVec 6) (b : BitVec 6) (s : State) : exec (.cpy sw d n b) s = execCpy sw d n b s := rfl
@[simp] theorem exec_gath (sw : Bool) (d : BitVec 6) (n : BitVec 6) (b : BitVec 6) (s : State) : exec (.gath sw d n b) s = execGath sw d n b s := rfl
@[simp] theorem exec_xfrm (sw : Bool) (d : BitVec 6) (n : BitVec 6) (b : BitVec 6) (s : State) : exec (.xfrm sw d n b) s = execXfrm sw d n b s := rfl
@[simp] theorem exec_tld (sw : Bool) (t : BitVec 4) (p : BitVec 6) (b : BitVec 6) (s : State) : exec (.tld sw t p b) s = execTld sw t p b s := rfl
@[simp] theorem exec_tst (sw : Bool) (t : BitVec 4) (p : BitVec 6) (b : BitVec 6) (o : BitVec 1) (s : State) : exec (.tst sw t p b o) s = execTst sw t p b o s := rfl
@[simp] theorem exec_tmov (sw : Bool) (t : BitVec 4) (u : BitVec 4) (s : State) : exec (.tmov sw t u) s = execTmov sw t u s := rfl
@[simp] theorem exec_thdr (sw : Bool) (t : BitVec 4) (d : BitVec 6) (s : State) : exec (.thdr sw t d) s = execThdr sw t d s := rfl
@[simp] theorem exec_thset (sw : Bool) (t : BitVec 4) (d : BitVec 6) (s : State) : exec (.thset sw t d) s = execThset sw t d s := rfl
@[simp] theorem exec_tcvt (sw : Bool) (t : BitVec 4) (u : BitVec 4) (f : BitVec 6) (s : State) : exec (.tcvt sw t u f) s = execTcvt sw t u f s := rfl
@[simp] theorem exec_tfill (sw : Bool) (t : BitVec 4) (v : BitVec 6) (s : State) : exec (.tfill sw t v) s = execTfill sw t v s := rfl
@[simp] theorem exec_tdrn (sw : Bool) (t : BitVec 4) (d : BitVec 7) (imm : BitVec 6) (s : State) : exec (.tdrn sw t d imm) s = execTdrn sw t d imm s := rfl
@[simp] theorem exec_mma (sw : Bool) (a : BitVec 3) (t : BitVec 4) (u : BitVec 4) (b : BitVec 6) (z : BitVec 1) (s : State) : exec (.mma sw a t u b z) s = execMma sw a t u b z s := rfl
@[simp] theorem exec_adrn (sw : Bool) (a : BitVec 3) (t : BitVec 4) (f : BitVec 6) (b : BitVec 6) (s : State) : exec (.adrn sw a t f b) s = execAdrn sw a t f b s := rfl
@[simp] theorem exec_afill (sw : Bool) (a : BitVec 3) (v : BitVec 6) (b : BitVec 6) (s : State) : exec (.afill sw a v b) s = execAfill sw a v b s := rfl
@[simp] theorem exec_tbnd (sw : Bool) (t : BitVec 4) (s : State) : exec (.tbnd sw t) s = execTbnd sw t s := rfl
@[simp] theorem exec_prune (sw : Bool) (t : BitVec 4) (m : BitVec 6) (p : BitVec 3) (s : State) : exec (.prune sw t m p) s = execPrune sw t m p s := rfl
@[simp] theorem exec_ldh (sw : Bool) (h : BitVec 4) (p : BitVec 6) (s : State) : exec (.ldh sw h p) s = execLdh sw h p s := rfl
@[simp] theorem exec_seth (sw : Bool) (h : BitVec 4) (d : BitVec 6) (s : State) : exec (.seth sw h d) s = execSeth sw h d s := rfl
@[simp] theorem exec_sth (sw : Bool) (h : BitVec 4) (p : BitVec 6) (s : State) : exec (.sth sw h p) s = execSth sw h p s := rfl
@[simp] theorem exec_tbind (sw : Bool) (b : BitVec 3) (h : BitVec 6) (s : State) : exec (.tbind sw b h) s = execTbind sw b h s := rfl
@[simp] theorem exec_tget (sw : Bool) (b : BitVec 3) (d : BitVec 7) (k : BitVec 7) (p : BitVec 3) (s : State) : exec (.tget sw b d k p) s = execTget sw b d k p s := rfl
@[simp] theorem exec_tgetx (sw : Bool) (b : BitVec 3) (d : BitVec 7) (k : BitVec 7) (p : BitVec 3) (s : State) : exec (.tgetx sw b d k p) s = execTgetx sw b d k p s := rfl
@[simp] theorem exec_tins (sw : Bool) (b : BitVec 3) (d : BitVec 7) (k : BitVec 7) (p : BitVec 3) (s : State) : exec (.tins sw b d k p) s = execTins sw b d k p s := rfl
@[simp] theorem exec_tinsx (sw : Bool) (b : BitVec 3) (d : BitVec 7) (k : BitVec 7) (p : BitVec 3) (s : State) : exec (.tinsx sw b d k p) s = execTinsx sw b d k p s := rfl
@[simp] theorem exec_tups (sw : Bool) (b : BitVec 3) (d : BitVec 7) (k : BitVec 7) (p : BitVec 3) (s : State) : exec (.tups sw b d k p) s = execTups sw b d k p s := rfl
@[simp] theorem exec_tdel (sw : Bool) (b : BitVec 3) (k : BitVec 7) (p : BitVec 3) (s : State) : exec (.tdel sw b k p) s = execTdel sw b k p s := rfl
@[simp] theorem exec_tscan (sw : Bool) (b : BitVec 3) (c : BitVec 7) (k : BitVec 7) (s : State) : exec (.tscan sw b c k) s = execTscan sw b c k s := rfl
@[simp] theorem exec_tnext (sw : Bool) (b : BitVec 3) (d : BitVec 7) (c : BitVec 7) (p : BitVec 3) (s : State) : exec (.tnext sw b d c p) s = execTnext sw b d c p s := rfl
@[simp] theorem exec_tcnt (sw : Bool) (b : BitVec 3) (d : BitVec 7) (k : BitVec 7) (s : State) : exec (.tcnt sw b d k) s = execTcnt sw b d k s := rfl
@[simp] theorem exec_tref (sw : Bool) (b : BitVec 3) (d : BitVec 7) (k : BitVec 7) (s : State) : exec (.tref sw b d k) s = execTref sw b d k s := rfl
@[simp] theorem exec_href (sw : Bool) (d : BitVec 7) (h : BitVec 7) (s : State) : exec (.href sw d h) s = execHref sw d h s := rfl
@[simp] theorem exec_hbnd (sw : Bool) (h : BitVec 7) (s : State) : exec (.hbnd sw h) s = execHbnd sw h s := rfl
@[simp] theorem exec_spawn (sw : Bool) (q : BitVec 3) (e : BitVec 7) (g : BitVec 7) (p : BitVec 3) (s : State) : exec (.spawn sw q e g p) s = execSpawn sw q e g p s := rfl
@[simp] theorem exec_qpush (sw : Bool) (q : BitVec 3) (g : BitVec 7) (p : BitVec 3) (s : State) : exec (.qpush sw q g p) s = execQpush sw q g p s := rfl
@[simp] theorem exec_qpull (sw : Bool) (q : BitVec 3) (d : BitVec 7) (p : BitVec 3) (s : State) : exec (.qpull sw q d p) s = execQpull sw q d p s := rfl
@[simp] theorem exec_qflush (sw : Bool) (q : BitVec 3) (s : State) : exec (.qflush sw q) s = execQflush sw q s := rfl
@[simp] theorem exec_rsweep (sw : Bool) (b : BitVec 3) (d : BitVec 6) (s : State) : exec (.rsweep sw b d) s = execRsweep sw b d s := rfl
@[simp] theorem exec_rdue (sw : Bool) (b : BitVec 3) (k : BitVec 7) (p : BitVec 3) (s : State) : exec (.rdue sw b k p) s = execRdue sw b k p s := rfl
@[simp] theorem exec_rvisit (sw : Bool) (b : BitVec 3) (c : BitVec 7) (k : BitVec 7) (p : BitVec 3) (s : State) : exec (.rvisit sw b c k p) s = execRvisit sw b c k p s := rfl
@[simp] theorem exec_rreadh (sw : Bool) (b : BitVec 3) (d : BitVec 7) (k : BitVec 7) (s : State) : exec (.rreadh sw b d k) s = execRreadh sw b d k s := rfl
@[simp] theorem exec_rreadx (sw : Bool) (b : BitVec 3) (d : BitVec 7) (k : BitVec 7) (s : State) : exec (.rreadx sw b d k) s = execRreadx sw b d k s := rfl
@[simp] theorem exec_rset (sw : Bool) (b : BitVec 3) (v : BitVec 7) (k : BitVec 7) (s : State) : exec (.rset sw b v k) s = execRset sw b v k s := rfl
@[simp] theorem exec_pcnt (sw : Bool) (d : BitVec 6) (e : BitVec 6) (s : State) : exec (.pcnt sw d e) s = execPcnt sw d e s := rfl
@[simp] theorem exec_waite (sw : Bool) (p : BitVec 6) (v : BitVec 6) (s : State) : exec (.waite sw p v) s = execWaite sw p v s := rfl
@[simp] theorem exec_sige (sw : Bool) (p : BitVec 6) (v : BitVec 6) (s : State) : exec (.sige sw p v) s = execSige sw p v s := rfl
@[simp] theorem exec_flushrc (sw : Bool) (s : State) : exec (.flushrc sw) s = execFlushrc sw s := rfl
@[simp] theorem exec_hintImm (imm : BitVec 21) (s : State) : exec (.hintImm imm) s = execHintImm imm s := rfl
@[simp] theorem exec_hintImmhi (imm : BitVec 21) (s : State) : exec (.hintImmhi imm) s = execHintImmhi imm s := rfl
@[simp] theorem exec_hintGuard (n : BitVec 1) (p : BitVec 3) (s : State) : exec (.hintGuard n p) s = execHintGuard n p s := rfl
@[simp] theorem exec_hintRnd (m : BitVec 3) (s : State) : exec (.hintRnd m) s = execHintRnd m s := rfl
@[simp] theorem exec_hintSat (s : State) : exec (.hintSat) s = execHintSat s := rfl
@[simp] theorem exec_hintOrd (c : BitVec 3) (o : BitVec 2) (s : State) : exec (.hintOrd c o) s = execHintOrd c o s := rfl
@[simp] theorem exec_hintCache (c : BitVec 2) (s : State) : exec (.hintCache c) s = execHintCache c s := rfl
@[simp] theorem exec_hintOffs (o : BitVec 21) (s : State) : exec (.hintOffs o) s = execHintOffs o s := rfl
@[simp] theorem exec_hintCheck (s : State) : exec (.hintCheck) s = execHintCheck s := rfl
@[simp] theorem exec_hintPri (p : BitVec 2) (s : State) : exec (.hintPri p) s = execHintPri p s := rfl
@[simp] theorem exec_deviceReset (s : State) : exec (.deviceReset) s = execDeviceReset s := rfl
@[simp] theorem exec_registerWrite (s : State) : exec (.registerWrite) s = execRegisterWrite s := rfl
@[simp] theorem exec_fwloadFirmware (s : State) : exec (.fwloadFirmware) s = execFwloadFirmware s := rfl
@[simp] theorem exec_fwloadConfiguration (s : State) : exec (.fwloadConfiguration) s = execFwloadConfiguration s := rfl
@[simp] theorem exec_fwloadComplete (s : State) : exec (.fwloadComplete) s = execFwloadComplete s := rfl
@[simp] theorem exec_attestStart (s : State) : exec (.attestStart) s = execAttestStart s := rfl
@[simp] theorem exec_attestComplete (s : State) : exec (.attestComplete) s = execAttestComplete s := rfl
@[simp] theorem exec_lifetimeAppend (s : State) : exec (.lifetimeAppend) s = execLifetimeAppend s := rfl
@[simp] theorem exec_thermalLimit105 (s : State) : exec (.thermalLimit105) s = execThermalLimit105 s := rfl
@[simp] theorem exec_thermalRecover (s : State) : exec (.thermalRecover) s = execThermalRecover s := rfl
@[simp] theorem exec_thermalLimit115 (s : State) : exec (.thermalLimit115) s = execThermalLimit115 s := rfl
@[simp] theorem exec_powerCapStep (s : State) : exec (.powerCapStep) s = execPowerCapStep s := rfl
@[simp] theorem exec_dieIdle (s : State) : exec (.dieIdle) s = execDieIdle s := rfl
@[simp] theorem exec_psReqPs3 (s : State) : exec (.psReqPs3) s = execPsReqPs3 s := rfl
@[simp] theorem exec_psReqNone (s : State) : exec (.psReqNone) s = execPsReqNone s := rfl
@[simp] theorem exec_ps3EntryComplete (s : State) : exec (.ps3EntryComplete) s = execPs3EntryComplete s := rfl
@[simp] theorem exec_ps3WakeComplete (s : State) : exec (.ps3WakeComplete) s = execPs3WakeComplete s := rfl
@[simp] theorem exec_partitionCreate (s : State) : exec (.partitionCreate) s = execPartitionCreate s := rfl
@[simp] theorem exec_partitionDelete (s : State) : exec (.partitionDelete) s = execPartitionDelete s := rfl
@[simp] theorem exec_partitionDeleteComplete (s : State) : exec (.partitionDeleteComplete) s = execPartitionDeleteComplete s := rfl
@[simp] theorem exec_contextKill (s : State) : exec (.contextKill) s = execContextKill s := rfl
@[simp] theorem exec_contextFree (s : State) : exec (.contextFree) s = execContextFree s := rfl
@[simp] theorem exec_expertDisable (s : State) : exec (.expertDisable) s = execExpertDisable s := rfl
@[simp] theorem exec_cxlpSetEnable (s : State) : exec (.cxlpSetEnable) s = execCxlpSetEnable s := rfl
@[simp] theorem exec_cxlpSetDisable (s : State) : exec (.cxlpSetDisable) s = execCxlpSetDisable s := rfl
@[simp] theorem exec_cxlExpanderTimeout (s : State) : exec (.cxlExpanderTimeout) s = execCxlExpanderTimeout s := rfl
@[simp] theorem exec_memoryErrorCorrected (s : State) : exec (.memoryErrorCorrected) s = execMemoryErrorCorrected s := rfl
@[simp] theorem exec_memoryErrorUncorrectable (s : State) : exec (.memoryErrorUncorrectable) s = execMemoryErrorUncorrectable s := rfl
@[simp] theorem exec_workgroupStateError (s : State) : exec (.workgroupStateError) s = execWorkgroupStateError s := rfl
@[simp] theorem exec_hostMwinRead (s : State) : exec (.hostMwinRead) s = execHostMwinRead s := rfl
@[simp] theorem exec_hostMwinWrite (s : State) : exec (.hostMwinWrite) s = execHostMwinWrite s := rfl
@[simp] theorem exec_hostCompletionTimeout (s : State) : exec (.hostCompletionTimeout) s = execHostCompletionTimeout s := rfl
@[simp] theorem exec_sessionOpen (s : State) : exec (.sessionOpen) s = execSessionOpen s := rfl
@[simp] theorem exec_sessionClose (s : State) : exec (.sessionClose) s = execSessionClose s := rfl
@[simp] theorem exec_flitReceive (s : State) : exec (.flitReceive) s = execFlitReceive s := rfl
@[simp] theorem exec_linkRetrainComplete (s : State) : exec (.linkRetrainComplete) s = execLinkRetrainComplete s := rfl
@[simp] theorem exec_stayPortDown (s : State) : exec (.stayPortDown) s = execStayPortDown s := rfl
@[simp] theorem exec_peerRingTimeout (s : State) : exec (.peerRingTimeout) s = execPeerRingTimeout s := rfl
@[simp] theorem exec_queueEnable (s : State) : exec (.queueEnable) s = execQueueEnable s := rfl
@[simp] theorem exec_queueResume (s : State) : exec (.queueResume) s = execQueueResume s := rfl
@[simp] theorem exec_queueDisable (s : State) : exec (.queueDisable) s = execQueueDisable s := rfl
@[simp] theorem exec_hqStatusClear (s : State) : exec (.hqStatusClear) s = execHqStatusClear s := rfl
@[simp] theorem exec_queueNotify (s : State) : exec (.queueNotify) s = execQueueNotify s := rfl
@[simp] theorem exec_recordFetch (s : State) : exec (.recordFetch) s = execRecordFetch s := rfl
@[simp] theorem exec_seqReadReturn (s : State) : exec (.seqReadReturn) s = execSeqReadReturn s := rfl
@[simp] theorem exec_seqRetryTimer (s : State) : exec (.seqRetryTimer) s = execSeqRetryTimer s := rfl
@[simp] theorem exec_seqStallTimeout (s : State) : exec (.seqStallTimeout) s = execSeqStallTimeout s := rfl
@[simp] theorem exec_recordPayloadReturn (s : State) : exec (.recordPayloadReturn) s = execRecordPayloadReturn s := rfl
@[simp] theorem exec_recordWaitPoll (s : State) : exec (.recordWaitPoll) s = execRecordWaitPoll s := rfl
@[simp] theorem exec_recordStart (s : State) : exec (.recordStart) s = execRecordStart s := rfl
@[simp] theorem exec_recordSignal (s : State) : exec (.recordSignal) s = execRecordSignal s := rfl
@[simp] theorem exec_workgroupPlace (s : State) : exec (.workgroupPlace) s = execWorkgroupPlace s := rfl
@[simp] theorem exec_drainReservation (s : State) : exec (.drainReservation) s = execDrainReservation s := rfl
@[simp] theorem exec_coopDieReserve (s : State) : exec (.coopDieReserve) s = execCoopDieReserve s := rfl
@[simp] theorem exec_jibChunkComplete (s : State) : exec (.jibChunkComplete) s = execJibChunkComplete s := rfl
@[simp] theorem exec_resourceRelease (s : State) : exec (.resourceRelease) s = execResourceRelease s := rfl
@[simp] theorem exec_packFlushTimeout (s : State) : exec (.packFlushTimeout) s = execPackFlushTimeout s := rfl
@[simp] theorem exec_splitLift (s : State) : exec (.splitLift) s = execSplitLift s := rfl
@[simp] theorem exec_resultLands (s : State) : exec (.resultLands) s = execResultLands s := rfl
@[simp] theorem exec_storeSettled (s : State) : exec (.storeSettled) s = execStoreSettled s := rfl
@[simp] theorem exec_yieldTimeout (s : State) : exec (.yieldTimeout) s = execYieldTimeout s := rfl
@[simp] theorem exec_sleepExpiry (s : State) : exec (.sleepExpiry) s = execSleepExpiry s := rfl
@[simp] theorem exec_waitePoll (s : State) : exec (.waitePoll) s = execWaitePoll s := rfl
@[simp] theorem exec_quadAtomicWriteback (s : State) : exec (.quadAtomicWriteback) s = execQuadAtomicWriteback s := rfl
@[simp] theorem exec_halyardCommit (s : State) : exec (.halyardCommit) s = execHalyardCommit s := rfl
@[simp] theorem exec_tableRetire (s : State) : exec (.tableRetire) s = execTableRetire s := rfl
@[simp] theorem exec_nodeReadRetry (s : State) : exec (.nodeReadRetry) s = execNodeReadRetry s := rfl
@[simp] theorem exec_tileLoadRetry (s : State) : exec (.tileLoadRetry) s = execTileLoadRetry s := rfl
@[simp] theorem exec_journalApply (s : State) : exec (.journalApply) s = execJournalApply s := rfl
@[simp] theorem exec_sheetChunkComplete (s : State) : exec (.sheetChunkComplete) s = execSheetChunkComplete s := rfl
@[simp] theorem exec_mainsailGrant (s : State) : exec (.mainsailGrant) s = execMainsailGrant s := rfl
@[simp] theorem exec_engineOperationComplete (s : State) : exec (.engineOperationComplete) s = execEngineOperationComplete s := rfl
@[simp] theorem exec_barrierStarved (s : State) : exec (.barrierStarved) s = execBarrierStarved s := rfl
@[simp] theorem exec_contextSliceExpiry (s : State) : exec (.contextSliceExpiry) s = execContextSliceExpiry s := rfl
@[simp] theorem exec_contextPreempt (s : State) : exec (.contextPreempt) s = execContextPreempt s := rfl
@[simp] theorem exec_haltComplete (s : State) : exec (.haltComplete) s = execHaltComplete s := rfl
@[simp] theorem exec_exchangeComplete (s : State) : exec (.exchangeComplete) s = execExchangeComplete s := rfl
@[simp] theorem exec_writebackComplete (s : State) : exec (.writebackComplete) s = execWritebackComplete s := rfl
@[simp] theorem exec_stagingComplete (s : State) : exec (.stagingComplete) s = execStagingComplete s := rfl
@[simp] theorem exec_translationInvalidate (s : State) : exec (.translationInvalidate) s = execTranslationInvalidate s := rfl
@[simp] theorem exec_xltinvComplete (s : State) : exec (.xltinvComplete) s = execXltinvComplete s := rfl
@[simp] theorem exec_handleMint (s : State) : exec (.handleMint) s = execHandleMint s := rfl
@[simp] theorem exec_counterClear (s : State) : exec (.counterClear) s = execCounterClear s := rfl
@[simp] theorem exec_warpRungEntry (s : State) : exec (.warpRungEntry) s = execWarpRungEntry s := rfl
@[simp] theorem exec_workgroupRungEntry (s : State) : exec (.workgroupRungEntry) s = execWorkgroupRungEntry s := rfl
@[simp] theorem exec_contextRungEntry (s : State) : exec (.contextRungEntry) s = execContextRungEntry s := rfl
@[simp] theorem exec_contextResume (s : State) : exec (.contextResume) s = execContextResume s := rfl
@[simp] theorem exec_workgroupEnd (s : State) : exec (.workgroupEnd) s = execWorkgroupEnd s := rfl
@[simp] theorem exec_handlerTimeout (s : State) : exec (.handlerTimeout) s = execHandlerTimeout s := rfl
@[simp] theorem exec_hostResponseTimeout (s : State) : exec (.hostResponseTimeout) s = execHostResponseTimeout s := rfl
@[simp] theorem exec_partitionReset (s : State) : exec (.partitionReset) s = execPartitionReset s := rfl
@[simp] theorem exec_partitionResetTimeout (s : State) : exec (.partitionResetTimeout) s = execPartitionResetTimeout s := rfl
@[simp] theorem exec_rowCacheEviction (s : State) : exec (.rowCacheEviction) s = execRowCacheEviction s := rfl
@[simp] theorem exec_powerLoss (s : State) : exec (.powerLoss) s = execPowerLoss s := rfl
@[simp] theorem exec_stayPortTrained (s : State) : exec (.stayPortTrained) s = execStayPortTrained s := rfl

end Sys2Proof.Machine
end

