-- ==== Sys2Proof/Laws/Issue.lean ====
section
/-! SUPPORT. What the issue of a coded instruction comes to. -/
namespace Sys2Proof.Machine

/-- An instruction that begins has its own effect. -/
theorem State.issueWith_begins {s t : State} {i : Instr} {sw : Bool} {u : Uses} {c : Issue}
    (h : u.begins s i sw = some (c, t)) (body : Issue → State → State) :
    s.issueWith i sw u body = .next (body c t) := by
  unfold Uses.begins at h
  unfold State.issueWith
  cases hi : s.issue? sw with
  | none => simp [hi] at h
  | some d =>
    simp only [hi] at h ⊢
    by_cases hk : u.kept s i d = true
    · simp [hk] at h
    · simp only [hk, Bool.false_eq_true, if_false, Option.map_eq_some_iff, Prod.mk.injEq] at h
      obtain ⟨w, hw, rfl, rfl⟩ := h
      simp only [Uses.kept, Bool.or_eq_true, not_or, Bool.and_eq_true, not_and, Bool.not_eq_true, Option.isSome_eq_false_iff,
        Option.isNone_iff_eq_none] at hk
      obtain ⟨⟨h1, h2⟩, h3⟩ := hk
      rw [h1, h2]
      simp only [Bool.false_eq_true, if_false]
      generalize (u.lanes d &&& ~~~(if u.keyProg = true then 0 else d.doneBefore)) = todo at h3 ⊢
      cases hm : s.checkedMode d with
      | true => simp only [if_true, h3 hm, hw]
      | false => simp only [Bool.false_eq_true, if_false, hw]

/-- The same, with the operands and the next state as a claim writes them. -/
theorem State.issueWith_run {s t r : State} {i : Instr} {sw : Bool} {u u' : Uses} {c : Issue} {body : Issue → State → State}
    (h : u.begins s i sw = some (c, t)) (hu : u' = u) (hr : body c t = r) : s.issueWith i sw u' body = .next r := by
  subst hu hr
  exact State.issueWith_begins h body

end Sys2Proof.Machine
end

