-- ==== Sys2Proof/Laws/State.lean ====
section
/-! SUPPORT. What each updater of the state leaves alone, field by field. -/
namespace Sys2Proof.Machine

variable (s : State)

/-! ## modWarp -/

@[simp] theorem State.modWarp_agenda (id : Nat) (f : Warp → Warp) : (s.modWarp id f).agenda = s.agenda := rfl
@[simp] theorem State.modWarp_deferred (id : Nat) (f : Warp → Warp) : (s.modWarp id f).deferred = s.deferred := rfl
@[simp] theorem State.modWarp_args (id : Nat) (f : Warp → Warp) : (s.modWarp id f).args = s.args := rfl
@[simp] theorem State.modWarp_cur (id : Nat) (f : Warp → Warp) : (s.modWarp id f).cur = s.cur := rfl
@[simp] theorem State.modWarp_turn (id : Nat) (f : Warp → Warp) : (s.modWarp id f).turn = s.turn := rfl
@[simp] theorem State.modWarp_free (id : Nat) (f : Warp → Warp) : (s.modWarp id f).free = s.free := rfl
@[simp] theorem State.modWarp_cycle (id : Nat) (f : Warp → Warp) : (s.modWarp id f).cycle = s.cycle := rfl
@[simp] theorem State.modWarp_bootStage (id : Nat) (f : Warp → Warp) : (s.modWarp id f).bootStage = s.bootStage := rfl
@[simp] theorem State.modWarp_bootErr (id : Nat) (f : Warp → Warp) : (s.modWarp id f).bootErr = s.bootErr := rfl
@[simp] theorem State.modWarp_devEvt (id : Nat) (f : Warp → Warp) : (s.modWarp id f).devEvt = s.devEvt := rfl
@[simp] theorem State.modWarp_cfgVersion (id : Nat) (f : Warp → Warp) : (s.modWarp id f).cfgVersion = s.cfgVersion := rfl
@[simp] theorem State.modWarp_fwVersion (id : Nat) (f : Warp → Warp) : (s.modWarp id f).fwVersion = s.fwVersion := rfl
@[simp] theorem State.modWarp_fwRollback (id : Nat) (f : Warp → Warp) : (s.modWarp id f).fwRollback = s.fwRollback := rfl
@[simp] theorem State.modWarp_cfgRollback (id : Nat) (f : Warp → Warp) : (s.modWarp id f).cfgRollback = s.cfgRollback := rfl
@[simp] theorem State.modWarp_fwPtr (id : Nat) (f : Warp → Warp) : (s.modWarp id f).fwPtr = s.fwPtr := rfl
@[simp] theorem State.modWarp_fwLen (id : Nat) (f : Warp → Warp) : (s.modWarp id f).fwLen = s.fwLen := rfl
@[simp] theorem State.modWarp_fwGo (id : Nat) (f : Warp → Warp) : (s.modWarp id f).fwGo = s.fwGo := rfl
@[simp] theorem State.modWarp_fwKind (id : Nat) (f : Warp → Warp) : (s.modWarp id f).fwKind = s.fwKind := rfl
@[simp] theorem State.modWarp_fwResult (id : Nat) (f : Warp → Warp) : (s.modWarp id f).fwResult = s.fwResult := rfl
@[simp] theorem State.modWarp_flashFw (id : Nat) (f : Warp → Warp) : (s.modWarp id f).flashFw = s.flashFw := rfl
@[simp] theorem State.modWarp_flashCfg (id : Nat) (f : Warp → Warp) : (s.modWarp id f).flashCfg = s.flashCfg := rfl
@[simp] theorem State.modWarp_attNonce (id : Nat) (f : Warp → Warp) : (s.modWarp id f).attNonce = s.attNonce := rfl
@[simp] theorem State.modWarp_attGo (id : Nat) (f : Warp → Warp) : (s.modWarp id f).attGo = s.attGo := rfl
@[simp] theorem State.modWarp_attLen (id : Nat) (f : Warp → Warp) : (s.modWarp id f).attLen = s.attLen := rfl
@[simp] theorem State.modWarp_attReport (id : Nat) (f : Warp → Warp) : (s.modWarp id f).attReport = s.attReport := rfl
@[simp] theorem State.modWarp_pwrCap (id : Nat) (f : Warp → Warp) : (s.modWarp id f).pwrCap = s.pwrCap := rfl
@[simp] theorem State.modWarp_capMax (id : Nat) (f : Warp → Warp) : (s.modWarp id f).capMax = s.capMax := rfl
@[simp] theorem State.modWarp_pkgState (id : Nat) (f : Warp → Warp) : (s.modWarp id f).pkgState = s.pkgState := rfl
@[simp] theorem State.modWarp_ps1Cap (id : Nat) (f : Warp → Warp) : (s.modWarp id f).ps1Cap = s.ps1Cap := rfl
@[simp] theorem State.modWarp_ps1Heat (id : Nat) (f : Warp → Warp) : (s.modWarp id f).ps1Heat = s.ps1Heat := rfl
@[simp] theorem State.modWarp_ps2 (id : Nat) (f : Warp → Warp) : (s.modWarp id f).ps2 = s.ps2 := rfl
@[simp] theorem State.modWarp_pwrRefused (id : Nat) (f : Warp → Warp) : (s.modWarp id f).pwrRefused = s.pwrRefused := rfl
@[simp] theorem State.modWarp_clk (id : Nat) (f : Warp → Warp) : (s.modWarp id f).clk = s.clk := rfl
@[simp] theorem State.modWarp_off (id : Nat) (f : Warp → Warp) : (s.modWarp id f).off = s.off := rfl
@[simp] theorem State.modWarp_podIndex (id : Nat) (f : Warp → Warp) : (s.modWarp id f).podIndex = s.podIndex := rfl
@[simp] theorem State.modWarp_ringTimeout (id : Nat) (f : Warp → Warp) : (s.modWarp id f).ringTimeout = s.ringTimeout := rfl
@[simp] theorem State.modWarp_ports (id : Nat) (f : Warp → Warp) : (s.modWarp id f).ports = s.ports := rfl
@[simp] theorem State.modWarp_peerDown (id : Nat) (f : Warp → Warp) : (s.modWarp id f).peerDown = s.peerDown := rfl
@[simp] theorem State.modWarp_dieOn (id : Nat) (f : Warp → Warp) : (s.modWarp id f).dieOn = s.dieOn := rfl
@[simp] theorem State.modWarp_clkMax (id : Nat) (f : Warp → Warp) : (s.modWarp id f).clkMax = s.clkMax := rfl
@[simp] theorem State.modWarp_planes (id : Nat) (f : Warp → Warp) : (s.modWarp id f).planes = s.planes := rfl
@[simp] theorem State.modWarp_cxlPorts (id : Nat) (f : Warp → Warp) : (s.modWarp id f).cxlPorts = s.cxlPorts := rfl
@[simp] theorem State.modWarp_cxlSets (id : Nat) (f : Warp → Warp) : (s.modWarp id f).cxlSets = s.cxlSets := rfl
@[simp] theorem State.modWarp_msix (id : Nat) (f : Warp → Warp) : (s.modWarp id f).msix = s.msix := rfl
@[simp] theorem State.modWarp_irqs (id : Nat) (f : Warp → Warp) : (s.modWarp id f).irqs = s.irqs := rfl
@[simp] theorem State.modWarp_hostReply (id : Nat) (f : Warp → Warp) : (s.modWarp id f).hostReply = s.hostReply := rfl
@[simp] theorem State.modWarp_life (id : Nat) (f : Warp → Warp) : (s.modWarp id f).life = s.life := rfl
@[simp] theorem State.modWarp_lifeNow (id : Nat) (f : Warp → Warp) : (s.modWarp id f).lifeNow = s.lifeNow := rfl
@[simp] theorem State.modWarp_lifeSeq (id : Nat) (f : Warp → Warp) : (s.modWarp id f).lifeSeq = s.lifeSeq := rfl
@[simp] theorem State.modWarp_lifeCap (id : Nat) (f : Warp → Warp) : (s.modWarp id f).lifeCap = s.lifeCap := rfl
@[simp] theorem State.modWarp_lifeAt (id : Nat) (f : Warp → Warp) : (s.modWarp id f).lifeAt = s.lifeAt := rfl
@[simp] theorem State.modWarp_stormNow (id : Nat) (f : Warp → Warp) : (s.modWarp id f).stormNow = s.stormNow := rfl
@[simp] theorem State.modWarp_coreCounters (id : Nat) (f : Warp → Warp) : (s.modWarp id f).coreCounters = s.coreCounters := rfl
@[simp] theorem State.modWarp_tableCounters (id : Nat) (f : Warp → Warp) : (s.modWarp id f).tableCounters = s.tableCounters := rfl
@[simp] theorem State.modWarp_parts (id : Nat) (f : Warp → Warp) : (s.modWarp id f).parts = s.parts := rfl
@[simp] theorem State.modWarp_draws (id : Nat) (f : Warp → Warp) : (s.modWarp id f).draws = s.draws := rfl
@[simp] theorem State.modWarp_mem (id : Nat) (f : Warp → Warp) : (s.modWarp id f).mem = s.mem := rfl
@[simp] theorem State.modWarp_host (id : Nat) (f : Warp → Warp) : (s.modWarp id f).host = s.host := rfl
@[simp] theorem State.modWarp_hostDead (id : Nat) (f : Warp → Warp) : (s.modWarp id f).hostDead = s.hostDead := rfl
@[simp] theorem State.modWarp_poison (id : Nat) (f : Warp → Warp) : (s.modWarp id f).poison = s.poison := rfl
@[simp] theorem State.modWarp_pool (id : Nat) (f : Warp → Warp) : (s.modWarp id f).pool = s.pool := rfl
@[simp] theorem State.modWarp_poolBack (id : Nat) (f : Warp → Warp) : (s.modWarp id f).poolBack = s.poolBack := rfl
@[simp] theorem State.modWarp_cache (id : Nat) (f : Warp → Warp) : (s.modWarp id f).cache = s.cache := rfl
@[simp] theorem State.modWarp_held (id : Nat) (f : Warp → Warp) : (s.modWarp id f).held = s.held := rfl
@[simp] theorem State.modWarp_journal (id : Nat) (f : Warp → Warp) : (s.modWarp id f).journal = s.journal := rfl
@[simp] theorem State.modWarp_latch (id : Nat) (f : Warp → Warp) : (s.modWarp id f).latch = s.latch := rfl
@[simp] theorem State.modWarp_tlb (id : Nat) (f : Warp → Warp) : (s.modWarp id f).tlb = s.tlb := rfl
@[simp] theorem State.modWarp_walks (id : Nat) (f : Warp → Warp) : (s.modWarp id f).walks = s.walks := rfl
@[simp] theorem State.modWarp_owners (id : Nat) (f : Warp → Warp) : (s.modWarp id f).owners = s.owners := rfl
@[simp] theorem State.modWarp_nudged (id : Nat) (f : Warp → Warp) : (s.modWarp id f).nudged = s.nudged := rfl
@[simp] theorem State.modWarp_descs (id : Nat) (f : Warp → Warp) : (s.modWarp id f).descs = s.descs := rfl
@[simp] theorem State.modWarp_stale (id : Nat) (f : Warp → Warp) : (s.modWarp id f).stale = s.stale := rfl
@[simp] theorem State.modWarp_locks (id : Nat) (f : Warp → Warp) : (s.modWarp id f).locks = s.locks := rfl
@[simp] theorem State.modWarp_stamps (id : Nat) (f : Warp → Warp) : (s.modWarp id f).stamps = s.stamps := rfl
@[simp] theorem State.modWarp_launches (id : Nat) (f : Warp → Warp) : (s.modWarp id f).launches = s.launches := rfl
@[simp] theorem State.modWarp_reservations (id : Nat) (f : Warp → Warp) : (s.modWarp id f).reservations = s.reservations := rfl
@[simp] theorem State.modWarp_bins (id : Nat) (f : Warp → Warp) : (s.modWarp id f).bins = s.bins := rfl
@[simp] theorem State.modWarp_wgs (id : Nat) (f : Warp → Warp) : (s.modWarp id f).wgs = s.wgs := rfl
@[simp] theorem State.modWarp_jobs (id : Nat) (f : Warp → Warp) : (s.modWarp id f).jobs = s.jobs := rfl
@[simp] theorem State.modWarp_tableReqs (id : Nat) (f : Warp → Warp) : (s.modWarp id f).tableReqs = s.tableReqs := rfl
@[simp] theorem State.modWarp_lookups (id : Nat) (f : Warp → Warp) : (s.modWarp id f).lookups = s.lookups := rfl
@[simp] theorem State.modWarp_retiring (id : Nat) (f : Warp → Warp) : (s.modWarp id f).retiring = s.retiring := rfl
@[simp] theorem State.modWarp_exts (id : Nat) (f : Warp → Warp) : (s.modWarp id f).exts = s.exts := rfl
@[simp] theorem State.modWarp_inbox (id : Nat) (f : Warp → Warp) : (s.modWarp id f).inbox = s.inbox := rfl
@[simp] theorem State.modWarp_windows (id : Nat) (f : Warp → Warp) : (s.modWarp id f).windows = s.windows := rfl
@[simp] theorem State.modWarp_lost (id : Nat) (f : Warp → Warp) : (s.modWarp id f).lost = s.lost := rfl
@[simp] theorem State.modWarp_probed (id : Nat) (f : Warp → Warp) : (s.modWarp id f).probed = s.probed := rfl
@[simp] theorem State.modWarp_retired (id : Nat) (f : Warp → Warp) : (s.modWarp id f).retired = s.retired := rfl
@[simp] theorem State.modWarp_nextId (id : Nat) (f : Warp → Warp) : (s.modWarp id f).nextId = s.nextId := rfl

/-! ## modSplit -/

@[simp] theorem State.modSplit_agenda (id : SplitId) (f : Split → Split) : (s.modSplit id f).agenda = s.agenda := rfl
@[simp] theorem State.modSplit_deferred (id : SplitId) (f : Split → Split) : (s.modSplit id f).deferred = s.deferred := rfl
@[simp] theorem State.modSplit_args (id : SplitId) (f : Split → Split) : (s.modSplit id f).args = s.args := rfl
@[simp] theorem State.modSplit_cur (id : SplitId) (f : Split → Split) : (s.modSplit id f).cur = s.cur := rfl
@[simp] theorem State.modSplit_turn (id : SplitId) (f : Split → Split) : (s.modSplit id f).turn = s.turn := rfl
@[simp] theorem State.modSplit_free (id : SplitId) (f : Split → Split) : (s.modSplit id f).free = s.free := rfl
@[simp] theorem State.modSplit_cycle (id : SplitId) (f : Split → Split) : (s.modSplit id f).cycle = s.cycle := rfl
@[simp] theorem State.modSplit_bootStage (id : SplitId) (f : Split → Split) : (s.modSplit id f).bootStage = s.bootStage := rfl
@[simp] theorem State.modSplit_bootErr (id : SplitId) (f : Split → Split) : (s.modSplit id f).bootErr = s.bootErr := rfl
@[simp] theorem State.modSplit_devEvt (id : SplitId) (f : Split → Split) : (s.modSplit id f).devEvt = s.devEvt := rfl
@[simp] theorem State.modSplit_cfgVersion (id : SplitId) (f : Split → Split) : (s.modSplit id f).cfgVersion = s.cfgVersion := rfl
@[simp] theorem State.modSplit_fwVersion (id : SplitId) (f : Split → Split) : (s.modSplit id f).fwVersion = s.fwVersion := rfl
@[simp] theorem State.modSplit_fwRollback (id : SplitId) (f : Split → Split) : (s.modSplit id f).fwRollback = s.fwRollback := rfl
@[simp] theorem State.modSplit_cfgRollback (id : SplitId) (f : Split → Split) : (s.modSplit id f).cfgRollback = s.cfgRollback := rfl
@[simp] theorem State.modSplit_fwPtr (id : SplitId) (f : Split → Split) : (s.modSplit id f).fwPtr = s.fwPtr := rfl
@[simp] theorem State.modSplit_fwLen (id : SplitId) (f : Split → Split) : (s.modSplit id f).fwLen = s.fwLen := rfl
@[simp] theorem State.modSplit_fwGo (id : SplitId) (f : Split → Split) : (s.modSplit id f).fwGo = s.fwGo := rfl
@[simp] theorem State.modSplit_fwKind (id : SplitId) (f : Split → Split) : (s.modSplit id f).fwKind = s.fwKind := rfl
@[simp] theorem State.modSplit_fwResult (id : SplitId) (f : Split → Split) : (s.modSplit id f).fwResult = s.fwResult := rfl
@[simp] theorem State.modSplit_flashFw (id : SplitId) (f : Split → Split) : (s.modSplit id f).flashFw = s.flashFw := rfl
@[simp] theorem State.modSplit_flashCfg (id : SplitId) (f : Split → Split) : (s.modSplit id f).flashCfg = s.flashCfg := rfl
@[simp] theorem State.modSplit_attNonce (id : SplitId) (f : Split → Split) : (s.modSplit id f).attNonce = s.attNonce := rfl
@[simp] theorem State.modSplit_attGo (id : SplitId) (f : Split → Split) : (s.modSplit id f).attGo = s.attGo := rfl
@[simp] theorem State.modSplit_attLen (id : SplitId) (f : Split → Split) : (s.modSplit id f).attLen = s.attLen := rfl
@[simp] theorem State.modSplit_attReport (id : SplitId) (f : Split → Split) : (s.modSplit id f).attReport = s.attReport := rfl
@[simp] theorem State.modSplit_pwrCap (id : SplitId) (f : Split → Split) : (s.modSplit id f).pwrCap = s.pwrCap := rfl
@[simp] theorem State.modSplit_capMax (id : SplitId) (f : Split → Split) : (s.modSplit id f).capMax = s.capMax := rfl
@[simp] theorem State.modSplit_pkgState (id : SplitId) (f : Split → Split) : (s.modSplit id f).pkgState = s.pkgState := rfl
@[simp] theorem State.modSplit_ps1Cap (id : SplitId) (f : Split → Split) : (s.modSplit id f).ps1Cap = s.ps1Cap := rfl
@[simp] theorem State.modSplit_ps1Heat (id : SplitId) (f : Split → Split) : (s.modSplit id f).ps1Heat = s.ps1Heat := rfl
@[simp] theorem State.modSplit_ps2 (id : SplitId) (f : Split → Split) : (s.modSplit id f).ps2 = s.ps2 := rfl
@[simp] theorem State.modSplit_pwrRefused (id : SplitId) (f : Split → Split) : (s.modSplit id f).pwrRefused = s.pwrRefused := rfl
@[simp] theorem State.modSplit_clk (id : SplitId) (f : Split → Split) : (s.modSplit id f).clk = s.clk := rfl
@[simp] theorem State.modSplit_off (id : SplitId) (f : Split → Split) : (s.modSplit id f).off = s.off := rfl
@[simp] theorem State.modSplit_podIndex (id : SplitId) (f : Split → Split) : (s.modSplit id f).podIndex = s.podIndex := rfl
@[simp] theorem State.modSplit_ringTimeout (id : SplitId) (f : Split → Split) : (s.modSplit id f).ringTimeout = s.ringTimeout := rfl
@[simp] theorem State.modSplit_ports (id : SplitId) (f : Split → Split) : (s.modSplit id f).ports = s.ports := rfl
@[simp] theorem State.modSplit_peerDown (id : SplitId) (f : Split → Split) : (s.modSplit id f).peerDown = s.peerDown := rfl
@[simp] theorem State.modSplit_dieOn (id : SplitId) (f : Split → Split) : (s.modSplit id f).dieOn = s.dieOn := rfl
@[simp] theorem State.modSplit_clkMax (id : SplitId) (f : Split → Split) : (s.modSplit id f).clkMax = s.clkMax := rfl
@[simp] theorem State.modSplit_planes (id : SplitId) (f : Split → Split) : (s.modSplit id f).planes = s.planes := rfl
@[simp] theorem State.modSplit_cxlPorts (id : SplitId) (f : Split → Split) : (s.modSplit id f).cxlPorts = s.cxlPorts := rfl
@[simp] theorem State.modSplit_cxlSets (id : SplitId) (f : Split → Split) : (s.modSplit id f).cxlSets = s.cxlSets := rfl
@[simp] theorem State.modSplit_msix (id : SplitId) (f : Split → Split) : (s.modSplit id f).msix = s.msix := rfl
@[simp] theorem State.modSplit_irqs (id : SplitId) (f : Split → Split) : (s.modSplit id f).irqs = s.irqs := rfl
@[simp] theorem State.modSplit_hostReply (id : SplitId) (f : Split → Split) : (s.modSplit id f).hostReply = s.hostReply := rfl
@[simp] theorem State.modSplit_life (id : SplitId) (f : Split → Split) : (s.modSplit id f).life = s.life := rfl
@[simp] theorem State.modSplit_lifeNow (id : SplitId) (f : Split → Split) : (s.modSplit id f).lifeNow = s.lifeNow := rfl
@[simp] theorem State.modSplit_lifeSeq (id : SplitId) (f : Split → Split) : (s.modSplit id f).lifeSeq = s.lifeSeq := rfl
@[simp] theorem State.modSplit_lifeCap (id : SplitId) (f : Split → Split) : (s.modSplit id f).lifeCap = s.lifeCap := rfl
@[simp] theorem State.modSplit_lifeAt (id : SplitId) (f : Split → Split) : (s.modSplit id f).lifeAt = s.lifeAt := rfl
@[simp] theorem State.modSplit_stormNow (id : SplitId) (f : Split → Split) : (s.modSplit id f).stormNow = s.stormNow := rfl
@[simp] theorem State.modSplit_coreCounters (id : SplitId) (f : Split → Split) : (s.modSplit id f).coreCounters = s.coreCounters := rfl
@[simp] theorem State.modSplit_tableCounters (id : SplitId) (f : Split → Split) : (s.modSplit id f).tableCounters = s.tableCounters := rfl
@[simp] theorem State.modSplit_parts (id : SplitId) (f : Split → Split) : (s.modSplit id f).parts = s.parts := rfl
@[simp] theorem State.modSplit_draws (id : SplitId) (f : Split → Split) : (s.modSplit id f).draws = s.draws := rfl
@[simp] theorem State.modSplit_mem (id : SplitId) (f : Split → Split) : (s.modSplit id f).mem = s.mem := rfl
@[simp] theorem State.modSplit_host (id : SplitId) (f : Split → Split) : (s.modSplit id f).host = s.host := rfl
@[simp] theorem State.modSplit_hostDead (id : SplitId) (f : Split → Split) : (s.modSplit id f).hostDead = s.hostDead := rfl
@[simp] theorem State.modSplit_poison (id : SplitId) (f : Split → Split) : (s.modSplit id f).poison = s.poison := rfl
@[simp] theorem State.modSplit_pool (id : SplitId) (f : Split → Split) : (s.modSplit id f).pool = s.pool := rfl
@[simp] theorem State.modSplit_poolBack (id : SplitId) (f : Split → Split) : (s.modSplit id f).poolBack = s.poolBack := rfl
@[simp] theorem State.modSplit_cache (id : SplitId) (f : Split → Split) : (s.modSplit id f).cache = s.cache := rfl
@[simp] theorem State.modSplit_held (id : SplitId) (f : Split → Split) : (s.modSplit id f).held = s.held := rfl
@[simp] theorem State.modSplit_journal (id : SplitId) (f : Split → Split) : (s.modSplit id f).journal = s.journal := rfl
@[simp] theorem State.modSplit_latch (id : SplitId) (f : Split → Split) : (s.modSplit id f).latch = s.latch := rfl
@[simp] theorem State.modSplit_tlb (id : SplitId) (f : Split → Split) : (s.modSplit id f).tlb = s.tlb := rfl
@[simp] theorem State.modSplit_walks (id : SplitId) (f : Split → Split) : (s.modSplit id f).walks = s.walks := rfl
@[simp] theorem State.modSplit_owners (id : SplitId) (f : Split → Split) : (s.modSplit id f).owners = s.owners := rfl
@[simp] theorem State.modSplit_nudged (id : SplitId) (f : Split → Split) : (s.modSplit id f).nudged = s.nudged := rfl
@[simp] theorem State.modSplit_descs (id : SplitId) (f : Split → Split) : (s.modSplit id f).descs = s.descs := rfl
@[simp] theorem State.modSplit_stale (id : SplitId) (f : Split → Split) : (s.modSplit id f).stale = s.stale := rfl
@[simp] theorem State.modSplit_locks (id : SplitId) (f : Split → Split) : (s.modSplit id f).locks = s.locks := rfl
@[simp] theorem State.modSplit_stamps (id : SplitId) (f : Split → Split) : (s.modSplit id f).stamps = s.stamps := rfl
@[simp] theorem State.modSplit_launches (id : SplitId) (f : Split → Split) : (s.modSplit id f).launches = s.launches := rfl
@[simp] theorem State.modSplit_reservations (id : SplitId) (f : Split → Split) : (s.modSplit id f).reservations = s.reservations := rfl
@[simp] theorem State.modSplit_bins (id : SplitId) (f : Split → Split) : (s.modSplit id f).bins = s.bins := rfl
@[simp] theorem State.modSplit_wgs (id : SplitId) (f : Split → Split) : (s.modSplit id f).wgs = s.wgs := rfl
@[simp] theorem State.modSplit_jobs (id : SplitId) (f : Split → Split) : (s.modSplit id f).jobs = s.jobs := rfl
@[simp] theorem State.modSplit_tableReqs (id : SplitId) (f : Split → Split) : (s.modSplit id f).tableReqs = s.tableReqs := rfl
@[simp] theorem State.modSplit_lookups (id : SplitId) (f : Split → Split) : (s.modSplit id f).lookups = s.lookups := rfl
@[simp] theorem State.modSplit_retiring (id : SplitId) (f : Split → Split) : (s.modSplit id f).retiring = s.retiring := rfl
@[simp] theorem State.modSplit_exts (id : SplitId) (f : Split → Split) : (s.modSplit id f).exts = s.exts := rfl
@[simp] theorem State.modSplit_inbox (id : SplitId) (f : Split → Split) : (s.modSplit id f).inbox = s.inbox := rfl
@[simp] theorem State.modSplit_windows (id : SplitId) (f : Split → Split) : (s.modSplit id f).windows = s.windows := rfl
@[simp] theorem State.modSplit_lost (id : SplitId) (f : Split → Split) : (s.modSplit id f).lost = s.lost := rfl
@[simp] theorem State.modSplit_probed (id : SplitId) (f : Split → Split) : (s.modSplit id f).probed = s.probed := rfl
@[simp] theorem State.modSplit_retired (id : SplitId) (f : Split → Split) : (s.modSplit id f).retired = s.retired := rfl
@[simp] theorem State.modSplit_nextId (id : SplitId) (f : Split → Split) : (s.modSplit id f).nextId = s.nextId := rfl

/-! ## modWg -/

@[simp] theorem State.modWg_agenda (id : Nat) (f : Workgroup → Workgroup) : (s.modWg id f).agenda = s.agenda := rfl
@[simp] theorem State.modWg_deferred (id : Nat) (f : Workgroup → Workgroup) : (s.modWg id f).deferred = s.deferred := rfl
@[simp] theorem State.modWg_args (id : Nat) (f : Workgroup → Workgroup) : (s.modWg id f).args = s.args := rfl
@[simp] theorem State.modWg_cur (id : Nat) (f : Workgroup → Workgroup) : (s.modWg id f).cur = s.cur := rfl
@[simp] theorem State.modWg_turn (id : Nat) (f : Workgroup → Workgroup) : (s.modWg id f).turn = s.turn := rfl
@[simp] theorem State.modWg_free (id : Nat) (f : Workgroup → Workgroup) : (s.modWg id f).free = s.free := rfl
@[simp] theorem State.modWg_cycle (id : Nat) (f : Workgroup → Workgroup) : (s.modWg id f).cycle = s.cycle := rfl
@[simp] theorem State.modWg_bootStage (id : Nat) (f : Workgroup → Workgroup) : (s.modWg id f).bootStage = s.bootStage := rfl
@[simp] theorem State.modWg_bootErr (id : Nat) (f : Workgroup → Workgroup) : (s.modWg id f).bootErr = s.bootErr := rfl
@[simp] theorem State.modWg_devEvt (id : Nat) (f : Workgroup → Workgroup) : (s.modWg id f).devEvt = s.devEvt := rfl
@[simp] theorem State.modWg_cfgVersion (id : Nat) (f : Workgroup → Workgroup) : (s.modWg id f).cfgVersion = s.cfgVersion := rfl
@[simp] theorem State.modWg_fwVersion (id : Nat) (f : Workgroup → Workgroup) : (s.modWg id f).fwVersion = s.fwVersion := rfl
@[simp] theorem State.modWg_fwRollback (id : Nat) (f : Workgroup → Workgroup) : (s.modWg id f).fwRollback = s.fwRollback := rfl
@[simp] theorem State.modWg_cfgRollback (id : Nat) (f : Workgroup → Workgroup) : (s.modWg id f).cfgRollback = s.cfgRollback := rfl
@[simp] theorem State.modWg_fwPtr (id : Nat) (f : Workgroup → Workgroup) : (s.modWg id f).fwPtr = s.fwPtr := rfl
@[simp] theorem State.modWg_fwLen (id : Nat) (f : Workgroup → Workgroup) : (s.modWg id f).fwLen = s.fwLen := rfl
@[simp] theorem State.modWg_fwGo (id : Nat) (f : Workgroup → Workgroup) : (s.modWg id f).fwGo = s.fwGo := rfl
@[simp] theorem State.modWg_fwKind (id : Nat) (f : Workgroup → Workgroup) : (s.modWg id f).fwKind = s.fwKind := rfl
@[simp] theorem State.modWg_fwResult (id : Nat) (f : Workgroup → Workgroup) : (s.modWg id f).fwResult = s.fwResult := rfl
@[simp] theorem State.modWg_flashFw (id : Nat) (f : Workgroup → Workgroup) : (s.modWg id f).flashFw = s.flashFw := rfl
@[simp] theorem State.modWg_flashCfg (id : Nat) (f : Workgroup → Workgroup) : (s.modWg id f).flashCfg = s.flashCfg := rfl
@[simp] theorem State.modWg_attNonce (id : Nat) (f : Workgroup → Workgroup) : (s.modWg id f).attNonce = s.attNonce := rfl
@[simp] theorem State.modWg_attGo (id : Nat) (f : Workgroup → Workgroup) : (s.modWg id f).attGo = s.attGo := rfl
@[simp] theorem State.modWg_attLen (id : Nat) (f : Workgroup → Workgroup) : (s.modWg id f).attLen = s.attLen := rfl
@[simp] theorem State.modWg_attReport (id : Nat) (f : Workgroup → Workgroup) : (s.modWg id f).attReport = s.attReport := rfl
@[simp] theorem State.modWg_pwrCap (id : Nat) (f : Workgroup → Workgroup) : (s.modWg id f).pwrCap = s.pwrCap := rfl
@[simp] theorem State.modWg_capMax (id : Nat) (f : Workgroup → Workgroup) : (s.modWg id f).capMax = s.capMax := rfl
@[simp] theorem State.modWg_pkgState (id : Nat) (f : Workgroup → Workgroup) : (s.modWg id f).pkgState = s.pkgState := rfl
@[simp] theorem State.modWg_ps1Cap (id : Nat) (f : Workgroup → Workgroup) : (s.modWg id f).ps1Cap = s.ps1Cap := rfl
@[simp] theorem State.modWg_ps1Heat (id : Nat) (f : Workgroup → Workgroup) : (s.modWg id f).ps1Heat = s.ps1Heat := rfl
@[simp] theorem State.modWg_ps2 (id : Nat) (f : Workgroup → Workgroup) : (s.modWg id f).ps2 = s.ps2 := rfl
@[simp] theorem State.modWg_pwrRefused (id : Nat) (f : Workgroup → Workgroup) : (s.modWg id f).pwrRefused = s.pwrRefused := rfl
@[simp] theorem State.modWg_clk (id : Nat) (f : Workgroup → Workgroup) : (s.modWg id f).clk = s.clk := rfl
@[simp] theorem State.modWg_off (id : Nat) (f : Workgroup → Workgroup) : (s.modWg id f).off = s.off := rfl
@[simp] theorem State.modWg_podIndex (id : Nat) (f : Workgroup → Workgroup) : (s.modWg id f).podIndex = s.podIndex := rfl
@[simp] theorem State.modWg_ringTimeout (id : Nat) (f : Workgroup → Workgroup) : (s.modWg id f).ringTimeout = s.ringTimeout := rfl
@[simp] theorem State.modWg_ports (id : Nat) (f : Workgroup → Workgroup) : (s.modWg id f).ports = s.ports := rfl
@[simp] theorem State.modWg_peerDown (id : Nat) (f : Workgroup → Workgroup) : (s.modWg id f).peerDown = s.peerDown := rfl
@[simp] theorem State.modWg_dieOn (id : Nat) (f : Workgroup → Workgroup) : (s.modWg id f).dieOn = s.dieOn := rfl
@[simp] theorem State.modWg_clkMax (id : Nat) (f : Workgroup → Workgroup) : (s.modWg id f).clkMax = s.clkMax := rfl
@[simp] theorem State.modWg_planes (id : Nat) (f : Workgroup → Workgroup) : (s.modWg id f).planes = s.planes := rfl
@[simp] theorem State.modWg_cxlPorts (id : Nat) (f : Workgroup → Workgroup) : (s.modWg id f).cxlPorts = s.cxlPorts := rfl
@[simp] theorem State.modWg_cxlSets (id : Nat) (f : Workgroup → Workgroup) : (s.modWg id f).cxlSets = s.cxlSets := rfl
@[simp] theorem State.modWg_msix (id : Nat) (f : Workgroup → Workgroup) : (s.modWg id f).msix = s.msix := rfl
@[simp] theorem State.modWg_irqs (id : Nat) (f : Workgroup → Workgroup) : (s.modWg id f).irqs = s.irqs := rfl
@[simp] theorem State.modWg_hostReply (id : Nat) (f : Workgroup → Workgroup) : (s.modWg id f).hostReply = s.hostReply := rfl
@[simp] theorem State.modWg_life (id : Nat) (f : Workgroup → Workgroup) : (s.modWg id f).life = s.life := rfl
@[simp] theorem State.modWg_lifeNow (id : Nat) (f : Workgroup → Workgroup) : (s.modWg id f).lifeNow = s.lifeNow := rfl
@[simp] theorem State.modWg_lifeSeq (id : Nat) (f : Workgroup → Workgroup) : (s.modWg id f).lifeSeq = s.lifeSeq := rfl
@[simp] theorem State.modWg_lifeCap (id : Nat) (f : Workgroup → Workgroup) : (s.modWg id f).lifeCap = s.lifeCap := rfl
@[simp] theorem State.modWg_lifeAt (id : Nat) (f : Workgroup → Workgroup) : (s.modWg id f).lifeAt = s.lifeAt := rfl
@[simp] theorem State.modWg_stormNow (id : Nat) (f : Workgroup → Workgroup) : (s.modWg id f).stormNow = s.stormNow := rfl
@[simp] theorem State.modWg_coreCounters (id : Nat) (f : Workgroup → Workgroup) : (s.modWg id f).coreCounters = s.coreCounters := rfl
@[simp] theorem State.modWg_tableCounters (id : Nat) (f : Workgroup → Workgroup) : (s.modWg id f).tableCounters = s.tableCounters := rfl
@[simp] theorem State.modWg_parts (id : Nat) (f : Workgroup → Workgroup) : (s.modWg id f).parts = s.parts := rfl
@[simp] theorem State.modWg_draws (id : Nat) (f : Workgroup → Workgroup) : (s.modWg id f).draws = s.draws := rfl
@[simp] theorem State.modWg_mem (id : Nat) (f : Workgroup → Workgroup) : (s.modWg id f).mem = s.mem := rfl
@[simp] theorem State.modWg_host (id : Nat) (f : Workgroup → Workgroup) : (s.modWg id f).host = s.host := rfl
@[simp] theorem State.modWg_hostDead (id : Nat) (f : Workgroup → Workgroup) : (s.modWg id f).hostDead = s.hostDead := rfl
@[simp] theorem State.modWg_poison (id : Nat) (f : Workgroup → Workgroup) : (s.modWg id f).poison = s.poison := rfl
@[simp] theorem State.modWg_pool (id : Nat) (f : Workgroup → Workgroup) : (s.modWg id f).pool = s.pool := rfl
@[simp] theorem State.modWg_poolBack (id : Nat) (f : Workgroup → Workgroup) : (s.modWg id f).poolBack = s.poolBack := rfl
@[simp] theorem State.modWg_cache (id : Nat) (f : Workgroup → Workgroup) : (s.modWg id f).cache = s.cache := rfl
@[simp] theorem State.modWg_held (id : Nat) (f : Workgroup → Workgroup) : (s.modWg id f).held = s.held := rfl
@[simp] theorem State.modWg_journal (id : Nat) (f : Workgroup → Workgroup) : (s.modWg id f).journal = s.journal := rfl
@[simp] theorem State.modWg_latch (id : Nat) (f : Workgroup → Workgroup) : (s.modWg id f).latch = s.latch := rfl
@[simp] theorem State.modWg_tlb (id : Nat) (f : Workgroup → Workgroup) : (s.modWg id f).tlb = s.tlb := rfl
@[simp] theorem State.modWg_walks (id : Nat) (f : Workgroup → Workgroup) : (s.modWg id f).walks = s.walks := rfl
@[simp] theorem State.modWg_owners (id : Nat) (f : Workgroup → Workgroup) : (s.modWg id f).owners = s.owners := rfl
@[simp] theorem State.modWg_nudged (id : Nat) (f : Workgroup → Workgroup) : (s.modWg id f).nudged = s.nudged := rfl
@[simp] theorem State.modWg_descs (id : Nat) (f : Workgroup → Workgroup) : (s.modWg id f).descs = s.descs := rfl
@[simp] theorem State.modWg_stale (id : Nat) (f : Workgroup → Workgroup) : (s.modWg id f).stale = s.stale := rfl
@[simp] theorem State.modWg_locks (id : Nat) (f : Workgroup → Workgroup) : (s.modWg id f).locks = s.locks := rfl
@[simp] theorem State.modWg_stamps (id : Nat) (f : Workgroup → Workgroup) : (s.modWg id f).stamps = s.stamps := rfl
@[simp] theorem State.modWg_launches (id : Nat) (f : Workgroup → Workgroup) : (s.modWg id f).launches = s.launches := rfl
@[simp] theorem State.modWg_reservations (id : Nat) (f : Workgroup → Workgroup) : (s.modWg id f).reservations = s.reservations := rfl
@[simp] theorem State.modWg_bins (id : Nat) (f : Workgroup → Workgroup) : (s.modWg id f).bins = s.bins := rfl
@[simp] theorem State.modWg_warps (id : Nat) (f : Workgroup → Workgroup) : (s.modWg id f).warps = s.warps := rfl
@[simp] theorem State.modWg_jobs (id : Nat) (f : Workgroup → Workgroup) : (s.modWg id f).jobs = s.jobs := rfl
@[simp] theorem State.modWg_tableReqs (id : Nat) (f : Workgroup → Workgroup) : (s.modWg id f).tableReqs = s.tableReqs := rfl
@[simp] theorem State.modWg_lookups (id : Nat) (f : Workgroup → Workgroup) : (s.modWg id f).lookups = s.lookups := rfl
@[simp] theorem State.modWg_retiring (id : Nat) (f : Workgroup → Workgroup) : (s.modWg id f).retiring = s.retiring := rfl
@[simp] theorem State.modWg_exts (id : Nat) (f : Workgroup → Workgroup) : (s.modWg id f).exts = s.exts := rfl
@[simp] theorem State.modWg_inbox (id : Nat) (f : Workgroup → Workgroup) : (s.modWg id f).inbox = s.inbox := rfl
@[simp] theorem State.modWg_windows (id : Nat) (f : Workgroup → Workgroup) : (s.modWg id f).windows = s.windows := rfl
@[simp] theorem State.modWg_lost (id : Nat) (f : Workgroup → Workgroup) : (s.modWg id f).lost = s.lost := rfl
@[simp] theorem State.modWg_probed (id : Nat) (f : Workgroup → Workgroup) : (s.modWg id f).probed = s.probed := rfl
@[simp] theorem State.modWg_retired (id : Nat) (f : Workgroup → Workgroup) : (s.modWg id f).retired = s.retired := rfl
@[simp] theorem State.modWg_nextId (id : Nat) (f : Workgroup → Workgroup) : (s.modWg id f).nextId = s.nextId := rfl

/-! ## modLaunch -/

@[simp] theorem State.modLaunch_agenda (id : Nat) (f : Launch → Launch) : (s.modLaunch id f).agenda = s.agenda := rfl
@[simp] theorem State.modLaunch_deferred (id : Nat) (f : Launch → Launch) : (s.modLaunch id f).deferred = s.deferred := rfl
@[simp] theorem State.modLaunch_args (id : Nat) (f : Launch → Launch) : (s.modLaunch id f).args = s.args := rfl
@[simp] theorem State.modLaunch_cur (id : Nat) (f : Launch → Launch) : (s.modLaunch id f).cur = s.cur := rfl
@[simp] theorem State.modLaunch_turn (id : Nat) (f : Launch → Launch) : (s.modLaunch id f).turn = s.turn := rfl
@[simp] theorem State.modLaunch_free (id : Nat) (f : Launch → Launch) : (s.modLaunch id f).free = s.free := rfl
@[simp] theorem State.modLaunch_cycle (id : Nat) (f : Launch → Launch) : (s.modLaunch id f).cycle = s.cycle := rfl
@[simp] theorem State.modLaunch_bootStage (id : Nat) (f : Launch → Launch) : (s.modLaunch id f).bootStage = s.bootStage := rfl
@[simp] theorem State.modLaunch_bootErr (id : Nat) (f : Launch → Launch) : (s.modLaunch id f).bootErr = s.bootErr := rfl
@[simp] theorem State.modLaunch_devEvt (id : Nat) (f : Launch → Launch) : (s.modLaunch id f).devEvt = s.devEvt := rfl
@[simp] theorem State.modLaunch_cfgVersion (id : Nat) (f : Launch → Launch) : (s.modLaunch id f).cfgVersion = s.cfgVersion := rfl
@[simp] theorem State.modLaunch_fwVersion (id : Nat) (f : Launch → Launch) : (s.modLaunch id f).fwVersion = s.fwVersion := rfl
@[simp] theorem State.modLaunch_fwRollback (id : Nat) (f : Launch → Launch) : (s.modLaunch id f).fwRollback = s.fwRollback := rfl
@[simp] theorem State.modLaunch_cfgRollback (id : Nat) (f : Launch → Launch) : (s.modLaunch id f).cfgRollback = s.cfgRollback := rfl
@[simp] theorem State.modLaunch_fwPtr (id : Nat) (f : Launch → Launch) : (s.modLaunch id f).fwPtr = s.fwPtr := rfl
@[simp] theorem State.modLaunch_fwLen (id : Nat) (f : Launch → Launch) : (s.modLaunch id f).fwLen = s.fwLen := rfl
@[simp] theorem State.modLaunch_fwGo (id : Nat) (f : Launch → Launch) : (s.modLaunch id f).fwGo = s.fwGo := rfl
@[simp] theorem State.modLaunch_fwKind (id : Nat) (f : Launch → Launch) : (s.modLaunch id f).fwKind = s.fwKind := rfl
@[simp] theorem State.modLaunch_fwResult (id : Nat) (f : Launch → Launch) : (s.modLaunch id f).fwResult = s.fwResult := rfl
@[simp] theorem State.modLaunch_flashFw (id : Nat) (f : Launch → Launch) : (s.modLaunch id f).flashFw = s.flashFw := rfl
@[simp] theorem State.modLaunch_flashCfg (id : Nat) (f : Launch → Launch) : (s.modLaunch id f).flashCfg = s.flashCfg := rfl
@[simp] theorem State.modLaunch_attNonce (id : Nat) (f : Launch → Launch) : (s.modLaunch id f).attNonce = s.attNonce := rfl
@[simp] theorem State.modLaunch_attGo (id : Nat) (f : Launch → Launch) : (s.modLaunch id f).attGo = s.attGo := rfl
@[simp] theorem State.modLaunch_attLen (id : Nat) (f : Launch → Launch) : (s.modLaunch id f).attLen = s.attLen := rfl
@[simp] theorem State.modLaunch_attReport (id : Nat) (f : Launch → Launch) : (s.modLaunch id f).attReport = s.attReport := rfl
@[simp] theorem State.modLaunch_pwrCap (id : Nat) (f : Launch → Launch) : (s.modLaunch id f).pwrCap = s.pwrCap := rfl
@[simp] theorem State.modLaunch_capMax (id : Nat) (f : Launch → Launch) : (s.modLaunch id f).capMax = s.capMax := rfl
@[simp] theorem State.modLaunch_pkgState (id : Nat) (f : Launch → Launch) : (s.modLaunch id f).pkgState = s.pkgState := rfl
@[simp] theorem State.modLaunch_ps1Cap (id : Nat) (f : Launch → Launch) : (s.modLaunch id f).ps1Cap = s.ps1Cap := rfl
@[simp] theorem State.modLaunch_ps1Heat (id : Nat) (f : Launch → Launch) : (s.modLaunch id f).ps1Heat = s.ps1Heat := rfl
@[simp] theorem State.modLaunch_ps2 (id : Nat) (f : Launch → Launch) : (s.modLaunch id f).ps2 = s.ps2 := rfl
@[simp] theorem State.modLaunch_pwrRefused (id : Nat) (f : Launch → Launch) : (s.modLaunch id f).pwrRefused = s.pwrRefused := rfl
@[simp] theorem State.modLaunch_clk (id : Nat) (f : Launch → Launch) : (s.modLaunch id f).clk = s.clk := rfl
@[simp] theorem State.modLaunch_off (id : Nat) (f : Launch → Launch) : (s.modLaunch id f).off = s.off := rfl
@[simp] theorem State.modLaunch_podIndex (id : Nat) (f : Launch → Launch) : (s.modLaunch id f).podIndex = s.podIndex := rfl
@[simp] theorem State.modLaunch_ringTimeout (id : Nat) (f : Launch → Launch) : (s.modLaunch id f).ringTimeout = s.ringTimeout := rfl
@[simp] theorem State.modLaunch_ports (id : Nat) (f : Launch → Launch) : (s.modLaunch id f).ports = s.ports := rfl
@[simp] theorem State.modLaunch_peerDown (id : Nat) (f : Launch → Launch) : (s.modLaunch id f).peerDown = s.peerDown := rfl
@[simp] theorem State.modLaunch_dieOn (id : Nat) (f : Launch → Launch) : (s.modLaunch id f).dieOn = s.dieOn := rfl
@[simp] theorem State.modLaunch_clkMax (id : Nat) (f : Launch → Launch) : (s.modLaunch id f).clkMax = s.clkMax := rfl
@[simp] theorem State.modLaunch_planes (id : Nat) (f : Launch → Launch) : (s.modLaunch id f).planes = s.planes := rfl
@[simp] theorem State.modLaunch_cxlPorts (id : Nat) (f : Launch → Launch) : (s.modLaunch id f).cxlPorts = s.cxlPorts := rfl
@[simp] theorem State.modLaunch_cxlSets (id : Nat) (f : Launch → Launch) : (s.modLaunch id f).cxlSets = s.cxlSets := rfl
@[simp] theorem State.modLaunch_msix (id : Nat) (f : Launch → Launch) : (s.modLaunch id f).msix = s.msix := rfl
@[simp] theorem State.modLaunch_irqs (id : Nat) (f : Launch → Launch) : (s.modLaunch id f).irqs = s.irqs := rfl
@[simp] theorem State.modLaunch_hostReply (id : Nat) (f : Launch → Launch) : (s.modLaunch id f).hostReply = s.hostReply := rfl
@[simp] theorem State.modLaunch_life (id : Nat) (f : Launch → Launch) : (s.modLaunch id f).life = s.life := rfl
@[simp] theorem State.modLaunch_lifeNow (id : Nat) (f : Launch → Launch) : (s.modLaunch id f).lifeNow = s.lifeNow := rfl
@[simp] theorem State.modLaunch_lifeSeq (id : Nat) (f : Launch → Launch) : (s.modLaunch id f).lifeSeq = s.lifeSeq := rfl
@[simp] theorem State.modLaunch_lifeCap (id : Nat) (f : Launch → Launch) : (s.modLaunch id f).lifeCap = s.lifeCap := rfl
@[simp] theorem State.modLaunch_lifeAt (id : Nat) (f : Launch → Launch) : (s.modLaunch id f).lifeAt = s.lifeAt := rfl
@[simp] theorem State.modLaunch_stormNow (id : Nat) (f : Launch → Launch) : (s.modLaunch id f).stormNow = s.stormNow := rfl
@[simp] theorem State.modLaunch_coreCounters (id : Nat) (f : Launch → Launch) : (s.modLaunch id f).coreCounters = s.coreCounters := rfl
@[simp] theorem State.modLaunch_tableCounters (id : Nat) (f : Launch → Launch) : (s.modLaunch id f).tableCounters = s.tableCounters := rfl
@[simp] theorem State.modLaunch_parts (id : Nat) (f : Launch → Launch) : (s.modLaunch id f).parts = s.parts := rfl
@[simp] theorem State.modLaunch_draws (id : Nat) (f : Launch → Launch) : (s.modLaunch id f).draws = s.draws := rfl
@[simp] theorem State.modLaunch_mem (id : Nat) (f : Launch → Launch) : (s.modLaunch id f).mem = s.mem := rfl
@[simp] theorem State.modLaunch_host (id : Nat) (f : Launch → Launch) : (s.modLaunch id f).host = s.host := rfl
@[simp] theorem State.modLaunch_hostDead (id : Nat) (f : Launch → Launch) : (s.modLaunch id f).hostDead = s.hostDead := rfl
@[simp] theorem State.modLaunch_poison (id : Nat) (f : Launch → Launch) : (s.modLaunch id f).poison = s.poison := rfl
@[simp] theorem State.modLaunch_pool (id : Nat) (f : Launch → Launch) : (s.modLaunch id f).pool = s.pool := rfl
@[simp] theorem State.modLaunch_poolBack (id : Nat) (f : Launch → Launch) : (s.modLaunch id f).poolBack = s.poolBack := rfl
@[simp] theorem State.modLaunch_cache (id : Nat) (f : Launch → Launch) : (s.modLaunch id f).cache = s.cache := rfl
@[simp] theorem State.modLaunch_held (id : Nat) (f : Launch → Launch) : (s.modLaunch id f).held = s.held := rfl
@[simp] theorem State.modLaunch_journal (id : Nat) (f : Launch → Launch) : (s.modLaunch id f).journal = s.journal := rfl
@[simp] theorem State.modLaunch_latch (id : Nat) (f : Launch → Launch) : (s.modLaunch id f).latch = s.latch := rfl
@[simp] theorem State.modLaunch_tlb (id : Nat) (f : Launch → Launch) : (s.modLaunch id f).tlb = s.tlb := rfl
@[simp] theorem State.modLaunch_walks (id : Nat) (f : Launch → Launch) : (s.modLaunch id f).walks = s.walks := rfl
@[simp] theorem State.modLaunch_owners (id : Nat) (f : Launch → Launch) : (s.modLaunch id f).owners = s.owners := rfl
@[simp] theorem State.modLaunch_nudged (id : Nat) (f : Launch → Launch) : (s.modLaunch id f).nudged = s.nudged := rfl
@[simp] theorem State.modLaunch_descs (id : Nat) (f : Launch → Launch) : (s.modLaunch id f).descs = s.descs := rfl
@[simp] theorem State.modLaunch_stale (id : Nat) (f : Launch → Launch) : (s.modLaunch id f).stale = s.stale := rfl
@[simp] theorem State.modLaunch_locks (id : Nat) (f : Launch → Launch) : (s.modLaunch id f).locks = s.locks := rfl
@[simp] theorem State.modLaunch_stamps (id : Nat) (f : Launch → Launch) : (s.modLaunch id f).stamps = s.stamps := rfl
@[simp] theorem State.modLaunch_reservations (id : Nat) (f : Launch → Launch) : (s.modLaunch id f).reservations = s.reservations := rfl
@[simp] theorem State.modLaunch_bins (id : Nat) (f : Launch → Launch) : (s.modLaunch id f).bins = s.bins := rfl
@[simp] theorem State.modLaunch_wgs (id : Nat) (f : Launch → Launch) : (s.modLaunch id f).wgs = s.wgs := rfl
@[simp] theorem State.modLaunch_warps (id : Nat) (f : Launch → Launch) : (s.modLaunch id f).warps = s.warps := rfl
@[simp] theorem State.modLaunch_jobs (id : Nat) (f : Launch → Launch) : (s.modLaunch id f).jobs = s.jobs := rfl
@[simp] theorem State.modLaunch_tableReqs (id : Nat) (f : Launch → Launch) : (s.modLaunch id f).tableReqs = s.tableReqs := rfl
@[simp] theorem State.modLaunch_lookups (id : Nat) (f : Launch → Launch) : (s.modLaunch id f).lookups = s.lookups := rfl
@[simp] theorem State.modLaunch_retiring (id : Nat) (f : Launch → Launch) : (s.modLaunch id f).retiring = s.retiring := rfl
@[simp] theorem State.modLaunch_exts (id : Nat) (f : Launch → Launch) : (s.modLaunch id f).exts = s.exts := rfl
@[simp] theorem State.modLaunch_inbox (id : Nat) (f : Launch → Launch) : (s.modLaunch id f).inbox = s.inbox := rfl
@[simp] theorem State.modLaunch_windows (id : Nat) (f : Launch → Launch) : (s.modLaunch id f).windows = s.windows := rfl
@[simp] theorem State.modLaunch_lost (id : Nat) (f : Launch → Launch) : (s.modLaunch id f).lost = s.lost := rfl
@[simp] theorem State.modLaunch_probed (id : Nat) (f : Launch → Launch) : (s.modLaunch id f).probed = s.probed := rfl
@[simp] theorem State.modLaunch_retired (id : Nat) (f : Launch → Launch) : (s.modLaunch id f).retired = s.retired := rfl
@[simp] theorem State.modLaunch_nextId (id : Nat) (f : Launch → Launch) : (s.modLaunch id f).nextId = s.nextId := rfl

/-! ## modPart -/

@[simp] theorem State.modPart_agenda (p : BitVec 2) (f : Part → Part) : (s.modPart p f).agenda = s.agenda := rfl
@[simp] theorem State.modPart_deferred (p : BitVec 2) (f : Part → Part) : (s.modPart p f).deferred = s.deferred := rfl
@[simp] theorem State.modPart_args (p : BitVec 2) (f : Part → Part) : (s.modPart p f).args = s.args := rfl
@[simp] theorem State.modPart_cur (p : BitVec 2) (f : Part → Part) : (s.modPart p f).cur = s.cur := rfl
@[simp] theorem State.modPart_turn (p : BitVec 2) (f : Part → Part) : (s.modPart p f).turn = s.turn := rfl
@[simp] theorem State.modPart_free (p : BitVec 2) (f : Part → Part) : (s.modPart p f).free = s.free := rfl
@[simp] theorem State.modPart_cycle (p : BitVec 2) (f : Part → Part) : (s.modPart p f).cycle = s.cycle := rfl
@[simp] theorem State.modPart_bootStage (p : BitVec 2) (f : Part → Part) : (s.modPart p f).bootStage = s.bootStage := rfl
@[simp] theorem State.modPart_bootErr (p : BitVec 2) (f : Part → Part) : (s.modPart p f).bootErr = s.bootErr := rfl
@[simp] theorem State.modPart_devEvt (p : BitVec 2) (f : Part → Part) : (s.modPart p f).devEvt = s.devEvt := rfl
@[simp] theorem State.modPart_cfgVersion (p : BitVec 2) (f : Part → Part) : (s.modPart p f).cfgVersion = s.cfgVersion := rfl
@[simp] theorem State.modPart_fwVersion (p : BitVec 2) (f : Part → Part) : (s.modPart p f).fwVersion = s.fwVersion := rfl
@[simp] theorem State.modPart_fwRollback (p : BitVec 2) (f : Part → Part) : (s.modPart p f).fwRollback = s.fwRollback := rfl
@[simp] theorem State.modPart_cfgRollback (p : BitVec 2) (f : Part → Part) : (s.modPart p f).cfgRollback = s.cfgRollback := rfl
@[simp] theorem State.modPart_fwPtr (p : BitVec 2) (f : Part → Part) : (s.modPart p f).fwPtr = s.fwPtr := rfl
@[simp] theorem State.modPart_fwLen (p : BitVec 2) (f : Part → Part) : (s.modPart p f).fwLen = s.fwLen := rfl
@[simp] theorem State.modPart_fwGo (p : BitVec 2) (f : Part → Part) : (s.modPart p f).fwGo = s.fwGo := rfl
@[simp] theorem State.modPart_fwKind (p : BitVec 2) (f : Part → Part) : (s.modPart p f).fwKind = s.fwKind := rfl
@[simp] theorem State.modPart_fwResult (p : BitVec 2) (f : Part → Part) : (s.modPart p f).fwResult = s.fwResult := rfl
@[simp] theorem State.modPart_flashFw (p : BitVec 2) (f : Part → Part) : (s.modPart p f).flashFw = s.flashFw := rfl
@[simp] theorem State.modPart_flashCfg (p : BitVec 2) (f : Part → Part) : (s.modPart p f).flashCfg = s.flashCfg := rfl
@[simp] theorem State.modPart_attNonce (p : BitVec 2) (f : Part → Part) : (s.modPart p f).attNonce = s.attNonce := rfl
@[simp] theorem State.modPart_attGo (p : BitVec 2) (f : Part → Part) : (s.modPart p f).attGo = s.attGo := rfl
@[simp] theorem State.modPart_attLen (p : BitVec 2) (f : Part → Part) : (s.modPart p f).attLen = s.attLen := rfl
@[simp] theorem State.modPart_attReport (p : BitVec 2) (f : Part → Part) : (s.modPart p f).attReport = s.attReport := rfl
@[simp] theorem State.modPart_pwrCap (p : BitVec 2) (f : Part → Part) : (s.modPart p f).pwrCap = s.pwrCap := rfl
@[simp] theorem State.modPart_capMax (p : BitVec 2) (f : Part → Part) : (s.modPart p f).capMax = s.capMax := rfl
@[simp] theorem State.modPart_pkgState (p : BitVec 2) (f : Part → Part) : (s.modPart p f).pkgState = s.pkgState := rfl
@[simp] theorem State.modPart_ps1Cap (p : BitVec 2) (f : Part → Part) : (s.modPart p f).ps1Cap = s.ps1Cap := rfl
@[simp] theorem State.modPart_ps1Heat (p : BitVec 2) (f : Part → Part) : (s.modPart p f).ps1Heat = s.ps1Heat := rfl
@[simp] theorem State.modPart_ps2 (p : BitVec 2) (f : Part → Part) : (s.modPart p f).ps2 = s.ps2 := rfl
@[simp] theorem State.modPart_pwrRefused (p : BitVec 2) (f : Part → Part) : (s.modPart p f).pwrRefused = s.pwrRefused := rfl
@[simp] theorem State.modPart_clk (p : BitVec 2) (f : Part → Part) : (s.modPart p f).clk = s.clk := rfl
@[simp] theorem State.modPart_off (p : BitVec 2) (f : Part → Part) : (s.modPart p f).off = s.off := rfl
@[simp] theorem State.modPart_podIndex (p : BitVec 2) (f : Part → Part) : (s.modPart p f).podIndex = s.podIndex := rfl
@[simp] theorem State.modPart_ringTimeout (p : BitVec 2) (f : Part → Part) : (s.modPart p f).ringTimeout = s.ringTimeout := rfl
@[simp] theorem State.modPart_ports (p : BitVec 2) (f : Part → Part) : (s.modPart p f).ports = s.ports := rfl
@[simp] theorem State.modPart_peerDown (p : BitVec 2) (f : Part → Part) : (s.modPart p f).peerDown = s.peerDown := rfl
@[simp] theorem State.modPart_dieOn (p : BitVec 2) (f : Part → Part) : (s.modPart p f).dieOn = s.dieOn := rfl
@[simp] theorem State.modPart_clkMax (p : BitVec 2) (f : Part → Part) : (s.modPart p f).clkMax = s.clkMax := rfl
@[simp] theorem State.modPart_planes (p : BitVec 2) (f : Part → Part) : (s.modPart p f).planes = s.planes := rfl
@[simp] theorem State.modPart_cxlPorts (p : BitVec 2) (f : Part → Part) : (s.modPart p f).cxlPorts = s.cxlPorts := rfl
@[simp] theorem State.modPart_cxlSets (p : BitVec 2) (f : Part → Part) : (s.modPart p f).cxlSets = s.cxlSets := rfl
@[simp] theorem State.modPart_msix (p : BitVec 2) (f : Part → Part) : (s.modPart p f).msix = s.msix := rfl
@[simp] theorem State.modPart_irqs (p : BitVec 2) (f : Part → Part) : (s.modPart p f).irqs = s.irqs := rfl
@[simp] theorem State.modPart_hostReply (p : BitVec 2) (f : Part → Part) : (s.modPart p f).hostReply = s.hostReply := rfl
@[simp] theorem State.modPart_life (p : BitVec 2) (f : Part → Part) : (s.modPart p f).life = s.life := rfl
@[simp] theorem State.modPart_lifeNow (p : BitVec 2) (f : Part → Part) : (s.modPart p f).lifeNow = s.lifeNow := rfl
@[simp] theorem State.modPart_lifeSeq (p : BitVec 2) (f : Part → Part) : (s.modPart p f).lifeSeq = s.lifeSeq := rfl
@[simp] theorem State.modPart_lifeCap (p : BitVec 2) (f : Part → Part) : (s.modPart p f).lifeCap = s.lifeCap := rfl
@[simp] theorem State.modPart_lifeAt (p : BitVec 2) (f : Part → Part) : (s.modPart p f).lifeAt = s.lifeAt := rfl
@[simp] theorem State.modPart_stormNow (p : BitVec 2) (f : Part → Part) : (s.modPart p f).stormNow = s.stormNow := rfl
@[simp] theorem State.modPart_coreCounters (p : BitVec 2) (f : Part → Part) : (s.modPart p f).coreCounters = s.coreCounters := rfl
@[simp] theorem State.modPart_tableCounters (p : BitVec 2) (f : Part → Part) : (s.modPart p f).tableCounters = s.tableCounters := rfl
@[simp] theorem State.modPart_draws (p : BitVec 2) (f : Part → Part) : (s.modPart p f).draws = s.draws := rfl
@[simp] theorem State.modPart_mem (p : BitVec 2) (f : Part → Part) : (s.modPart p f).mem = s.mem := rfl
@[simp] theorem State.modPart_host (p : BitVec 2) (f : Part → Part) : (s.modPart p f).host = s.host := rfl
@[simp] theorem State.modPart_hostDead (p : BitVec 2) (f : Part → Part) : (s.modPart p f).hostDead = s.hostDead := rfl
@[simp] theorem State.modPart_poison (p : BitVec 2) (f : Part → Part) : (s.modPart p f).poison = s.poison := rfl
@[simp] theorem State.modPart_pool (p : BitVec 2) (f : Part → Part) : (s.modPart p f).pool = s.pool := rfl
@[simp] theorem State.modPart_poolBack (p : BitVec 2) (f : Part → Part) : (s.modPart p f).poolBack = s.poolBack := rfl
@[simp] theorem State.modPart_cache (p : BitVec 2) (f : Part → Part) : (s.modPart p f).cache = s.cache := rfl
@[simp] theorem State.modPart_held (p : BitVec 2) (f : Part → Part) : (s.modPart p f).held = s.held := rfl
@[simp] theorem State.modPart_journal (p : BitVec 2) (f : Part → Part) : (s.modPart p f).journal = s.journal := rfl
@[simp] theorem State.modPart_latch (p : BitVec 2) (f : Part → Part) : (s.modPart p f).latch = s.latch := rfl
@[simp] theorem State.modPart_tlb (p : BitVec 2) (f : Part → Part) : (s.modPart p f).tlb = s.tlb := rfl
@[simp] theorem State.modPart_walks (p : BitVec 2) (f : Part → Part) : (s.modPart p f).walks = s.walks := rfl
@[simp] theorem State.modPart_owners (p : BitVec 2) (f : Part → Part) : (s.modPart p f).owners = s.owners := rfl
@[simp] theorem State.modPart_nudged (p : BitVec 2) (f : Part → Part) : (s.modPart p f).nudged = s.nudged := rfl
@[simp] theorem State.modPart_descs (p : BitVec 2) (f : Part → Part) : (s.modPart p f).descs = s.descs := rfl
@[simp] theorem State.modPart_stale (p : BitVec 2) (f : Part → Part) : (s.modPart p f).stale = s.stale := rfl
@[simp] theorem State.modPart_locks (p : BitVec 2) (f : Part → Part) : (s.modPart p f).locks = s.locks := rfl
@[simp] theorem State.modPart_stamps (p : BitVec 2) (f : Part → Part) : (s.modPart p f).stamps = s.stamps := rfl
@[simp] theorem State.modPart_launches (p : BitVec 2) (f : Part → Part) : (s.modPart p f).launches = s.launches := rfl
@[simp] theorem State.modPart_reservations (p : BitVec 2) (f : Part → Part) : (s.modPart p f).reservations = s.reservations := rfl
@[simp] theorem State.modPart_bins (p : BitVec 2) (f : Part → Part) : (s.modPart p f).bins = s.bins := rfl
@[simp] theorem State.modPart_wgs (p : BitVec 2) (f : Part → Part) : (s.modPart p f).wgs = s.wgs := rfl
@[simp] theorem State.modPart_warps (p : BitVec 2) (f : Part → Part) : (s.modPart p f).warps = s.warps := rfl
@[simp] theorem State.modPart_jobs (p : BitVec 2) (f : Part → Part) : (s.modPart p f).jobs = s.jobs := rfl
@[simp] theorem State.modPart_tableReqs (p : BitVec 2) (f : Part → Part) : (s.modPart p f).tableReqs = s.tableReqs := rfl
@[simp] theorem State.modPart_lookups (p : BitVec 2) (f : Part → Part) : (s.modPart p f).lookups = s.lookups := rfl
@[simp] theorem State.modPart_retiring (p : BitVec 2) (f : Part → Part) : (s.modPart p f).retiring = s.retiring := rfl
@[simp] theorem State.modPart_exts (p : BitVec 2) (f : Part → Part) : (s.modPart p f).exts = s.exts := rfl
@[simp] theorem State.modPart_inbox (p : BitVec 2) (f : Part → Part) : (s.modPart p f).inbox = s.inbox := rfl
@[simp] theorem State.modPart_windows (p : BitVec 2) (f : Part → Part) : (s.modPart p f).windows = s.windows := rfl
@[simp] theorem State.modPart_lost (p : BitVec 2) (f : Part → Part) : (s.modPart p f).lost = s.lost := rfl
@[simp] theorem State.modPart_probed (p : BitVec 2) (f : Part → Part) : (s.modPart p f).probed = s.probed := rfl
@[simp] theorem State.modPart_retired (p : BitVec 2) (f : Part → Part) : (s.modPart p f).retired = s.retired := rfl
@[simp] theorem State.modPart_nextId (p : BitVec 2) (f : Part → Part) : (s.modPart p f).nextId = s.nextId := rfl

/-! ## modCtx -/

@[simp] theorem State.modCtx_agenda (p : BitVec 2) (c : BitVec 6) (f : Ctx → Ctx) : (s.modCtx p c f).agenda = s.agenda := rfl
@[simp] theorem State.modCtx_deferred (p : BitVec 2) (c : BitVec 6) (f : Ctx → Ctx) : (s.modCtx p c f).deferred = s.deferred := rfl
@[simp] theorem State.modCtx_args (p : BitVec 2) (c : BitVec 6) (f : Ctx → Ctx) : (s.modCtx p c f).args = s.args := rfl
@[simp] theorem State.modCtx_cur (p : BitVec 2) (c : BitVec 6) (f : Ctx → Ctx) : (s.modCtx p c f).cur = s.cur := rfl
@[simp] theorem State.modCtx_turn (p : BitVec 2) (c : BitVec 6) (f : Ctx → Ctx) : (s.modCtx p c f).turn = s.turn := rfl
@[simp] theorem State.modCtx_free (p : BitVec 2) (c : BitVec 6) (f : Ctx → Ctx) : (s.modCtx p c f).free = s.free := rfl
@[simp] theorem State.modCtx_cycle (p : BitVec 2) (c : BitVec 6) (f : Ctx → Ctx) : (s.modCtx p c f).cycle = s.cycle := rfl
@[simp] theorem State.modCtx_bootStage (p : BitVec 2) (c : BitVec 6) (f : Ctx → Ctx) : (s.modCtx p c f).bootStage = s.bootStage := rfl
@[simp] theorem State.modCtx_bootErr (p : BitVec 2) (c : BitVec 6) (f : Ctx → Ctx) : (s.modCtx p c f).bootErr = s.bootErr := rfl
@[simp] theorem State.modCtx_devEvt (p : BitVec 2) (c : BitVec 6) (f : Ctx → Ctx) : (s.modCtx p c f).devEvt = s.devEvt := rfl
@[simp] theorem State.modCtx_cfgVersion (p : BitVec 2) (c : BitVec 6) (f : Ctx → Ctx) : (s.modCtx p c f).cfgVersion = s.cfgVersion := rfl
@[simp] theorem State.modCtx_fwVersion (p : BitVec 2) (c : BitVec 6) (f : Ctx → Ctx) : (s.modCtx p c f).fwVersion = s.fwVersion := rfl
@[simp] theorem State.modCtx_fwRollback (p : BitVec 2) (c : BitVec 6) (f : Ctx → Ctx) : (s.modCtx p c f).fwRollback = s.fwRollback := rfl
@[simp] theorem State.modCtx_cfgRollback (p : BitVec 2) (c : BitVec 6) (f : Ctx → Ctx) : (s.modCtx p c f).cfgRollback = s.cfgRollback := rfl
@[simp] theorem State.modCtx_fwPtr (p : BitVec 2) (c : BitVec 6) (f : Ctx → Ctx) : (s.modCtx p c f).fwPtr = s.fwPtr := rfl
@[simp] theorem State.modCtx_fwLen (p : BitVec 2) (c : BitVec 6) (f : Ctx → Ctx) : (s.modCtx p c f).fwLen = s.fwLen := rfl
@[simp] theorem State.modCtx_fwGo (p : BitVec 2) (c : BitVec 6) (f : Ctx → Ctx) : (s.modCtx p c f).fwGo = s.fwGo := rfl
@[simp] theorem State.modCtx_fwKind (p : BitVec 2) (c : BitVec 6) (f : Ctx → Ctx) : (s.modCtx p c f).fwKind = s.fwKind := rfl
@[simp] theorem State.modCtx_fwResult (p : BitVec 2) (c : BitVec 6) (f : Ctx → Ctx) : (s.modCtx p c f).fwResult = s.fwResult := rfl
@[simp] theorem State.modCtx_flashFw (p : BitVec 2) (c : BitVec 6) (f : Ctx → Ctx) : (s.modCtx p c f).flashFw = s.flashFw := rfl
@[simp] theorem State.modCtx_flashCfg (p : BitVec 2) (c : BitVec 6) (f : Ctx → Ctx) : (s.modCtx p c f).flashCfg = s.flashCfg := rfl
@[simp] theorem State.modCtx_attNonce (p : BitVec 2) (c : BitVec 6) (f : Ctx → Ctx) : (s.modCtx p c f).attNonce = s.attNonce := rfl
@[simp] theorem State.modCtx_attGo (p : BitVec 2) (c : BitVec 6) (f : Ctx → Ctx) : (s.modCtx p c f).attGo = s.attGo := rfl
@[simp] theorem State.modCtx_attLen (p : BitVec 2) (c : BitVec 6) (f : Ctx → Ctx) : (s.modCtx p c f).attLen = s.attLen := rfl
@[simp] theorem State.modCtx_attReport (p : BitVec 2) (c : BitVec 6) (f : Ctx → Ctx) : (s.modCtx p c f).attReport = s.attReport := rfl
@[simp] theorem State.modCtx_pwrCap (p : BitVec 2) (c : BitVec 6) (f : Ctx → Ctx) : (s.modCtx p c f).pwrCap = s.pwrCap := rfl
@[simp] theorem State.modCtx_capMax (p : BitVec 2) (c : BitVec 6) (f : Ctx → Ctx) : (s.modCtx p c f).capMax = s.capMax := rfl
@[simp] theorem State.modCtx_pkgState (p : BitVec 2) (c : BitVec 6) (f : Ctx → Ctx) : (s.modCtx p c f).pkgState = s.pkgState := rfl
@[simp] theorem State.modCtx_ps1Cap (p : BitVec 2) (c : BitVec 6) (f : Ctx → Ctx) : (s.modCtx p c f).ps1Cap = s.ps1Cap := rfl
@[simp] theorem State.modCtx_ps1Heat (p : BitVec 2) (c : BitVec 6) (f : Ctx → Ctx) : (s.modCtx p c f).ps1Heat = s.ps1Heat := rfl
@[simp] theorem State.modCtx_ps2 (p : BitVec 2) (c : BitVec 6) (f : Ctx → Ctx) : (s.modCtx p c f).ps2 = s.ps2 := rfl
@[simp] theorem State.modCtx_pwrRefused (p : BitVec 2) (c : BitVec 6) (f : Ctx → Ctx) : (s.modCtx p c f).pwrRefused = s.pwrRefused := rfl
@[simp] theorem State.modCtx_clk (p : BitVec 2) (c : BitVec 6) (f : Ctx → Ctx) : (s.modCtx p c f).clk = s.clk := rfl
@[simp] theorem State.modCtx_off (p : BitVec 2) (c : BitVec 6) (f : Ctx → Ctx) : (s.modCtx p c f).off = s.off := rfl
@[simp] theorem State.modCtx_podIndex (p : BitVec 2) (c : BitVec 6) (f : Ctx → Ctx) : (s.modCtx p c f).podIndex = s.podIndex := rfl
@[simp] theorem State.modCtx_ringTimeout (p : BitVec 2) (c : BitVec 6) (f : Ctx → Ctx) : (s.modCtx p c f).ringTimeout = s.ringTimeout := rfl
@[simp] theorem State.modCtx_ports (p : BitVec 2) (c : BitVec 6) (f : Ctx → Ctx) : (s.modCtx p c f).ports = s.ports := rfl
@[simp] theorem State.modCtx_peerDown (p : BitVec 2) (c : BitVec 6) (f : Ctx → Ctx) : (s.modCtx p c f).peerDown = s.peerDown := rfl
@[simp] theorem State.modCtx_dieOn (p : BitVec 2) (c : BitVec 6) (f : Ctx → Ctx) : (s.modCtx p c f).dieOn = s.dieOn := rfl
@[simp] theorem State.modCtx_clkMax (p : BitVec 2) (c : BitVec 6) (f : Ctx → Ctx) : (s.modCtx p c f).clkMax = s.clkMax := rfl
@[simp] theorem State.modCtx_planes (p : BitVec 2) (c : BitVec 6) (f : Ctx → Ctx) : (s.modCtx p c f).planes = s.planes := rfl
@[simp] theorem State.modCtx_cxlPorts (p : BitVec 2) (c : BitVec 6) (f : Ctx → Ctx) : (s.modCtx p c f).cxlPorts = s.cxlPorts := rfl
@[simp] theorem State.modCtx_cxlSets (p : BitVec 2) (c : BitVec 6) (f : Ctx → Ctx) : (s.modCtx p c f).cxlSets = s.cxlSets := rfl
@[simp] theorem State.modCtx_msix (p : BitVec 2) (c : BitVec 6) (f : Ctx → Ctx) : (s.modCtx p c f).msix = s.msix := rfl
@[simp] theorem State.modCtx_irqs (p : BitVec 2) (c : BitVec 6) (f : Ctx → Ctx) : (s.modCtx p c f).irqs = s.irqs := rfl
@[simp] theorem State.modCtx_hostReply (p : BitVec 2) (c : BitVec 6) (f : Ctx → Ctx) : (s.modCtx p c f).hostReply = s.hostReply := rfl
@[simp] theorem State.modCtx_life (p : BitVec 2) (c : BitVec 6) (f : Ctx → Ctx) : (s.modCtx p c f).life = s.life := rfl
@[simp] theorem State.modCtx_lifeNow (p : BitVec 2) (c : BitVec 6) (f : Ctx → Ctx) : (s.modCtx p c f).lifeNow = s.lifeNow := rfl
@[simp] theorem State.modCtx_lifeSeq (p : BitVec 2) (c : BitVec 6) (f : Ctx → Ctx) : (s.modCtx p c f).lifeSeq = s.lifeSeq := rfl
@[simp] theorem State.modCtx_lifeCap (p : BitVec 2) (c : BitVec 6) (f : Ctx → Ctx) : (s.modCtx p c f).lifeCap = s.lifeCap := rfl
@[simp] theorem State.modCtx_lifeAt (p : BitVec 2) (c : BitVec 6) (f : Ctx → Ctx) : (s.modCtx p c f).lifeAt = s.lifeAt := rfl
@[simp] theorem State.modCtx_stormNow (p : BitVec 2) (c : BitVec 6) (f : Ctx → Ctx) : (s.modCtx p c f).stormNow = s.stormNow := rfl
@[simp] theorem State.modCtx_coreCounters (p : BitVec 2) (c : BitVec 6) (f : Ctx → Ctx) : (s.modCtx p c f).coreCounters = s.coreCounters := rfl
@[simp] theorem State.modCtx_tableCounters (p : BitVec 2) (c : BitVec 6) (f : Ctx → Ctx) : (s.modCtx p c f).tableCounters = s.tableCounters := rfl
@[simp] theorem State.modCtx_draws (p : BitVec 2) (c : BitVec 6) (f : Ctx → Ctx) : (s.modCtx p c f).draws = s.draws := rfl
@[simp] theorem State.modCtx_mem (p : BitVec 2) (c : BitVec 6) (f : Ctx → Ctx) : (s.modCtx p c f).mem = s.mem := rfl
@[simp] theorem State.modCtx_host (p : BitVec 2) (c : BitVec 6) (f : Ctx → Ctx) : (s.modCtx p c f).host = s.host := rfl
@[simp] theorem State.modCtx_hostDead (p : BitVec 2) (c : BitVec 6) (f : Ctx → Ctx) : (s.modCtx p c f).hostDead = s.hostDead := rfl
@[simp] theorem State.modCtx_poison (p : BitVec 2) (c : BitVec 6) (f : Ctx → Ctx) : (s.modCtx p c f).poison = s.poison := rfl
@[simp] theorem State.modCtx_pool (p : BitVec 2) (c : BitVec 6) (f : Ctx → Ctx) : (s.modCtx p c f).pool = s.pool := rfl
@[simp] theorem State.modCtx_poolBack (p : BitVec 2) (c : BitVec 6) (f : Ctx → Ctx) : (s.modCtx p c f).poolBack = s.poolBack := rfl
@[simp] theorem State.modCtx_cache (p : BitVec 2) (c : BitVec 6) (f : Ctx → Ctx) : (s.modCtx p c f).cache = s.cache := rfl
@[simp] theorem State.modCtx_held (p : BitVec 2) (c : BitVec 6) (f : Ctx → Ctx) : (s.modCtx p c f).held = s.held := rfl
@[simp] theorem State.modCtx_journal (p : BitVec 2) (c : BitVec 6) (f : Ctx → Ctx) : (s.modCtx p c f).journal = s.journal := rfl
@[simp] theorem State.modCtx_latch (p : BitVec 2) (c : BitVec 6) (f : Ctx → Ctx) : (s.modCtx p c f).latch = s.latch := rfl
@[simp] theorem State.modCtx_tlb (p : BitVec 2) (c : BitVec 6) (f : Ctx → Ctx) : (s.modCtx p c f).tlb = s.tlb := rfl
@[simp] theorem State.modCtx_walks (p : BitVec 2) (c : BitVec 6) (f : Ctx → Ctx) : (s.modCtx p c f).walks = s.walks := rfl
@[simp] theorem State.modCtx_owners (p : BitVec 2) (c : BitVec 6) (f : Ctx → Ctx) : (s.modCtx p c f).owners = s.owners := rfl
@[simp] theorem State.modCtx_nudged (p : BitVec 2) (c : BitVec 6) (f : Ctx → Ctx) : (s.modCtx p c f).nudged = s.nudged := rfl
@[simp] theorem State.modCtx_descs (p : BitVec 2) (c : BitVec 6) (f : Ctx → Ctx) : (s.modCtx p c f).descs = s.descs := rfl
@[simp] theorem State.modCtx_stale (p : BitVec 2) (c : BitVec 6) (f : Ctx → Ctx) : (s.modCtx p c f).stale = s.stale := rfl
@[simp] theorem State.modCtx_locks (p : BitVec 2) (c : BitVec 6) (f : Ctx → Ctx) : (s.modCtx p c f).locks = s.locks := rfl
@[simp] theorem State.modCtx_stamps (p : BitVec 2) (c : BitVec 6) (f : Ctx → Ctx) : (s.modCtx p c f).stamps = s.stamps := rfl
@[simp] theorem State.modCtx_launches (p : BitVec 2) (c : BitVec 6) (f : Ctx → Ctx) : (s.modCtx p c f).launches = s.launches := rfl
@[simp] theorem State.modCtx_reservations (p : BitVec 2) (c : BitVec 6) (f : Ctx → Ctx) : (s.modCtx p c f).reservations = s.reservations := rfl
@[simp] theorem State.modCtx_bins (p : BitVec 2) (c : BitVec 6) (f : Ctx → Ctx) : (s.modCtx p c f).bins = s.bins := rfl
@[simp] theorem State.modCtx_wgs (p : BitVec 2) (c : BitVec 6) (f : Ctx → Ctx) : (s.modCtx p c f).wgs = s.wgs := rfl
@[simp] theorem State.modCtx_warps (p : BitVec 2) (c : BitVec 6) (f : Ctx → Ctx) : (s.modCtx p c f).warps = s.warps := rfl
@[simp] theorem State.modCtx_jobs (p : BitVec 2) (c : BitVec 6) (f : Ctx → Ctx) : (s.modCtx p c f).jobs = s.jobs := rfl
@[simp] theorem State.modCtx_tableReqs (p : BitVec 2) (c : BitVec 6) (f : Ctx → Ctx) : (s.modCtx p c f).tableReqs = s.tableReqs := rfl
@[simp] theorem State.modCtx_lookups (p : BitVec 2) (c : BitVec 6) (f : Ctx → Ctx) : (s.modCtx p c f).lookups = s.lookups := rfl
@[simp] theorem State.modCtx_retiring (p : BitVec 2) (c : BitVec 6) (f : Ctx → Ctx) : (s.modCtx p c f).retiring = s.retiring := rfl
@[simp] theorem State.modCtx_exts (p : BitVec 2) (c : BitVec 6) (f : Ctx → Ctx) : (s.modCtx p c f).exts = s.exts := rfl
@[simp] theorem State.modCtx_inbox (p : BitVec 2) (c : BitVec 6) (f : Ctx → Ctx) : (s.modCtx p c f).inbox = s.inbox := rfl
@[simp] theorem State.modCtx_windows (p : BitVec 2) (c : BitVec 6) (f : Ctx → Ctx) : (s.modCtx p c f).windows = s.windows := rfl
@[simp] theorem State.modCtx_lost (p : BitVec 2) (c : BitVec 6) (f : Ctx → Ctx) : (s.modCtx p c f).lost = s.lost := rfl
@[simp] theorem State.modCtx_probed (p : BitVec 2) (c : BitVec 6) (f : Ctx → Ctx) : (s.modCtx p c f).probed = s.probed := rfl
@[simp] theorem State.modCtx_retired (p : BitVec 2) (c : BitVec 6) (f : Ctx → Ctx) : (s.modCtx p c f).retired = s.retired := rfl
@[simp] theorem State.modCtx_nextId (p : BitVec 2) (c : BitVec 6) (f : Ctx → Ctx) : (s.modCtx p c f).nextId = s.nextId := rfl

/-! ## modQueue -/

@[simp] theorem State.modQueue_agenda (p : BitVec 2) (q : BitVec 6) (f : Queue → Queue) : (s.modQueue p q f).agenda = s.agenda := rfl
@[simp] theorem State.modQueue_deferred (p : BitVec 2) (q : BitVec 6) (f : Queue → Queue) : (s.modQueue p q f).deferred = s.deferred := rfl
@[simp] theorem State.modQueue_args (p : BitVec 2) (q : BitVec 6) (f : Queue → Queue) : (s.modQueue p q f).args = s.args := rfl
@[simp] theorem State.modQueue_cur (p : BitVec 2) (q : BitVec 6) (f : Queue → Queue) : (s.modQueue p q f).cur = s.cur := rfl
@[simp] theorem State.modQueue_turn (p : BitVec 2) (q : BitVec 6) (f : Queue → Queue) : (s.modQueue p q f).turn = s.turn := rfl
@[simp] theorem State.modQueue_free (p : BitVec 2) (q : BitVec 6) (f : Queue → Queue) : (s.modQueue p q f).free = s.free := rfl
@[simp] theorem State.modQueue_cycle (p : BitVec 2) (q : BitVec 6) (f : Queue → Queue) : (s.modQueue p q f).cycle = s.cycle := rfl
@[simp] theorem State.modQueue_bootStage (p : BitVec 2) (q : BitVec 6) (f : Queue → Queue) : (s.modQueue p q f).bootStage = s.bootStage := rfl
@[simp] theorem State.modQueue_bootErr (p : BitVec 2) (q : BitVec 6) (f : Queue → Queue) : (s.modQueue p q f).bootErr = s.bootErr := rfl
@[simp] theorem State.modQueue_devEvt (p : BitVec 2) (q : BitVec 6) (f : Queue → Queue) : (s.modQueue p q f).devEvt = s.devEvt := rfl
@[simp] theorem State.modQueue_cfgVersion (p : BitVec 2) (q : BitVec 6) (f : Queue → Queue) : (s.modQueue p q f).cfgVersion = s.cfgVersion := rfl
@[simp] theorem State.modQueue_fwVersion (p : BitVec 2) (q : BitVec 6) (f : Queue → Queue) : (s.modQueue p q f).fwVersion = s.fwVersion := rfl
@[simp] theorem State.modQueue_fwRollback (p : BitVec 2) (q : BitVec 6) (f : Queue → Queue) : (s.modQueue p q f).fwRollback = s.fwRollback := rfl
@[simp] theorem State.modQueue_cfgRollback (p : BitVec 2) (q : BitVec 6) (f : Queue → Queue) : (s.modQueue p q f).cfgRollback = s.cfgRollback := rfl
@[simp] theorem State.modQueue_fwPtr (p : BitVec 2) (q : BitVec 6) (f : Queue → Queue) : (s.modQueue p q f).fwPtr = s.fwPtr := rfl
@[simp] theorem State.modQueue_fwLen (p : BitVec 2) (q : BitVec 6) (f : Queue → Queue) : (s.modQueue p q f).fwLen = s.fwLen := rfl
@[simp] theorem State.modQueue_fwGo (p : BitVec 2) (q : BitVec 6) (f : Queue → Queue) : (s.modQueue p q f).fwGo = s.fwGo := rfl
@[simp] theorem State.modQueue_fwKind (p : BitVec 2) (q : BitVec 6) (f : Queue → Queue) : (s.modQueue p q f).fwKind = s.fwKind := rfl
@[simp] theorem State.modQueue_fwResult (p : BitVec 2) (q : BitVec 6) (f : Queue → Queue) : (s.modQueue p q f).fwResult = s.fwResult := rfl
@[simp] theorem State.modQueue_flashFw (p : BitVec 2) (q : BitVec 6) (f : Queue → Queue) : (s.modQueue p q f).flashFw = s.flashFw := rfl
@[simp] theorem State.modQueue_flashCfg (p : BitVec 2) (q : BitVec 6) (f : Queue → Queue) : (s.modQueue p q f).flashCfg = s.flashCfg := rfl
@[simp] theorem State.modQueue_attNonce (p : BitVec 2) (q : BitVec 6) (f : Queue → Queue) : (s.modQueue p q f).attNonce = s.attNonce := rfl
@[simp] theorem State.modQueue_attGo (p : BitVec 2) (q : BitVec 6) (f : Queue → Queue) : (s.modQueue p q f).attGo = s.attGo := rfl
@[simp] theorem State.modQueue_attLen (p : BitVec 2) (q : BitVec 6) (f : Queue → Queue) : (s.modQueue p q f).attLen = s.attLen := rfl
@[simp] theorem State.modQueue_attReport (p : BitVec 2) (q : BitVec 6) (f : Queue → Queue) : (s.modQueue p q f).attReport = s.attReport := rfl
@[simp] theorem State.modQueue_pwrCap (p : BitVec 2) (q : BitVec 6) (f : Queue → Queue) : (s.modQueue p q f).pwrCap = s.pwrCap := rfl
@[simp] theorem State.modQueue_capMax (p : BitVec 2) (q : BitVec 6) (f : Queue → Queue) : (s.modQueue p q f).capMax = s.capMax := rfl
@[simp] theorem State.modQueue_pkgState (p : BitVec 2) (q : BitVec 6) (f : Queue → Queue) : (s.modQueue p q f).pkgState = s.pkgState := rfl
@[simp] theorem State.modQueue_ps1Cap (p : BitVec 2) (q : BitVec 6) (f : Queue → Queue) : (s.modQueue p q f).ps1Cap = s.ps1Cap := rfl
@[simp] theorem State.modQueue_ps1Heat (p : BitVec 2) (q : BitVec 6) (f : Queue → Queue) : (s.modQueue p q f).ps1Heat = s.ps1Heat := rfl
@[simp] theorem State.modQueue_ps2 (p : BitVec 2) (q : BitVec 6) (f : Queue → Queue) : (s.modQueue p q f).ps2 = s.ps2 := rfl
@[simp] theorem State.modQueue_pwrRefused (p : BitVec 2) (q : BitVec 6) (f : Queue → Queue) : (s.modQueue p q f).pwrRefused = s.pwrRefused := rfl
@[simp] theorem State.modQueue_clk (p : BitVec 2) (q : BitVec 6) (f : Queue → Queue) : (s.modQueue p q f).clk = s.clk := rfl
@[simp] theorem State.modQueue_off (p : BitVec 2) (q : BitVec 6) (f : Queue → Queue) : (s.modQueue p q f).off = s.off := rfl
@[simp] theorem State.modQueue_podIndex (p : BitVec 2) (q : BitVec 6) (f : Queue → Queue) : (s.modQueue p q f).podIndex = s.podIndex := rfl
@[simp] theorem State.modQueue_ringTimeout (p : BitVec 2) (q : BitVec 6) (f : Queue → Queue) : (s.modQueue p q f).ringTimeout = s.ringTimeout := rfl
@[simp] theorem State.modQueue_ports (p : BitVec 2) (q : BitVec 6) (f : Queue → Queue) : (s.modQueue p q f).ports = s.ports := rfl
@[simp] theorem State.modQueue_peerDown (p : BitVec 2) (q : BitVec 6) (f : Queue → Queue) : (s.modQueue p q f).peerDown = s.peerDown := rfl
@[simp] theorem State.modQueue_dieOn (p : BitVec 2) (q : BitVec 6) (f : Queue → Queue) : (s.modQueue p q f).dieOn = s.dieOn := rfl
@[simp] theorem State.modQueue_clkMax (p : BitVec 2) (q : BitVec 6) (f : Queue → Queue) : (s.modQueue p q f).clkMax = s.clkMax := rfl
@[simp] theorem State.modQueue_planes (p : BitVec 2) (q : BitVec 6) (f : Queue → Queue) : (s.modQueue p q f).planes = s.planes := rfl
@[simp] theorem State.modQueue_cxlPorts (p : BitVec 2) (q : BitVec 6) (f : Queue → Queue) : (s.modQueue p q f).cxlPorts = s.cxlPorts := rfl
@[simp] theorem State.modQueue_cxlSets (p : BitVec 2) (q : BitVec 6) (f : Queue → Queue) : (s.modQueue p q f).cxlSets = s.cxlSets := rfl
@[simp] theorem State.modQueue_msix (p : BitVec 2) (q : BitVec 6) (f : Queue → Queue) : (s.modQueue p q f).msix = s.msix := rfl
@[simp] theorem State.modQueue_irqs (p : BitVec 2) (q : BitVec 6) (f : Queue → Queue) : (s.modQueue p q f).irqs = s.irqs := rfl
@[simp] theorem State.modQueue_hostReply (p : BitVec 2) (q : BitVec 6) (f : Queue → Queue) : (s.modQueue p q f).hostReply = s.hostReply := rfl
@[simp] theorem State.modQueue_life (p : BitVec 2) (q : BitVec 6) (f : Queue → Queue) : (s.modQueue p q f).life = s.life := rfl
@[simp] theorem State.modQueue_lifeNow (p : BitVec 2) (q : BitVec 6) (f : Queue → Queue) : (s.modQueue p q f).lifeNow = s.lifeNow := rfl
@[simp] theorem State.modQueue_lifeSeq (p : BitVec 2) (q : BitVec 6) (f : Queue → Queue) : (s.modQueue p q f).lifeSeq = s.lifeSeq := rfl
@[simp] theorem State.modQueue_lifeCap (p : BitVec 2) (q : BitVec 6) (f : Queue → Queue) : (s.modQueue p q f).lifeCap = s.lifeCap := rfl
@[simp] theorem State.modQueue_lifeAt (p : BitVec 2) (q : BitVec 6) (f : Queue → Queue) : (s.modQueue p q f).lifeAt = s.lifeAt := rfl
@[simp] theorem State.modQueue_stormNow (p : BitVec 2) (q : BitVec 6) (f : Queue → Queue) : (s.modQueue p q f).stormNow = s.stormNow := rfl
@[simp] theorem State.modQueue_coreCounters (p : BitVec 2) (q : BitVec 6) (f : Queue → Queue) : (s.modQueue p q f).coreCounters = s.coreCounters := rfl
@[simp] theorem State.modQueue_tableCounters (p : BitVec 2) (q : BitVec 6) (f : Queue → Queue) : (s.modQueue p q f).tableCounters = s.tableCounters := rfl
@[simp] theorem State.modQueue_draws (p : BitVec 2) (q : BitVec 6) (f : Queue → Queue) : (s.modQueue p q f).draws = s.draws := rfl
@[simp] theorem State.modQueue_mem (p : BitVec 2) (q : BitVec 6) (f : Queue → Queue) : (s.modQueue p q f).mem = s.mem := rfl
@[simp] theorem State.modQueue_host (p : BitVec 2) (q : BitVec 6) (f : Queue → Queue) : (s.modQueue p q f).host = s.host := rfl
@[simp] theorem State.modQueue_hostDead (p : BitVec 2) (q : BitVec 6) (f : Queue → Queue) : (s.modQueue p q f).hostDead = s.hostDead := rfl
@[simp] theorem State.modQueue_poison (p : BitVec 2) (q : BitVec 6) (f : Queue → Queue) : (s.modQueue p q f).poison = s.poison := rfl
@[simp] theorem State.modQueue_pool (p : BitVec 2) (q : BitVec 6) (f : Queue → Queue) : (s.modQueue p q f).pool = s.pool := rfl
@[simp] theorem State.modQueue_poolBack (p : BitVec 2) (q : BitVec 6) (f : Queue → Queue) : (s.modQueue p q f).poolBack = s.poolBack := rfl
@[simp] theorem State.modQueue_cache (p : BitVec 2) (q : BitVec 6) (f : Queue → Queue) : (s.modQueue p q f).cache = s.cache := rfl
@[simp] theorem State.modQueue_held (p : BitVec 2) (q : BitVec 6) (f : Queue → Queue) : (s.modQueue p q f).held = s.held := rfl
@[simp] theorem State.modQueue_journal (p : BitVec 2) (q : BitVec 6) (f : Queue → Queue) : (s.modQueue p q f).journal = s.journal := rfl
@[simp] theorem State.modQueue_latch (p : BitVec 2) (q : BitVec 6) (f : Queue → Queue) : (s.modQueue p q f).latch = s.latch := rfl
@[simp] theorem State.modQueue_tlb (p : BitVec 2) (q : BitVec 6) (f : Queue → Queue) : (s.modQueue p q f).tlb = s.tlb := rfl
@[simp] theorem State.modQueue_walks (p : BitVec 2) (q : BitVec 6) (f : Queue → Queue) : (s.modQueue p q f).walks = s.walks := rfl
@[simp] theorem State.modQueue_owners (p : BitVec 2) (q : BitVec 6) (f : Queue → Queue) : (s.modQueue p q f).owners = s.owners := rfl
@[simp] theorem State.modQueue_nudged (p : BitVec 2) (q : BitVec 6) (f : Queue → Queue) : (s.modQueue p q f).nudged = s.nudged := rfl
@[simp] theorem State.modQueue_descs (p : BitVec 2) (q : BitVec 6) (f : Queue → Queue) : (s.modQueue p q f).descs = s.descs := rfl
@[simp] theorem State.modQueue_stale (p : BitVec 2) (q : BitVec 6) (f : Queue → Queue) : (s.modQueue p q f).stale = s.stale := rfl
@[simp] theorem State.modQueue_locks (p : BitVec 2) (q : BitVec 6) (f : Queue → Queue) : (s.modQueue p q f).locks = s.locks := rfl
@[simp] theorem State.modQueue_stamps (p : BitVec 2) (q : BitVec 6) (f : Queue → Queue) : (s.modQueue p q f).stamps = s.stamps := rfl
@[simp] theorem State.modQueue_launches (p : BitVec 2) (q : BitVec 6) (f : Queue → Queue) : (s.modQueue p q f).launches = s.launches := rfl
@[simp] theorem State.modQueue_reservations (p : BitVec 2) (q : BitVec 6) (f : Queue → Queue) : (s.modQueue p q f).reservations = s.reservations := rfl
@[simp] theorem State.modQueue_bins (p : BitVec 2) (q : BitVec 6) (f : Queue → Queue) : (s.modQueue p q f).bins = s.bins := rfl
@[simp] theorem State.modQueue_wgs (p : BitVec 2) (q : BitVec 6) (f : Queue → Queue) : (s.modQueue p q f).wgs = s.wgs := rfl
@[simp] theorem State.modQueue_warps (p : BitVec 2) (q : BitVec 6) (f : Queue → Queue) : (s.modQueue p q f).warps = s.warps := rfl
@[simp] theorem State.modQueue_jobs (p : BitVec 2) (q : BitVec 6) (f : Queue → Queue) : (s.modQueue p q f).jobs = s.jobs := rfl
@[simp] theorem State.modQueue_tableReqs (p : BitVec 2) (q : BitVec 6) (f : Queue → Queue) : (s.modQueue p q f).tableReqs = s.tableReqs := rfl
@[simp] theorem State.modQueue_lookups (p : BitVec 2) (q : BitVec 6) (f : Queue → Queue) : (s.modQueue p q f).lookups = s.lookups := rfl
@[simp] theorem State.modQueue_retiring (p : BitVec 2) (q : BitVec 6) (f : Queue → Queue) : (s.modQueue p q f).retiring = s.retiring := rfl
@[simp] theorem State.modQueue_exts (p : BitVec 2) (q : BitVec 6) (f : Queue → Queue) : (s.modQueue p q f).exts = s.exts := rfl
@[simp] theorem State.modQueue_inbox (p : BitVec 2) (q : BitVec 6) (f : Queue → Queue) : (s.modQueue p q f).inbox = s.inbox := rfl
@[simp] theorem State.modQueue_windows (p : BitVec 2) (q : BitVec 6) (f : Queue → Queue) : (s.modQueue p q f).windows = s.windows := rfl
@[simp] theorem State.modQueue_lost (p : BitVec 2) (q : BitVec 6) (f : Queue → Queue) : (s.modQueue p q f).lost = s.lost := rfl
@[simp] theorem State.modQueue_probed (p : BitVec 2) (q : BitVec 6) (f : Queue → Queue) : (s.modQueue p q f).probed = s.probed := rfl
@[simp] theorem State.modQueue_retired (p : BitVec 2) (q : BitVec 6) (f : Queue → Queue) : (s.modQueue p q f).retired = s.retired := rfl
@[simp] theorem State.modQueue_nextId (p : BitVec 2) (q : BitVec 6) (f : Queue → Queue) : (s.modQueue p q f).nextId = s.nextId := rfl

/-! ## modSession -/

@[simp] theorem State.modSession_agenda (p : BitVec 2) (i : Nat) (f : Session → Session) : (s.modSession p i f).agenda = s.agenda := rfl
@[simp] theorem State.modSession_deferred (p : BitVec 2) (i : Nat) (f : Session → Session) : (s.modSession p i f).deferred = s.deferred := rfl
@[simp] theorem State.modSession_args (p : BitVec 2) (i : Nat) (f : Session → Session) : (s.modSession p i f).args = s.args := rfl
@[simp] theorem State.modSession_cur (p : BitVec 2) (i : Nat) (f : Session → Session) : (s.modSession p i f).cur = s.cur := rfl
@[simp] theorem State.modSession_turn (p : BitVec 2) (i : Nat) (f : Session → Session) : (s.modSession p i f).turn = s.turn := rfl
@[simp] theorem State.modSession_free (p : BitVec 2) (i : Nat) (f : Session → Session) : (s.modSession p i f).free = s.free := rfl
@[simp] theorem State.modSession_cycle (p : BitVec 2) (i : Nat) (f : Session → Session) : (s.modSession p i f).cycle = s.cycle := rfl
@[simp] theorem State.modSession_bootStage (p : BitVec 2) (i : Nat) (f : Session → Session) : (s.modSession p i f).bootStage = s.bootStage := rfl
@[simp] theorem State.modSession_bootErr (p : BitVec 2) (i : Nat) (f : Session → Session) : (s.modSession p i f).bootErr = s.bootErr := rfl
@[simp] theorem State.modSession_devEvt (p : BitVec 2) (i : Nat) (f : Session → Session) : (s.modSession p i f).devEvt = s.devEvt := rfl
@[simp] theorem State.modSession_cfgVersion (p : BitVec 2) (i : Nat) (f : Session → Session) : (s.modSession p i f).cfgVersion = s.cfgVersion := rfl
@[simp] theorem State.modSession_fwVersion (p : BitVec 2) (i : Nat) (f : Session → Session) : (s.modSession p i f).fwVersion = s.fwVersion := rfl
@[simp] theorem State.modSession_fwRollback (p : BitVec 2) (i : Nat) (f : Session → Session) : (s.modSession p i f).fwRollback = s.fwRollback := rfl
@[simp] theorem State.modSession_cfgRollback (p : BitVec 2) (i : Nat) (f : Session → Session) : (s.modSession p i f).cfgRollback = s.cfgRollback := rfl
@[simp] theorem State.modSession_fwPtr (p : BitVec 2) (i : Nat) (f : Session → Session) : (s.modSession p i f).fwPtr = s.fwPtr := rfl
@[simp] theorem State.modSession_fwLen (p : BitVec 2) (i : Nat) (f : Session → Session) : (s.modSession p i f).fwLen = s.fwLen := rfl
@[simp] theorem State.modSession_fwGo (p : BitVec 2) (i : Nat) (f : Session → Session) : (s.modSession p i f).fwGo = s.fwGo := rfl
@[simp] theorem State.modSession_fwKind (p : BitVec 2) (i : Nat) (f : Session → Session) : (s.modSession p i f).fwKind = s.fwKind := rfl
@[simp] theorem State.modSession_fwResult (p : BitVec 2) (i : Nat) (f : Session → Session) : (s.modSession p i f).fwResult = s.fwResult := rfl
@[simp] theorem State.modSession_flashFw (p : BitVec 2) (i : Nat) (f : Session → Session) : (s.modSession p i f).flashFw = s.flashFw := rfl
@[simp] theorem State.modSession_flashCfg (p : BitVec 2) (i : Nat) (f : Session → Session) : (s.modSession p i f).flashCfg = s.flashCfg := rfl
@[simp] theorem State.modSession_attNonce (p : BitVec 2) (i : Nat) (f : Session → Session) : (s.modSession p i f).attNonce = s.attNonce := rfl
@[simp] theorem State.modSession_attGo (p : BitVec 2) (i : Nat) (f : Session → Session) : (s.modSession p i f).attGo = s.attGo := rfl
@[simp] theorem State.modSession_attLen (p : BitVec 2) (i : Nat) (f : Session → Session) : (s.modSession p i f).attLen = s.attLen := rfl
@[simp] theorem State.modSession_attReport (p : BitVec 2) (i : Nat) (f : Session → Session) : (s.modSession p i f).attReport = s.attReport := rfl
@[simp] theorem State.modSession_pwrCap (p : BitVec 2) (i : Nat) (f : Session → Session) : (s.modSession p i f).pwrCap = s.pwrCap := rfl
@[simp] theorem State.modSession_capMax (p : BitVec 2) (i : Nat) (f : Session → Session) : (s.modSession p i f).capMax = s.capMax := rfl
@[simp] theorem State.modSession_pkgState (p : BitVec 2) (i : Nat) (f : Session → Session) : (s.modSession p i f).pkgState = s.pkgState := rfl
@[simp] theorem State.modSession_ps1Cap (p : BitVec 2) (i : Nat) (f : Session → Session) : (s.modSession p i f).ps1Cap = s.ps1Cap := rfl
@[simp] theorem State.modSession_ps1Heat (p : BitVec 2) (i : Nat) (f : Session → Session) : (s.modSession p i f).ps1Heat = s.ps1Heat := rfl
@[simp] theorem State.modSession_ps2 (p : BitVec 2) (i : Nat) (f : Session → Session) : (s.modSession p i f).ps2 = s.ps2 := rfl
@[simp] theorem State.modSession_pwrRefused (p : BitVec 2) (i : Nat) (f : Session → Session) : (s.modSession p i f).pwrRefused = s.pwrRefused := rfl
@[simp] theorem State.modSession_clk (p : BitVec 2) (i : Nat) (f : Session → Session) : (s.modSession p i f).clk = s.clk := rfl
@[simp] theorem State.modSession_off (p : BitVec 2) (i : Nat) (f : Session → Session) : (s.modSession p i f).off = s.off := rfl
@[simp] theorem State.modSession_podIndex (p : BitVec 2) (i : Nat) (f : Session → Session) : (s.modSession p i f).podIndex = s.podIndex := rfl
@[simp] theorem State.modSession_ringTimeout (p : BitVec 2) (i : Nat) (f : Session → Session) : (s.modSession p i f).ringTimeout = s.ringTimeout := rfl
@[simp] theorem State.modSession_ports (p : BitVec 2) (i : Nat) (f : Session → Session) : (s.modSession p i f).ports = s.ports := rfl
@[simp] theorem State.modSession_peerDown (p : BitVec 2) (i : Nat) (f : Session → Session) : (s.modSession p i f).peerDown = s.peerDown := rfl
@[simp] theorem State.modSession_dieOn (p : BitVec 2) (i : Nat) (f : Session → Session) : (s.modSession p i f).dieOn = s.dieOn := rfl
@[simp] theorem State.modSession_clkMax (p : BitVec 2) (i : Nat) (f : Session → Session) : (s.modSession p i f).clkMax = s.clkMax := rfl
@[simp] theorem State.modSession_planes (p : BitVec 2) (i : Nat) (f : Session → Session) : (s.modSession p i f).planes = s.planes := rfl
@[simp] theorem State.modSession_cxlPorts (p : BitVec 2) (i : Nat) (f : Session → Session) : (s.modSession p i f).cxlPorts = s.cxlPorts := rfl
@[simp] theorem State.modSession_cxlSets (p : BitVec 2) (i : Nat) (f : Session → Session) : (s.modSession p i f).cxlSets = s.cxlSets := rfl
@[simp] theorem State.modSession_msix (p : BitVec 2) (i : Nat) (f : Session → Session) : (s.modSession p i f).msix = s.msix := rfl
@[simp] theorem State.modSession_irqs (p : BitVec 2) (i : Nat) (f : Session → Session) : (s.modSession p i f).irqs = s.irqs := rfl
@[simp] theorem State.modSession_hostReply (p : BitVec 2) (i : Nat) (f : Session → Session) : (s.modSession p i f).hostReply = s.hostReply := rfl
@[simp] theorem State.modSession_life (p : BitVec 2) (i : Nat) (f : Session → Session) : (s.modSession p i f).life = s.life := rfl
@[simp] theorem State.modSession_lifeNow (p : BitVec 2) (i : Nat) (f : Session → Session) : (s.modSession p i f).lifeNow = s.lifeNow := rfl
@[simp] theorem State.modSession_lifeSeq (p : BitVec 2) (i : Nat) (f : Session → Session) : (s.modSession p i f).lifeSeq = s.lifeSeq := rfl
@[simp] theorem State.modSession_lifeCap (p : BitVec 2) (i : Nat) (f : Session → Session) : (s.modSession p i f).lifeCap = s.lifeCap := rfl
@[simp] theorem State.modSession_lifeAt (p : BitVec 2) (i : Nat) (f : Session → Session) : (s.modSession p i f).lifeAt = s.lifeAt := rfl
@[simp] theorem State.modSession_stormNow (p : BitVec 2) (i : Nat) (f : Session → Session) : (s.modSession p i f).stormNow = s.stormNow := rfl
@[simp] theorem State.modSession_coreCounters (p : BitVec 2) (i : Nat) (f : Session → Session) : (s.modSession p i f).coreCounters = s.coreCounters := rfl
@[simp] theorem State.modSession_tableCounters (p : BitVec 2) (i : Nat) (f : Session → Session) : (s.modSession p i f).tableCounters = s.tableCounters := rfl
@[simp] theorem State.modSession_draws (p : BitVec 2) (i : Nat) (f : Session → Session) : (s.modSession p i f).draws = s.draws := rfl
@[simp] theorem State.modSession_mem (p : BitVec 2) (i : Nat) (f : Session → Session) : (s.modSession p i f).mem = s.mem := rfl
@[simp] theorem State.modSession_host (p : BitVec 2) (i : Nat) (f : Session → Session) : (s.modSession p i f).host = s.host := rfl
@[simp] theorem State.modSession_hostDead (p : BitVec 2) (i : Nat) (f : Session → Session) : (s.modSession p i f).hostDead = s.hostDead := rfl
@[simp] theorem State.modSession_poison (p : BitVec 2) (i : Nat) (f : Session → Session) : (s.modSession p i f).poison = s.poison := rfl
@[simp] theorem State.modSession_pool (p : BitVec 2) (i : Nat) (f : Session → Session) : (s.modSession p i f).pool = s.pool := rfl
@[simp] theorem State.modSession_poolBack (p : BitVec 2) (i : Nat) (f : Session → Session) : (s.modSession p i f).poolBack = s.poolBack := rfl
@[simp] theorem State.modSession_cache (p : BitVec 2) (i : Nat) (f : Session → Session) : (s.modSession p i f).cache = s.cache := rfl
@[simp] theorem State.modSession_held (p : BitVec 2) (i : Nat) (f : Session → Session) : (s.modSession p i f).held = s.held := rfl
@[simp] theorem State.modSession_journal (p : BitVec 2) (i : Nat) (f : Session → Session) : (s.modSession p i f).journal = s.journal := rfl
@[simp] theorem State.modSession_latch (p : BitVec 2) (i : Nat) (f : Session → Session) : (s.modSession p i f).latch = s.latch := rfl
@[simp] theorem State.modSession_tlb (p : BitVec 2) (i : Nat) (f : Session → Session) : (s.modSession p i f).tlb = s.tlb := rfl
@[simp] theorem State.modSession_walks (p : BitVec 2) (i : Nat) (f : Session → Session) : (s.modSession p i f).walks = s.walks := rfl
@[simp] theorem State.modSession_owners (p : BitVec 2) (i : Nat) (f : Session → Session) : (s.modSession p i f).owners = s.owners := rfl
@[simp] theorem State.modSession_nudged (p : BitVec 2) (i : Nat) (f : Session → Session) : (s.modSession p i f).nudged = s.nudged := rfl
@[simp] theorem State.modSession_descs (p : BitVec 2) (i : Nat) (f : Session → Session) : (s.modSession p i f).descs = s.descs := rfl
@[simp] theorem State.modSession_stale (p : BitVec 2) (i : Nat) (f : Session → Session) : (s.modSession p i f).stale = s.stale := rfl
@[simp] theorem State.modSession_locks (p : BitVec 2) (i : Nat) (f : Session → Session) : (s.modSession p i f).locks = s.locks := rfl
@[simp] theorem State.modSession_stamps (p : BitVec 2) (i : Nat) (f : Session → Session) : (s.modSession p i f).stamps = s.stamps := rfl
@[simp] theorem State.modSession_launches (p : BitVec 2) (i : Nat) (f : Session → Session) : (s.modSession p i f).launches = s.launches := rfl
@[simp] theorem State.modSession_reservations (p : BitVec 2) (i : Nat) (f : Session → Session) : (s.modSession p i f).reservations = s.reservations := rfl
@[simp] theorem State.modSession_bins (p : BitVec 2) (i : Nat) (f : Session → Session) : (s.modSession p i f).bins = s.bins := rfl
@[simp] theorem State.modSession_wgs (p : BitVec 2) (i : Nat) (f : Session → Session) : (s.modSession p i f).wgs = s.wgs := rfl
@[simp] theorem State.modSession_warps (p : BitVec 2) (i : Nat) (f : Session → Session) : (s.modSession p i f).warps = s.warps := rfl
@[simp] theorem State.modSession_jobs (p : BitVec 2) (i : Nat) (f : Session → Session) : (s.modSession p i f).jobs = s.jobs := rfl
@[simp] theorem State.modSession_tableReqs (p : BitVec 2) (i : Nat) (f : Session → Session) : (s.modSession p i f).tableReqs = s.tableReqs := rfl
@[simp] theorem State.modSession_lookups (p : BitVec 2) (i : Nat) (f : Session → Session) : (s.modSession p i f).lookups = s.lookups := rfl
@[simp] theorem State.modSession_retiring (p : BitVec 2) (i : Nat) (f : Session → Session) : (s.modSession p i f).retiring = s.retiring := rfl
@[simp] theorem State.modSession_exts (p : BitVec 2) (i : Nat) (f : Session → Session) : (s.modSession p i f).exts = s.exts := rfl
@[simp] theorem State.modSession_inbox (p : BitVec 2) (i : Nat) (f : Session → Session) : (s.modSession p i f).inbox = s.inbox := rfl
@[simp] theorem State.modSession_windows (p : BitVec 2) (i : Nat) (f : Session → Session) : (s.modSession p i f).windows = s.windows := rfl
@[simp] theorem State.modSession_lost (p : BitVec 2) (i : Nat) (f : Session → Session) : (s.modSession p i f).lost = s.lost := rfl
@[simp] theorem State.modSession_probed (p : BitVec 2) (i : Nat) (f : Session → Session) : (s.modSession p i f).probed = s.probed := rfl
@[simp] theorem State.modSession_retired (p : BitVec 2) (i : Nat) (f : Session → Session) : (s.modSession p i f).retired = s.retired := rfl
@[simp] theorem State.modSession_nextId (p : BitVec 2) (i : Nat) (f : Session → Session) : (s.modSession p i f).nextId = s.nextId := rfl

/-! ## raiseEvt -/

@[simp] theorem State.raiseEvt_agenda (b : Nat) : (s.raiseEvt b).agenda = s.agenda := rfl
@[simp] theorem State.raiseEvt_deferred (b : Nat) : (s.raiseEvt b).deferred = s.deferred := rfl
@[simp] theorem State.raiseEvt_args (b : Nat) : (s.raiseEvt b).args = s.args := rfl
@[simp] theorem State.raiseEvt_cur (b : Nat) : (s.raiseEvt b).cur = s.cur := rfl
@[simp] theorem State.raiseEvt_turn (b : Nat) : (s.raiseEvt b).turn = s.turn := rfl
@[simp] theorem State.raiseEvt_free (b : Nat) : (s.raiseEvt b).free = s.free := rfl
@[simp] theorem State.raiseEvt_cycle (b : Nat) : (s.raiseEvt b).cycle = s.cycle := rfl
@[simp] theorem State.raiseEvt_bootStage (b : Nat) : (s.raiseEvt b).bootStage = s.bootStage := rfl
@[simp] theorem State.raiseEvt_bootErr (b : Nat) : (s.raiseEvt b).bootErr = s.bootErr := rfl
@[simp] theorem State.raiseEvt_cfgVersion (b : Nat) : (s.raiseEvt b).cfgVersion = s.cfgVersion := rfl
@[simp] theorem State.raiseEvt_fwVersion (b : Nat) : (s.raiseEvt b).fwVersion = s.fwVersion := rfl
@[simp] theorem State.raiseEvt_fwRollback (b : Nat) : (s.raiseEvt b).fwRollback = s.fwRollback := rfl
@[simp] theorem State.raiseEvt_cfgRollback (b : Nat) : (s.raiseEvt b).cfgRollback = s.cfgRollback := rfl
@[simp] theorem State.raiseEvt_fwPtr (b : Nat) : (s.raiseEvt b).fwPtr = s.fwPtr := rfl
@[simp] theorem State.raiseEvt_fwLen (b : Nat) : (s.raiseEvt b).fwLen = s.fwLen := rfl
@[simp] theorem State.raiseEvt_fwGo (b : Nat) : (s.raiseEvt b).fwGo = s.fwGo := rfl
@[simp] theorem State.raiseEvt_fwKind (b : Nat) : (s.raiseEvt b).fwKind = s.fwKind := rfl
@[simp] theorem State.raiseEvt_fwResult (b : Nat) : (s.raiseEvt b).fwResult = s.fwResult := rfl
@[simp] theorem State.raiseEvt_flashFw (b : Nat) : (s.raiseEvt b).flashFw = s.flashFw := rfl
@[simp] theorem State.raiseEvt_flashCfg (b : Nat) : (s.raiseEvt b).flashCfg = s.flashCfg := rfl
@[simp] theorem State.raiseEvt_attNonce (b : Nat) : (s.raiseEvt b).attNonce = s.attNonce := rfl
@[simp] theorem State.raiseEvt_attGo (b : Nat) : (s.raiseEvt b).attGo = s.attGo := rfl
@[simp] theorem State.raiseEvt_attLen (b : Nat) : (s.raiseEvt b).attLen = s.attLen := rfl
@[simp] theorem State.raiseEvt_attReport (b : Nat) : (s.raiseEvt b).attReport = s.attReport := rfl
@[simp] theorem State.raiseEvt_pwrCap (b : Nat) : (s.raiseEvt b).pwrCap = s.pwrCap := rfl
@[simp] theorem State.raiseEvt_capMax (b : Nat) : (s.raiseEvt b).capMax = s.capMax := rfl
@[simp] theorem State.raiseEvt_pkgState (b : Nat) : (s.raiseEvt b).pkgState = s.pkgState := rfl
@[simp] theorem State.raiseEvt_ps1Cap (b : Nat) : (s.raiseEvt b).ps1Cap = s.ps1Cap := rfl
@[simp] theorem State.raiseEvt_ps1Heat (b : Nat) : (s.raiseEvt b).ps1Heat = s.ps1Heat := rfl
@[simp] theorem State.raiseEvt_ps2 (b : Nat) : (s.raiseEvt b).ps2 = s.ps2 := rfl
@[simp] theorem State.raiseEvt_pwrRefused (b : Nat) : (s.raiseEvt b).pwrRefused = s.pwrRefused := rfl
@[simp] theorem State.raiseEvt_clk (b : Nat) : (s.raiseEvt b).clk = s.clk := rfl
@[simp] theorem State.raiseEvt_off (b : Nat) : (s.raiseEvt b).off = s.off := rfl
@[simp] theorem State.raiseEvt_podIndex (b : Nat) : (s.raiseEvt b).podIndex = s.podIndex := rfl
@[simp] theorem State.raiseEvt_ringTimeout (b : Nat) : (s.raiseEvt b).ringTimeout = s.ringTimeout := rfl
@[simp] theorem State.raiseEvt_ports (b : Nat) : (s.raiseEvt b).ports = s.ports := rfl
@[simp] theorem State.raiseEvt_peerDown (b : Nat) : (s.raiseEvt b).peerDown = s.peerDown := rfl
@[simp] theorem State.raiseEvt_dieOn (b : Nat) : (s.raiseEvt b).dieOn = s.dieOn := rfl
@[simp] theorem State.raiseEvt_clkMax (b : Nat) : (s.raiseEvt b).clkMax = s.clkMax := rfl
@[simp] theorem State.raiseEvt_planes (b : Nat) : (s.raiseEvt b).planes = s.planes := rfl
@[simp] theorem State.raiseEvt_cxlPorts (b : Nat) : (s.raiseEvt b).cxlPorts = s.cxlPorts := rfl
@[simp] theorem State.raiseEvt_cxlSets (b : Nat) : (s.raiseEvt b).cxlSets = s.cxlSets := rfl
@[simp] theorem State.raiseEvt_msix (b : Nat) : (s.raiseEvt b).msix = s.msix := rfl
@[simp] theorem State.raiseEvt_hostReply (b : Nat) : (s.raiseEvt b).hostReply = s.hostReply := rfl
@[simp] theorem State.raiseEvt_life (b : Nat) : (s.raiseEvt b).life = s.life := rfl
@[simp] theorem State.raiseEvt_lifeNow (b : Nat) : (s.raiseEvt b).lifeNow = s.lifeNow := rfl
@[simp] theorem State.raiseEvt_lifeSeq (b : Nat) : (s.raiseEvt b).lifeSeq = s.lifeSeq := rfl
@[simp] theorem State.raiseEvt_lifeCap (b : Nat) : (s.raiseEvt b).lifeCap = s.lifeCap := rfl
@[simp] theorem State.raiseEvt_lifeAt (b : Nat) : (s.raiseEvt b).lifeAt = s.lifeAt := rfl
@[simp] theorem State.raiseEvt_stormNow (b : Nat) : (s.raiseEvt b).stormNow = s.stormNow := rfl
@[simp] theorem State.raiseEvt_coreCounters (b : Nat) : (s.raiseEvt b).coreCounters = s.coreCounters := rfl
@[simp] theorem State.raiseEvt_tableCounters (b : Nat) : (s.raiseEvt b).tableCounters = s.tableCounters := rfl
@[simp] theorem State.raiseEvt_parts (b : Nat) : (s.raiseEvt b).parts = s.parts := rfl
@[simp] theorem State.raiseEvt_draws (b : Nat) : (s.raiseEvt b).draws = s.draws := rfl
@[simp] theorem State.raiseEvt_mem (b : Nat) : (s.raiseEvt b).mem = s.mem := rfl
@[simp] theorem State.raiseEvt_host (b : Nat) : (s.raiseEvt b).host = s.host := rfl
@[simp] theorem State.raiseEvt_hostDead (b : Nat) : (s.raiseEvt b).hostDead = s.hostDead := rfl
@[simp] theorem State.raiseEvt_poison (b : Nat) : (s.raiseEvt b).poison = s.poison := rfl
@[simp] theorem State.raiseEvt_pool (b : Nat) : (s.raiseEvt b).pool = s.pool := rfl
@[simp] theorem State.raiseEvt_poolBack (b : Nat) : (s.raiseEvt b).poolBack = s.poolBack := rfl
@[simp] theorem State.raiseEvt_cache (b : Nat) : (s.raiseEvt b).cache = s.cache := rfl
@[simp] theorem State.raiseEvt_held (b : Nat) : (s.raiseEvt b).held = s.held := rfl
@[simp] theorem State.raiseEvt_journal (b : Nat) : (s.raiseEvt b).journal = s.journal := rfl
@[simp] theorem State.raiseEvt_latch (b : Nat) : (s.raiseEvt b).latch = s.latch := rfl
@[simp] theorem State.raiseEvt_tlb (b : Nat) : (s.raiseEvt b).tlb = s.tlb := rfl
@[simp] theorem State.raiseEvt_walks (b : Nat) : (s.raiseEvt b).walks = s.walks := rfl
@[simp] theorem State.raiseEvt_owners (b : Nat) : (s.raiseEvt b).owners = s.owners := rfl
@[simp] theorem State.raiseEvt_nudged (b : Nat) : (s.raiseEvt b).nudged = s.nudged := rfl
@[simp] theorem State.raiseEvt_descs (b : Nat) : (s.raiseEvt b).descs = s.descs := rfl
@[simp] theorem State.raiseEvt_stale (b : Nat) : (s.raiseEvt b).stale = s.stale := rfl
@[simp] theorem State.raiseEvt_locks (b : Nat) : (s.raiseEvt b).locks = s.locks := rfl
@[simp] theorem State.raiseEvt_stamps (b : Nat) : (s.raiseEvt b).stamps = s.stamps := rfl
@[simp] theorem State.raiseEvt_launches (b : Nat) : (s.raiseEvt b).launches = s.launches := rfl
@[simp] theorem State.raiseEvt_reservations (b : Nat) : (s.raiseEvt b).reservations = s.reservations := rfl
@[simp] theorem State.raiseEvt_bins (b : Nat) : (s.raiseEvt b).bins = s.bins := rfl
@[simp] theorem State.raiseEvt_wgs (b : Nat) : (s.raiseEvt b).wgs = s.wgs := rfl
@[simp] theorem State.raiseEvt_warps (b : Nat) : (s.raiseEvt b).warps = s.warps := rfl
@[simp] theorem State.raiseEvt_jobs (b : Nat) : (s.raiseEvt b).jobs = s.jobs := rfl
@[simp] theorem State.raiseEvt_tableReqs (b : Nat) : (s.raiseEvt b).tableReqs = s.tableReqs := rfl
@[simp] theorem State.raiseEvt_lookups (b : Nat) : (s.raiseEvt b).lookups = s.lookups := rfl
@[simp] theorem State.raiseEvt_retiring (b : Nat) : (s.raiseEvt b).retiring = s.retiring := rfl
@[simp] theorem State.raiseEvt_exts (b : Nat) : (s.raiseEvt b).exts = s.exts := rfl
@[simp] theorem State.raiseEvt_inbox (b : Nat) : (s.raiseEvt b).inbox = s.inbox := rfl
@[simp] theorem State.raiseEvt_windows (b : Nat) : (s.raiseEvt b).windows = s.windows := rfl
@[simp] theorem State.raiseEvt_lost (b : Nat) : (s.raiseEvt b).lost = s.lost := rfl
@[simp] theorem State.raiseEvt_probed (b : Nat) : (s.raiseEvt b).probed = s.probed := rfl
@[simp] theorem State.raiseEvt_retired (b : Nat) : (s.raiseEvt b).retired = s.retired := rfl
@[simp] theorem State.raiseEvt_nextId (b : Nat) : (s.raiseEvt b).nextId = s.nextId := rfl

/-! ## writeHome -/

@[simp] theorem State.writeHome_agenda (k : Nat) (d : List Byte) : (s.writeHome k d).agenda = s.agenda := rfl
@[simp] theorem State.writeHome_deferred (k : Nat) (d : List Byte) : (s.writeHome k d).deferred = s.deferred := rfl
@[simp] theorem State.writeHome_args (k : Nat) (d : List Byte) : (s.writeHome k d).args = s.args := rfl
@[simp] theorem State.writeHome_cur (k : Nat) (d : List Byte) : (s.writeHome k d).cur = s.cur := rfl
@[simp] theorem State.writeHome_turn (k : Nat) (d : List Byte) : (s.writeHome k d).turn = s.turn := rfl
@[simp] theorem State.writeHome_free (k : Nat) (d : List Byte) : (s.writeHome k d).free = s.free := rfl
@[simp] theorem State.writeHome_cycle (k : Nat) (d : List Byte) : (s.writeHome k d).cycle = s.cycle := rfl
@[simp] theorem State.writeHome_bootStage (k : Nat) (d : List Byte) : (s.writeHome k d).bootStage = s.bootStage := rfl
@[simp] theorem State.writeHome_bootErr (k : Nat) (d : List Byte) : (s.writeHome k d).bootErr = s.bootErr := rfl
@[simp] theorem State.writeHome_devEvt (k : Nat) (d : List Byte) : (s.writeHome k d).devEvt = s.devEvt := rfl
@[simp] theorem State.writeHome_cfgVersion (k : Nat) (d : List Byte) : (s.writeHome k d).cfgVersion = s.cfgVersion := rfl
@[simp] theorem State.writeHome_fwVersion (k : Nat) (d : List Byte) : (s.writeHome k d).fwVersion = s.fwVersion := rfl
@[simp] theorem State.writeHome_fwRollback (k : Nat) (d : List Byte) : (s.writeHome k d).fwRollback = s.fwRollback := rfl
@[simp] theorem State.writeHome_cfgRollback (k : Nat) (d : List Byte) : (s.writeHome k d).cfgRollback = s.cfgRollback := rfl
@[simp] theorem State.writeHome_fwPtr (k : Nat) (d : List Byte) : (s.writeHome k d).fwPtr = s.fwPtr := rfl
@[simp] theorem State.writeHome_fwLen (k : Nat) (d : List Byte) : (s.writeHome k d).fwLen = s.fwLen := rfl
@[simp] theorem State.writeHome_fwGo (k : Nat) (d : List Byte) : (s.writeHome k d).fwGo = s.fwGo := rfl
@[simp] theorem State.writeHome_fwKind (k : Nat) (d : List Byte) : (s.writeHome k d).fwKind = s.fwKind := rfl
@[simp] theorem State.writeHome_fwResult (k : Nat) (d : List Byte) : (s.writeHome k d).fwResult = s.fwResult := rfl
@[simp] theorem State.writeHome_flashFw (k : Nat) (d : List Byte) : (s.writeHome k d).flashFw = s.flashFw := rfl
@[simp] theorem State.writeHome_flashCfg (k : Nat) (d : List Byte) : (s.writeHome k d).flashCfg = s.flashCfg := rfl
@[simp] theorem State.writeHome_attNonce (k : Nat) (d : List Byte) : (s.writeHome k d).attNonce = s.attNonce := rfl
@[simp] theorem State.writeHome_attGo (k : Nat) (d : List Byte) : (s.writeHome k d).attGo = s.attGo := rfl
@[simp] theorem State.writeHome_attLen (k : Nat) (d : List Byte) : (s.writeHome k d).attLen = s.attLen := rfl
@[simp] theorem State.writeHome_attReport (k : Nat) (d : List Byte) : (s.writeHome k d).attReport = s.attReport := rfl
@[simp] theorem State.writeHome_pwrCap (k : Nat) (d : List Byte) : (s.writeHome k d).pwrCap = s.pwrCap := rfl
@[simp] theorem State.writeHome_capMax (k : Nat) (d : List Byte) : (s.writeHome k d).capMax = s.capMax := rfl
@[simp] theorem State.writeHome_pkgState (k : Nat) (d : List Byte) : (s.writeHome k d).pkgState = s.pkgState := rfl
@[simp] theorem State.writeHome_ps1Cap (k : Nat) (d : List Byte) : (s.writeHome k d).ps1Cap = s.ps1Cap := rfl
@[simp] theorem State.writeHome_ps1Heat (k : Nat) (d : List Byte) : (s.writeHome k d).ps1Heat = s.ps1Heat := rfl
@[simp] theorem State.writeHome_ps2 (k : Nat) (d : List Byte) : (s.writeHome k d).ps2 = s.ps2 := rfl
@[simp] theorem State.writeHome_pwrRefused (k : Nat) (d : List Byte) : (s.writeHome k d).pwrRefused = s.pwrRefused := rfl
@[simp] theorem State.writeHome_clk (k : Nat) (d : List Byte) : (s.writeHome k d).clk = s.clk := rfl
@[simp] theorem State.writeHome_off (k : Nat) (d : List Byte) : (s.writeHome k d).off = s.off := rfl
@[simp] theorem State.writeHome_podIndex (k : Nat) (d : List Byte) : (s.writeHome k d).podIndex = s.podIndex := rfl
@[simp] theorem State.writeHome_ringTimeout (k : Nat) (d : List Byte) : (s.writeHome k d).ringTimeout = s.ringTimeout := rfl
@[simp] theorem State.writeHome_ports (k : Nat) (d : List Byte) : (s.writeHome k d).ports = s.ports := rfl
@[simp] theorem State.writeHome_peerDown (k : Nat) (d : List Byte) : (s.writeHome k d).peerDown = s.peerDown := rfl
@[simp] theorem State.writeHome_dieOn (k : Nat) (d : List Byte) : (s.writeHome k d).dieOn = s.dieOn := rfl
@[simp] theorem State.writeHome_clkMax (k : Nat) (d : List Byte) : (s.writeHome k d).clkMax = s.clkMax := rfl
@[simp] theorem State.writeHome_planes (k : Nat) (d : List Byte) : (s.writeHome k d).planes = s.planes := rfl
@[simp] theorem State.writeHome_cxlPorts (k : Nat) (d : List Byte) : (s.writeHome k d).cxlPorts = s.cxlPorts := rfl
@[simp] theorem State.writeHome_cxlSets (k : Nat) (d : List Byte) : (s.writeHome k d).cxlSets = s.cxlSets := rfl
@[simp] theorem State.writeHome_msix (k : Nat) (d : List Byte) : (s.writeHome k d).msix = s.msix := rfl
@[simp] theorem State.writeHome_irqs (k : Nat) (d : List Byte) : (s.writeHome k d).irqs = s.irqs := rfl
@[simp] theorem State.writeHome_hostReply (k : Nat) (d : List Byte) : (s.writeHome k d).hostReply = s.hostReply := rfl
@[simp] theorem State.writeHome_life (k : Nat) (d : List Byte) : (s.writeHome k d).life = s.life := rfl
@[simp] theorem State.writeHome_lifeNow (k : Nat) (d : List Byte) : (s.writeHome k d).lifeNow = s.lifeNow := rfl
@[simp] theorem State.writeHome_lifeSeq (k : Nat) (d : List Byte) : (s.writeHome k d).lifeSeq = s.lifeSeq := rfl
@[simp] theorem State.writeHome_lifeCap (k : Nat) (d : List Byte) : (s.writeHome k d).lifeCap = s.lifeCap := rfl
@[simp] theorem State.writeHome_lifeAt (k : Nat) (d : List Byte) : (s.writeHome k d).lifeAt = s.lifeAt := rfl
@[simp] theorem State.writeHome_stormNow (k : Nat) (d : List Byte) : (s.writeHome k d).stormNow = s.stormNow := rfl
@[simp] theorem State.writeHome_coreCounters (k : Nat) (d : List Byte) : (s.writeHome k d).coreCounters = s.coreCounters := rfl
@[simp] theorem State.writeHome_tableCounters (k : Nat) (d : List Byte) : (s.writeHome k d).tableCounters = s.tableCounters := rfl
@[simp] theorem State.writeHome_parts (k : Nat) (d : List Byte) : (s.writeHome k d).parts = s.parts := rfl
@[simp] theorem State.writeHome_draws (k : Nat) (d : List Byte) : (s.writeHome k d).draws = s.draws := rfl
@[simp] theorem State.writeHome_host (k : Nat) (d : List Byte) : (s.writeHome k d).host = s.host := rfl
@[simp] theorem State.writeHome_hostDead (k : Nat) (d : List Byte) : (s.writeHome k d).hostDead = s.hostDead := rfl
@[simp] theorem State.writeHome_pool (k : Nat) (d : List Byte) : (s.writeHome k d).pool = s.pool := rfl
@[simp] theorem State.writeHome_poolBack (k : Nat) (d : List Byte) : (s.writeHome k d).poolBack = s.poolBack := rfl
@[simp] theorem State.writeHome_cache (k : Nat) (d : List Byte) : (s.writeHome k d).cache = s.cache := rfl
@[simp] theorem State.writeHome_held (k : Nat) (d : List Byte) : (s.writeHome k d).held = s.held := rfl
@[simp] theorem State.writeHome_journal (k : Nat) (d : List Byte) : (s.writeHome k d).journal = s.journal := rfl
@[simp] theorem State.writeHome_latch (k : Nat) (d : List Byte) : (s.writeHome k d).latch = s.latch := rfl
@[simp] theorem State.writeHome_tlb (k : Nat) (d : List Byte) : (s.writeHome k d).tlb = s.tlb := rfl
@[simp] theorem State.writeHome_walks (k : Nat) (d : List Byte) : (s.writeHome k d).walks = s.walks := rfl
@[simp] theorem State.writeHome_owners (k : Nat) (d : List Byte) : (s.writeHome k d).owners = s.owners := rfl
@[simp] theorem State.writeHome_nudged (k : Nat) (d : List Byte) : (s.writeHome k d).nudged = s.nudged := rfl
@[simp] theorem State.writeHome_descs (k : Nat) (d : List Byte) : (s.writeHome k d).descs = s.descs := rfl
@[simp] theorem State.writeHome_locks (k : Nat) (d : List Byte) : (s.writeHome k d).locks = s.locks := rfl
@[simp] theorem State.writeHome_stamps (k : Nat) (d : List Byte) : (s.writeHome k d).stamps = s.stamps := rfl
@[simp] theorem State.writeHome_launches (k : Nat) (d : List Byte) : (s.writeHome k d).launches = s.launches := rfl
@[simp] theorem State.writeHome_reservations (k : Nat) (d : List Byte) : (s.writeHome k d).reservations = s.reservations := rfl
@[simp] theorem State.writeHome_bins (k : Nat) (d : List Byte) : (s.writeHome k d).bins = s.bins := rfl
@[simp] theorem State.writeHome_wgs (k : Nat) (d : List Byte) : (s.writeHome k d).wgs = s.wgs := rfl
@[simp] theorem State.writeHome_warps (k : Nat) (d : List Byte) : (s.writeHome k d).warps = s.warps := rfl
@[simp] theorem State.writeHome_jobs (k : Nat) (d : List Byte) : (s.writeHome k d).jobs = s.jobs := rfl
@[simp] theorem State.writeHome_tableReqs (k : Nat) (d : List Byte) : (s.writeHome k d).tableReqs = s.tableReqs := rfl
@[simp] theorem State.writeHome_lookups (k : Nat) (d : List Byte) : (s.writeHome k d).lookups = s.lookups := rfl
@[simp] theorem State.writeHome_retiring (k : Nat) (d : List Byte) : (s.writeHome k d).retiring = s.retiring := rfl
@[simp] theorem State.writeHome_exts (k : Nat) (d : List Byte) : (s.writeHome k d).exts = s.exts := rfl
@[simp] theorem State.writeHome_inbox (k : Nat) (d : List Byte) : (s.writeHome k d).inbox = s.inbox := rfl
@[simp] theorem State.writeHome_windows (k : Nat) (d : List Byte) : (s.writeHome k d).windows = s.windows := rfl
@[simp] theorem State.writeHome_lost (k : Nat) (d : List Byte) : (s.writeHome k d).lost = s.lost := rfl
@[simp] theorem State.writeHome_probed (k : Nat) (d : List Byte) : (s.writeHome k d).probed = s.probed := rfl
@[simp] theorem State.writeHome_retired (k : Nat) (d : List Byte) : (s.writeHome k d).retired = s.retired := rfl
@[simp] theorem State.writeHome_nextId (k : Nat) (d : List Byte) : (s.writeHome k d).nextId = s.nextId := rfl

/-! ## dropCache -/

@[simp] theorem State.dropCache_agenda (k : Nat) : (s.dropCache k).agenda = s.agenda := rfl
@[simp] theorem State.dropCache_deferred (k : Nat) : (s.dropCache k).deferred = s.deferred := rfl
@[simp] theorem State.dropCache_args (k : Nat) : (s.dropCache k).args = s.args := rfl
@[simp] theorem State.dropCache_cur (k : Nat) : (s.dropCache k).cur = s.cur := rfl
@[simp] theorem State.dropCache_turn (k : Nat) : (s.dropCache k).turn = s.turn := rfl
@[simp] theorem State.dropCache_free (k : Nat) : (s.dropCache k).free = s.free := rfl
@[simp] theorem State.dropCache_cycle (k : Nat) : (s.dropCache k).cycle = s.cycle := rfl
@[simp] theorem State.dropCache_bootStage (k : Nat) : (s.dropCache k).bootStage = s.bootStage := rfl
@[simp] theorem State.dropCache_bootErr (k : Nat) : (s.dropCache k).bootErr = s.bootErr := rfl
@[simp] theorem State.dropCache_devEvt (k : Nat) : (s.dropCache k).devEvt = s.devEvt := rfl
@[simp] theorem State.dropCache_cfgVersion (k : Nat) : (s.dropCache k).cfgVersion = s.cfgVersion := rfl
@[simp] theorem State.dropCache_fwVersion (k : Nat) : (s.dropCache k).fwVersion = s.fwVersion := rfl
@[simp] theorem State.dropCache_fwRollback (k : Nat) : (s.dropCache k).fwRollback = s.fwRollback := rfl
@[simp] theorem State.dropCache_cfgRollback (k : Nat) : (s.dropCache k).cfgRollback = s.cfgRollback := rfl
@[simp] theorem State.dropCache_fwPtr (k : Nat) : (s.dropCache k).fwPtr = s.fwPtr := rfl
@[simp] theorem State.dropCache_fwLen (k : Nat) : (s.dropCache k).fwLen = s.fwLen := rfl
@[simp] theorem State.dropCache_fwGo (k : Nat) : (s.dropCache k).fwGo = s.fwGo := rfl
@[simp] theorem State.dropCache_fwKind (k : Nat) : (s.dropCache k).fwKind = s.fwKind := rfl
@[simp] theorem State.dropCache_fwResult (k : Nat) : (s.dropCache k).fwResult = s.fwResult := rfl
@[simp] theorem State.dropCache_flashFw (k : Nat) : (s.dropCache k).flashFw = s.flashFw := rfl
@[simp] theorem State.dropCache_flashCfg (k : Nat) : (s.dropCache k).flashCfg = s.flashCfg := rfl
@[simp] theorem State.dropCache_attNonce (k : Nat) : (s.dropCache k).attNonce = s.attNonce := rfl
@[simp] theorem State.dropCache_attGo (k : Nat) : (s.dropCache k).attGo = s.attGo := rfl
@[simp] theorem State.dropCache_attLen (k : Nat) : (s.dropCache k).attLen = s.attLen := rfl
@[simp] theorem State.dropCache_attReport (k : Nat) : (s.dropCache k).attReport = s.attReport := rfl
@[simp] theorem State.dropCache_pwrCap (k : Nat) : (s.dropCache k).pwrCap = s.pwrCap := rfl
@[simp] theorem State.dropCache_capMax (k : Nat) : (s.dropCache k).capMax = s.capMax := rfl
@[simp] theorem State.dropCache_pkgState (k : Nat) : (s.dropCache k).pkgState = s.pkgState := rfl
@[simp] theorem State.dropCache_ps1Cap (k : Nat) : (s.dropCache k).ps1Cap = s.ps1Cap := rfl
@[simp] theorem State.dropCache_ps1Heat (k : Nat) : (s.dropCache k).ps1Heat = s.ps1Heat := rfl
@[simp] theorem State.dropCache_ps2 (k : Nat) : (s.dropCache k).ps2 = s.ps2 := rfl
@[simp] theorem State.dropCache_pwrRefused (k : Nat) : (s.dropCache k).pwrRefused = s.pwrRefused := rfl
@[simp] theorem State.dropCache_clk (k : Nat) : (s.dropCache k).clk = s.clk := rfl
@[simp] theorem State.dropCache_off (k : Nat) : (s.dropCache k).off = s.off := rfl
@[simp] theorem State.dropCache_podIndex (k : Nat) : (s.dropCache k).podIndex = s.podIndex := rfl
@[simp] theorem State.dropCache_ringTimeout (k : Nat) : (s.dropCache k).ringTimeout = s.ringTimeout := rfl
@[simp] theorem State.dropCache_ports (k : Nat) : (s.dropCache k).ports = s.ports := rfl
@[simp] theorem State.dropCache_peerDown (k : Nat) : (s.dropCache k).peerDown = s.peerDown := rfl
@[simp] theorem State.dropCache_dieOn (k : Nat) : (s.dropCache k).dieOn = s.dieOn := rfl
@[simp] theorem State.dropCache_clkMax (k : Nat) : (s.dropCache k).clkMax = s.clkMax := rfl
@[simp] theorem State.dropCache_planes (k : Nat) : (s.dropCache k).planes = s.planes := rfl
@[simp] theorem State.dropCache_cxlPorts (k : Nat) : (s.dropCache k).cxlPorts = s.cxlPorts := rfl
@[simp] theorem State.dropCache_cxlSets (k : Nat) : (s.dropCache k).cxlSets = s.cxlSets := rfl
@[simp] theorem State.dropCache_msix (k : Nat) : (s.dropCache k).msix = s.msix := rfl
@[simp] theorem State.dropCache_irqs (k : Nat) : (s.dropCache k).irqs = s.irqs := rfl
@[simp] theorem State.dropCache_hostReply (k : Nat) : (s.dropCache k).hostReply = s.hostReply := rfl
@[simp] theorem State.dropCache_life (k : Nat) : (s.dropCache k).life = s.life := rfl
@[simp] theorem State.dropCache_lifeNow (k : Nat) : (s.dropCache k).lifeNow = s.lifeNow := rfl
@[simp] theorem State.dropCache_lifeSeq (k : Nat) : (s.dropCache k).lifeSeq = s.lifeSeq := rfl
@[simp] theorem State.dropCache_lifeCap (k : Nat) : (s.dropCache k).lifeCap = s.lifeCap := rfl
@[simp] theorem State.dropCache_lifeAt (k : Nat) : (s.dropCache k).lifeAt = s.lifeAt := rfl
@[simp] theorem State.dropCache_stormNow (k : Nat) : (s.dropCache k).stormNow = s.stormNow := rfl
@[simp] theorem State.dropCache_coreCounters (k : Nat) : (s.dropCache k).coreCounters = s.coreCounters := rfl
@[simp] theorem State.dropCache_tableCounters (k : Nat) : (s.dropCache k).tableCounters = s.tableCounters := rfl
@[simp] theorem State.dropCache_parts (k : Nat) : (s.dropCache k).parts = s.parts := rfl
@[simp] theorem State.dropCache_draws (k : Nat) : (s.dropCache k).draws = s.draws := rfl
@[simp] theorem State.dropCache_mem (k : Nat) : (s.dropCache k).mem = s.mem := rfl
@[simp] theorem State.dropCache_host (k : Nat) : (s.dropCache k).host = s.host := rfl
@[simp] theorem State.dropCache_hostDead (k : Nat) : (s.dropCache k).hostDead = s.hostDead := rfl
@[simp] theorem State.dropCache_poison (k : Nat) : (s.dropCache k).poison = s.poison := rfl
@[simp] theorem State.dropCache_pool (k : Nat) : (s.dropCache k).pool = s.pool := rfl
@[simp] theorem State.dropCache_poolBack (k : Nat) : (s.dropCache k).poolBack = s.poolBack := rfl
@[simp] theorem State.dropCache_held (k : Nat) : (s.dropCache k).held = s.held := rfl
@[simp] theorem State.dropCache_journal (k : Nat) : (s.dropCache k).journal = s.journal := rfl
@[simp] theorem State.dropCache_latch (k : Nat) : (s.dropCache k).latch = s.latch := rfl
@[simp] theorem State.dropCache_tlb (k : Nat) : (s.dropCache k).tlb = s.tlb := rfl
@[simp] theorem State.dropCache_walks (k : Nat) : (s.dropCache k).walks = s.walks := rfl
@[simp] theorem State.dropCache_owners (k : Nat) : (s.dropCache k).owners = s.owners := rfl
@[simp] theorem State.dropCache_nudged (k : Nat) : (s.dropCache k).nudged = s.nudged := rfl
@[simp] theorem State.dropCache_descs (k : Nat) : (s.dropCache k).descs = s.descs := rfl
@[simp] theorem State.dropCache_stale (k : Nat) : (s.dropCache k).stale = s.stale := rfl
@[simp] theorem State.dropCache_locks (k : Nat) : (s.dropCache k).locks = s.locks := rfl
@[simp] theorem State.dropCache_stamps (k : Nat) : (s.dropCache k).stamps = s.stamps := rfl
@[simp] theorem State.dropCache_launches (k : Nat) : (s.dropCache k).launches = s.launches := rfl
@[simp] theorem State.dropCache_reservations (k : Nat) : (s.dropCache k).reservations = s.reservations := rfl
@[simp] theorem State.dropCache_bins (k : Nat) : (s.dropCache k).bins = s.bins := rfl
@[simp] theorem State.dropCache_wgs (k : Nat) : (s.dropCache k).wgs = s.wgs := rfl
@[simp] theorem State.dropCache_warps (k : Nat) : (s.dropCache k).warps = s.warps := rfl
@[simp] theorem State.dropCache_jobs (k : Nat) : (s.dropCache k).jobs = s.jobs := rfl
@[simp] theorem State.dropCache_tableReqs (k : Nat) : (s.dropCache k).tableReqs = s.tableReqs := rfl
@[simp] theorem State.dropCache_lookups (k : Nat) : (s.dropCache k).lookups = s.lookups := rfl
@[simp] theorem State.dropCache_retiring (k : Nat) : (s.dropCache k).retiring = s.retiring := rfl
@[simp] theorem State.dropCache_exts (k : Nat) : (s.dropCache k).exts = s.exts := rfl
@[simp] theorem State.dropCache_inbox (k : Nat) : (s.dropCache k).inbox = s.inbox := rfl
@[simp] theorem State.dropCache_windows (k : Nat) : (s.dropCache k).windows = s.windows := rfl
@[simp] theorem State.dropCache_lost (k : Nat) : (s.dropCache k).lost = s.lost := rfl
@[simp] theorem State.dropCache_probed (k : Nat) : (s.dropCache k).probed = s.probed := rfl
@[simp] theorem State.dropCache_retired (k : Nat) : (s.dropCache k).retired = s.retired := rfl
@[simp] theorem State.dropCache_nextId (k : Nat) : (s.dropCache k).nextId = s.nextId := rfl

/-! ## dropLatch -/

@[simp] theorem State.dropLatch_agenda (f : LatchEntry → Bool) : (s.dropLatch f).agenda = s.agenda := rfl
@[simp] theorem State.dropLatch_deferred (f : LatchEntry → Bool) : (s.dropLatch f).deferred = s.deferred := rfl
@[simp] theorem State.dropLatch_args (f : LatchEntry → Bool) : (s.dropLatch f).args = s.args := rfl
@[simp] theorem State.dropLatch_cur (f : LatchEntry → Bool) : (s.dropLatch f).cur = s.cur := rfl
@[simp] theorem State.dropLatch_turn (f : LatchEntry → Bool) : (s.dropLatch f).turn = s.turn := rfl
@[simp] theorem State.dropLatch_free (f : LatchEntry → Bool) : (s.dropLatch f).free = s.free := rfl
@[simp] theorem State.dropLatch_cycle (f : LatchEntry → Bool) : (s.dropLatch f).cycle = s.cycle := rfl
@[simp] theorem State.dropLatch_bootStage (f : LatchEntry → Bool) : (s.dropLatch f).bootStage = s.bootStage := rfl
@[simp] theorem State.dropLatch_bootErr (f : LatchEntry → Bool) : (s.dropLatch f).bootErr = s.bootErr := rfl
@[simp] theorem State.dropLatch_devEvt (f : LatchEntry → Bool) : (s.dropLatch f).devEvt = s.devEvt := rfl
@[simp] theorem State.dropLatch_cfgVersion (f : LatchEntry → Bool) : (s.dropLatch f).cfgVersion = s.cfgVersion := rfl
@[simp] theorem State.dropLatch_fwVersion (f : LatchEntry → Bool) : (s.dropLatch f).fwVersion = s.fwVersion := rfl
@[simp] theorem State.dropLatch_fwRollback (f : LatchEntry → Bool) : (s.dropLatch f).fwRollback = s.fwRollback := rfl
@[simp] theorem State.dropLatch_cfgRollback (f : LatchEntry → Bool) : (s.dropLatch f).cfgRollback = s.cfgRollback := rfl
@[simp] theorem State.dropLatch_fwPtr (f : LatchEntry → Bool) : (s.dropLatch f).fwPtr = s.fwPtr := rfl
@[simp] theorem State.dropLatch_fwLen (f : LatchEntry → Bool) : (s.dropLatch f).fwLen = s.fwLen := rfl
@[simp] theorem State.dropLatch_fwGo (f : LatchEntry → Bool) : (s.dropLatch f).fwGo = s.fwGo := rfl
@[simp] theorem State.dropLatch_fwKind (f : LatchEntry → Bool) : (s.dropLatch f).fwKind = s.fwKind := rfl
@[simp] theorem State.dropLatch_fwResult (f : LatchEntry → Bool) : (s.dropLatch f).fwResult = s.fwResult := rfl
@[simp] theorem State.dropLatch_flashFw (f : LatchEntry → Bool) : (s.dropLatch f).flashFw = s.flashFw := rfl
@[simp] theorem State.dropLatch_flashCfg (f : LatchEntry → Bool) : (s.dropLatch f).flashCfg = s.flashCfg := rfl
@[simp] theorem State.dropLatch_attNonce (f : LatchEntry → Bool) : (s.dropLatch f).attNonce = s.attNonce := rfl
@[simp] theorem State.dropLatch_attGo (f : LatchEntry → Bool) : (s.dropLatch f).attGo = s.attGo := rfl
@[simp] theorem State.dropLatch_attLen (f : LatchEntry → Bool) : (s.dropLatch f).attLen = s.attLen := rfl
@[simp] theorem State.dropLatch_attReport (f : LatchEntry → Bool) : (s.dropLatch f).attReport = s.attReport := rfl
@[simp] theorem State.dropLatch_pwrCap (f : LatchEntry → Bool) : (s.dropLatch f).pwrCap = s.pwrCap := rfl
@[simp] theorem State.dropLatch_capMax (f : LatchEntry → Bool) : (s.dropLatch f).capMax = s.capMax := rfl
@[simp] theorem State.dropLatch_pkgState (f : LatchEntry → Bool) : (s.dropLatch f).pkgState = s.pkgState := rfl
@[simp] theorem State.dropLatch_ps1Cap (f : LatchEntry → Bool) : (s.dropLatch f).ps1Cap = s.ps1Cap := rfl
@[simp] theorem State.dropLatch_ps1Heat (f : LatchEntry → Bool) : (s.dropLatch f).ps1Heat = s.ps1Heat := rfl
@[simp] theorem State.dropLatch_ps2 (f : LatchEntry → Bool) : (s.dropLatch f).ps2 = s.ps2 := rfl
@[simp] theorem State.dropLatch_pwrRefused (f : LatchEntry → Bool) : (s.dropLatch f).pwrRefused = s.pwrRefused := rfl
@[simp] theorem State.dropLatch_clk (f : LatchEntry → Bool) : (s.dropLatch f).clk = s.clk := rfl
@[simp] theorem State.dropLatch_off (f : LatchEntry → Bool) : (s.dropLatch f).off = s.off := rfl
@[simp] theorem State.dropLatch_podIndex (f : LatchEntry → Bool) : (s.dropLatch f).podIndex = s.podIndex := rfl
@[simp] theorem State.dropLatch_ringTimeout (f : LatchEntry → Bool) : (s.dropLatch f).ringTimeout = s.ringTimeout := rfl
@[simp] theorem State.dropLatch_ports (f : LatchEntry → Bool) : (s.dropLatch f).ports = s.ports := rfl
@[simp] theorem State.dropLatch_peerDown (f : LatchEntry → Bool) : (s.dropLatch f).peerDown = s.peerDown := rfl
@[simp] theorem State.dropLatch_dieOn (f : LatchEntry → Bool) : (s.dropLatch f).dieOn = s.dieOn := rfl
@[simp] theorem State.dropLatch_clkMax (f : LatchEntry → Bool) : (s.dropLatch f).clkMax = s.clkMax := rfl
@[simp] theorem State.dropLatch_planes (f : LatchEntry → Bool) : (s.dropLatch f).planes = s.planes := rfl
@[simp] theorem State.dropLatch_cxlPorts (f : LatchEntry → Bool) : (s.dropLatch f).cxlPorts = s.cxlPorts := rfl
@[simp] theorem State.dropLatch_cxlSets (f : LatchEntry → Bool) : (s.dropLatch f).cxlSets = s.cxlSets := rfl
@[simp] theorem State.dropLatch_msix (f : LatchEntry → Bool) : (s.dropLatch f).msix = s.msix := rfl
@[simp] theorem State.dropLatch_irqs (f : LatchEntry → Bool) : (s.dropLatch f).irqs = s.irqs := rfl
@[simp] theorem State.dropLatch_hostReply (f : LatchEntry → Bool) : (s.dropLatch f).hostReply = s.hostReply := rfl
@[simp] theorem State.dropLatch_life (f : LatchEntry → Bool) : (s.dropLatch f).life = s.life := rfl
@[simp] theorem State.dropLatch_lifeNow (f : LatchEntry → Bool) : (s.dropLatch f).lifeNow = s.lifeNow := rfl
@[simp] theorem State.dropLatch_lifeSeq (f : LatchEntry → Bool) : (s.dropLatch f).lifeSeq = s.lifeSeq := rfl
@[simp] theorem State.dropLatch_lifeCap (f : LatchEntry → Bool) : (s.dropLatch f).lifeCap = s.lifeCap := rfl
@[simp] theorem State.dropLatch_lifeAt (f : LatchEntry → Bool) : (s.dropLatch f).lifeAt = s.lifeAt := rfl
@[simp] theorem State.dropLatch_stormNow (f : LatchEntry → Bool) : (s.dropLatch f).stormNow = s.stormNow := rfl
@[simp] theorem State.dropLatch_coreCounters (f : LatchEntry → Bool) : (s.dropLatch f).coreCounters = s.coreCounters := rfl
@[simp] theorem State.dropLatch_tableCounters (f : LatchEntry → Bool) : (s.dropLatch f).tableCounters = s.tableCounters := rfl
@[simp] theorem State.dropLatch_parts (f : LatchEntry → Bool) : (s.dropLatch f).parts = s.parts := rfl
@[simp] theorem State.dropLatch_draws (f : LatchEntry → Bool) : (s.dropLatch f).draws = s.draws := rfl
@[simp] theorem State.dropLatch_mem (f : LatchEntry → Bool) : (s.dropLatch f).mem = s.mem := rfl
@[simp] theorem State.dropLatch_host (f : LatchEntry → Bool) : (s.dropLatch f).host = s.host := rfl
@[simp] theorem State.dropLatch_hostDead (f : LatchEntry → Bool) : (s.dropLatch f).hostDead = s.hostDead := rfl
@[simp] theorem State.dropLatch_poison (f : LatchEntry → Bool) : (s.dropLatch f).poison = s.poison := rfl
@[simp] theorem State.dropLatch_pool (f : LatchEntry → Bool) : (s.dropLatch f).pool = s.pool := rfl
@[simp] theorem State.dropLatch_poolBack (f : LatchEntry → Bool) : (s.dropLatch f).poolBack = s.poolBack := rfl
@[simp] theorem State.dropLatch_cache (f : LatchEntry → Bool) : (s.dropLatch f).cache = s.cache := rfl
@[simp] theorem State.dropLatch_held (f : LatchEntry → Bool) : (s.dropLatch f).held = s.held := rfl
@[simp] theorem State.dropLatch_journal (f : LatchEntry → Bool) : (s.dropLatch f).journal = s.journal := rfl
@[simp] theorem State.dropLatch_tlb (f : LatchEntry → Bool) : (s.dropLatch f).tlb = s.tlb := rfl
@[simp] theorem State.dropLatch_walks (f : LatchEntry → Bool) : (s.dropLatch f).walks = s.walks := rfl
@[simp] theorem State.dropLatch_owners (f : LatchEntry → Bool) : (s.dropLatch f).owners = s.owners := rfl
@[simp] theorem State.dropLatch_nudged (f : LatchEntry → Bool) : (s.dropLatch f).nudged = s.nudged := rfl
@[simp] theorem State.dropLatch_descs (f : LatchEntry → Bool) : (s.dropLatch f).descs = s.descs := rfl
@[simp] theorem State.dropLatch_stale (f : LatchEntry → Bool) : (s.dropLatch f).stale = s.stale := rfl
@[simp] theorem State.dropLatch_locks (f : LatchEntry → Bool) : (s.dropLatch f).locks = s.locks := rfl
@[simp] theorem State.dropLatch_stamps (f : LatchEntry → Bool) : (s.dropLatch f).stamps = s.stamps := rfl
@[simp] theorem State.dropLatch_launches (f : LatchEntry → Bool) : (s.dropLatch f).launches = s.launches := rfl
@[simp] theorem State.dropLatch_reservations (f : LatchEntry → Bool) : (s.dropLatch f).reservations = s.reservations := rfl
@[simp] theorem State.dropLatch_bins (f : LatchEntry → Bool) : (s.dropLatch f).bins = s.bins := rfl
@[simp] theorem State.dropLatch_wgs (f : LatchEntry → Bool) : (s.dropLatch f).wgs = s.wgs := rfl
@[simp] theorem State.dropLatch_warps (f : LatchEntry → Bool) : (s.dropLatch f).warps = s.warps := rfl
@[simp] theorem State.dropLatch_jobs (f : LatchEntry → Bool) : (s.dropLatch f).jobs = s.jobs := rfl
@[simp] theorem State.dropLatch_tableReqs (f : LatchEntry → Bool) : (s.dropLatch f).tableReqs = s.tableReqs := rfl
@[simp] theorem State.dropLatch_lookups (f : LatchEntry → Bool) : (s.dropLatch f).lookups = s.lookups := rfl
@[simp] theorem State.dropLatch_retiring (f : LatchEntry → Bool) : (s.dropLatch f).retiring = s.retiring := rfl
@[simp] theorem State.dropLatch_exts (f : LatchEntry → Bool) : (s.dropLatch f).exts = s.exts := rfl
@[simp] theorem State.dropLatch_inbox (f : LatchEntry → Bool) : (s.dropLatch f).inbox = s.inbox := rfl
@[simp] theorem State.dropLatch_windows (f : LatchEntry → Bool) : (s.dropLatch f).windows = s.windows := rfl
@[simp] theorem State.dropLatch_lost (f : LatchEntry → Bool) : (s.dropLatch f).lost = s.lost := rfl
@[simp] theorem State.dropLatch_probed (f : LatchEntry → Bool) : (s.dropLatch f).probed = s.probed := rfl
@[simp] theorem State.dropLatch_retired (f : LatchEntry → Bool) : (s.dropLatch f).retired = s.retired := rfl
@[simp] theorem State.dropLatch_nextId (f : LatchEntry → Bool) : (s.dropLatch f).nextId = s.nextId := rfl

/-! ## advance -/

@[simp] theorem State.advance_agenda : (s.advance).agenda = s.agenda := rfl
@[simp] theorem State.advance_deferred : (s.advance).deferred = s.deferred := rfl
@[simp] theorem State.advance_args : (s.advance).args = s.args := rfl
@[simp] theorem State.advance_bootStage : (s.advance).bootStage = s.bootStage := rfl
@[simp] theorem State.advance_bootErr : (s.advance).bootErr = s.bootErr := rfl
@[simp] theorem State.advance_devEvt : (s.advance).devEvt = s.devEvt := rfl
@[simp] theorem State.advance_cfgVersion : (s.advance).cfgVersion = s.cfgVersion := rfl
@[simp] theorem State.advance_fwVersion : (s.advance).fwVersion = s.fwVersion := rfl
@[simp] theorem State.advance_fwRollback : (s.advance).fwRollback = s.fwRollback := rfl
@[simp] theorem State.advance_cfgRollback : (s.advance).cfgRollback = s.cfgRollback := rfl
@[simp] theorem State.advance_fwPtr : (s.advance).fwPtr = s.fwPtr := rfl
@[simp] theorem State.advance_fwLen : (s.advance).fwLen = s.fwLen := rfl
@[simp] theorem State.advance_fwGo : (s.advance).fwGo = s.fwGo := rfl
@[simp] theorem State.advance_fwKind : (s.advance).fwKind = s.fwKind := rfl
@[simp] theorem State.advance_fwResult : (s.advance).fwResult = s.fwResult := rfl
@[simp] theorem State.advance_flashFw : (s.advance).flashFw = s.flashFw := rfl
@[simp] theorem State.advance_flashCfg : (s.advance).flashCfg = s.flashCfg := rfl
@[simp] theorem State.advance_attNonce : (s.advance).attNonce = s.attNonce := rfl
@[simp] theorem State.advance_attGo : (s.advance).attGo = s.attGo := rfl
@[simp] theorem State.advance_attLen : (s.advance).attLen = s.attLen := rfl
@[simp] theorem State.advance_attReport : (s.advance).attReport = s.attReport := rfl
@[simp] theorem State.advance_pwrCap : (s.advance).pwrCap = s.pwrCap := rfl
@[simp] theorem State.advance_capMax : (s.advance).capMax = s.capMax := rfl
@[simp] theorem State.advance_pkgState : (s.advance).pkgState = s.pkgState := rfl
@[simp] theorem State.advance_ps1Cap : (s.advance).ps1Cap = s.ps1Cap := rfl
@[simp] theorem State.advance_ps1Heat : (s.advance).ps1Heat = s.ps1Heat := rfl
@[simp] theorem State.advance_ps2 : (s.advance).ps2 = s.ps2 := rfl
@[simp] theorem State.advance_pwrRefused : (s.advance).pwrRefused = s.pwrRefused := rfl
@[simp] theorem State.advance_clk : (s.advance).clk = s.clk := rfl
@[simp] theorem State.advance_off : (s.advance).off = s.off := rfl
@[simp] theorem State.advance_podIndex : (s.advance).podIndex = s.podIndex := rfl
@[simp] theorem State.advance_ringTimeout : (s.advance).ringTimeout = s.ringTimeout := rfl
@[simp] theorem State.advance_ports : (s.advance).ports = s.ports := rfl
@[simp] theorem State.advance_peerDown : (s.advance).peerDown = s.peerDown := rfl
@[simp] theorem State.advance_dieOn : (s.advance).dieOn = s.dieOn := rfl
@[simp] theorem State.advance_clkMax : (s.advance).clkMax = s.clkMax := rfl
@[simp] theorem State.advance_planes : (s.advance).planes = s.planes := rfl
@[simp] theorem State.advance_cxlPorts : (s.advance).cxlPorts = s.cxlPorts := rfl
@[simp] theorem State.advance_cxlSets : (s.advance).cxlSets = s.cxlSets := rfl
@[simp] theorem State.advance_msix : (s.advance).msix = s.msix := rfl
@[simp] theorem State.advance_irqs : (s.advance).irqs = s.irqs := rfl
@[simp] theorem State.advance_hostReply : (s.advance).hostReply = s.hostReply := rfl
@[simp] theorem State.advance_life : (s.advance).life = s.life := rfl
@[simp] theorem State.advance_lifeNow : (s.advance).lifeNow = s.lifeNow := rfl
@[simp] theorem State.advance_lifeSeq : (s.advance).lifeSeq = s.lifeSeq := rfl
@[simp] theorem State.advance_lifeCap : (s.advance).lifeCap = s.lifeCap := rfl
@[simp] theorem State.advance_lifeAt : (s.advance).lifeAt = s.lifeAt := rfl
@[simp] theorem State.advance_stormNow : (s.advance).stormNow = s.stormNow := rfl
@[simp] theorem State.advance_coreCounters : (s.advance).coreCounters = s.coreCounters := rfl
@[simp] theorem State.advance_tableCounters : (s.advance).tableCounters = s.tableCounters := rfl
@[simp] theorem State.advance_parts : (s.advance).parts = s.parts := rfl
@[simp] theorem State.advance_draws : (s.advance).draws = s.draws := rfl
@[simp] theorem State.advance_mem : (s.advance).mem = s.mem := rfl
@[simp] theorem State.advance_host : (s.advance).host = s.host := rfl
@[simp] theorem State.advance_hostDead : (s.advance).hostDead = s.hostDead := rfl
@[simp] theorem State.advance_poison : (s.advance).poison = s.poison := rfl
@[simp] theorem State.advance_pool : (s.advance).pool = s.pool := rfl
@[simp] theorem State.advance_poolBack : (s.advance).poolBack = s.poolBack := rfl
@[simp] theorem State.advance_cache : (s.advance).cache = s.cache := rfl
@[simp] theorem State.advance_held : (s.advance).held = s.held := rfl
@[simp] theorem State.advance_journal : (s.advance).journal = s.journal := rfl
@[simp] theorem State.advance_latch : (s.advance).latch = s.latch := rfl
@[simp] theorem State.advance_tlb : (s.advance).tlb = s.tlb := rfl
@[simp] theorem State.advance_walks : (s.advance).walks = s.walks := rfl
@[simp] theorem State.advance_owners : (s.advance).owners = s.owners := rfl
@[simp] theorem State.advance_nudged : (s.advance).nudged = s.nudged := rfl
@[simp] theorem State.advance_descs : (s.advance).descs = s.descs := rfl
@[simp] theorem State.advance_stale : (s.advance).stale = s.stale := rfl
@[simp] theorem State.advance_locks : (s.advance).locks = s.locks := rfl
@[simp] theorem State.advance_stamps : (s.advance).stamps = s.stamps := rfl
@[simp] theorem State.advance_launches : (s.advance).launches = s.launches := rfl
@[simp] theorem State.advance_reservations : (s.advance).reservations = s.reservations := rfl
@[simp] theorem State.advance_bins : (s.advance).bins = s.bins := rfl
@[simp] theorem State.advance_wgs : (s.advance).wgs = s.wgs := rfl
@[simp] theorem State.advance_warps : (s.advance).warps = s.warps := rfl
@[simp] theorem State.advance_jobs : (s.advance).jobs = s.jobs := rfl
@[simp] theorem State.advance_tableReqs : (s.advance).tableReqs = s.tableReqs := rfl
@[simp] theorem State.advance_lookups : (s.advance).lookups = s.lookups := rfl
@[simp] theorem State.advance_retiring : (s.advance).retiring = s.retiring := rfl
@[simp] theorem State.advance_exts : (s.advance).exts = s.exts := rfl
@[simp] theorem State.advance_inbox : (s.advance).inbox = s.inbox := rfl
@[simp] theorem State.advance_windows : (s.advance).windows = s.windows := rfl
@[simp] theorem State.advance_lost : (s.advance).lost = s.lost := rfl
@[simp] theorem State.advance_probed : (s.advance).probed = s.probed := rfl
@[simp] theorem State.advance_retired : (s.advance).retired = s.retired := rfl
@[simp] theorem State.advance_nextId : (s.advance).nextId = s.nextId := rfl

end Sys2Proof.Machine
end

