-- ==== Sys2Proof/Laws/Memory.lean ====
section
/-! SUPPORT. Sparse maps and memories: the one form is kept, reads follow writes, and maps that read alike are equal. -/
namespace Sys2Proof.Machine
variable {α : Type} [DecidableEq α] {d : α}

theorem Sparse.wfFrom_mono {m : Sparse α} {a b : Nat} (h : b ≤ a) (hw : Sparse.wfFrom d a m = true) :
    Sparse.wfFrom d b m = true := by
  cases m with
  | nil => rfl
  | cons x xs =>
    obtain ⟨k, v⟩ := x
    simp only [Sparse.wfFrom, Bool.and_eq_true, decide_eq_true_eq] at hw ⊢
    exact ⟨⟨by omega, hw.1.2⟩, hw.2⟩

theorem Sparse.get_below {m : Sparse α} {lo a : Nat} (hw : Sparse.wfFrom d lo m = true) (h : a < lo) : Sparse.get d m a = d := by
  cases m with
  | nil => rfl
  | cons x xs =>
    obtain ⟨k, v⟩ := x
    simp only [Sparse.wfFrom, Bool.and_eq_true, decide_eq_true_eq] at hw
    simp only [Sparse.get]
    rw [if_neg (by omega), if_pos (by omega)]

theorem Sparse.get_del {m : Sparse α} {lo : Nat} (hw : Sparse.wfFrom d lo m = true) (k a : Nat) :
    Sparse.get d (Sparse.del k m) a = if a = k then d else Sparse.get d m a := by
  induction m generalizing lo with
  | nil => simp [Sparse.del, Sparse.get]
  | cons x xs ih =>
    obtain ⟨k', v'⟩ := x
    simp only [Sparse.wfFrom, Bool.and_eq_true, decide_eq_true_eq] at hw
    have ih := ih hw.2
    simp only [Sparse.del]
    split
    · next h =>
      subst h
      by_cases ha : a = k'
      · subst ha; simp [Sparse.get_below hw.2 (Nat.lt_succ_self _)]
      · simp only [Sparse.get, if_neg ha, if_neg (Ne.symm ha)]
        split
        · exact Sparse.get_below hw.2 (by omega)
        · rfl
    · split
      · next h1 h2 =>
        by_cases ha : a = k
        · subst ha; simp [Sparse.get, h1, h2]
        · simp [ha]
      · simp only [Sparse.get, ih]
        split
        · next h => rw [if_neg (by omega)]
        · split
          · split <;> rfl
          · rfl

theorem Sparse.get_put {m : Sparse α} {lo : Nat} (hw : Sparse.wfFrom d lo m = true) (k : Nat) (v : α) (a : Nat) :
    Sparse.get d (Sparse.put k v m) a = if a = k then v else Sparse.get d m a := by
  induction m generalizing lo with
  | nil =>
    simp only [Sparse.put, Sparse.get]
    by_cases ha : a = k
    · simp [ha]
    · simp [ha, Ne.symm ha]
  | cons x xs ih =>
    obtain ⟨k', v'⟩ := x
    simp only [Sparse.wfFrom, Bool.and_eq_true, decide_eq_true_eq] at hw
    have ih := ih hw.2
    simp only [Sparse.put]
    split
    · next h =>
      subst h
      simp only [Sparse.get]
      by_cases ha : a = k'
      · simp [ha]
      · simp [ha, Ne.symm ha]
    · split
      · next h1 h2 =>
        simp only [Sparse.get]
        by_cases ha : a = k
        · simp [ha]
        · simp only [if_neg ha, if_neg (Ne.symm ha)]
          split
          · next h3 => rw [if_neg (by omega), if_pos (by omega)]
          · rfl
      · simp only [Sparse.get, ih]
        split
        · next h => rw [if_neg (by omega)]
        · split
          · next h => rw [if_neg (by omega)]
          · rfl

theorem Sparse.wfFrom_del {m : Sparse α} {lo : Nat} (hw : Sparse.wfFrom d lo m = true) (k : Nat) :
    Sparse.wfFrom d lo (Sparse.del k m) = true := by
  induction m generalizing lo with
  | nil => rfl
  | cons x xs ih =>
    obtain ⟨k', v'⟩ := x
    have hw' := hw
    simp only [Sparse.wfFrom, Bool.and_eq_true, decide_eq_true_eq] at hw
    simp only [Sparse.del]
    split
    · exact Sparse.wfFrom_mono (by omega) hw.2
    · split
      · exact hw'
      · simp only [Sparse.wfFrom, Bool.and_eq_true, decide_eq_true_eq]
        exact ⟨hw.1, ih hw.2⟩

theorem Sparse.wfFrom_put {m : Sparse α} {lo : Nat} (hw : Sparse.wfFrom d lo m = true) {k : Nat} {v : α} (hk : lo ≤ k) (hv : v ≠ d) :
    Sparse.wfFrom d lo (Sparse.put k v m) = true := by
  induction m generalizing lo with
  | nil => simp [Sparse.put, Sparse.wfFrom, hk, hv]
  | cons x xs ih =>
    obtain ⟨k', v'⟩ := x
    simp only [Sparse.wfFrom, Bool.and_eq_true, decide_eq_true_eq] at hw
    simp only [Sparse.put]
    split
    · next h => subst h; simp only [Sparse.wfFrom, Bool.and_eq_true, decide_eq_true_eq]; exact ⟨⟨hk, hv⟩, hw.2⟩
    · split
      · simp only [Sparse.wfFrom, Bool.and_eq_true, decide_eq_true_eq]
        exact ⟨⟨hk, hv⟩, ⟨by omega, hw.1.2⟩, hw.2⟩
      · simp only [Sparse.wfFrom, Bool.and_eq_true, decide_eq_true_eq]
        exact ⟨hw.1, ih hw.2 (by omega)⟩

/-- A map keeps its one form when an entry is replaced. -/
theorem Sparse.wf_set {m : Sparse α} (hw : Sparse.wf d m = true) (k : Nat) (v : α) : Sparse.wf d (Sparse.set d m k v) = true := by
  unfold Sparse.set
  split
  · exact Sparse.wfFrom_del hw k
  · next h => exact Sparse.wfFrom_put hw (Nat.zero_le _) h

/-- Read after write of one entry. -/
theorem Sparse.get_set {m : Sparse α} (hw : Sparse.wf d m = true) (k : Nat) (v : α) (a : Nat) :
    Sparse.get d (Sparse.set d m k v) a = if a = k then v else Sparse.get d m a := by
  unfold Sparse.set
  split
  · next h => subst h; exact Sparse.get_del hw k a
  · exact Sparse.get_put hw k v a

/-- Maps in their one form that read alike are equal. -/
theorem Sparse.ext_from {m n : Sparse α} {lo lo' : Nat} (hm : Sparse.wfFrom d lo m = true) (hn : Sparse.wfFrom d lo' n = true)
    (h : ∀ a, Sparse.get d m a = Sparse.get d n a) : m = n := by
  induction m generalizing n lo lo' with
  | nil =>
    cases n with
    | nil => rfl
    | cons y ys =>
      obtain ⟨k, v⟩ := y
      have := h k
      simp only [Sparse.wfFrom, Bool.and_eq_true, decide_eq_true_eq] at hn
      simp [Sparse.get] at this
      exact absurd this.symm hn.1.2
  | cons x xs ih =>
    obtain ⟨k, v⟩ := x
    simp only [Sparse.wfFrom, Bool.and_eq_true, decide_eq_true_eq] at hm
    cases n with
    | nil =>
      have := h k
      simp [Sparse.get] at this
      exact absurd this hm.1.2
    | cons y ys =>
      obtain ⟨k', v'⟩ := y
      simp only [Sparse.wfFrom, Bool.and_eq_true, decide_eq_true_eq] at hn
      have h1 := h k
      have h2 := h k'
      simp only [Sparse.get, if_true] at h1 h2
      have hk : k = k' := by
        rcases Nat.lt_trichotomy k k' with hlt | he | hlt
        · rw [if_neg (by omega), if_pos hlt] at h1; exact absurd h1 hm.1.2
        · exact he
        · rw [if_neg (by omega), if_pos hlt] at h2; exact absurd h2.symm hn.1.2
      subst hk
      simp only [if_true] at h1
      subst h1
      congr 1
      refine ih hm.2 hn.2 fun a => ?_
      rcases Nat.lt_trichotomy a k with hlt | he | hlt
      · rw [Sparse.get_below hm.2 (by omega), Sparse.get_below hn.2 (by omega)]
      · subst he; rw [Sparse.get_below hm.2 (by omega), Sparse.get_below hn.2 (by omega)]
      · have := h a
        simp only [Sparse.get] at this
        rwa [if_neg (by omega), if_neg (by omega), if_neg (by omega), if_neg (by omega)] at this

/-! ## Bytes -/

theorem Cells.split_wf {m X : Cells} {lo a : Nat} (hm : Sparse.wfFrom (0 : Byte) lo m = true) (hX : Sparse.wfFrom (0 : Byte) a X = true)
    (h : lo ≤ a) : Sparse.wfFrom (0 : Byte) lo ((m.takeWhile fun e => decide (e.1 < a)) ++ X) = true := by
  induction m generalizing lo with
  | nil => exact Sparse.wfFrom_mono h hX
  | cons x xs ih =>
    obtain ⟨k, v⟩ := x
    simp only [Sparse.wfFrom, Bool.and_eq_true, decide_eq_true_eq] at hm
    by_cases hk : k < a
    · simp only [List.takeWhile_cons, decide_eq_true hk, if_true, List.cons_append, Sparse.wfFrom, Bool.and_eq_true,
        decide_eq_true_eq]
      exact ⟨hm.1, ih hm.2 (by omega)⟩
    · simp only [List.takeWhile_cons, decide_eq_false hk, Bool.false_eq_true, if_false, List.nil_append]
      exact Sparse.wfFrom_mono h hX

theorem Cells.split_get {m X : Cells} {lo a : Nat} (hm : Sparse.wfFrom (0 : Byte) lo m = true)
    (hX : Sparse.wfFrom (0 : Byte) a X = true) (k : Nat) :
    Sparse.get 0 ((m.takeWhile fun e => decide (e.1 < a)) ++ X) k = if k < a then Sparse.get 0 m k else Sparse.get 0 X k := by
  induction m generalizing lo with
  | nil =>
    split
    · next h => exact Sparse.get_below hX h
    · rfl
  | cons x xs ih =>
    obtain ⟨k', v⟩ := x
    simp only [Sparse.wfFrom, Bool.and_eq_true, decide_eq_true_eq] at hm
    by_cases hk : k' < a
    · simp only [List.takeWhile_cons, decide_eq_true hk, if_true, List.cons_append, Sparse.get, ih hm.2]
      split
      · next h => rw [if_pos (by omega)]
      · split
        · next h => rw [if_pos (by omega)]
        · rfl
    · simp only [List.takeWhile_cons, decide_eq_false hk, Bool.false_eq_true, if_false, List.nil_append]
      split
      · next h =>
        rw [Sparse.get_below hX h]
        simp only [Sparse.get]
        rw [if_neg (by omega), if_pos (by omega)]
      · rfl

theorem Cells.drop_wf {m : Cells} {lo a : Nat} (hm : Sparse.wfFrom (0 : Byte) lo m = true) :
    Sparse.wfFrom (0 : Byte) a (m.dropWhile fun e => decide (e.1 < a)) = true := by
  induction m generalizing lo with
  | nil => rfl
  | cons x xs ih =>
    obtain ⟨k, v⟩ := x
    have hm' := hm
    simp only [Sparse.wfFrom, Bool.and_eq_true, decide_eq_true_eq] at hm
    by_cases hk : k < a
    · simp only [List.dropWhile_cons, decide_eq_true hk, if_true]; exact ih hm.2
    · simp only [List.dropWhile_cons, decide_eq_false hk, Bool.false_eq_true, if_false, Sparse.wfFrom, Bool.and_eq_true,
        decide_eq_true_eq]
      exact ⟨⟨by omega, hm.1.2⟩, hm.2⟩

theorem Cells.drop_get {m : Cells} {lo a : Nat} (hm : Sparse.wfFrom (0 : Byte) lo m = true) {k : Nat} (hk : a ≤ k) :
    Sparse.get 0 (m.dropWhile fun e => decide (e.1 < a)) k = Sparse.get 0 m k := by
  induction m generalizing lo with
  | nil => rfl
  | cons x xs ih =>
    obtain ⟨k', v⟩ := x
    simp only [Sparse.wfFrom, Bool.and_eq_true, decide_eq_true_eq] at hm
    by_cases h : k' < a
    · simp only [List.dropWhile_cons, decide_eq_true h, if_true, ih hm.2, Sparse.get]
      rw [if_neg (by omega), if_neg (by omega)]
    · simp only [List.dropWhile_cons, decide_eq_false h, Bool.false_eq_true, if_false]

/-- One byte written at the head, and the entries that stay behind it. -/
theorem Cells.setFrom_cons (b : Byte) (bs : List Byte) {a : Nat} {m : Cells} (hm : Sparse.wfFrom (0 : Byte) a m = true) :
    ∃ R : Cells, Sparse.wfFrom (0 : Byte) (a + 1) R = true ∧ (∀ k, a < k → Sparse.get 0 R k = Sparse.get 0 m k) ∧
      Cells.setFrom (b :: bs) a m = if b = 0 then Cells.setFrom bs (a + 1) R else (a, b) :: Cells.setFrom bs (a + 1) R := by
  cases m with
  | nil => exact ⟨[], rfl, fun _ _ => rfl, rfl⟩
  | cons x xs =>
    obtain ⟨k, v⟩ := x
    simp only [Sparse.wfFrom, Bool.and_eq_true, decide_eq_true_eq] at hm
    by_cases h : k = a
    · subst h
      refine ⟨xs, hm.2, fun j hj => ?_, by simp [Cells.setFrom]⟩
      simp only [Sparse.get]
      rw [if_neg (by omega), if_neg (by omega)]
    · refine ⟨(k, v) :: xs, ?_, fun _ _ => rfl, by simp [Cells.setFrom, h]⟩
      simp only [Sparse.wfFrom, Bool.and_eq_true, decide_eq_true_eq]
      exact ⟨⟨by omega, hm.1.2⟩, hm.2⟩

theorem Cells.setFrom_wf (bs : List Byte) {a : Nat} {m : Cells} (hm : Sparse.wfFrom (0 : Byte) a m = true) :
    Sparse.wfFrom (0 : Byte) a (Cells.setFrom bs a m) = true := by
  induction bs generalizing a m with
  | nil => exact hm
  | cons b bs ih =>
    obtain ⟨R, h1, -, h3⟩ := Cells.setFrom_cons b bs hm
    rw [h3]
    split
    · exact Sparse.wfFrom_mono (Nat.le_succ a) (ih h1)
    · next hb =>
      simp only [Sparse.wfFrom, Bool.and_eq_true, decide_eq_true_eq]
      exact ⟨⟨Nat.le_refl _, hb⟩, ih h1⟩

theorem Cells.setFrom_get (bs : List Byte) {a : Nat} {m : Cells} (hm : Sparse.wfFrom (0 : Byte) a m = true) (k : Nat) :
    Sparse.get 0 (Cells.setFrom bs a m) k = if a ≤ k ∧ k < a + bs.length then bs.getD (k - a) 0 else Sparse.get 0 m k := by
  induction bs generalizing a m with
  | nil => rw [if_neg (by simp only [List.length_nil]; omega)]; rfl
  | cons b bs ih =>
    obtain ⟨R, h1, h2, h3⟩ := Cells.setFrom_cons b bs hm
    have hw := Cells.setFrom_wf bs h1
    have hg : Sparse.get 0 (if b = 0 then Cells.setFrom bs (a + 1) R else (a, b) :: Cells.setFrom bs (a + 1) R) k =
        if k = a then b else Sparse.get 0 (Cells.setFrom bs (a + 1) R) k := by
      by_cases hb : b = 0
      · rw [if_pos hb]
        by_cases hk : k = a
        · rw [if_pos hk, Sparse.get_below hw (by omega), hb]
        · rw [if_neg hk]
      · rw [if_neg hb]
        by_cases hk : k = a
        · simp [Sparse.get, hk]
        · simp only [Sparse.get, if_neg hk, if_neg (Ne.symm hk)]
          by_cases h : k < a
          · rw [if_pos h, Sparse.get_below hw (by omega)]
          · rw [if_neg h]
    rw [h3, hg, List.length_cons]
    rcases Nat.lt_trichotomy k a with hlt | he | hgt
    · rw [if_neg (by omega), if_neg (by omega), Sparse.get_below hw (by omega), Sparse.get_below hm hlt]
    · subst he
      rw [if_pos rfl, if_pos (by omega), Nat.sub_self, List.getD_cons_zero]
    · rw [if_neg (by omega)]
      rw [ih h1, h2 k hgt]
      by_cases hin : k < a + 1 + bs.length
      · rw [if_pos (by omega), if_pos (by omega), show k - a = (k - (a + 1)) + 1 by omega, List.getD_cons_succ]
      · rw [if_neg (by omega), if_neg (by omega)]

/-- Bytes written keep the memory's one form. -/
theorem Cells.setBytes_wf {m : Cells} (hm : Memory.wf m = true) (a : Nat) (bs : List Byte) : Memory.wf (m.setBytes a bs) = true :=
  Cells.split_wf hm (Cells.setFrom_wf bs (Cells.drop_wf hm)) (Nat.zero_le _)

/-- The byte at an address after a write. -/
theorem Cells.byte_setBytes {m : Cells} (hm : Memory.wf m = true) (a : Nat) (bs : List Byte) (k : Nat) :
    (m.setBytes a bs).byte k = if a ≤ k ∧ k < a + bs.length then bs.getD (k - a) 0 else m.byte k := by
  have hd := Cells.drop_wf (a := a) hm
  unfold Cells.byte Cells.setBytes
  rw [Cells.split_get hm (Cells.setFrom_wf bs hd), Cells.setFrom_get bs hd]
  by_cases h : k < a
  · rw [if_pos h, if_neg (by omega)]
  · rw [if_neg h, Cells.drop_get hm (by omega)]

/-- One byte written. -/
theorem Cells.byte_setByte {m : Cells} (hm : Memory.wf m = true) (a : Nat) (v : Byte) (k : Nat) :
    (m.setByte a v).byte k = if k = a then v else m.byte k := Sparse.get_set hm a v k

theorem Cells.setByte_wf {m : Cells} (hm : Memory.wf m = true) (a : Nat) (v : Byte) : Memory.wf (m.setByte a v) = true :=
  Sparse.wf_set hm a v

theorem Cells.bytesFrom_eq {m : Cells} {a : Nat} (hm : Sparse.wfFrom (0 : Byte) a m = true) (n : Nat) :
    Cells.bytesFrom n a m = (List.range n).map fun k => Sparse.get 0 m (a + k) := by
  induction n generalizing a m with
  | zero => rfl
  | succ n ih =>
    rw [List.range_succ_eq_map, List.map_cons, List.map_map]
    cases m with
    | nil =>
      simp only [Cells.bytesFrom, Sparse.get]
      rw [ih (m := []) rfl]
      simp [Function.comp_def, Sparse.get]
    | cons x xs =>
      obtain ⟨k, v⟩ := x
      have hm' := hm
      simp only [Sparse.wfFrom, Bool.and_eq_true, decide_eq_true_eq] at hm
      simp only [Cells.bytesFrom]
      split
      · next h =>
        subst h
        rw [ih hm.2]
        simp only [Nat.add_zero, Sparse.get, if_true, Function.comp_def, List.cons.injEq, true_and]
        refine List.map_congr_left fun j _ => ?_
        rw [if_neg (by omega), if_neg (by omega)]
        congr 1; omega
      · next h =>
        rw [ih (m := (k, v) :: xs) (by
          simp only [Sparse.wfFrom, Bool.and_eq_true, decide_eq_true_eq]; exact ⟨⟨by omega, hm.1.2⟩, hm.2⟩)]
        simp only [Nat.add_zero, Function.comp_def, List.cons.injEq]
        refine ⟨?_, List.map_congr_left fun j _ => by congr 1; omega⟩
        simp only [Sparse.get]; rw [if_neg h, if_pos (by omega)]

/-- Bytes read are the bytes at their addresses. -/
theorem Cells.bytes_eq {m : Cells} (hm : Memory.wf m = true) (a n : Nat) : m.bytes a n = (List.range n).map fun k => m.byte (a + k) := by
  unfold Cells.bytes
  rw [Cells.bytesFrom_eq (Cells.drop_wf hm)]
  exact List.map_congr_left fun k _ => Cells.drop_get hm (Nat.le_add_right _ _)

theorem leBytes_succ (n v : Nat) : leBytes (n + 1) v = BitVec.ofNat 8 v :: leBytes n (v / 256) := by
  unfold leBytes
  rw [List.range_succ_eq_map, List.map_cons, List.map_map]
  simp only [Nat.mul_zero, Nat.pow_zero, Nat.div_one, List.cons.injEq, true_and]
  refine List.map_congr_left fun i _ => ?_
  simp only [Function.comp_def]
  rw [Nat.div_div_eq_div_mul, show 8 * (i.succ) = 8 + 8 * i by omega, Nat.pow_add]

theorem leNat_leBytes (n v : Nat) : leNat (leBytes n v) = v % 2 ^ (8 * n) := by
  induction n generalizing v with
  | zero => simp [leBytes, leNat, Nat.mod_one]
  | succ n ih =>
    rw [leBytes_succ]
    simp only [leNat, ih, BitVec.toNat_ofNat]
    rw [show 8 * (n + 1) = 8 + 8 * n by omega, Nat.pow_add, Nat.mod_mul]

theorem leBytes_leNat (bs : List Byte) : leBytes bs.length (leNat bs) = bs := by
  induction bs with
  | nil => rfl
  | cons b bs ih =>
    rw [List.length_cons, leBytes_succ]
    have hb := b.isLt
    simp only [leNat]
    rw [show (b.toNat + 256 * leNat bs) / 256 = leNat bs by omega, ih]
    congr 1
    apply BitVec.eq_of_toNat_eq
    rw [BitVec.toNat_ofNat]; omega

@[simp] theorem leBytes_length (n v : Nat) : (leBytes n v).length = n := by simp [leBytes]
/-! ## The operations of the state that write memory -/

theorem Cells.filter_wf {m : Cells} {lo : Nat} (hm : Sparse.wfFrom (0 : Byte) lo m = true) (f : Host.Cell → Bool) :
    Sparse.wfFrom (0 : Byte) lo (m.filter f) = true := by
  induction m generalizing lo with
  | nil => rfl
  | cons x xs ih =>
    obtain ⟨k, v⟩ := x
    simp only [Sparse.wfFrom, Bool.and_eq_true, decide_eq_true_eq] at hm
    rw [List.filter_cons]
    split
    · simp only [Sparse.wfFrom, Bool.and_eq_true, decide_eq_true_eq]; exact ⟨hm.1, ih hm.2⟩
    · exact Sparse.wfFrom_mono (by omega) (ih hm.2)

/-- Both memories in their one form. -/
abbrev State.formed (s : State) : Prop := Memory.wf s.mem = true ∧ Memory.wf s.host = true

theorem State.reset_formed : State.reset.formed := ⟨rfl, rfl⟩

theorem State.writeHome_formed {s : State} (h : s.formed) (k : Nat) (d : List Byte) : (s.writeHome k d).formed :=
  ⟨Cells.setBytes_wf h.1 k d, h.2⟩

theorem State.writePlace_formed {s : State} (h : s.formed) (pl : Place) (d : List Byte) : (s.writePlace pl d).formed := by
  cases pl with
  | mem k => exact State.writeHome_formed h k d
  | scr g o => exact h
  | host a => exact ⟨h.1, Cells.setBytes_wf h.2 a d⟩
  | peer p a => exact h

theorem State.coreWrite_formed {s : State} (h : s.formed) (core : Nat) (pl : Place) (d : List Byte) : (s.coreWrite core pl d).formed := by
  cases pl with
  | mem k => exact State.writeHome_formed h k d
  | scr g o => exact h
  | host a => exact State.writePlace_formed h (.host a) d
  | peer p a => exact h

theorem State.writeParts_formed (core : Option Nat) (ps : List (Place × Nat)) :
    ∀ (d : List Byte) {s : State}, s.formed → (State.writeParts core ps d s).formed := by
  induction ps with
  | nil => exact fun _ _ h => h
  | cons x xs ih =>
    intro d s h
    refine ih _ ?_
    cases core with
    | none => exact State.writePlace_formed h _ _
    | some k => exact State.coreWrite_formed h k _ _

theorem State.zeroFrames_formed {s : State} (h : s.formed) (k n : Nat) : (s.zeroFrames k n).formed :=
  ⟨Cells.filter_wf h.1 _, h.2⟩

theorem State.bringHome_formed (hs : List HeldByte) : ∀ {s : State}, s.formed → (s.bringHome hs).formed := by
  induction hs with
  | nil => exact fun h => h
  | cons x xs ih => exact fun h => ih (State.writeHome_formed h _ _)

theorem State.writeBack_formed {s : State} (h : s.formed) (q : Nat) : (s.writeBack q).formed :=
  State.bringHome_formed (s := { s with held := _ }) _ h

end Sys2Proof.Machine
end

