-- ==== Sys2Proof/Laws/Warps.lean ====
section
/-! SUPPORT. Reading back what the accessors write: warps, workgroups, splits, lanes, slices, predicates, uniform
registers. -/
namespace Sys2Proof.Machine

/-! ## Lists -/

@[simp] theorem modifyAt_length {α : Type} (f : α → α) (xs : List α) (i : Nat) : (modifyAt f xs i).length = xs.length := by
  induction xs generalizing i with
  | nil => rfl
  | cons x xs ih => cases i with
    | zero => rfl
    | succ i => simp [modifyAt, ih]

theorem modifyAt_getElem? {α : Type} (f : α → α) (xs : List α) (i k : Nat) :
    (modifyAt f xs i)[k]? = if k = i then (xs[k]?).map f else xs[k]? := by
  induction xs generalizing i k with
  | nil => simp [modifyAt]
  | cons x xs ih => cases i with
    | zero => cases k <;> simp [modifyAt]
    | succ i => cases k with
      | zero => simp [modifyAt]
      | succ k => simp [modifyAt, ih]

theorem modifyAt_getD {α : Type} (f : α → α) (xs : List α) (i k : Nat) (d : α) :
    (modifyAt f xs i).getD k d = if k = i ∧ i < xs.length then f (xs.getD k d) else xs.getD k d := by
  rw [List.getD_eq_getElem?_getD, List.getD_eq_getElem?_getD, modifyAt_getElem?]
  by_cases h : k = i
  · subst h
    by_cases hl : k < xs.length
    · simp [hl]
    · simp [hl]
  · simp [h]

theorem find?_map_id {α : Type} (num : α → Nat) (f : α → α) (xs : List α) (id k : Nat) (hf : ∀ x, num (f x) = num x) :
    (xs.map fun x => if num x = id then f x else x).find? (fun x => num x == k) =
      (xs.find? fun x => num x == k).map fun x => if k = id then f x else x := by
  induction xs with
  | nil => rfl
  | cons x xs ih =>
    have hn : num (if num x = id then f x else x) = num x := by split <;> simp [hf]
    rw [List.map_cons, List.find?_cons, List.find?_cons, hn]
    by_cases h : num x = k
    · simp [h]
    · have h' : (num x == k) = false := by simp [h]
      rw [h']
      exact ih

/-! ## Warps and workgroups -/

theorem State.warp?_modWarp (s : State) (id k : Nat) (f : Warp → Warp) (hf : ∀ w, (f w).id = w.id) :
    (s.modWarp id f).warp? k = (s.warp? k).map fun w => if k = id then f w else w :=
  find?_map_id Warp.id f s.warps id k hf

theorem State.warp?_modWarp_self {s : State} {id : Nat} {w : Warp} (h : s.warp? id = some w) (f : Warp → Warp)
    (hf : ∀ w, (f w).id = w.id) : (s.modWarp id f).warp? id = some (f w) := by
  rw [State.warp?_modWarp _ _ _ _ hf, h]; simp

theorem State.warp?_modWarp_ne (s : State) {id k : Nat} (h : k ≠ id) (f : Warp → Warp) (hf : ∀ w, (f w).id = w.id) :
    (s.modWarp id f).warp? k = s.warp? k := by
  rw [State.warp?_modWarp _ _ _ _ hf]; simp [h]

theorem State.wg?_modWg (s : State) (id k : Nat) (f : Workgroup → Workgroup) (hf : ∀ g, (f g).id = g.id) :
    (s.modWg id f).wg? k = (s.wg? k).map fun g => if k = id then f g else g :=
  find?_map_id Workgroup.id f s.wgs id k hf

theorem State.warp?_id {s : State} {id : Nat} {w : Warp} (h : s.warp? id = some w) : w.id = id := by
  have := List.find?_some h
  simpa using this

theorem State.wg?_id {s : State} {id : Nat} {g : Workgroup} (h : s.wg? id = some g) : g.id = id := by
  have := List.find?_some h
  simpa using this

@[simp] theorem State.warp?_modWg (s : State) (id k : Nat) (f : Workgroup → Workgroup) : (s.modWg id f).warp? k = s.warp? k := rfl
@[simp] theorem State.wg?_modWarp (s : State) (id k : Nat) (f : Warp → Warp) : (s.modWarp id f).wg? k = s.wg? k := rfl
@[simp] theorem State.wg?_modSplit (s : State) (id : SplitId) (k : Nat) (f : Split → Split) : (s.modSplit id f).wg? k = s.wg? k := rfl
@[simp] theorem State.warp?_modPart (s : State) (p : BitVec 2) (k : Nat) (f : Part → Part) : (s.modPart p f).warp? k = s.warp? k := rfl
@[simp] theorem State.wg?_modPart (s : State) (p : BitVec 2) (k : Nat) (f : Part → Part) : (s.modPart p f).wg? k = s.wg? k := rfl
@[simp] theorem State.warp?_dropLatch (s : State) (k : Nat) (f : LatchEntry → Bool) : (s.dropLatch f).warp? k = s.warp? k := rfl
@[simp] theorem State.wg?_dropLatch (s : State) (k : Nat) (f : LatchEntry → Bool) : (s.dropLatch f).wg? k = s.wg? k := rfl
@[simp] theorem State.part_modWarp (s : State) (id : Nat) (f : Warp → Warp) (p : BitVec 2) : (s.modWarp id f).part p = s.part p := rfl
@[simp] theorem State.ctx_modWarp (s : State) (id : Nat) (f : Warp → Warp) (p : BitVec 2) (c : BitVec 6) :
    (s.modWarp id f).ctx p c = s.ctx p c := rfl
@[simp] theorem State.part_modWg (s : State) (id : Nat) (f : Workgroup → Workgroup) (p : BitVec 2) : (s.modWg id f).part p = s.part p := rfl
@[simp] theorem State.ctx_modWg (s : State) (id : Nat) (f : Workgroup → Workgroup) (p : BitVec 2) (c : BitVec 6) :
    (s.modWg id f).ctx p c = s.ctx p c := rfl

/-- A partition read back. -/
theorem State.part_modPart (s : State) (p q : BitVec 2) (f : Part → Part) :
    (s.modPart p f).part q = if q = p ∧ p.toNat < s.parts.length then f (s.part q) else s.part q := by
  unfold State.part State.modPart
  rw [modifyAt_getD]
  by_cases h : q = p
  · subst h; simp
  · have : q.toNat ≠ p.toNat := fun e => h (BitVec.eq_of_toNat_eq e)
    simp [h, this]

/-! ## Splits -/

@[simp] theorem Warp.modSplit_id (w : Warp) (n : Nat) (f : Split → Split) : (w.modSplit n f).id = w.id := rfl
@[simp] theorem Warp.modSplit_pending (w : Warp) (n : Nat) (f : Split → Split) : (w.modSplit n f).pending = w.pending := rfl
@[simp] theorem Warp.modSplit_lanes (w : Warp) (n : Nat) (f : Split → Split) : (w.modSplit n f).lanes = w.lanes := rfl

theorem Warp.split_modSplit (w : Warp) (n k : Nat) (f : Split → Split) :
    (w.modSplit n f).split k = if k = n then (w.split k).map f else w.split k := by
  unfold Warp.split Warp.modSplit
  rw [modifyAt_getD]
  by_cases h : k = n
  · subst h
    by_cases hl : k < w.splits.length
    · simp [hl]
    · simp [hl]
  · simp [h]

/-- A split read back. -/
theorem State.splitOf_modWarp (s : State) (id : Nat) (f : Warp → Warp) (hf : ∀ w, (f w).id = w.id) (k : SplitId) :
    (s.modWarp id f).splitOf k = (s.warp? k.warp).bind fun w => (if k.warp = id then f w else w).split k.split := by
  unfold State.splitOf
  rw [State.warp?_modWarp _ _ _ _ hf]
  cases s.warp? k.warp <;> rfl

/-! ## Lanes -/

@[simp] theorem Warp.modLane_id (w : Warp) (l : Nat) (f : Lane → Lane) : (w.modLane l f).id = w.id := rfl
@[simp] theorem Warp.modLane_pending (w : Warp) (l : Nat) (f : Lane → Lane) : (w.modLane l f).pending = w.pending := rfl
@[simp] theorem Warp.modLane_splits (w : Warp) (l : Nat) (f : Lane → Lane) : (w.modLane l f).splits = w.splits := rfl
@[simp] theorem Warp.modLane_length (w : Warp) (l : Nat) (f : Lane → Lane) : (w.modLane l f).lanes.length = w.lanes.length := by
  simp [Warp.modLane]

theorem Warp.lane_modLane (w : Warp) (l k : Nat) (f : Lane → Lane) :
    (w.modLane l f).lane k = if k = l ∧ l < w.lanes.length then f (w.lane k) else w.lane k :=
  modifyAt_getD f w.lanes l k {}

theorem mem_lanesOf {m : BitVec 32} {l : Nat} : l ∈ lanesOf m ↔ m.getLsbD l = true := by
  simp only [lanesOf, List.mem_filter, List.mem_range, and_iff_right_iff_imp]
  intro h
  by_contra hl
  rw [BitVec.getLsbD_of_ge _ _ (by omega)] at h
  simp at h

theorem lanesOf_lt {m : BitVec 32} {l : Nat} (h : l ∈ lanesOf m) : l < 32 := by
  simp only [lanesOf, List.mem_filter, List.mem_range] at h
  exact h.1

theorem lanesOf_nodup (m : BitVec 32) : (lanesOf m).Nodup := List.nodup_range.filter _

/-! ## Bits -/

theorem testBit_setBits (x lo n v i : Nat) :
    (setBits x lo n v).testBit i = if lo ≤ i ∧ i < lo + n then v.testBit (i - lo) else x.testBit i := by
  have hx : x = x % 2 ^ lo + 2 ^ lo * (bits x lo n + 2 ^ n * (x / 2 ^ (lo + n))) := by
    unfold bits
    rw [Nat.pow_add, ← Nat.div_div_eq_div_mul, Nat.mod_add_div, Nat.mod_add_div]
  have hs : setBits x lo n v = x % 2 ^ lo + 2 ^ lo * (v % 2 ^ n + 2 ^ n * (x / 2 ^ (lo + n))) := by
    unfold setBits
    generalize hb : bits x lo n = b at hx ⊢
    generalize hq : x / 2 ^ (lo + n) = q at hx ⊢
    generalize hr : x % 2 ^ lo = r at hx ⊢
    rw [Nat.mul_add] at hx ⊢
    rw [Nat.mul_comm b, Nat.mul_comm (v % 2 ^ n)]
    omega
  have hr : x % 2 ^ lo < 2 ^ lo := Nat.mod_lt _ (Nat.two_pow_pos _)
  rw [hs, Nat.add_comm, Nat.testBit_two_pow_mul_add _ hr, Nat.add_comm (v % 2 ^ n),
    Nat.testBit_two_pow_mul_add _ (Nat.mod_lt v (Nat.two_pow_pos n)), Nat.testBit_mod_two_pow, Nat.testBit_mod_two_pow,
    Nat.testBit_div_two_pow]
  by_cases h1 : i < lo
  · rw [if_pos h1, if_neg (by omega)]
    simp [h1]
  · by_cases h2 : i < lo + n
    · have : i - lo < n := by omega
      rw [if_neg h1, if_pos (by omega : lo ≤ i ∧ i < lo + n)]
      simp [this]
    · have : ¬ (i - lo < n) := by omega
      simp only [h1, this, if_false, decide_false, Bool.false_and]
      rw [if_neg (by omega)]
      congr 1; omega

theorem testBit_bits (x lo n i : Nat) : (bits x lo n).testBit i = (decide (i < n) && x.testBit (lo + i)) := by
  unfold bits
  rw [Nat.testBit_mod_two_pow, Nat.testBit_div_two_pow, Nat.add_comm]

theorem trunc_natCast (v n : Nat) : trunc (v : Int) n = v % 2 ^ n := by
  unfold trunc
  omega

/-! ## Slices and predicates -/

/-- Slices written read back. -/
theorem Lane.get_put (x : Lane) {st n : Nat} (h : st + n ≤ 1024) (v : Nat) : (x.put st n v).get st n = v % 2 ^ (4 * n) := by
  apply Nat.eq_of_testBit_eq
  intro i
  simp only [Lane.get, Lane.put, testBit_bits, BitVec.toNat_ofNat, Nat.testBit_mod_two_pow, testBit_setBits]
  by_cases hi : i < 4 * n
  · have h1 : 4 * st + i < 4096 := by omega
    simp [hi, h1]
  · simp [hi]

/-- A slice outside those written reads as before. -/
theorem Lane.get_put_ne (x : Lane) {st n k : Nat} (v : Nat) (h : k < st ∨ st + n ≤ k) : (x.put st n v).get k 1 = x.get k 1 := by
  apply Nat.eq_of_testBit_eq
  intro i
  simp only [Lane.get, Lane.put, testBit_bits, BitVec.toNat_ofNat, Nat.testBit_mod_two_pow, testBit_setBits]
  by_cases hi : i < 4 * 1
  · rw [if_neg (by omega)]
    by_cases hk : 4 * k + i < 4096
    · simp [hk]
    · have : x.slices.toNat.testBit (4 * k + i) = false := by
        apply Nat.testBit_lt_two_pow
        exact Nat.lt_of_lt_of_le x.slices.isLt (Nat.pow_le_pow_right (by omega) (by omega))
      simp [hk, this]
  · simp [hi]

/-- p7 reads as true, and every other predicate as written (R124). -/
theorem Lane.pred_setPred (x : Lane) {p : Nat} (hp : p < 8) (v : Bool) (k : Nat) :
    (x.setPred p v).pred k = if k = p ∧ p ≠ 7 then v else x.pred k := by
  unfold Lane.setPred Lane.pred
  by_cases h7 : p = 7
  · simp [h7]
  · simp only [if_neg h7]
    by_cases hk : k = 7
    · simp [hk, Ne.symm h7]
    · simp only [if_neg hk]
      rw [BitVec.getLsbD_ofNat, testBit_setBits]
      by_cases e : k = p
      · subst e; cases v <;> simp [hp, h7]
      · rw [if_neg (by omega), if_neg (by simp [e])]
        by_cases hk8 : k < 8
        · simp [hk8, BitVec.getLsbD]
        · have : x.preds.getLsbD k = false := BitVec.getLsbD_of_ge _ _ (by omega)
          simp [hk8, this]

/-! ## Uniform registers -/

@[simp] theorem Split.ureg_zero (p : Split) : p.ureg 0 = 0 := rfl
@[simp] theorem Split.setUreg_zero (p : Split) (many : Bool) (v : Word) : p.setUreg many 0 v = p := rfl

end Sys2Proof.Machine
end

