-- ==== Sys2Proof/Laws/Places.lean ====
section
/-! SUPPORT. What finding the places of an access can change: a page is backed or passes to another owner, and a translation is kept,
nothing else (R62, R151, R152, R154). -/
namespace Sys2Proof.Machine

/-- `t` differs from `s` only in what backing or zeroing a page, bringing held bytes home and keeping a translation change. -/
def Mapped (s t : State) : Prop :=
  t = { s with
    mem := t.mem, stale := t.stale, poison := t.poison, held := t.held, cache := t.cache, tlb := t.tlb, walks := t.walks
    owners := t.owners, pool := t.pool, poolBack := t.poolBack, nudged := t.nudged }

theorem Mapped.refl (s : State) : Mapped s s := rfl

theorem Mapped.trans {s t u : State} (h1 : Mapped s t) (h2 : Mapped t u) : Mapped s u := by
  unfold Mapped at *
  rw [h2, h1]

theorem Mapped.warps {s t : State} (h : Mapped s t) : t.warps = s.warps := by rw [h]
theorem Mapped.wgs {s t : State} (h : Mapped s t) : t.wgs = s.wgs := by rw [h]
theorem Mapped.cur {s t : State} (h : Mapped s t) : t.cur = s.cur := by rw [h]
theorem Mapped.parts {s t : State} (h : Mapped s t) : t.parts = s.parts := by rw [h]
theorem Mapped.cycle {s t : State} (h : Mapped s t) : t.cycle = s.cycle := by rw [h]
theorem Mapped.free {s t : State} (h : Mapped s t) : t.free = s.free := by rw [h]
theorem Mapped.host {s t : State} (h : Mapped s t) : t.host = s.host := by rw [h]
theorem Mapped.exts {s t : State} (h : Mapped s t) : t.exts = s.exts := by rw [h]

theorem Mapped.warp? {s t : State} (h : Mapped s t) (k : Nat) : t.warp? k = s.warp? k := by unfold State.warp?; rw [h.warps]
theorem Mapped.wg? {s t : State} (h : Mapped s t) (k : Nat) : t.wg? k = s.wg? k := by unfold State.wg?; rw [h.wgs]
theorem Mapped.ctx {s t : State} (h : Mapped s t) (p : BitVec 2) (c : BitVec 6) : t.ctx p c = s.ctx p c := by
  unfold State.ctx State.part; rw [h.parts]
theorem Mapped.issue? {s t : State} (h : Mapped s t) (b : Bool) : t.issue? b = s.issue? b := by
  unfold State.issue?; simp only [h.cur, h.warp?, h.wg?]

theorem State.writeHome_mapped (s : State) (k : Nat) (d : List Byte) : Mapped s (s.writeHome k d) := rfl
theorem State.zeroFrames_mapped (s : State) (k n : Nat) : Mapped s (s.zeroFrames k n) := rfl
theorem State.keepWalk_mapped (s : State) (die : BitVec 2) (p : BitVec 2) (c : BitVec 6) (va : Nat) (es : List (Nat × Nat)) :
    Mapped s (s.keepWalk die p c va es) := rfl

/-- Taking note of a frame's owner. -/
theorem State.claim_mapped (s : State) (e : TlbEntry) : Mapped s (s.claim e) := by
  unfold State.claim
  dsimp only
  split
  · rfl
  · split
    · rfl
    · split
      · rfl
      · split <;> rfl

theorem State.poolTake_mapped {s t : State} {p : BitVec 2} {g pa : Nat} {big : Bool} (h : s.poolTake p g big = some (t, pa)) :
    Mapped s t := by
  unfold State.poolTake at h
  dsimp only at h
  generalize (if big = true then none else s.poolBack.find? fun x => x.1 == poolId p g) = o at h
  cases o with
  | none =>
    dsimp only at h
    generalize (if big = true then 2 ^ 21 else 2 ^ 16) = size at h
    by_cases hc : (s.poolRange p g).2 <
        ((s.poolRange p g).1 + Sparse.get 0 s.pool (poolId p g) * 2 ^ 16 + size - 1) / size * size + size
    · rw [if_pos hc] at h; cases h
    · rw [if_neg hc] at h
      simp only [Option.some.injEq, Prod.mk.injEq] at h
      rw [← h.1]; rfl
  | some x =>
    simp only [Option.some.injEq, Prod.mk.injEq] at h
    rw [← h.1]; rfl

theorem State.walkBack_mapped (s : State) (ag : Agent) (va : Nat) : Mapped s (s.walkBack ag va).1 := by
  unfold State.walkBack
  dsimp only
  have k := State.keepWalk_mapped s (s.walkDie ag) ag.part ag.ctx va
    (s.walkBy ag.part ag.ctx va (s.seenEntry (s.walkDie ag) ag.part ag.ctx va)).2
  split
  · exact k.trans (State.claim_mapped _ _)
  · exact k
  · split
    · exact k
    · split
      · exact k
      · next h =>
        have h' := k.trans (State.poolTake_mapped h)
        split
        · exact (h'.trans (State.writeHome_mapped _ _ _)).trans (State.claim_mapped _ _)
        · exact h'.trans (State.writeHome_mapped _ _ _)

theorem State.tlbFill_mapped (s : State) (e : TlbEntry) : Mapped s (s.tlbFill e) := rfl

theorem State.translate_mapped (s : State) (ag : Agent) (va : Nat) : Mapped s (s.translate ag va).1 := by
  have h := State.walkBack_mapped s ag va
  unfold State.translate
  dsimp only
  split
  · split
    · split
      · exact h
      · split
        · exact Mapped.refl s
        · exact h.trans (State.tlbFill_mapped _ _)
    · split
      · exact Mapped.refl s
      · exact h
  · split
    · exact h.trans (State.tlbFill_mapped _ _)
    · exact h

theorem State.rowPlace_mapped (s : State) (ag : Agent) (use : Use) (far : Bool) (va n : Nat) :
    Mapped s (s.rowPlace ag use far va n).1 := by
  have h := State.translate_mapped s ag va
  unfold State.rowPlace
  split
  · next e => rw [e] at h; exact h
  · next e => rw [e] at h; exact h

/-- Finding the place of one part of an access. -/
theorem State.place_mapped (s : State) (ag : Agent) (use : Use) (p i len total : Nat) : Mapped s (s.place ag use p i len total).1 := by
  unfold State.place
  have hr := fun far va n => State.rowPlace_mapped s ag use far va n
  split
  · exact Mapped.refl s
  · split
    · exact Mapped.refl s
    · dsimp only
      split
      · exact Mapped.refl s
      · split
        · exact Mapped.refl s
        · exact hr _ _ _
  · split
    · exact Mapped.refl s
    · split
      · exact Mapped.refl s
      · dsimp only
        split
        · exact Mapped.refl s
        · split <;> exact Mapped.refl s
  · split
    · exact Mapped.refl s
    · exact hr _ _ _
  · split <;> exact Mapped.refl s
  · split
    · exact Mapped.refl s
    · exact hr _ _ _
  · split
    · exact Mapped.refl s
    · split
      · exact hr _ _ _
      · split <;> exact Mapped.refl s
  · split
    · exact Mapped.refl s
    · dsimp only
      split
      · exact Mapped.refl s
      · split
        · exact Mapped.refl s
        · split
          · exact Mapped.refl s
          · exact hr _ _ _
  · exact Mapped.refl s

theorem State.placesGo_mapped (ag : Agent) (use : Use) (p n : Nat) (xs : List (Nat × Nat)) :
    ∀ (s : State) (acc : List (Place × Nat)), Mapped s (State.placesGo ag use p n xs s acc).1 := by
  induction xs with
  | nil => exact fun s _ => Mapped.refl s
  | cons x xs ih =>
    intro s acc
    have h := State.place_mapped s ag use p x.1 x.2 n
    unfold State.placesGo
    split
    · next e => rw [e] at h; exact h.trans (ih _ _)
    · next e => rw [e] at h; exact h

/-- Finding the places of an access. -/
theorem State.places_mapped (s : State) (ag : Agent) (use : Use) (p n : Nat) : Mapped s (s.places ag use p n).1 :=
  State.placesGo_mapped ag use p n _ s []

/-- A direct read. -/
theorem State.readDirect_mapped (s : State) (ag : Agent) (p n : Nat) : Mapped s (s.readDirect ag p n).1 := by
  have h := State.places_mapped s ag .load p n
  unfold State.readDirect
  split
  · next e => rw [e] at h; exact h
  · next e => rw [e] at h; exact h

theorem State.readNat_mapped (s : State) (ag : Agent) (p n : Nat) : Mapped s (s.readNat ag p n).1 := by
  have h := State.readDirect_mapped s ag p n
  unfold State.readNat
  split
  · next e => rw [e] at h; exact h
  · next e => rw [e] at h; exact h

/-- The vector read of a rung. -/
theorem State.vector_mapped {s t : State} {ag : Agent} {base rung code v : Nat} (h : s.vector ag base rung code = some (t, v)) :
    Mapped s t := by
  unfold State.vector at h
  split at h
  · cases h
  · split at h
    · next t' v' e =>
      have := State.readNat_mapped s ag (base + 0x100 * (rung - 1) + 8 * code) 8
      rw [e] at this
      split at h
      · cases h
      · simp only [Option.some.injEq, Prod.mk.injEq] at h
        rw [← h.1]; exact this
    · cases h

/-- The fetch of a word. -/
theorem State.fetchWord_mapped (s : State) (ag : Agent) (g : Workgroup) (pc : Word) : Mapped s (s.fetchWord ag g pc).1 := by
  have h := State.places_mapped s ag .fetch pc.toNat 4
  unfold State.fetchWord
  split
  · exact Mapped.refl s
  · split
    · next e => rw [e] at h; exact h
    · next e =>
      rw [e] at h
      dsimp only
      split <;> exact h

/-! ## Writing bytes -/

/-- No warp, no partition and no place in time differs: what writing the bytes of an access can touch. -/
structure Kept (s t : State) : Prop where
  warps : t.warps = s.warps
  parts : t.parts = s.parts
  cycle : t.cycle = s.cycle
  cur : t.cur = s.cur
  free : t.free = s.free
  exts : t.exts = s.exts
  wgs : t.wgs.map (fun g => { g with scratch := [] }) = s.wgs.map (fun g => { g with scratch := [] })

theorem Kept.refl (s : State) : Kept s s := ⟨rfl, rfl, rfl, rfl, rfl, rfl, rfl⟩

theorem Kept.trans {s t u : State} (h : Kept s t) (k : Kept t u) : Kept s u :=
  ⟨k.warps.trans h.warps, k.parts.trans h.parts, k.cycle.trans h.cycle, k.cur.trans h.cur, k.free.trans h.free,
    k.exts.trans h.exts, k.wgs.trans h.wgs⟩

theorem Mapped.kept {s t : State} (h : Mapped s t) : Kept s t :=
  ⟨h.warps, h.parts, h.cycle, h.cur, h.free, h.exts, by rw [h.wgs]⟩

theorem Kept.warp? {s t : State} (h : Kept s t) (k : Nat) : t.warp? k = s.warp? k := by unfold State.warp?; rw [h.warps]

theorem State.writePlace_kept (s : State) (pl : Place) (d : List Byte) : Kept s (s.writePlace pl d) := by
  cases pl with
  | mem k => exact ⟨rfl, rfl, rfl, rfl, rfl, rfl, rfl⟩
  | scr g o =>
    refine ⟨rfl, rfl, rfl, rfl, rfl, rfl, ?_⟩
    show (s.wgs.map fun x => if x.id = g then { x with scratch := x.scratch.setBytes o d } else x).map _ = _
    rw [List.map_map]
    refine List.map_congr_left fun x _ => ?_
    simp only [Function.comp_def]
    split <;> rfl
  | host a => exact ⟨rfl, rfl, rfl, rfl, rfl, rfl, rfl⟩
  | peer p a => exact Kept.refl s

theorem State.updateCache_kept (s : State) (core k : Nat) (d : List Byte) : Kept s (s.updateCache core k d) :=
  ⟨rfl, rfl, rfl, rfl, rfl, rfl, rfl⟩
theorem State.updateHeld_kept (s : State) (q k : Nat) (d : List Byte) : Kept s (s.updateHeld q k d) :=
  ⟨rfl, rfl, rfl, rfl, rfl, rfl, rfl⟩

theorem State.coreWrite_kept (s : State) (core : Nat) (pl : Place) (d : List Byte) : Kept s (s.coreWrite core pl d) := by
  cases pl with
  | mem k =>
    exact ((State.writePlace_kept s (.mem k) d).trans (State.updateCache_kept _ _ _ _)).trans (State.updateHeld_kept _ _ _ _)
  | scr g o => exact State.writePlace_kept s (.scr g o) d
  | host a => exact State.writePlace_kept s (.host a) d
  | peer p a => exact State.writePlace_kept s (.peer p a) d

theorem State.writeParts_kept (core : Option Nat) (ps : List (Place × Nat)) :
    ∀ (d : List Byte) (s : State), Kept s (State.writeParts core ps d s) := by
  induction ps with
  | nil => exact fun _ s => Kept.refl s
  | cons x xs ih =>
    intro d s
    refine Kept.trans ?_ (ih _ _)
    cases core with
    | none => exact State.writePlace_kept s _ _
    | some k => exact State.coreWrite_kept s k _ _

theorem State.writeCore_kept (s : State) (ag : Agent) (p : Nat) (d : List Byte) : Kept s (s.writeCore ag p d).1 := by
  have h := State.places_mapped s ag .store p d.length
  unfold State.writeCore
  split
  · next e => rw [e] at h; exact h.kept.trans (State.writeParts_kept _ _ _ _)
  · next e => rw [e] at h; exact h.kept

end Sys2Proof.Machine
end

