-- ==== Sys2Proof/Laws/Results.lean ====
section
/-! SUPPORT. What writing results and the advance of the counter come to. -/
namespace Sys2Proof.Machine

theorem Warp.lane_foldl (g : Nat → Lane → Lane) (ls : List Nat) (hn : ls.Nodup) (w : Warp) (k : Nat) :
    (ls.foldl (fun w l => w.modLane l (g l)) w).lane k = if k ∈ ls ∧ k < w.lanes.length then g k (w.lane k) else w.lane k := by
  induction ls generalizing w with
  | nil => simp
  | cons x xs ih =>
    rw [List.nodup_cons] at hn
    rw [List.foldl_cons, ih hn.2, Warp.lane_modLane, Warp.modLane_length]
    by_cases hk : k = x
    · subst hk; simp [hn.1]
    · simp [hk]

theorem Warp.foldl_modLane_rest (g : Nat → Lane → Lane) (ls : List Nat) (w : Warp) :
    ∃ l', l'.length = w.lanes.length ∧ ls.foldl (fun w l => w.modLane l (g l)) w = { w with lanes := l' } := by
  induction ls generalizing w with
  | nil => exact ⟨w.lanes, rfl, rfl⟩
  | cons x xs ih =>
    obtain ⟨l', h1, h2⟩ := ih (w.modLane x (g x))
    exact ⟨l', by simpa using h1, by rw [List.foldl_cons, h2]; rfl⟩

/-- Results for lanes, with none pending, land at once. -/
theorem Warp.foldl_write_lanes {ls : List Nat} {w : Warp} (hp : w.pending = []) (split : Nat) (d : Nat → Dest) (v : Nat → Nat)
    (g : Nat → Lane → Lane) (hd : ∀ l w, Warp.land w split (d l) (v l) = w.modLane l (g l)) :
    (ls.map fun l => (d l, v l)).foldl (fun w x => w.write split x.1 x.2) w = ls.foldl (fun w l => w.modLane l (g l)) w := by
  induction ls generalizing w with
  | nil => rfl
  | cons x xs ih =>
    simp only [List.map_cons, List.foldl_cons]
    have : w.write split (d x) (v x) = w.modLane x (g x) := by simp [Warp.write, hp, hd]
    rw [this]
    exact ih (by simpa using hp)

theorem State.foldl_latch (id : Nat) (xs : List (Dest × Nat)) (s : State) :
    ∃ l, xs.foldl (fun t x => t.latchLanded id x.1) s = { s with latch := l } := by
  induction xs generalizing s with
  | nil => exact ⟨s.latch, rfl⟩
  | cons x xs ih =>
    obtain ⟨l, h⟩ := ih (s.latchLanded id x.1)
    refine ⟨l, ?_⟩
    rw [List.foldl_cons, h]
    unfold State.latchLanded State.dropLatch
    split <;> rfl

theorem OnlyWarp.of {t : State} {id : Nat} {F : Warp → Warp} {l : List LatchEntry} (hF : ∀ w, (F w).id = w.id) :
    OnlyWarp id t { t.modWarp id F with latch := l } :=
  ⟨rfl, fun _ hk => State.warp?_modWarp_ne t hk F hF⟩

theorem Warp.write1_id (w : Warp) (split : Nat) (d : Dest) (v : Nat) : (w.write1 split d v).id = w.id := by
  unfold Warp.write1 Warp.land
  split
  · rfl
  · split <;> rfl

theorem Warp.write_id (w : Warp) (split : Nat) (d : Dest) (v : Nat) : (w.write split d v).id = w.id := by
  unfold Warp.write
  split
  · split
    · next l st n h =>
      clear h
      generalize List.range n = xs
      induction xs generalizing w with
      | nil => rfl
      | cons x xs ih => rw [List.foldl_cons, ih, Warp.write1_id]
    · exact Warp.write1_id _ _ _ _
  · unfold Warp.land
    split <;> rfl

theorem Warp.foldl_write_id (xs : List (Dest × Nat)) (split : Nat) (w : Warp) :
    (xs.foldl (fun w x => w.write split x.1 x.2) w).id = w.id := by
  induction xs generalizing w with
  | nil => rfl
  | cons x xs ih => rw [List.foldl_cons, ih, Warp.write_id]

/-- `put` and the advance of the counter, without a marker: one change of the warp, and of the latch. -/
theorem State.put_complete {t : State} {c : Issue} (hsw : c.sw = false) (xs : List (Dest × Nat)) :
    ∃ l, (t.put c xs).complete c = { t.modWarp c.id.warp (fun w =>
      (xs.foldl (fun w x => w.write c.id.split x.1 x.2) w).modSplit c.id.split fun p =>
        { p with pc := c.pc + 4, hints := [], progValid := false, seen := none, asked := false, walk := none, stc := none, count := p.count + 1,
                 since := t.cycle + 1, lifted := false, wait := .ready }) with latch := l } := by
  obtain ⟨l, hl⟩ := State.foldl_latch c.id.warp xs
    (t.modWarp c.id.warp (fun w => xs.foldl (fun w x => w.write c.id.split x.1 x.2) w))
  refine ⟨l, ?_⟩
  unfold State.complete State.goTo State.stepTo State.put
  simp only [hl, hsw, Bool.false_eq_true, if_false]
  unfold State.modSplit State.modWarp
  simp only [List.map_map, Function.comp_def]
  congr 1
  refine List.map_congr_left fun w _ => ?_
  by_cases hw : w.id = c.id.warp
  · simp only [hw, if_true, Warp.foldl_write_id]
  · simp [hw]

theorem State.laneOf_of {t : State} {id : Nat} {w : Warp} (h : t.warp? id = some w) (l : Nat) : t.laneOf id l = w.lane l := by
  simp [State.laneOf, h]

theorem State.splitOf_of {t : State} {id : Nat} {w : Warp} (h : t.warp? id = some w) (n : Nat) : t.splitOf ⟨id, n⟩ = w.split n := by
  simp [State.splitOf, h]

end Sys2Proof.Machine
end

