-- ==== Sys2Proof/Laws/Stores.lean ====
section
/-! SUPPORT. What comes before a store, a release and the next cycle. -/
namespace Sys2Proof.Machine

/-- The warps of `t` differ from those of `s` only in their pending results. -/
def PendingOnly (s t : State) : Prop :=
  t.wgs = s.wgs ∧ ∀ k, (t.warp? k).map (fun x => { x with pending := [] }) = (s.warp? k).map fun x => { x with pending := [] }

theorem PendingOnly.refl (s : State) : PendingOnly s s := ⟨rfl, fun _ => rfl⟩

theorem PendingOnly.trans {s t u : State} (h : PendingOnly s t) (k : PendingOnly t u) : PendingOnly s u :=
  ⟨k.1.trans h.1, fun n => (k.2 n).trans (h.2 n)⟩

theorem Mapped.pendingOnly {s t : State} (h : Mapped s t) : PendingOnly s t := ⟨h.wgs, fun k => by rw [h.warp? k]⟩

theorem State.modWarp_pendingOnly (s : State) (id : Nat) (f : Warp → List Pending) :
    PendingOnly s (s.modWarp id fun w => { w with pending := f w }) := by
  refine ⟨rfl, fun k => ?_⟩
  have h := State.warp?_modWarp s id k (fun w => { w with pending := f w }) fun _ => rfl
  rw [h]
  split <;> simp [Function.comp_def]

theorem State.foldl_pendingOnly {α : Type} {f : State → α → State} (hf : ∀ s x, PendingOnly s (f s x)) (xs : List α) (s : State) :
    PendingOnly s (xs.foldl f s) := by
  induction xs generalizing s with
  | nil => exact .refl s
  | cons x xs ih => exact (hf s x).trans (ih _)

/-- A row cache gives up a line: nothing else changes. -/
theorem State.makeRoom_mapped (s : State) (core sector : Nat) : Mapped s (s.makeRoom core sector) := by
  unfold State.makeRoom
  dsimp only
  split
  · rfl
  · split <;> rfl

/-- A load may fill its core's row cache or take a sector out of it. -/
theorem State.loadPart_mapped (s : State) (r : LoadReq) (pl : Place) (n : Nat) : Mapped s (s.loadPart r pl n).1 := by
  unfold State.loadPart
  split
  · dsimp only
    split
    · rfl
    · have h := State.makeRoom_mapped s r.core (‹Nat› / 32)
      unfold Mapped at h ⊢
      rw [h]
    · rfl
  · rfl

theorem State.readPart_mapped (s : State) (r : LoadReq) (k : Nat) : Mapped s (s.readPart r k).1 := by
  unfold State.readPart
  split
  · exact State.loadPart_mapped _ _ _ _
  · exact .refl s

theorem State.loadBytes_mapped (s : State) (r : LoadReq) : Mapped s (s.loadBytes r).1 := by
  unfold State.loadBytes
  dsimp only
  generalize r.left = ks
  suffices h : ∀ (ks : List Nat) (s : State) (r : LoadReq),
      Mapped s (ks.foldl (fun (a : State × LoadReq) k => a.1.readPart a.2 k) (s, r)).1 from h ks s r
  intro ks
  induction ks with
  | nil => exact fun s _ => .refl s
  | cons k ks ih => exact fun s r => (State.readPart_mapped s r k).trans (ih _ _)

/-- An acquire empties a row cache: nothing else changes. -/
theorem State.acquireFor_mapped (s : State) (x : Pending) : Mapped s (s.acquireFor x) := by
  unfold State.acquireFor
  split
  · split <;> rfl
  · rfl

theorem State.bindAt_pendingOnly (s : State) (wid k : Nat) : PendingOnly s (s.bindAt wid k) := by
  unfold State.bindAt
  split
  · exact .refl s
  · split
    · split
      · exact ((State.acquireFor_mapped _ _).trans (State.loadBytes_mapped _ _)).pendingOnly.trans (State.modWarp_pendingOnly _ _ _)
      · exact .refl s
    · exact .refl s

theorem State.bindIf_pendingOnly (s : State) (wid : Nat) (f : LoadReq → Bool) : PendingOnly s (s.bindIf wid f) := by
  unfold State.bindIf
  split
  · exact .refl s
  · refine State.foldl_pendingOnly (fun t k => ?_) _ s
    split
    · split
      · exact State.bindAt_pendingOnly t wid k
      · exact .refl t
    · exact .refl t

theorem State.bringHome_mapped (hs : List HeldByte) : ∀ s : State, Mapped s (s.bringHome hs) := by
  induction hs with
  | nil => exact .refl
  | cons x xs ih => exact fun s => Mapped.trans (t := (s.writeHome x.addr [x.byte]).nudge (.mem x.addr) 1) rfl (ih _)

theorem State.writeBack_mapped (s : State) (q : Nat) : Mapped s (s.writeBack q) :=
  Mapped.trans (t := { s with held := s.held.filter (fun h => h.quad != q) }) rfl (State.bringHome_mapped _ _)

/-- What comes before a store leaves every warp's outstanding and dropped stores alone (R188, R328). -/
theorem State.beforeStore_pendingOnly (s : State) (w : Warp) (g : Workgroup) (q : StoreReq) : PendingOnly s (s.beforeStore w g q) := by
  unfold State.beforeStore
  dsimp only
  have h := State.bindIf_pendingOnly s w.id fun r =>
    (r.lane == q.lane || r.lane.isNone || q.lane.isNone) && (q.release.isSome || placesOverlap r.unread (s.storePlaces w g q))
  split
  · split
    · exact h.trans (State.writeBack_mapped _ _).pendingOnly
    · exact h
  · exact h

/-- A release goes on at once where its lanes have performed every store (R192, R193). -/
theorem State.afterStores_eq {s : State} {c : Issue} {lanes : BitVec 32} (h : (s.drain c.id.warp lanes).unperformed c.id.warp lanes = false)
    (k : State → State) : s.afterStores c lanes k = k (s.drain c.id.warp lanes) := by simp [State.afterStores, h]

theorem State.releaseTo_eq {s : State} {c : Issue} {lanes : BitVec 32} (h : (s.drain c.id.warp lanes).unperformed c.id.warp lanes = false)
    (scope : Nat) (k : State → State) :
    s.releaseTo c lanes scope k =
      k (if 2 ≤ scope then (s.drain c.id.warp lanes).writeBack (quadOf c.w.core) else s.drain c.id.warp lanes) := by
  simp [State.releaseTo, State.afterStores_eq h]

/-- Where no split of a warp waits behind a marker or a fence, none goes on (R257). -/
theorem State.unparkDue_calm {s : State} (h : ∀ id n, ((s.warp? id).bind fun w => w.split n).any Split.parked = false) : s.unparkDue = s := by
  unfold State.unparkDue
  generalize (s.warps.flatMap fun w => w.valid.map fun n => (w.id, n)) = xs
  induction xs with
  | nil => rfl
  | cons x xs ih => simp [List.foldl_cons, h x.1 x.2, ih]

/-- Where no peer is found lost, every warp that has not exited has a valid split, no split stands behind a marker, the retired-warp rings
are empty, no tile load is torn, no byte is held, no store is in the journal and no word has been changed, a step brings nothing of
itself. -/
theorem State.tick_quiet {s : State} (hl : s.lost = []) (hr : s.retired = []) (hp : s.unparkDue = s)
    (hw : ∀ w ∈ s.warps, w.exited = false → w.valid.isEmpty = false)
    (ht : ∀ j ∈ s.jobs, j.torn = false) (hg : ∀ g ∈ s.wgs, g.torn = false)
    (h : s.held = []) (hj : s.journal = []) (hn : s.nudged = []) : s.tick = s.advance := by
  have h1 : s.leaveDue = s := by
    have : (s.warps.filter fun w => !w.exited && w.valid.isEmpty) = [] := by
      simp only [List.filter_eq_nil_iff, Bool.and_eq_true, Bool.not_eq_true', not_and, Bool.not_eq_true]
      exact hw
    simp [State.leaveDue, this, hr]
  have h0 : s.lostDue = s := by
    unfold State.lostDue
    rw [hl]
    show ({ s with lost := [] } : State) = s
    rw [← hl]
  have h2 : s.retriesDue = s := by
    have a : s.jobs.filter s.tornJob = [] := List.filter_eq_nil_iff.2 fun j m => by simp [State.tornJob, ht j m]
    have b : s.wgs.filter s.tornWg = [] := List.filter_eq_nil_iff.2 fun g m => by simp [State.tornWg, hg g m]
    simp [State.retriesDue, a, b]
  have h3 : s.reread = s := by simp [State.reread, hn]
  simp [State.tick, State.keepTime, State.writeBackOld, State.journalDue, h0, hp, h1, h2, h3, h, hj]

/-- A device without power only counts on (R36). -/
theorem State.tick_off {s : State} (h : s.off = true) : s.tick = s.advance := by simp [State.tick, h]

end Sys2Proof.Machine
end

