-- ==== Sys2Proof/Tests/Slice0.lean ====
section
/-! SUPPORT. The model's own tests: an ill-formed term for each check, words decoded bit by bit from the encodings of the
spec, single steps against the spec's own examples, and for every statement a state and operands that meet its
hypotheses (the theorems named meets_…). -/
namespace Sys2Proof.Machine

-- one theorem at a time: each takes the kernel a while
set_option Elab.async false

/-! ## Well-formedness (R260 to R269) -/

/-- A term that each check of R260 to R269 refuses. -/
theorem test_ill_formed :
    [Instr.fadd false 0 0 0 0 0, .fsub false 1 0 0 0 0, .fmul false 2 0 0 0 0, .ffma false 6 0 0 0 0, .fmin false 0 0 0 0 0,
      .fmax false 0 0 0 0 0, .neg false 0 0 0 1, .abs false 6 0 0 1, .exts false 3 0 0 3, .extz false 2 0 0 5, .cvt false 0 0 0 8,
      .cvt false 5 0 0 7, .cvt false 5 0 0 15, .cvts false 5 0 0 0, .icvt false 5 0 0 5, .ucvt false 5 0 0 14, .qhad false 7 0 0 0 0,
      .frcp false 1 0 0, .frsq false 1 0 0, .fsqrt false 1 0 0, .fexp2 false 7 0 0, .flog2 false 7 0 0, .fsin false 7 0 0,
      .fcos false 7 0 0, .ftanh false 7 0 0, .frnd false 5 0 0 4, .fcls false 6 0 0, .fcmpEq false 6 0 0 0 0, .fcmpNe false 6 0 0 0 0,
      .fcmpLt false 6 0 0 0 0, .fcmpLe false 6 0 0 0 0, .fcmpUn false 6 0 0 0 0, .vscan false 6 0 0 1 0, .vscanx false 6 0 0 1 0,
      .vred false 6 0 0 1 0, .vredmax false 6 0 0 1 0, .vredmin false 6 0 0 1 0].all (fun i => i.wf == false) = true := by decide

theorem test_ill_formed_rest :
    [Instr.ld false 7 2 0 0 0, .ld false 7 5 0 0 1, .st false 7 0 0 0 0, .ldl false 7 3 0 0, .stc false 7 2 0 0, .fence false 7 6 0,
      .atomAdd false 6 7 0 0 0 0, .atomMin false 6 7 0 0 0 0, .atomMax false 6 7 0 0 0 0, .atomMinu false 6 7 0 0 0 0,
      .atomMaxu false 6 7 0 0 0 0, .atomAnd false 6 7 0 0 0 0, .atomOr false 6 7 0 0 0 0, .atomXor false 6 7 0 0 0 0,
      .atomExch false 6 7 0 0 0 0, .atomCas false 7 7 0 0 0 0, .atomFadd false 7 7 0 0 0 0, .atomFmin false 7 7 0 0 0 0,
      .atomFmax false 7 7 0 0 0 0, .atomRedc false 7 7 0 0 0 0, .atomInc false 7 7 0 0 0 0, .sread false 0 15, .sld false 0 0 2,
      .sst false 0 0 3, .csrr false 0 3, .csrr false 0 0x18, .csrw false 0 0x105, .cpy false 63 0 0, .gath false 63 0 0, .xfrm false 63 0 0,
      .thdr false 0 61, .thset false 0 61, .seth false 0 57, .hintRnd 5, .hintOrd 6 0, .hintCache 3].all (fun i => i.wf == false) = true := by
  decide

/-! ## Decoding: words written out from the encodings of R253 and R261 to R269, a family a theorem -/

/-- V3: s, op[30:26], w, h, d, a, b. IADD is op 0; here .switch, W = 101, h = 00, d = 1, a = 2, b = 3. -/
theorem test_decode_v3 : decode 0b1_00000_101_00_0000001_0000010_0000011 = .ok (.iadd true 5 0 1 2 3) ∧
    decode 0b0_10000_011_11_0101000_1000000_0001000 = .ok (.fadd false 3 3 40 64 8) := by decide

/-- VU: 11000, fn[25:21], w, d, a, x. -/
theorem test_decode_vu : decode 0b0_11000_00000_101_0000001_0000010_0000 = .ok (.mov false 5 1 2) ∧
    decode 0b0_11000_01010_101_0101000_0001000_1000 = .ok (.cvt false 5 40 8 8) := by decide

/-- VC: 11001, fn[25:21], w, d, a, x. -/
theorem test_decode_vc : decode 0b0_11001_00010_101_0110000_0101000_0010 = .ok (.icmpLt false 5 48 40 0 2) ∧
    decode 0b0_11001_01100_101_0101000_0110000_0101 = .ok (.vscan false 5 40 48 0 5) := by decide

/-- MEM: 11010, fn, guard, w, d, a, x; FENCE.sc.pkg is 0x68FC_0F00 (R334). -/
theorem test_decode_mem : decode 0x68FC_0F00 = .ok (.fence false 7 3 3) := by decide

/-- CTRL: 11101, fn, and an 18-bit offset or a register and 12 bits. -/
theorem test_decode_ctrl : decode 0b0_11101_0000_11_1011_1111_1111_1111_1101 = .ok (.bra false 0x3FFFD) ∧
    decode 0x7780_0000 = .ok (.nop false) := by decide

/-! ## States for the witnesses -/

/-- The split of a warp of 512 slices that is about to issue a word at 0x3000000000000000. -/
def ready : State := { State.reset.withFetchWord 32 0 with cur := some ⟨1, 0⟩ }

/-- The warp, the split or the workgroup of `ready` changed. -/
def readyWarp (f : Warp → Warp) : State := ready.modWarp 1 f
def readySplit (f : Split → Split) : State := ready.modSplit ⟨1, 0⟩ f

/-- Every lane's slices from 0 on hold `v`, and every predicate is true. -/
def readyLanes (v : Nat) : State := readyWarp fun w => { w with lanes := List.replicate 32 { slices := BitVec.ofNat 4096 v, preds := 0xFF } }

/-- The same with lanes 0 and 31 alone active. -/
def readyTwo (v : Nat) : State := (readyLanes v).modSplit ⟨1, 0⟩ fun p => { p with mask := 0x80000001 }

/-- Uniform registers hold these values. -/
def readyRegs (xs : Sparse Word) : State := readySplit fun p => { p with sregs := xs }

/-- The instruction's own effect begins, in a state and issue that `f` accepts. -/
def startsIn (s : State) (u : Uses) (i : Instr) (f : Issue → State → Bool) : Bool := (u.begins s i false).any fun x => f x.1 x.2
/-- An instruction with its operands. -/
abbrev uw (u : Uses) (i : Instr) : Uses × Instr := (u, i)
def starts (s : State) (x : Uses × Instr) : Bool := startsIn s x.1 x.2 fun _ _ => true

/-- Nothing is awaited and no fault is met. -/
def LaneRun.isClean (r : LaneRun) : Bool := r.waiting == 0 && r.faults.isEmpty

/-! ## Vector statements: the first and the last operands that fit 512 slices -/

/-- A V3 word at both ends of its fields. -/
def v3Ends (f : BitVec 3 → BitVec 2 → BitVec 7 → BitVec 7 → BitVec 7 → Uses × Instr) : List (Uses × Instr) := [f 0 0 0 0 0, f 7 3 127 127 127]
def v3FpEnds (f : BitVec 3 → BitVec 2 → BitVec 7 → BitVec 7 → BitVec 7 → Uses × Instr) : List (Uses × Instr) := [f 3 0 0 0 0, f 7 3 127 127 127]
def vuEnds (f : BitVec 3 → BitVec 7 → BitVec 7 → Uses × Instr) : List (Uses × Instr) := [f 0 0 0, f 7 127 127]
def vuFpEnds (f : BitVec 3 → BitVec 7 → BitVec 7 → Uses × Instr) : List (Uses × Instr) := [f 3 0 0, f 7 127 127]

theorem meets_IntegerVectorResults :
    (([(Instr.iadd, true, false), (.isub, true, false), (.imul, false, false), (.imulh, false, false), (.imulhu, false, false),
       (.imad, false, true), (.imin, false, false), (.iminu, false, false), (.imax, false, false), (.imaxu, false, false),
       (.and, false, false), (.or, false, false), (.xor, false, false), (.shl, false, false), (.shr, false, false), (.sra, false, false)].flatMap
      fun r => v3Ends fun w h d a b => (v3IntForm ready w h d a b r.2.1 r.2.2, r.1 false w h d a b)).all (starts ready)) = true := by
  decide +kernel

/-- With HINT.SAT and a guard that no lane meets too. -/
theorem meets_IntegerVectorResults_hints :
    let s := readySplit fun p => { p with hints := [⟨4, 0⟩, ⟨2, 0⟩] }
    starts s (v3IntForm s 5 0 1 2 3 true false, .iadd false 5 0 1 2 3) = true := by decide +kernel

theorem meets_FloatVectorResults :
    (([(Instr.fadd, true, false), (.fsub, true, false), (.fmul, true, false), (.ffma, true, true), (.fmin, false, false), (.fmax, false, false)].flatMap
      fun r => v3FpEnds fun w h d a b => (v3FpForm ready w h d a b r.2.1 r.2.2, r.1 false w h d a b)).all (starts ready)) = true := by
  decide +kernel

theorem meets_LaneShuffles :
    ((v3Ends fun w h d a b => (shfForm ready false h d a b (wSlices w), .shf false w h d a b)) ++
      v3Ends fun w h d a b => (shuffleForm ready h d a b (wSlices w) 64 0xFFFFFFFF, .shfx false w h d a b)).all (starts ready) = true := by
  decide +kernel

theorem meets_OneSourceResults :
    (vuEnds (fun w d a => let n := wSlices w; (vuForm {} d a n n, .mov false w d a)) ++
      vuEnds (fun w d a => let n := wSlices w; (vuForm {} d a n n, .not false w d a)) ++
      vuEnds (fun w d a => let n := wSlices w; (vuForm {} d a n n, .neg false w d a 0)) ++
      vuEnds (fun w d a => let n := wSlices w; (vuForm {} d a n n, .abs false w d a 0)) ++
      vuFpEnds (fun w d a => (vuForm { okWidth := fmtW w } d a (fSlices w) (fSlices w), .neg false w d a 1)) ++
      vuFpEnds (fun w d a => (vuForm { okWidth := fmtW w } d a (fSlices w) (fSlices w), .abs false w d a 1)) ++
      vuEnds (fun w d a => let n := wSlices w; (vuForm {} d a n n, .popc false w d a)) ++
      vuEnds (fun w d a => let n := wSlices w; (vuForm {} d a n n, .clz false w d a)) ++
      vuEnds (fun w d a => let n := wSlices w; (vuForm {} d a n n, .ctz false w d a)) ++
      vuEnds (fun w d a => let n := wSlices w; (vuForm {} d a n n, .brev false w d a)) ++
      [(vuForm { okWidth := true } 0 0 2 1, Instr.exts false 1 0 0 0), (vuForm { okWidth := true } 127 127 16 12, Instr.exts false 7 127 127 6),
       (vuForm { okWidth := true } 0 0 2 1, Instr.extz false 1 0 0 0), (vuForm { okWidth := true } 127 127 16 12, Instr.extz false 7 127 127 6)] ++
      vuFpEnds (fun w d a => (vuForm { okWidth := fmtW w } d a 3 (fSlices w), .fcls false w d a)) ++
      vuEnds (fun w d a => let n := wSlices w; (vuForm { immZero := false, fits := [0, 1] } d a n n, .shli false w d a 15)) ++
      vuEnds (fun w d a => let n := wSlices w; (vuForm { immZero := true, fits := [0, 1] } d a n n, .shri false w d a 0)) ++
      vuEnds (fun w d a => let n := wSlices w; (vuForm { immZero := false, fits := [0, 1] } d a n n, .srai false w d a 1)) ++
      vuEnds (fun w d a => let n := wSlices w; (vuForm { immZero := false, fits := [0, 1] } d a n n, .addi false w d a 8)) ++
      vuEnds (fun w d _ => ({ vs := [(d.toNat, wSlices w)], fits := [2] }, .laneid false w d)) ++
      vuEnds (fun w d _ => ({ uregs := [63], vs := [(d.toNat, wSlices w)], fits := [2] }, .movu false w d 63)) ++
      vuEnds (fun w d _ => ({ immZero := false, fits := [2, 0, 1], vs := [(d.toNat, wSlices w)] }, .vmovi false w d 0x7FF))).all
      (starts ready) = true := by decide +kernel

theorem meets_ConversionResults :
    ([6, 8, 13].flatMap fun x : BitVec 4 => let e := elemBits x.toNat
      vuFpEnds (fun w d a => (vuForm { okWidth := fmtW w && x != 7 && x != 15, fits := [3, 4], srOk := decide (e ≤ 16) } d a (e / 4) (fSlices w),
        .cvt false w d a x)) ++
      vuFpEnds (fun w d a => (vuForm { okWidth := fmtW w && floatCode x, fits := [3, 4], srOk := w == 3 || w == 4 } d a (fSlices w) (e / 4),
        .cvts false w d a x)) ++
      vuEnds (fun w d a => (vuForm { okWidth := floatCode x, fits := [3, 4], srOk := decide (e ≤ 16) } d a (e / 4) (wSlices w),
        .icvt false w d a x)) ++
      vuEnds (fun w d a => (vuForm { okWidth := floatCode x, fits := [3, 4], srOk := decide (e ≤ 16) } d a (e / 4) (wSlices w),
        .ucvt false w d a x))).all (starts ready) = true := by decide +kernel

theorem meets_ConversionResults_functions :
    (vuFpEnds (fun w d a => (vuForm { okOp := true, okWidth := fmtW w } d a (fSlices w) (fSlices w), .frnd false w d a 3)) ++
      ([Instr.frcp, .frsq].flatMap fun r => vuFpEnds fun w d a => (vuForm { okWidth := fmtW w } d a (fSlices w) (fSlices w), r false w d a)) ++
      vuFpEnds (fun w d a => (vuForm { okWidth := fmtW w, fits := [3], srOk := w == 3 || w == 4 } d a (fSlices w) (fSlices w),
        .fsqrt false w d a)) ++
      ([Instr.fexp2, .flog2, .fsin, .fcos, .ftanh].flatMap fun r => [3, 5].map fun w : BitVec 3 =>
        (vuForm { okWidth := fmtW w && w != 7 } 127 0 (fSlices w) (fSlices w), r false w 127 0)) ++
      [3, 5].map fun w : BitVec 3 => (qhadForm w 0 127 7, Instr.qhad false w 0 127 1 7)).all (starts ready) = true := by decide +kernel

theorem meets_CompareResults :
    ([Instr.icmpEq, .icmpNe, .icmpLt, .icmpLe, .icmpLtu, .icmpLeu].flatMap (fun r =>
      [(cmpForm true 0 0 1 0 0, r false 0 0 0 0 0), (cmpForm true 127 127 16 1 7, r false 7 127 127 1 7)]) ++
     [Instr.fcmpEq, .fcmpNe, .fcmpLt, .fcmpLe, .fcmpUn].flatMap (fun r =>
      [(cmpForm (fmtW 3) 0 0 4 0 0, r false 3 0 0 0 0), (cmpForm (fmtW 7) 127 127 16 1 7, r false 7 127 127 1 7)])).all (starts ready) = true := by
  decide +kernel

theorem meets_PredicateResults :
    ([Instr.pand, .por, .pxor].flatMap (fun r =>
      [uw { fits := [2], preds := [0, 7] } (r false 0 7 0 0), uw { fits := [2], preds := [7, 0] } (r false 7 0 1 7)]) ++
     [uw { fits := [2], preds := [7] } (Instr.pnot false 7 0),
      uw { fits := [2], vs := [(127, 16)], src := [(127, 16)], preds := [7] } (Instr.pmovv false 7 127 1 7),
      uw { fits := [2], vs := [(0, 1)], src := [(0, 1)], preds := [] } (Instr.pmovv false 0 0 0 7),
      uw { fits := [2], vs := [(127, 16)], preds := [7] } (Instr.vmovp false 7 127 7),
      uw { fits := [2], vs := [(127, 16), (0, 16)], src := [(0, 16)], preds := [0] } (Instr.sel false 7 127 0 1 0)]).all (starts ready) = true := by
  decide +kernel

theorem meets_CrossLaneResults :
    ([Instr.vscan, .vscanx, .vred, .vredmax, .vredmin].flatMap (fun r =>
      [uw { fits := [2], vs := [(0, 1), (0, 1)], src := [(0, 1)], preds := [0] } (r false 0 0 0 0 0),
       uw { okWidth := fmtW 7, fits := [2], vs := [(127, 16), (0, 16)], src := [(0, 16)], preds := [7] } (r false 7 127 0 1 7)]) ++
     [uw { fits := [2], vs := [(127, 8)], preds := [0] } (Instr.ballot false 127 0),
      uw { fits := [2], vs := [(127, 16)], preds := [7] } (Instr.vpopc false 7 127 7), uw { fits := [2], vs := [(0, 1)], preds := [0] } (Instr.vfirst false 0 0 0)] ++
     [(Instr.shfu, fun l k => if l < k then l else l - k), (.shfd, fun l k => if 31 < l + k then l else l + k),
       (.shfxor, fun l k => l ^^^ k)].flatMap (fun (r : (Bool → BitVec 3 → BitVec 7 → BitVec 7 → BitVec 4 → Instr) × (Nat → Nat → Nat)) =>
      let of_ := fun (v : Uses) (k : Int) =>
        { v with allLanes := ready.readLanes false v fun c l => r.2 l (((immOf c.p.hints).getD k) % 32).toNat }
      [uw (of_ { immZero := true, fits := [0, 1, 2], vs := [(0, 1), (0, 1)], srcAll := [(0, 1)] } 0) (r.1 false 0 0 0 0),
       uw (of_ { immZero := false, fits := [0, 1, 2], vs := [(127, 16), (127, 16)], srcAll := [(127, 16)] } 15) (r.1 false 7 127 127 15)])).all
      (starts ready) = true := by decide +kernel

/-! ## Memory and uniform statements: pointers into the one mapped page, 0x3000000000000000 to 0x300000000000FFFF -/

def ptr0 : Nat := 0x3000000000000100

theorem meets_LoadsComplete :
    let s := readyTwo ptr0
    ([((0 : BitVec 7), (0 : BitVec 3), (1 : BitVec 3), (0 : BitVec 1)), (127, 7, 7, 1), (127, 0, 7, 0)].all (fun o =>
      let n := if o.2.2.2 = 1#1 then 32 else wSlices o.2.2.1 / 2
      let u := loadForm (memWidthOk o.2.2.1 o.2.2.2) o.2.1 o.1 0 (2 * n) [2, 5, 6, 7] [0, 1] false
      startsIn s u (.ld false o.2.1 o.2.2.1 o.1 0 o.2.2.2) fun c t => (loadRun t c u o.1 0 n (2 * n) id).isClean)) &&
    ([((0 : BitVec 7), (0 : BitVec 3), (0 : BitVec 3)), (127, 7, 2)].all (fun o =>
      let n := 32 * 2 ^ o.2.2.toNat
      let u := loadForm (decide (o.2.2 < 3)) o.2.1 o.1 0 (2 * n) [2, 5, 6, 7] [0, 1] false
      startsIn s u (.ldl false o.2.1 o.2.2 o.1 0) fun c t => (loadRun t c u o.1 0 n (2 * n) fun p => p / 32 * 32).isClean)) &&
    ([((0 : BitVec 7), (0 : BitVec 3), (0 : BitVec 3), (0 : BitVec 1)), (127, 7, 7, 1)].all (fun o =>
      let k := if o.2.2.2 = 1#1 then 8 * wSlices o.2.2.1 else wSlices o.2.2.1
      let u := loadForm true o.2.1 o.1 0 k [2, 7] [] false
      startsIn s u (.lds false o.2.1 o.2.2.1 o.1 0 o.2.2.2) fun c t => (loadRun t c u o.1 0 ((k + 1) / 2) k id).isClean)) = true := by
  decide +kernel

theorem meets_StoresComplete :
    let s := readyTwo ptr0
    ([((16 : BitVec 7), (0 : BitVec 3), (1 : BitVec 3), (0 : BitVec 1)), (127, 7, 7, 1)].all (fun o =>
      let n := if o.2.2.2 = 1#1 then 32 else wSlices o.2.2.1 / 2
      starts s (loadForm (memWidthOk o.2.2.1 o.2.2.2) o.2.1 o.1 0 (2 * n) [2, 5, 7] [0, 2] true, .st false o.2.1 o.2.2.1 o.1 0 o.2.2.2))) &&
    ([((16 : BitVec 7), (0 : BitVec 3), (0 : BitVec 3), (0 : BitVec 1)), (127, 7, 7, 1)].all (fun o =>
      let k := if o.2.2.2 = 1#1 then 8 * wSlices o.2.2.1 else wSlices o.2.2.1
      starts s (loadForm true o.2.1 o.1 0 k [2, 7] [] true, .sts false o.2.1 o.2.2.1 o.1 0 o.2.2.2))) &&
    ([((16 : BitVec 7), (0 : BitVec 3), (1 : BitVec 3)), (127, 7, 7)].all (fun o =>
      startsIn s (stcForm s false o.2.1 o.2.2 o.1 0) (.stc false o.2.1 o.2.2 o.1 0) fun c _ => c.doneBefore == 0)) &&
    -- resumed behind lane 0
    (let s := s.modSplit ⟨1, 0⟩ fun p => { p with prog := 1, progValid := true, progPc := p.pc }
     startsIn s (stcForm s false 0 1 16 0) (.stc false 0 1 16 0) fun c _ => c.doneBefore == 1) &&
    -- between two lanes, and behind a halt there
    ([false, true].all fun h =>
     let r : StoreRun := { todo := [(31, BitVec.ofNat 64 (ptr0 + 2), [1, 2])], done := 1, seq := 9, halted := h }
     let s := s.modSplit ⟨1, 0⟩ fun p => { p with stc := some r }
     startsIn s (stcForm s false 0 1 16 0) (.stc false 0 1 16 0) fun c _ => c.p.stc == some r) = true := by decide +kernel

theorem meets_PrefetchAndFenceComplete :
    ([(uw { fits := [2, 6, 7], guard := some 0, vs := [(0, 16)], src := [(0, 16)], unchecked := true } (.pref false 0 0)),
      (uw { fits := [2, 6, 7], guard := some 7, vs := [(127, 16)], src := [(127, 16)], unchecked := true } (.pref false 7 127)),
      (uw {} (.flushrc false)), (uw { okOp := true, fits := [2], guard := some 7 } (.fence false 7 5 3)),
      (uw { okOp := true, fits := [2], guard := some 0 } (.fence false 0 0 0))].all (starts (readyTwo ptr0))) = true := by decide +kernel

/-- Every store of the lanes is performed, those to other devices answered. -/
def allAnswered (t : State) (c : Issue) (lanes : BitVec 32) : Bool := !(t.drain c.id.warp lanes).unperformed c.id.warp lanes

/-- Every atomic of either width, at the narrowest and the widest scope, on a word that is mapped, with and without a release. -/
theorem meets_AtomicResults :
    ([false, true].all fun rel => [(Instr.atomAdd, 0), (.atomMin, 1), (.atomMax, 2), (.atomMinu, 3), (.atomMaxu, 4), (.atomAnd, 5), (.atomOr, 6), (.atomXor, 7),
      (.atomExch, 8), (.atomCas, 9), (.atomFadd, 10), (.atomFmin, 11), (.atomFmax, 12), (.atomRedc, 13), (.atomInc, 14)].all fun r =>
      [((0 : BitVec 3), (0 : BitVec 3), (0 : BitVec 1), (16 : BitVec 7), (0 : BitVec 1)), (5, 7, 1, 127, 1)].all fun o =>
        let s := (readyTwo ptr0).modSplit ⟨1, 0⟩ fun p => { p with hints := if rel then [⟨5, BitVec.ofNat 21 (2 + 4 * o.1.toNat)⟩] else [] }
        let nb := (if o.2.2.1 = 1 then 8 else 4) * (if r.2 = 13 then 2 else 1)
        let m := if r.2 = 13 then nb else 2 * nb
        startsIn s (atomForm r.2 o.1 o.2.1 o.2.2.2.1 0 m) (r.1 false o.1 o.2.1 o.2.2.1 o.2.2.2.1 0 o.2.2.2.2) fun k t =>
          allAnswered t k (maskOf ((atomForm r.2 o.1 o.2.1 o.2.2.2.1 0 m).todo k)) &&
          (atomRun t k (atomForm r.2 o.1 o.2.1 o.2.2.2.1 0 m) r.2 nb m o.1.toNat o.2.2.2.1 0 o.2.2.2.2).isClean) = true := by
  decide +kernel

/-- A NaN among the pair's values; a finite sum; an infinite one (PairSteps). -/
theorem meets_AtomicResults_pairs :
    let one := FloatFmt.f32.ofVal {} (.ofInt 1)
    let s := fun (x : Nat) => FloatFmt.f32.decode (FloatFmt.f32.addVal {} (FloatFmt.f32.decode x) (FloatFmt.f32.decode x)).code
    (FloatFmt.f32.decode FloatFmt.f32.nanCode).isNaN = true ∧ (FloatFmt.f32.decode one.code).isNaN = false ∧
    (match s one.code with | .fin _ _ _ => true | _ => false) = true ∧
    (FloatFmt.f32.decode 0x7F7FFFFF).isNaN = false ∧ (match s 0x7F7FFFFF with | .fin _ _ _ => false | _ => true) = true := by decide +kernel

/-- Old and new values that meet each clause of AtomValues, at both sizes: equal, unequal, not above, below. -/
theorem meets_AtomicResults_values :
    ((4 = 4 ∨ 4 = 8) ∧ 2 ^ 32 - 1 < 2 ^ (8 * 4) ∧ (2 ^ 32 - 1 = 2 ^ 32 - 1) ∧ (2 ^ 32 - 1 ≠ 0) ∧ 0 ≤ 2 ^ 32 - 1 ∧ 0 < 2 ^ 32 - 1) ∧
    ((8 = 4 ∨ 8 = 8) ∧ 2 ^ 64 - 1 < 2 ^ (8 * 8) ∧ (2 ^ 64 - 1 = 2 ^ 64 - 1) ∧ (2 ^ 64 - 1 ≠ 0) ∧ 0 ≤ 2 ^ 64 - 1 ∧ 0 < 2 ^ 64 - 1) := by decide

theorem meets_UniformResults :
    (((uni2Rows ++ [Instr.sbfx]).flatMap fun r => [uw { uregs := [0, 0] } (r false 0 0 0), uw { uregs := [63, 63] } (r false 63 63 63)]) ++
      [uw { fits := [0, 1], immZero := true } (.smovi false 0 0), uw { fits := [0, 1], immZero := false } (.smovi false 63 0x3FFF),
       uw { fits := [0, 1], immZero := false, uregs := [63] } (.slui false 63 0x3FFF),
       uw { fits := [0, 1], immZero := false, uregs := [63] } (.saddi false 63 63 0xFF),
       uw { uregs := [63] } (.spopc false 63 63), uw { uregs := [63] } (.sclz false 63 63), uw { uregs := [63] } (.sctz false 63 63),
       uw { uregs := [63, 1, 2] } (.sbfi false 63 1 2), uw { okOp := true } (.sread false 0 0), uw { okOp := true } (.sread false 63 14),
       uw { vs := [(0, 16)], src := [(0, 16)], lowestOnly := true } (.vtos false 0 0),
       uw { vs := [(127, 16)], src := [(127, 16)], lowestOnly := true } (.vtos false 63 127)]).all (starts ready) = true := by decide +kernel

/-- The two-source functions from fn 0 to fn 16; a queue binding is cleared; CSRW of both ends of each range. -/
theorem meets_SpecialRegisters :
    (uni2Rows[0]?.isSome && uni2Rows[16]?.isSome) ∧ ready.cycle < 2 ^ 64 ∧
    ((ready.issue? false).any fun c => c.w.inHandler c.id.split == false) = true ∧
    (((readyWarp fun w => { w with handler := some ⟨1, 0, true, [], 0⟩ }).issue? false).any fun c => c.w.inHandler c.id.split) = true ∧
    ([uw {} (.winImm false 0), uw {} (.winImm false 31), uw { uregs := [63] } (.winReg false 63),
      uw { okOp := csrCode 0 } (.csrr false 63 0), uw { okOp := csrCode 0x104 } (.csrr false 63 0x104),
      uw { okOp := csrCode 0, uregs := [63] } (.csrw false 63 0), uw { okOp := csrCode 1, uregs := [63] } (.csrw false 63 1),
      uw { okOp := csrCode 2, uregs := [63] } (.csrw false 63 2), uw { okOp := csrCode 0x100, uregs := [63] } (.csrw false 63 0x100),
      uw { okOp := csrCode 0x104, uregs := [63] } (.csrw false 63 0x104)].all (starts ready)) = true ∧
    ([(0x10 : BitVec 12), 0x17].all fun n => startsIn ready { okOp := csrCode n, uregs := [63] } (.csrw false 63 n) fun c _ =>
      c.p.ureg 63 == 0) = true := by decide +kernel

theorem meets_UniformMemoryCompletes :
    let s := readyRegs [(1, BitVec.ofNat 64 ptr0), (63, BitVec.ofNat 64 ptr0)]
    ([((0 : BitVec 6), (1 : BitVec 6), (0 : BitVec 2)), (63, 63, 1)].all (fun o =>
      let u : Uses := { okOp := decide (o.2.2 < 2#2), fits := [7], uregs := [o.2.1.toNat] }
      startsIn s u (.sld false o.1 o.2.1 o.2.2) fun c t =>
        (t.loadFor c none (uniformPtr c o.2.1) (if o.2.2 = 0 then 8 else 4) (.ureg o.1.toNat) false false false).2 == .done)) &&
    ([((0 : BitVec 6), (1 : BitVec 6), (0 : BitVec 2)), (63, 63, 1)].all (fun o =>
      starts s (uw { okOp := decide (o.2.2 < 2#2), fits := [7], uregs := [o.1.toNat, o.2.1.toNat] } (.sst false o.1 o.2.1 o.2.2)))) &&
    ([((0 : BitVec 4), (1 : BitVec 6)), (1, 63)].all (fun o =>
      startsIn s { fits := [7], uregs := [o.2.toNat], shapes := [o.1.toNat] } (.ldh false o.1 o.2) fun c t =>
        (t.loadFor c none (uniformPtr c o.2) 64 (.shape o.1.toNat) false false false).2 == .done)) &&
    ([((0 : BitVec 4), (1 : BitVec 6)), (1, 63)].all (fun o =>
      starts s (uw { fits := [7], uregs := [o.2.toNat], shapes := [o.1.toNat] } (.sth false o.1 o.2)))) &&
    ([((0 : BitVec 4), (0 : BitVec 6)), (1, 56)].all (fun o =>
      starts s (uw { okOp := decide (o.2.toNat ≤ 56), uregs := (List.range 8).map fun i => o.2.toNat + i, shapes := [o.1.toNat] }
        (.seth false o.1 o.2)))) = true := by decide +kernel

/-! ## Control flow -/

theorem meets_BranchesComplete :
    let s := readyRegs [(62, BitVec.ofNat 64 ptr0), (63, BitVec.ofNat 64 ptr0)]
    ([uw {} (.bra false 0), uw {} (.bra false 0x20000), uw { uregs := [63] } (.brz false 63 0x800), uw { uregs := [0] } (.brz false 0 0x7FF),
      uw { uregs := [63] } (.brnz false 63 0x800), uw {} (.call false 0x1FFFF), uw {} (.nop false), uw {} (.sleep false 0),
      uw {} (.sleep false 0x3FFFF)].all (starts s)) &&
    (startsIn s { uregs := [63] } (.ret false) fun c _ => (c.p.ureg 63).toNat / 2 ^ 60 == 3 && (c.p.ureg 63).toNat % 4 == 0) &&
    (startsIn s { uregs := [62] } (.brx false 62) fun c _ => (c.p.ureg 62).toNat / 2 ^ 60 == 3 && (c.p.ureg 62).toNat % 4 == 0) &&
    -- no instruction address: another space; an address that is no multiple of 4
    (startsIn s { uregs := [0] } (.brx false 0) fun c _ => (c.p.ureg 0).toNat / 2 ^ 60 != 3) &&
    (startsIn (readyRegs [(63, BitVec.ofNat 64 (ptr0 + 2))]) { uregs := [63] } (.brx false 63) fun c _ => (c.p.ureg 63).toNat % 4 != 0) &&
    (startsIn ready { uregs := [63] } (.ret false) fun c _ => (c.p.ureg 63).toNat / 2 ^ 60 != 3) = true := by decide +kernel

/-- CBR with all, no and some lanes chosen; EXIT, YIELD and JOINW by one split alone and beside another. -/
theorem meets_DivergenceCompletes :
    let odd := readyWarp fun w => { w with lanes := (List.range 32).map fun l => { preds := BitVec.ofNat 8 (l % 2) } }
    let two := readyWarp fun w => { w with splits := [some { pc := 0x3000000000000000, mask := 1 }, none, none,
      some { pc := 0x3000000000000000, mask := 2 }] }
    (startsIn ready { allUregs := true, preds := [7] } (.cbr false 7 0 0x20000) fun c _ => c.chosen 7 0 == c.p.mask) &&
    (startsIn ready { allUregs := true, preds := [7] } (.cbr false 7 1 1) fun c _ => c.chosen 7 1 != c.p.mask && c.chosen 7 1 == 0) &&
    (startsIn odd { allUregs := true, preds := [0] } (.cbr false 0 1 0x1FFFF) fun c _ => c.chosen 0 1 != c.p.mask && c.chosen 0 1 != 0) &&
    ([uw { preds := [0] } (.exit false 0 1), uw { preds := [7] } (.exit false 7 0)].all fun x =>
      startsIn odd x.1 x.2 fun _ _ => (odd.issue? false).all fun d => d.w.inHandler d.id.split == false) &&
    ([ready, two].all fun s => starts s ({}, .yield false 1) && starts s ({}, .joinw false 0x3FFFF)) = true := by decide +kernel

/-- A free split entry, four valid splits with room on the deferral stack and without. -/
theorem meets_DivergenceCompletes_forks :
    let entry := fun (n k : Nat) => some ({ pc := 0x3000000000000000, mask := 1#32 <<< k, defer := List.replicate n (0, 0) } : Split)
    let four := fun (n : Nat) => readyWarp fun w => { w with splits := (List.range 4).map (entry n) }
    let on := fun (s : State) (f : Issue → Bool) => (s.issue? false).any fun c =>
      s.warp? c.id.warp == some c.w && c.w.split c.id.split == some c.p && c.w.splits.length == 4 && c.sw == false && f c
    on ready (fun c => c.w.inHandler c.id.split == false && (c.w.split 1).isNone && (c.w.split 0).isSome && decide (c.p.defer.length < 8)) = true ∧
    on (four 7) (fun c => (List.range 4).all (fun j => (c.w.split j).isSome) && decide (c.p.defer.length < 8)) = true ∧
    on (four 8) (fun c => (List.range 4).all (fun j => (c.w.split j).isSome) && decide (8 ≤ c.p.defer.length)) = true := by decide +kernel

/-- A warp in which a WARP handler runs as split 0. -/
def readyHandler : State := readyWarp fun w => { w with handler := some ⟨1, 0, true, w.splits, 0⟩ }

theorem meets_TrapsTaken :
    ([uw { preds := [7] } (.trap false 7 0 0), uw { preds := [0] } (.trap false 0 0 0x3FFFF), uw { preds := [7] } (.brk false 7 0),
      uw { preds := [0] } (.brk false 0 0)].all (starts ready)) &&
    ((readyHandler.issue? false).all fun d => d.w.inHandler d.id.split) && starts readyHandler ({}, .rett false) &&
    -- under the marker: nothing is out; a fault of a handler's store is held; a result is out
    (let rett := fun (s : State) (landed late : Bool) => ((Uses.begins {} s (.rett true) true).any fun x =>
       (!x.1.w.resultsOut x.1.id.split && x.2.storesSettled x.1.id.warp) == landed && (x.1.w.late.any fun l => l.inHandler) == late) &&
       (s.issue? true).all fun d => d.w.inHandler d.id.split
     rett readyHandler true false && rett (readyHandler.modWarp 1 fun w => { w with late := [{ cause := .xlate, pc := 0, addr := 0, lanes := 1, inHandler := true }] }) true true &&
       rett (readyHandler.modWarp 1 fun w => { w with pending := [{ split := 0, dest := .ureg 1, value := 0 }] }) false false) &&
    -- a release store of lane 0 behind a sent store of the lane, and with nothing sent
    (let s := fun (sent : Bool) => { readyHandler.modWarp 1 (fun w => { w with stores := [⟨some 0, 1, 0, BitVec.ofNat 64 ptr0, [1], true, some 3, 0, []⟩] }) with
        exts := if sent then [{ tag := 1, peer := some 1, warp := 1, use := 2, lanes := 1 }] else [] }
     [false, true].all fun sent => startsIn (s sent) {} (.rett false) fun c t =>
       (t.drain c.id.warp 0xFFFFFFFF).storesLeft c.id.warp == sent) = true := by decide +kernel

/-! ## Barriers, queues, tables, rate sets: objects in the mapped page -/

/-- `ready` with bytes at pointers of its page, `fill` uniform registers, and both lanes' slices `v`. -/
def readyMem (xs : List (Nat × List Byte)) (v : Nat) (f : Split → Split) : State :=
  let s := (readyTwo v).modSplit ⟨1, 0⟩ f
  { s with mem := xs.foldl (fun m x => m.setBytes (0x50000 + x.1) x.2) s.mem }

/-- `ready` whose workgroup has initialised barrier objects 0 and 7. -/
def readyBars (xs : Sparse Word) (b : Barrier) : State := (readyRegs xs).modWg 1 fun g => { g with bars := [(0, b), (7, b)] }

def barHere (x : Except MErr BarAt) : Bool :=
  match x with
  | .ok (.pod _ _ _) => false
  | .ok _ => true
  | .error _ => false

theorem meets_BarriersComplete :
    let s := readyBars [(2, 7), (3, 0xFFFF), (4, 2 * 2 ^ 61)] { init := true, expected := 1 }
    let on := fun (u : Uses) (i : Instr) (r : BitVec 6) (fresh : Bool) =>
      startsIn s u i fun c t => barHere (t.findBar c (c.p.ureg r.toNat).toNat fresh) && allAnswered t c c.p.mask
    [(0 : BitVec 6), 2].all (fun r =>
      on { uregs := [r.toNat, 3] } (.binit false r 3) r true && on { uregs := [r.toNat, 3] } (.barv false r 3 7) r false &&
      on { uregs := [r.toNat, 3] } (.bwait false r 3) r false && on { uregs := [r.toNat, 0] } (.bexp false r 0) r false &&
      on { uregs := [r.toNat, 3] } (.btest false r 3 0) r false && on { uregs := [r.toNat] } (.bstat false r 3 1) r false) &&
      on { uregs := [4, 3] } (.binit false 4 3) 4 true = true := by decide +kernel

theorem meets_BarriersComplete_events :
    let s := readyRegs [(1, BitVec.ofNat 64 ptr0), (2, 7)]
    ([(0 : BitVec 6), 2].all fun v =>
      (startsIn s { uregs := [1, v.toNat] } (.waite false 1 v) fun c _ =>
        eventScope (c.p.ureg 1).toNat == some 3 && (c.p.ureg 1).toNat % 8 == 0) &&
      (startsIn s { uregs := [1, v.toNat] } (.sige false 1 v) fun c t =>
        eventScope (c.p.ureg 1).toNat == some 3 &&
        allAnswered t c c.p.mask &&
        ((t.release c.id.warp c.w.core c.p.mask 3).atomFor c none 0 8 3 (c.p.ureg 1).toNat (c.p.ureg v.toNat).toNat 0 none false).2 ==
          .done) &&
      -- a store of lane 0 to another device is not yet answered
      (startsIn { s with exts := [{ tag := 1, peer := some 1, warp := 1, use := 2, lanes := 1 }] } { uregs := [1, v.toNat] } (.sige false 1 v)
        fun c t => eventScope (c.p.ureg 1).toNat == some 3 && !allAnswered t c c.p.mask) &&
      (startsIn s { uregs := [v.toNat] } (.pcnt false 63 v) fun c _ => decide ((c.p.ureg v.toNat).toNat < 8))) = true := by
  decide +kernel

theorem meets_BarriersComplete_null :
    startsIn (readyRegs [(1, 2 ^ 60 - 1)]) { uregs := [1, 2] } (.sige false 1 2) (fun c _ => decide ((c.p.ureg 1).toNat < 2 ^ 60)) = true := by
  decide +kernel

/-- POD object 3 of device 9, which has an open session and a plane; counts with and without AUTO. -/
theorem meets_BarriersComplete_pods :
    let s := (readyRegs [(2, 0x8090000000000003), (3, 0x1FFFF), (4, 0xFFFF)]).modSession 0 9 fun x => { x with state := 2 }
    let on := fun (u : Uses) (i : Instr) (fresh : Bool) (f : Issue → Bool) => startsIn s u i fun c t =>
      f c && allAnswered t c c.p.mask && match t.findBar c (c.p.ureg 2).toNat fresh with
        | .ok (.pod p dev k) =>
          ((t.beforePeer dev 0).peerRequest p dev 0 (.barrier 1 k 0) { c.ext none 4 0 (t.beforePeer dev 0).free with dest := 7, width := 1 }).isSome
        | _ => false
    (on { uregs := [2, 3] } (.binit false 2 3) true fun c => (c.p.ureg 3).toNat.testBit 16) &&
    (on { uregs := [2, 4] } (.binit false 2 4) true fun c => !(c.p.ureg 4).toNat.testBit 16) &&
    [uw { uregs := [2, 3] } (.barv false 2 3 7), uw { uregs := [2, 3] } (.bwait false 2 3), uw { uregs := [2, 3] } (.bexp false 2 3),
      uw { uregs := [2, 3] } (.btest false 2 3 7), uw { uregs := [2] } (.bstat false 2 3 1)].all (fun x => on x.1 x.2 false fun _ => true) = true := by
  decide +kernel

/-- Selectors of PCNT: a core's last counter, a table set's last, and those that name none. -/
theorem meets_BarriersComplete_counters :
    let s := readyRegs [(1, 7), (2, 0xFF0F), (3, 0x10000), (4, 0x10), (5, 0x107), (6, 8)]
    let on := fun (r : BitVec 6) (f : Nat → Bool) => startsIn s { uregs := [r.toNat] } (.pcnt false 63 r) fun c _ => f (c.p.ureg r.toNat).toNat
    on 1 (fun x => decide (x < 8)) &&
    on 2 (fun x => decide (x < 2 ^ 16 ∧ 8 ≤ x % 2 ^ 8 ∧ x % 2 ^ 8 < 16 ∧ x / 2 ^ 8 % 2 ^ 8 ≠ 0)) &&
    on 3 (fun x => decide (2 ^ 16 ≤ x)) && on 4 (fun x => decide (16 ≤ x % 2 ^ 8)) &&
    on 5 (fun x => decide (x % 2 ^ 8 < 8 ∧ x / 2 ^ 8 % 2 ^ 8 ≠ 0)) &&
    on 6 (fun x => decide (8 ≤ x % 2 ^ 8 ∧ x / 2 ^ 8 % 2 ^ 8 = 0)) = true := by decide +kernel

/-- A device queue's descriptor (R89): kind, a warp of 32 slices, ring of 16 items at page offset 0x4000, pointers. -/
def queueBytes (kind tail : Nat) : List Byte :=
  leBytes 4 kind ++ leBytes 8 32 ++ leBytes 4 4 ++ leBytes 8 0x3000000000004000 ++ leBytes 8 0 ++ leBytes 8 tail ++ leBytes 8 0

/-- A queue of the kind with two items, bound as QB0. -/
def readyQueue (kind : Nat) : State :=
  readyMem [(0x3000, queueBytes kind 2)] ptr0 fun p => { p with qb := [(0, qbindOf 0x3000000000003000 kind 0)] }

/-- CSRW of the last queue binding with the descriptor's address: before and behind its first sector, with each of the two first; with a
descriptor in order, with a malformed one, and unmapped; a misaligned address, readable and not; and no ROW pointer. -/
theorem meets_SpecialRegisters_bindings :
    let on := fun (kind v : Nat) (seen : Option (Bool × List Byte)) (f : Issue → State → Nat → Bool) =>
      startsIn ((readyQueue kind).modSplit ⟨1, 0⟩ fun p => { p with sregs := [(63, BitVec.ofNat 64 v)], seen := seen })
        { orders := true, okOp := csrCode 0x17, uregs := [63] } (.csrw false 63 0x17) fun c t =>
          let v := (c.p.ureg 63).toNat
          v != 0 && c.p.seen == seen && f c t v
    let row := 0x3000000000003000
    let other := fun (kind : Nat) (up : Bool) =>
      let b := queueBytes kind 2 ++ List.replicate 64 0
      if up then (b.drop 32).take 32 else b.take 32
    on 1 0x2000000000003000 none (fun _ _ v => v / 2 ^ 60 != 3) &&
    on 1 (row + 8) none (fun c t v => v / 2 ^ 60 == 3 && v % 64 != 0 && (t.readSeen c v 64).2.isOk) &&
    on 1 0x3000000000013008 none (fun c t v => v % 64 != 0 && !(t.readSeen c v 64).2.isOk) &&
    on 1 row none (fun c t v => v % 64 == 0 && (t.readSeen c v 32).2.isOk && (t.readSeen c (v + 32) 32).2.isOk) &&
    on 1 0x3000000000013000 none (fun c t v => v % 64 == 0 && !(t.readSeen c v 32).2.isOk) &&
    ([false, true].all fun up =>
      on 1 0x3000000000013000 (some (up, [])) (fun c t v => !(t.readSeen c (v + 32 * (!up).toNat) 32).2.isOk) &&
      [1, 9].all fun kind => on kind row (some (up, other kind up)) fun c t v => match t.readSeen c (v + 32 * (!up).toNat) 32 with
        | (u, .ok b) => qdescOk (if up then b ++ other kind up else other kind up ++ b) (u.part c.g.part).dies.toNat == (kind == 1)
        | _ => false) = true := by decide +kernel

theorem meets_QueueInstructionsComplete :
    let push := fun (kind : Nat) (u : Uses) (i : Instr) (e : Option (BitVec 7)) (g : BitVec 7) =>
      startsIn (readyQueue kind) u i fun c t =>
        let ls := u.todo c
        let desc := qbPtr (c.p.qbind 0)
        !ls.isEmpty && desc != 0 && qbKind (c.p.qbind 0) == kind && allAnswered t c (maskOf ls) &&
          match (t.release c.id.warp c.w.core (maskOf ls) 3).hwRead (c.hw none) desc 64 with
          | (t2, .ok raw) => (pushRun t2 t c raw ls 0 e g 7).run.isClean
          | _ => false
    push 1 { fits := [2], vs := [(127, 16)], src := [(127, 16)] } (.qpush false 0 127 7) none 127 &&
    (let u : Uses := { fits := [2], vs := [(127, 16)] }
     startsIn (readyQueue 1) u (.qpull false 0 127 0) fun c t =>
       !(u.todo c).isEmpty && qbPtr (c.p.qbind 0) != 0 && qbKind (c.p.qbind 0) == 1 &&
         match (t.acquire c.w.core 3).hwRead (c.hw none) (qbPtr (c.p.qbind 0)) 64 with
         | (t2, .ok raw) => ((u.todo c).foldl (fun (x : QRun) l => x.pull c (qdescOf raw) 127 l 0)
             { st := t2, head := (qdescOf raw).head, tail := (qdescOf raw).tail, dropped := fieldOf raw 0x28 8, run := { st := t2 } : QRun }).run.isClean
         | _ => false) &&
    ([0, 1].all fun kind => startsIn (readyQueue kind) {} (.qflush false 0) fun c _ => qbPtr (c.p.qbind 0) != 0) = true := by
  decide +kernel

theorem eq_ok {ε α β : Type} [Inhabited β] (y : α × Except ε β) (h : y.2.isOk = true) : y = (y.1, .ok (y.2.toOption.getD default)) := by
  obtain ⟨a, x⟩ := y
  cases x with
  | ok b => rfl
  | error e => cases h

/-- A push by a lane whose ring item can be written is clean, whether or not there is room. -/
theorem push_isClean (x : QRun) (c : Issue) (q : QDesc) (desc e a : Word) (l p : Nat) (hf : x.run.faults = []) (hw : x.run.waiting = 0)
    (h : ((x.st.countEntry (c.hw (some l)) (q.ring + 16 * (x.tail % 2 ^ q.logCap)) true).hwWrite (c.hw (some l))
      (q.ring + 16 * (x.tail % 2 ^ q.logCap)) (leBytes 8 e.toNat ++ leBytes 8 a.toNat)).2.isOk = true) :
    (x.push c q desc e a l p).run.isClean = true := by
  unfold QRun.push
  simp only [hf, List.find?_nil]
  generalize (if q.kind = 0 then x.st.packHead c desc l x.head x.tail else x.head) = hd
  split
  · generalize State.hwWrite _ _ _ _ = y at h ⊢
    obtain ⟨t, r⟩ := y
    cases r with
    | ok _ => simp [LaneRun.addT, LaneRun.isClean, hf, hw]
    | error e => cases h
  · simp [LaneRun.addT, LaneRun.isClean, hf, hw]

/-- SPAWN by one lane: what the packing unit has taken from the ring, and so its room, is open (log 1); either way the push
is clean. -/
theorem meets_QueueInstructionsComplete_spawn :
    let u : Uses := { fits := [2], vs := [(0, 16), (127, 16)], src := [(0, 16), (127, 16)] }
    let s := (readyQueue 0).modSplit ⟨1, 0⟩ fun p => { p with mask := 1 }
    ∃ c t t2 raw, u.begins s (.spawn false 0 0 127 7) false = some (c, t) ∧ u.todo c ≠ [] ∧ qbPtr (c.p.qbind 0) ≠ 0 ∧
      qbKind (c.p.qbind 0) = 0 ∧ allAnswered t c (maskOf (u.todo c)) = true ∧
      (t.release c.id.warp c.w.core (maskOf (u.todo c)) 3).hwRead (c.hw none) (qbPtr (c.p.qbind 0)) 64 = (t2, .ok raw) ∧
      (pushRun t2 t c raw (u.todo c) 0 (some 0) 127 7).run.isClean = true := by
  intro u s
  let x := ((u.begins s (.spawn false 0 0 127 7) false).get (by decide +kernel))
  let y := (x.2.release x.1.id.warp x.1.w.core (maskOf (u.todo x.1)) 3).hwRead (x.1.hw none) (qbPtr (x.1.p.qbind 0)) 64
  refine ⟨x.1, x.2, y.1, (y.2.toOption.getD default), by simp [x], by decide +kernel, by decide +kernel, by decide +kernel, by decide +kernel, ?_, ?_⟩
  · exact eq_ok y (by decide +kernel)
  · have : u.todo x.1 = [0] := by decide +kernel
    rw [this]
    unfold pushRun
    simp only [List.foldl_cons, List.foldl_nil]
    rw [if_neg (by decide +kernel)]
    exact push_isClean _ _ _ _ _ _ _ _ rfl rfl (by decide +kernel)

/-- A queue of 16 items: full, one short of full, empty, with one item. -/
theorem meets_QueueInstructionsComplete_occupancy :
    let q := qdescOf (queueBytes 1 0)
    let x := fun (head tail : Nat) => ({ st := readyQueue 1, head := head, tail := tail, dropped := 0, run := { st := readyQueue 1 } } : QRun)
    q.kind ≠ 0 ∧ (x 5 21).run.faults = [] ∧ 2 ^ q.logCap ≤ (x 5 21).tail - (x 5 21).head ∧ (x 5 20).tail - (x 5 20).head < 2 ^ q.logCap ∧
      { x 5 5 with full := true }.full = true ∧ (x 5 20).full = false ∧ (x 5 5).tail ≤ (x 5 5).head ∧ (x 5 6).head < (x 5 6).tail ∧
      ((ready.issue? false).any fun c =>
        let at_ := fun (k : Nat) => q.ring + 16 * (k % 2 ^ q.logCap)
        (((x 5 20).st.countEntry (c.hw (some 31)) (at_ 20) true).hwWrite (c.hw (some 31)) (at_ 20) (leBytes 8 0 ++ leBytes 8 7)).2.isOk &&
        (((x 5 6).st.countEntry (c.hw (some 31)) (at_ 5) false).hwRead (c.hw (some 31)) (at_ 5) 16).2.isOk) = true := by decide +kernel

/-- A created DENSE table of 16 rows of 32 bytes at page offset 0x2000, or an ordered one (R157); `rate` are its rate-set
parameters. -/
def tableBytes (kind rate : Nat) : List Byte :=
  leBytes 1 kind ++ leBytes 1 2 ++ leBytes 1 0 ++ leBytes 1 2 ++ leBytes 1 0 ++ leBytes 1 62 ++ leBytes 1 0 ++ leBytes 1 1 ++
    leBytes 8 0x3000000000002000 ++ leBytes 8 16 ++ leBytes 8 (0x3000000000005000 * kind) ++ leBytes 8 (4 * kind) ++ leBytes 8 0 ++ leBytes 16 rate

/-- Handle 0x101 of a table in a directory of two entries at page offset 0x1000, bound as TB0. -/
def readyTable (kind rate v : Nat) : State :=
  (readyMem [(0x1040, tableBytes kind rate)] v fun p =>
    { p with tb := [(0, (tdescOf 0x3000000000001040 (tableBytes kind rate)).binding 0x101 false)], sregs := [(1, 0x101)] }).modCtx 0 0 fun c =>
    { c with tableDir := 0x3000000000001001 }

/-- Key 15, the last of the table, in slices 0 to 15 of lanes 0 and 31; a cursor in slices 32 to 63. -/
def keyed : State := readyTable 0 0 (15 + 0x101 * 2 ^ 64 * 2 ^ (4 * 32))

theorem meets_TableLookupsComplete :
    let on := fun (u : Uses) (i : Instr) (q : Issue → State → Nat → TableReq) =>
      startsIn keyed u i fun c t => (lookRun t c (u.todo c) (sideOf c) (q c t)).isClean
    on (tableUses 0 [0, 1] [(64, 16)] [(0, 16)]) (.tget false 0 64 0 7) (fun c t l =>
      { lookReq .tget 0 c t l with key := t.src c 0 l 0 16, dest := c.abs 64, pred := 7 }) &&
    on (tableUses 0 [0, 1] [(64, 16)] [(0, 16)]) (.tgetx false 0 64 0 7) (fun c t l =>
      { lookReq .tgetx 0 c t l with key := t.src c 0 l 0 16, dest := c.abs 64, pred := 7 }) &&
    on (tableUses 0 [] [(127, 16)] [(0, 16)]) (.tref false 0 127 0) (fun c t l =>
      { lookReq .tref 0 c t l with key := t.src c 0 l 0 16, dest := c.abs 127 }) &&
    on (tableUses 0 [0, 1] [(127, 16)] [(32, 32)]) (.tnext false 0 127 32 0) (fun c t l =>
      { lookReq .tnext 0 c t l with cursor := t.src c 0 l 32 32, dest := c.abs 127, cdest := c.abs 32, pred := 0 }) &&
    (let u := tableUses 0 [] [(127, 32)] [(0, 16)]
     startsIn keyed u (.tscan false 0 127 0) fun c t => ((u.todo c).foldl (fun (r : LaneRun) l => r.addT c l
        ((r.st.tableCheck (c.hw (some l)) (c.p.tbind 0) .ordered).andThen fun t2 x =>
          (t2, .ok [(c.dst l 127 32, t.src c 0 l 0 16 + tbHandle (c.p.tbind 0) * 2 ^ 64 + x.stripeOf 15 * 2 ^ 96)]))) { st := t }).isClean) &&
    -- TCNT of a DENSE and of an ordered table, from the start and from behind key 5, with nothing pending on its destination
    (let u := { tableUses 0 [0, 1] [(127, 16)] [(0, 32)] with keyProg := true }
     [0, 1].all fun kind => [false, true].all fun on =>
     let s := (readyTable kind 0 15).modSplit ⟨1, 0⟩ fun p => { p with prog := 5, progValid := on, progPc := p.pc }
     startsIn s u (.tcnt false 0 127 0) fun c t =>
       let above := if c.p.progValid ∧ c.p.progPc = c.start then some c.p.prog.toNat else none
       u.lanes c != 0 && above == (if on then some 5 else none) && c.w.pending.isEmpty && c.p.walk.isNone &&
       match t.tableCheck (c.hw none) (c.p.tbind 0) .ordered with
       | (t2, .ok x) => x.kind == kind &&
         (t2.tcount (c.hw none) x false ((lanesOf (u.lanes c)).map fun l => (l, t.src c 0 l 0 16, t.src c 0 l 16 16)) above).2.isOk
       | _ => false) = true := by decide +kernel

/-- The walk of a TCNT over an ordered table with keys 7 and 9: its read comes to keys, to an invalid node, to a fault; and one that has
stopped behind key 7. -/
theorem meets_TableLookupsComplete_walks :
    let d := tdescOf 0x3000000000001040 (tableBytes 1 0)
    let node := fun (v : Nat) => TNode.bytes { n := 0, version := v, kind := 2, keys := [7, 9], vals := [0x3000000000002000, 0x3000000000002020], next := noNode }
    let run : CountRun := { bind := 0, ranges := [(31, 5, 15)], counts := [0], above := some 7, dest := 1008 }
    let base := (readyTable 1 0 15).modSplit ⟨1, 0⟩ fun p => { p with walk := some run }
    let at_ := fun (v : Nat) (idx : Nat) => { base with
      mem := ((base.mem.setBytes 0x55000 (Stripe.mk 0 1 0 1 2).bytes).setBytes 0x56000 (node v)).setBytes 0x51058 (leBytes 8 idx) }
    let reads := fun (s : State) (f : Except TErr (List Nat) → Bool) => (s.issue? false).any fun c =>
      match s.readDesc (c.hw none) (tbPtr (c.p.tbind run.bind)) with
      | (t, .ok x) => f (t.tcount (c.hw none) x false run.ranges none).2
      | _ => false
    d.kind = 1 ∧ starts base (uw { tableUses 0 [0, 1] [(127, 16)] [(0, 32)] with keyProg := true } (.tcnt false 0 127 0)) = true ∧
    reads (at_ 0 0x3000000000005000) (fun x => match x with
      | .ok ks => ks == [7, 9]
      | .error _ => false) = true ∧
    reads (at_ 1 0x3000000000005000) (fun x => match x with
      | .error .retry => true
      | _ => false) = true ∧
    reads (at_ 0 0x3000000000015000) (fun x => match x with
      | .error (.fault _ _ _) => true
      | _ => false) = true ∧
    (base.warp? 1).any (fun w => w.splits.length == 4 && w.lanes.length == 32 && (w.split 0).any (fun p => p.walk == some run) &&
      run.above == some 7 && run.ranges.zip run.counts == [((31, 5, 15), 0)] && decide (run.dest + 16 ≤ 1024) &&
      !(w.pending.any fun x => x.dest.overlaps (.slices 31 run.dest 16))) = true := by decide +kernel

/-- An ordered table, with and without HINT.ORD .rel. -/
theorem meets_TableMutationsSent :
    let on := fun (s : State) (op : TableOp) (dst : List (Nat × Nat)) (i : Instr) =>
      let u := tableUses 0 [0, 2] dst [(0, 16)]
      startsIn s u i fun c t =>
        let ls := u.todo c
        let t1 := match sideOf c with
          | some sc => if ls.isEmpty then t else t.release c.id.warp c.w.core (maskOf ls) sc
          | none => t
        let r := ls.foldl (fun (r : LaneRun) l =>
          match r.st.tableCheck (c.hw (some l)) (c.p.tbind 0) .indexed with
          | (t2, .error e) => r.addT c l (t2, .error e)
          | (t2, .ok _) => { r with
              st := { t2 with tableReqs := t2.tableReqs ++ [{ lookReq op 0 c t l with key := t.src c 0 l 0 16, dest := c.abs 127, pred := 7 }] },
              waiting := r.waiting ||| (1#32 <<< l) }) { st := t1 }
        r.faults.isEmpty && r.waiting != 0 && allAnswered t c (maskOf ls)
    let s := readyTable 1 0 15
    [s, s.modSplit ⟨1, 0⟩ fun p => { p with hints := [⟨5, 14⟩] }].all (fun s =>
      on s .tins [(127, 16)] (.tins false 0 127 0 7) && on s .tinsx [(127, 16)] (.tinsx false 0 127 0 7) &&
      on s .tups [(127, 16)] (.tups false 0 127 0 7) && on s .tdel [] (.tdel false 0 0 7)) = true := by decide +kernel

/-- Handle 0, a handle that is found, and one whose generation is stale. -/
theorem meets_BindingAndHandles :
    let tbind := fun (h : Nat) (f : Issue → State → Bool) => startsIn
      (keyed.modSplit ⟨1, 0⟩ fun p => { p with sregs := if h = 0 then [] else [(1, BitVec.ofNat 64 h)] })
      { uregs := [1], tbs := [7] } (.tbind false 7 1) fun c t => f c t && (c.p.ureg 1).toNat % 2 ^ 32 == h
    tbind 0 (fun _ _ => true) && tbind 0x101 (fun c t => (t.bindTable (c.hw none) 0x101).2.isOk) &&
    tbind 0x102 (fun c t => match (t.bindTable (c.hw none) 0x102).2 with
      | .error (.fault _ _ _) => true
      | _ => false) = true := by decide +kernel

/-- The last member of a rate set with RMAX 15. -/
theorem meets_RateInstructionsComplete :
    let s := readyTable 0 (2 ^ 103 + 15 * 2 ^ 96) 15
    let on := fun (u : Uses) (i : Instr) (write : Bool) (f : Issue → State → Nat → RatePar → RateHdr → RateHdr × List (Dest × Nat)) =>
      startsIn s u i fun c t => ((u.todo c).foldl (fun (r : LaneRun) l =>
        r.addT c l (r.st.rateOp (c.hw (some l)) (c.p.tbind 0) (t.src c 0 l 0 16) write (f c t l))) { st := t }).isClean
    on (tableUses 0 [] [] [(0, 16)]) (.rdue false 0 0 7) false (fun _ _ l par h =>
      (h, [(.pred l 7, if par.sweep % 2 ^ h.r = 0 then 1 else 0)])) &&
    on (tableUses 0 [] [] [(127, 8), (0, 16)]) (.rvisit false 0 127 0 7) true (fun c t l par h =>
      (rateVisit par h (t.src c 1 l 127 8), [(.pred l 7, (rateVisit par h (t.src c 1 l 127 8)).propagate.toNat)])) &&
    on (tableUses 0 [] [(127, 8)] [(0, 16)]) (.rreadh false 0 127 0) false (fun c _ l _ h => (h, [(c.dst l 127 8, h.v1)])) &&
    on (tableUses 0 [] [(127, 8)] [(0, 16)]) (.rreadx false 0 127 0) false (fun c _ l par h => (h, [(c.dst l 127 8, rateRead par.sweep h)])) &&
    on (tableUses 0 [] [] [(127, 16), (0, 16)]) (.rset false 0 127 0) true (fun c t l par _ => (rateSet par (t.src c 1 l 127 16), [])) &&
    -- SWEEP free, and under the lock of a copy that writes it
    ([false, true].all fun locked =>
     let s := if locked then { s with locks := [{ job := 1, write := true, on := .sectors (0x51060 / 32) 1 }],
                                        jobs := [{ id := 1, kind := .cpy, core := 0, part := 0, ctx := 0, wg := 1 }] } else s
     startsIn s { tbs := [0] } (.rsweep false 0 63) fun c t =>
      match (t.writeBack (quadOf c.w.core)).rateSetOf (c.hw none) (c.p.tbind 0) with
      | (t1, .ok _) => match t1.hwKey (c.hw none) true (tbPtr (c.p.tbind 0) + 0x3E) with
        | (t2, .ok key) => (t2.rowLocked (c.hw none) key 2).isSome == locked
        | _ => false
      | _ => false) = true := by decide +kernel

/-! ## Cache handles: the check value of R173 is opaque, so these two are argued, not evaluated -/

theorem handle_fields (k : Nat) (h : k < 65536) : bits (2 ^ 32 + k * 2 ^ 48) 0 32 = 0 ∧ bits (2 ^ 32 + k * 2 ^ 48) 32 16 = 1 ∧
    bits (2 ^ 32 + k * 2 ^ 48) 48 16 = k ∧ 2 ^ 32 + k * 2 ^ 48 < 2 ^ 64 := by
  unfold bits
  omega

def handleWarp (v : Nat) : Warp :=
  { placedWarp with lanes := List.replicate 32 { slices := BitVec.ofNat 4096 v }
                    splits := [some { pc := 0x3000000000000000, mask := 1 }, none, none, none] }
def handleState (v : Nat) : State :=
  { keyed with warps := [handleWarp v]
               mem := keyed.mem.setBytes 0x56000 (leBytes 4 0x101 ++ leBytes 2 1 ++ leBytes 2 1 ++ leBytes 8 0 ++ leBytes 4 1 ++ leBytes 4 1 ++ leBytes 2 1)
               parts := (keyed.modCtx 0 0 fun c => { c with shroud := 0x3000000000006000 }).parts }
def handleWg : Workgroup := { id := 1, launch := 1, tmpl := { slices := 512, tiles := 2, accs := 2, shapes := 2, barGranules := 1, scratchKiB := 1 } }
def handleSplit : Split :=  { pc := 0x3000000000000000, mask := 1 }
def handleIssue (v : Nat) : Issue :=
  ⟨⟨1, 0⟩, handleWarp v, handleWg, handleSplit, 0x3000000000000000, 0x3000000000000000, false⟩

theorem handle_issue (v : Nat) : (handleState v).issue? false = some (handleIssue v) := by
  have h0 : (handleState v).cur = some ⟨1, 0⟩ := rfl
  have h1 : (handleState v).warp? 1 = some (handleWarp v) := rfl
  have h2 : (handleState v).wg? 1 = some handleWg := rfl
  have h3 : (handleWarp v).split 0 = some handleSplit := rfl
  simp only [State.issue?, h0, h1]
  rw [show (handleWarp v).wg = 1 from rfl, h2, h3]
  rfl

theorem latchTick_empty (s : State) (u : Uses) (c : Issue) (h : s.latch = []) : s.latchTick u c = s := by
  cases s; simp_all [State.latchTick]

theorem handle_begins (v : Nat) (u : Uses) (i : Instr) (h : u.kept (handleState v) i (handleIssue v) = false) :
    u.begins (handleState v) i false = some (handleIssue v, handleState v) := by
  have h1 : ((handleState v).bindSources u (handleIssue v)) = handleState v := by
    unfold State.bindSources; rw [if_pos (show (handleIssue v).w.pending.isEmpty = true from rfl)]
  have h2 : (handleState v).latchTick u (handleIssue v) = handleState v := latchTick_empty _ _ _ rfl
  have h3 : (handleState v).warp? 1 = some (handleWarp v) := rfl
  simp only [Uses.begins, handle_issue, h, h1, h2]
  rw [show (handleIssue v).id.warp = 1 from rfl, h3]
  rfl

theorem handle_src (v k st n : Nat) (h : v < 2 ^ 128) : (handleState v).src (handleIssue v) k 0 st n = bits v (4 * st) (4 * n) := by
  have h1 : (handleIssue v).abs st = st := by
    unfold Issue.abs; rw [show (handleIssue v).p.wb.toNat = 0 from rfl]; omega
  have h2 : (handleIssue v).w.lane 0 = { slices := BitVec.ofNat 4096 v } := rfl
  unfold State.src Warp.readV
  rw [show (handleIssue v).w.pending.isEmpty = true from rfl, h1, h2, if_pos rfl]
  unfold Lane.get
  simp only [BitVec.toNat_ofNat]
  rw [Nat.mod_eq_of_lt (h.trans (Nat.pow_lt_pow_right (by decide) (by decide)))]

theorem shroud_entry (s t : State) (ag : Agent) (h gen i ptr : Nat) (e : List Byte) (x : Ctx) (hx : s.ctx ag.part ag.ctx = x)
    (h0 : bits h 0 32 = i) (h1 : bits h 32 16 = gen)
    (h2 : bits h 48 16 = (Config.shroudCheck (s.part ag.part).secret (BitVec.ofNat 32 i) (BitVec.ofNat 16 gen)).toNat)
    (h3 : x.shroud ≠ 0) (h4 : i < x.shroudBase.2) (hp : x.shroudBase.1 + 32 * i = ptr)
    (h5 : (s.countHw ag ptr 32 false).hwRead ag ptr 32 = (t, .ok e)) (h6 : gen ≠ 0) (h7 : fieldOf e 6 2 = gen)
    (h8 : fieldOf e 0x18 2 = x.tenant.toNat) : s.shroudEntry ag h = (t, .ok (ptr, e)) := by
  unfold State.shroudEntry
  rw [h0, h1, h2, hx]
  dsimp only
  rw [if_neg (not_or.mpr ⟨h3, not_or.mpr ⟨fun x => x rfl, Nat.not_le.mpr h4⟩⟩), hp, h5]
  simp [TRes.andThen, h6, h7, h8]

def handleCtx : Ctx := { placedCtx with tableDir := 0x3000000000001001, shroud := 0x3000000000006000 }

/-- The handle, and the lane value that holds it with position `b` behind it. -/
def handle (b : Nat) : Nat := 2 ^ 32 + (Config.shroudCheck 0 0 1).toNat * 2 ^ 48 + b * 2 ^ 64

theorem handle_entry (s : State) (ag : Agent) (h : Nat) (hx : s.ctx ag.part ag.ctx = handleCtx) (hs : (s.part ag.part).secret = 0)
    (hh : h = 2 ^ 32 + (Config.shroudCheck 0 0 1).toNat * 2 ^ 48) :
    let y := (s.countHw ag 0x3000000000006000 32 false).hwRead ag 0x3000000000006000 32
    y.2.isOk = true → fieldOf (y.2.toOption.getD default) 6 2 = 1 → fieldOf (y.2.toOption.getD default) 0x18 2 = 1 →
    s.shroudEntry ag h = (y.1, .ok (0x3000000000006000, y.2.toOption.getD default)) := by
  intro y h1 h2 h3
  have hf := handle_fields (Config.shroudCheck 0 0 1).toNat (Config.shroudCheck 0 0 1).isLt
  rw [hh]
  exact shroud_entry s y.1 ag _ 1 0 _ _ handleCtx hx hf.1 hf.2.1 (by rw [hf.2.2.1, hs]; rfl) (by decide) (by decide) (by decide)
    (eq_ok y h1) (by decide) h2 h3

theorem handle_bits (b : Nat) (h : b < 2 ^ 64) : handle b < 2 ^ 128 ∧ bits (handle b) 0 64 = 2 ^ 32 + (Config.shroudCheck 0 0 1).toNat * 2 ^ 48 ∧
    bits (handle b) 64 32 = b % 2 ^ 32 ∧ bits (handle b) 96 16 = b / 2 ^ 32 % 2 ^ 16 := by
  have h1 : (Config.shroudCheck 0 0 1).toNat < 65536 := (Config.shroudCheck 0 0 1).isLt
  unfold handle
  generalize (Config.shroudCheck 0 0 1).toNat = k at h1 ⊢
  unfold bits
  omega

/-- The device behind the acquire of HREF and the release of HBND, and what reading the entry there gives. -/
def hrefState : State := (handleState (handle 0)).acquire 0 3
def hbndState : State := (handleState (handle 64)).release 1 0 1 3
def entryRead (s : State) (b : Nat) : TRes (Nat × List Byte) :=
  let ag := (handleIssue (handle b)).hw (some 0)
  let y := (s.countHw ag 0x3000000000006000 32 false).hwRead ag 0x3000000000006000 32
  (y.1, .ok (0x3000000000006000, y.2.toOption.getD default))

theorem href_entry : hrefState.shroudEntry ((handleIssue (handle 0)).hw (some 0)) (2 ^ 32 + (Config.shroudCheck 0 0 1).toNat * 2 ^ 48) =
    entryRead hrefState 0 :=
  handle_entry _ _ _ rfl rfl rfl (by decide +kernel) (by decide +kernel) (by decide +kernel)

theorem hbnd_entry : hbndState.shroudEntry ((handleIssue (handle 64)).hw (some 0)) (2 ^ 32 + (Config.shroudCheck 0 0 1).toNat * 2 ^ 48) =
    entryRead hbndState 64 :=
  handle_entry _ _ _ rfl rfl rfl (by decide +kernel) (by decide +kernel) (by decide +kernel)

theorem handle_srcs (b : Nat) (h : b < 2 ^ 64) :
    (∀ k, (handleState (handle b)).src (handleIssue (handle b)) k 0 0 16 = 2 ^ 32 + (Config.shroudCheck 0 0 1).toNat * 2 ^ 48) ∧
    (∀ k, (handleState (handle b)).src (handleIssue (handle b)) k 0 16 8 = b % 2 ^ 32) ∧
    (∀ k, (handleState (handle b)).src (handleIssue (handle b)) k 0 24 4 = b / 2 ^ 32 % 2 ^ 16) := by
  have hb := handle_bits b h
  refine ⟨fun k => ?_, fun k => ?_, fun k => ?_⟩ <;> rw [handle_src _ _ _ _ hb.1]
  exacts [hb.2.1, hb.2.2.1, hb.2.2.2]

/-- What HREF does with an entry, for position 0 and layer 0. -/
def hrefKey (t : State) (x : Nat × List Byte) : TRes (BitVec 128 × Nat) :=
  let ag := (handleIssue (handle 0)).hw (some 0)
  let span := fieldOf x.2 0x10 4
  if fieldOf x.2 4 2 ≤ 0 ∨ fieldOf x.2 0x14 4 ≤ 0 ∨ span ≤ 0 / 64 then (t, .error (.fault .handleBounds 0 (0 % 2 ^ 16 + 0 % 2 ^ 32 * 2 ^ 16)))
  else
    let th := fieldOf x.2 0 4
    match t.dirEntry ag th with
    | .error e => (t, .error e)
    | .ok ptr => (t.readDesc ag ptr).andThen fun t d =>
      if d.state ≠ 2 ∨ d.gen ≠ th % 256 then (t, .error (.fault .tableStale 0 th))
      else (t, .ok (d.binding th (d.far (t.ctx ag.part ag.ctx)), (fieldOf x.2 8 8 + 0 * span + 0 / 64) % 2 ^ 64))

/-- HREF's and HBND's work on a lane, from the table and key, and from the entry. -/
def hrefLane (s t : State) (c : Issue) (x : TRes (BitVec 128 × Nat)) : LaneRun :=
  match x with
  | (t2, .error e) => ({ st := s } : LaneRun).addT c 0 (t2, .error e)
  | (t2, .ok x) => { ({ st := s } : LaneRun) with st := t2 }.look c { c.treq .href x.1 0 t.free with key := x.2, dest := c.abs 64, acq := some 3 }
def hbndLane (s : State) (c : Issue) (b : Nat) (x : TRes (Nat × List Byte)) : LaneRun :=
  ({ st := s } : LaneRun).addT c 0 (x.andThen fun t2 x =>
    if 64 * fieldOf x.2 0x10 4 < b then (t2, .error (.fault .handleBounds 0 (b * 2 ^ 16)))
    else if b ≤ fieldOf x.2 0x14 4 then (t2, .ok [])
    else (t2.hwKey (c.hw (some 0)) true (x.1 + 0x14)).andThen fun t3 key =>
      match t3.rowLocked (c.hw (some 0)) key 4 with
      | some w => (t3, .error (.fault .rangeLock (x.1 + 0x14) w.toNat))
      | none => (((t3.countHw (c.hw (some 0)) (x.1 + 0x14) 4 true).dropLines c.w.core key 4).homeWrite key (leBytes 4 b), .ok []))

theorem href_key : hrefState.shroudKey ((handleIssue (handle 0)).hw (some 0)) (2 ^ 32 + (Config.shroudCheck 0 0 1).toNat * 2 ^ 48) 0 0 =
    (entryRead hrefState 0).andThen hrefKey := by
  unfold State.shroudKey
  rw [href_entry]
  unfold hrefKey
  rfl

theorem href_clean : (hrefLane hrefState (handleState (handle 0)) (handleIssue (handle 0)) ((entryRead hrefState 0).andThen hrefKey)).isClean = true := by
  decide +kernel
theorem hbnd_clean : (hbndLane hbndState (handleIssue (handle 64)) 64 (entryRead hbndState 64)).isClean = true := by decide +kernel

/-- HREF of the handle's first position, and HBND to its whole span of 64 positions, in lane 0: the check value of the handle,
which nothing evaluates, is met whatever it is. -/
theorem meets_BindingAndHandles_href :
    let u : Uses := { fits := [2], vs := [(64, 16), (0, 28)], src := [(0, 28)] }
    ∃ s c t, u.begins s (.href false 64 0) false = some (c, t) ∧ u.todo c = [0] ∧
      (hrefLane (t.acquire c.w.core 3) t c ((t.acquire c.w.core 3).shroudKey (c.hw (some 0)) (t.src c 0 0 0 16) (t.src c 1 0 16 8)
        (t.src c 2 0 24 4))).isClean = true := by
  intro u
  refine ⟨handleState (handle 0), handleIssue (handle 0), handleState (handle 0), handle_begins _ _ _ (by decide +kernel),
    by decide +kernel, ?_⟩
  have h := handle_srcs 0 (by decide)
  rw [h.1, h.2.1, h.2.2]
  show (hrefLane hrefState _ _ (hrefState.shroudKey _ _ 0 0)).isClean = true
  rw [href_key]
  exact href_clean

theorem meets_BindingAndHandles_hbnd :
    let u : Uses := { fits := [2], vs := [(0, 24)], src := [(0, 24)] }
    ∃ s c t, u.begins s (.hbnd false 0) false = some (c, t) ∧ u.todo c = [0] ∧ allAnswered t c 1 = true ∧
      (hbndLane (t.release c.id.warp c.w.core 1 3) c (t.src c 1 0 16 8) ((t.release c.id.warp c.w.core 1 3).shroudEntry (c.hw (some 0))
        (t.src c 0 0 0 16))).isClean = true := by
  intro u
  refine ⟨handleState (handle 64), handleIssue (handle 64), handleState (handle 64), handle_begins _ _ _ (by decide +kernel),
    by decide +kernel, by decide +kernel, ?_⟩
  have h := handle_srcs 64 (by decide)
  rw [h.1, h.2.1]
  show (hbndLane hbndState _ 64 (hbndState.shroudEntry _ _)).isClean = true
  rw [hbnd_entry]
  exact hbnd_clean

/-! ## Tiles and engines -/

/-- A 1 by 1 FP32 tile; F16 tiles and FP64 tiles that multiply. -/
def tile1 : Nat := ({ fmt := 12, slay := 0, layout := 0, kax := 0, rows := 1, cols := 1 } : TileHdr).toNat
def tileA (fmt k : Nat) : Nat := ({ fmt := fmt, slay := 0, layout := 0, kax := 0, rows := 64, cols := k } : TileHdr).toNat
def tileB (fmt k : Nat) : Nat := ({ fmt := fmt, slay := 0, layout := 0, kax := 1, rows := k, cols := 64 } : TileHdr).toNat

/-- `ready` with two tiles and uniform registers; barrier object 0, which s0 names, is initialised. -/
def readyTiles (t0 t1 : Nat) (xs : Sparse Word) : State :=
  (readyBars xs { init := true }).modWarp 1 fun w => { w with tiles := [BitVec.ofNat 73984 t0, BitVec.ofNat 73984 t1] }

theorem meets_TileInstructionsComplete :
    let s := readyTiles tile1 tile1 [(60, BitVec.ofNat 64 (bits tile1 0 64)), (61, BitVec.ofNat 64 (bits tile1 64 64)),
      (62, BitVec.ofNat 64 (bits tile1 128 64)), (63, BitVec.ofNat 64 (bits tile1 192 64)), (5, 12)]
    let free := fun (t : State) (c : Issue) (ts : List (BitVec 4 × Bool)) => (t.tilesLocked c (ts.map fun x => (x.1.toNat, x.2))).isNone
    ([((0 : BitVec 4), (0 : BitVec 4)), (0, 1), (1, 0)].all fun o => startsIn s { tiles := [o.1.toNat, o.2.toNat] } (.tmov false o.1 o.2) fun c t =>
      free t c [(o.2, false), (o.1, true)] && (hdrCheck4 (c.w.tile o.2.toNat).toNat).isNone) &&
    ([(0 : BitVec 6), 60].all fun d => startsIn s { okOp := decide (d.toNat ≤ 60), tiles := [1] } (.thdr false 1 d) fun c t => free t c [(1, false)]) &&
    (let rs := (List.range 4).map fun i => 60 + i
     startsIn s { okOp := true, tiles := [1], uregs := rs } (.thset false 1 60) fun c t =>
       let given := rs.foldr (fun r v => (c.p.ureg r).toNat + 2 ^ 64 * v) 0
       let h := given % 2 ^ 240 + hdrCrc given * 2 ^ 240
       free t c [(1, true)] && (hdrCheck4 h).isNone && (tileHdr h).version % 2 == 0) &&
    (startsIn s { tiles := [1], uregs := [63] } (.tfill false 1 63) fun c t => free t c [(1, true)] && (hdrCheck4 (c.w.tile 1).toNat).isNone) &&
    (startsIn s { tiles := [1], uregs := [63], vs := [(127, 64)] } (.tdrn false 1 127 63) fun c t =>
      free t c [(1, false)] && (hdrCheck3 (c.w.tile 1).toNat).isNone) &&
    (startsIn s { tiles := [1] } (.tbnd false 1) fun c t => free t c [(1, true)] && (hdrCheck3 (c.w.tile 1).toNat).isNone) &&
    (startsIn s { tiles := [1], uregs := [63] } (.prune false 1 63 7) fun c t => free t c [(1, false)] && (hdrCheck3 (c.w.tile 1).toNat).isNone) &&
    (startsIn s { fits := [3, 4], tiles := [1, 0], uregs := [5] } (.tcvt false 1 0 5) fun c t =>
      let h := tileHdr (c.w.tile 0).toNat
      let d := (c.p.ureg 5).toNat
      (tcvtHint c.p.hints (d % 16)).isNone && free t c [(0, false), (1, true)] && (hdrCheck4 (c.w.tile 0).toNat).isNone &&
        (targetOf d h.rows h.cols h.seed false).isSome) = true := by decide +kernel

/-- No earlier lock on the ranges, room in the engine's queue and in the lock tables, and no store to another device unanswered. -/
def enters (t : State) (c : Issue) (k : JobKind) (dst src : List LockOn) (regs : List (LockOn × Bool)) : Bool :=
  !t.rangeConflict dst src && !t.engineFull k c.w.core && allAnswered t c c.p.mask &&
    t.lockRoom ((regs ++ (src.map (·, false) ++ dst.map (·, true))).map fun l => ⟨t.nextId, l.2, l.1⟩)

theorem meets_EngineOperationsEntered :
    let s := readyTiles tile1 tile1 [(1, 0x3000000000000100), (2, 12), (3, 0x2000000000000000)]
    let bar := fun (t : State) (c : Issue) (b : BitVec 6) => barHere (t.findBar c (c.p.ureg b.toNat).toNat false)
    let free := fun (t : State) (c : Issue) (ts : List (Nat × Bool)) => (t.tilesLocked c ts).isNone
    (startsIn s { fits := [5, 7], ords := [0, 1], uregs := [1, 0], tiles := [1] } (.tld false 1 1 0) fun c t =>
      let q := uniformPtr c 1
      let r := t.rangeNames c.engine .load q (min 9248 (65536 - q % 65536))
      (tilePtrBad q).isNone && bar t c 0 && free t c [(1, true)] && enters r.1 c .tld [] r.2 [(.tile 1 1, true)] &&
        r.2.all fun o => r.1.lockOn c.g.part c.g.ctx o != some true) &&
    ([(0 : BitVec 1), 1].all fun o => startsIn s { fits := [5, 7], ords := [0, 2], uregs := [1, 0], tiles := [1] } (.tst false 1 1 0 o) fun c t =>
      let q := uniformPtr c 1
      let n := 32 + (tileHdr (c.w.tile 1).toNat).span
      let r := t.rangeNames c.engine .store q n
      (tilePtrBad q).isNone && (hdrCheck4 (c.w.tile 1).toNat).isNone && decide (q % 65536 + n ≤ 65536) && bar t c 0 && free t c [(1, false)] &&
        enters r.1 c .tst r.2 [] [(.tile 1 1, false)]) &&
    ([((12 : Word), 0), (13 + 2 * 2 ^ 14, 2)].all fun f =>
      startsIn (readyTiles tile1 tile1 [(2, f.1)]) { fits := [4], uregs := [2, 0], tiles := [1], accs := [0] } (.adrn false 0 1 2 0) fun c t =>
        let as := if f.2 = 2 then [0, 1] else [0]
        bar t c 0 && ((targetOf (c.p.ureg 2).toNat 0 0 0 true).any fun g => g.acc == f.2 && (pairBad c 0 (g.acc == 2)).isNone) &&
          free t c [(1, true)] && (t.accsLocked c (as.map fun n => (n, false))).isNone &&
          enters t c .adrn [] [] ((.tile 1 1, true) :: as.map fun n => (.acc 1 n, false))) &&
    ([(2 : BitVec 6), 3].all fun v => startsIn s { uregs := [v.toNat, 0], accs := [1] } (.afill false 1 v 0) fun c t =>
      let src := (c.p.ureg v.toNat).toNat
      let r := if src / 2 ^ 60 = 2 then t.rangeNames c.engine .load src 16384 else (t, [])
      bar t c 0 && afillOk src && (t.accsLocked c [(1, true)]).isNone && enters r.1 c .afill [] r.2 [(.acc 1 1, true)]) = true := by
  decide +kernel

theorem meets_EngineOperationsEntered_mma :
    ([((10 : Nat), 64, 1), (13, 16, 2)].all fun o =>
      startsIn (readyTiles (tileA o.1 o.2.1) (tileB o.1 o.2.1) []) { fits := [9], uregs := [0], tiles := [0, 1], accs := [0] }
        (.mma false 0 0 1 0 1) fun c t =>
          let as := List.range o.2.2
          barHere (t.findBar c (c.p.ureg 0).toNat false) &&
          (match mmaCheck 0 1 (c.w.tile 0).toNat (c.w.tile 1).toNat with
            | .ok p => (p.acc == 2) == (o.2.2 == 2) && (pairBad c 0 (p.acc == 2)).isNone
            | .error _ => false) &&
          (t.tilesLocked c [(0, false), (1, false)]).isNone && (t.accsLocked c (as.map fun n => (n, true))).isNone &&
          enters t c .mma [] [] ([(.tile 1 0, false), (.tile 1 1, false)] ++ as.map fun n => (.acc 1 n, true))) = true := by decide +kernel

/-- A tile load over a range that a copy writes; the POD object 3 of device 9, with and without the answer that it is initialised, and
an object that the workgroup does not have. -/
theorem meets_EngineOperationsEntered_barriers :
    let s := { readyTiles tile1 tile1 [(1, 0x3000000000000100), (2, 0x8090000000000003), (3, 0xFF)] with
      locks := [{ job := 1, write := true, on := .sectors (0x50200 / 32) 1 }], jobs := [{ id := 1, kind := .cpy, core := 0, part := 0, ctx := 0, wg := 1 }] }
    (startsIn s { fits := [5, 7], ords := [0, 1], uregs := [1, 0], tiles := [1] } (.tld false 1 1 0) fun c t =>
      let q := uniformPtr c 1
      let r := t.rangeNames c.engine .load q (min 9248 (65536 - q % 65536))
      (tilePtrBad q).isNone && barHere (t.findBar c (c.p.ureg 0).toNat false) && (t.tilesLocked c [(1, true)]).isNone &&
        r.2.any fun o => r.1.lockOn c.g.part c.g.ctx o == some true) &&
    ([false, true].all fun known =>
      let s1 := s.modSession 0 9 fun x => { x with state := 2 }
      let s2 := if known then { s1 with probed := [(1, 0, 0x8090000000000003)] } else s1
      startsIn s2 {} (.nop false) fun c t => t.probed.contains (barKey c 2) == known && match t.findBar c (c.p.ureg 2).toNat false with
        | .ok (.pod _ _ _) => true
        | _ => false) &&
    (startsIn s {} (.nop false) fun c t => !(t.findBar c (c.p.ureg 3).toNat false).isOk) = true := by decide +kernel

/-- CPY of 1 byte and of 32 KiB, GATH of one element of the least and the greatest size, XFRM of 32 bytes by codes 1 and 2. -/
theorem meets_EngineOperationsEntered_sheet :
    let on := fun (arg : Word) (i : Instr) (f : Issue → State → Nat → Nat → Nat → Bool) =>
      let s0 := readyBars [(1, 0x3000000000000000), (2, 0x3000000000008000), (3, arg)] { init := true }
      let x1 := leBytes 8 0x3000000000000000 ++ leBytes 4 0 ++ leBytes 4 32 ++ leBytes 1 1 ++ leBytes 1 12
      let x2 := leBytes 8 0 ++ leBytes 4 0 ++ leBytes 4 32 ++ leBytes 1 2 ++ leBytes 1 12
      let s := { s0 with mem := (s0.mem.setBytes 0x56000 x1).setBytes 0x56020 x2 }
      startsIn s (sheetForm 1 3 0) i fun c t =>
        let to_ := (c.p.ureg 1).toNat
        let fr := (c.p.ureg 2).toNat
        barHere (t.findBar c (c.p.ureg 0).toNat false) && (pointerBad to_).isNone && (pointerBad fr).isNone && f c t to_ fr (c.p.ureg 3).toNat
    ([(1 : Word), 0x8000].all fun n => on n (.cpy false 1 3 0) fun c t to_ fr arg =>
      let len := arg % 2 ^ 31
      let d := t.rangeNames c.engine .store to_ len
      let r := d.1.rangeNames c.engine .load fr len
      decide (0 < len) && !pointersMeet (t.ownPtr to_) (t.ownPtr fr) len && !(d.2.any fun o => r.2.any o.meets) && enters r.1 c .cpy d.2 r.2 []) &&
    ([(1 : Word), 1 + 11 * 2 ^ 16].all fun n => on n (.gath false 1 3 0) fun c t to_ fr arg =>
      let count := arg % 2 ^ 16
      let code := arg / 2 ^ 16 % 16
      let len := count * (32 * 2 ^ code)
      let d := t.rangeNames c.engine .store to_ len
      let r := d.1.rangeNames c.engine .load fr (8 * count)
      fr % 8 == 0 && decide (0 < len) && decide (code ≤ 11) && decide (len < 2 ^ 31) && enters r.1 c .gath d.2 r.2 []) &&
    ([((0x3000000000006000 : Word), 1), (0x3000000000006020, 2)].all fun a => on a.1 (.xfrm false 1 3 0) fun c t to_ fr arg =>
      match t.readSeen c arg 32 with
      | (t0, .ok desc) =>
        let x := bindingOf desc
        let d := t0.rangeNames c.engine .store to_ x.length
        let r := if x.code = 2 ∨ x.code = 3 then (d.1, []) else d.1.rangeNames c.engine .load fr x.length
        arg / 2 ^ 60 == 3 && arg % 32 == 0 && x.ok && x.code == a.2 && enters r.1 c .xfrm d.2 r.2 []
      | _ => false) = true := by decide +kernel

/-- A CPY whose destination an earlier operation reads, one whose own ranges overlap, one of no bytes; a full engine; a GATH of no elements
and of elements that are too large; an XFRM of no bytes and one of an unknown code. -/
theorem meets_EngineOperationsEntered_clashes :
    let on := fun (locked : Bool) (fr arg : Word) (i : Instr) (f : Issue → State → Nat → Bool) =>
      let s0 := readyBars [(1, 0x3000000000000000), (2, fr), (3, arg)] { init := true }
      let x1 := leBytes 8 0 ++ leBytes 4 0 ++ leBytes 4 0 ++ leBytes 1 1 ++ leBytes 1 12
      let x2 := leBytes 8 0 ++ leBytes 4 0 ++ leBytes 4 32 ++ leBytes 1 9 ++ leBytes 1 12
      let s := { s0 with mem := (s0.mem.setBytes 0x56000 x1).setBytes 0x56020 x2
                         locks := if locked then [{ job := 1, write := false, on := .sectors (0x50000 / 32) 1 }] else []
                         jobs := if locked then (List.range 32).map fun k => { newJob .cpy 0 with id := k + 1, wg := 1 } else [] }
      startsIn s (sheetForm 1 3 0) i fun c t => barHere (t.findBar c (c.p.ureg 0).toNat false) && (pointerBad (c.p.ureg 1).toNat).isNone &&
        (pointerBad (c.p.ureg 2).toNat).isNone && allAnswered t c c.p.mask && f c t (c.p.ureg 3).toNat
    let src : Word := 0x3000000000008000
    (on true src 32 (.cpy false 1 3 0) fun c t n => (t.rangeNames c.engine .store 0x3000000000000000 n).1.rangeConflict
        (t.rangeNames c.engine .store 0x3000000000000000 n).2 [] && t.engineFull .cpy c.w.core) &&
    (on false 0x3000000000000010 32 (.cpy false 1 3 0) fun _ t n => pointersMeet (t.ownPtr 0x3000000000000000) (t.ownPtr 0x3000000000000010) n) &&
    (on false src 0x80000000 (.cpy false 1 3 0) fun _ _ n => n % 2 ^ 31 == 0) &&
    (on false src 0x30000 (.gath false 1 3 0) fun _ _ n => n % 2 ^ 16 == 0) &&
    (on false src 0xC0001 (.gath false 1 3 0) fun _ _ n => n % 2 ^ 16 != 0 && decide (11 < n / 2 ^ 16 % 16)) &&
    (on false src 0xBFFFF (.gath false 1 3 0) fun _ _ n => decide (2 ^ 31 ≤ n % 2 ^ 16 * (32 * 2 ^ (n / 2 ^ 16 % 16)))) &&
    ([((0x3000000000006000 : Word), 0), (0x3000000000006020, 32)].all fun a => on false src a.1 (.xfrm false 1 3 0) fun c t n =>
      n / 2 ^ 60 == 3 && n % 32 == 0 && match t.readSeen c n 32 with
        | (_, .ok desc) => (bindingOf desc).length == a.2 && (bindingOf desc).ok == false
        | _ => false) = true := by decide +kernel

/-- A run with room for one hint more, and a full one. -/
theorem meets_HintsJoinTheRun :
    ((ready.issue? false).any fun c => decide (c.p.hints.length < 3)) &&
    (((readySplit fun p => { p with hints := [⟨0, 0⟩, ⟨1, 0⟩] }).issue? false).any fun c => decide (c.p.hints.length < 3)) &&
    (((readySplit fun p => { p with hints := [⟨0, 0⟩, ⟨1, 0⟩, ⟨2, 0⟩] }).issue? false).any fun c => decide (3 ≤ c.p.hints.length)) = true := by
  decide +kernel

/-! ## Events: each condition of a clause, in a state after reset or with the workgroup of `ready` -/

/-- A state with an event's operands. -/
abbrev State.given (s : State) (a : EventArgs) : State := { s with args := a }

/-- The device after reset; the one with a workgroup in partition 0, and no split chosen. -/
abbrev idle : State := State.reset
def busy : State := { ready with cur := none }

theorem meets_PowerEvents :
    let capped : State := { idle with ps1Cap := 8, clk := [1700, 1700, 1700, 800] }
    (idle.powerCap < 65535 ∧ 900 ≤ idle.clock 3 ∧ idle.powerCap < 2 ^ 16) ∧
    -- a die at 801, 899, 900 and 800 MHz: a clock limit need be no multiple of 100 (R36)
    (let at_ := fun (k : BitVec 16) => { idle with clk := [1700, 1700, 1700, k] }.clock 3
     (800 < at_ 801 ∧ at_ 801 < 900) ∧ (800 < at_ 899 ∧ at_ 899 < 900) ∧ 900 ≤ at_ 900 ∧ at_ 800 ≤ 800) ∧
    (capped.powerCap ≤ capped.powerCap ∧ capped.ps1Cap.getLsbD 3 = true ∧ capped.clock 3 + 100 < capped.fullClock 3) ∧
    (let near : State := { capped with clk := [1700, 1700, 1700, 1600] }
     near.fullClock 3 ≤ near.clock 3 + 100 ∧ near.ps1Heat.getLsbD 3 = false ∧ ({ near with ps1Heat := 8 } : State).ps1Heat.getLsbD 3 = true) ∧ idle.ps1Cap.getLsbD 3 = false ∧
    (105 * 16 ≤ 1680 ∧ idle.ps1Heat.getLsbD 0 = false) ∧ 1679 < 105 * 16 ∧
    (let hot : State := { idle with ps1Heat := 1 }
     1600 ≤ 100 * 16 ∧ 100 * 16 < 1601 ∧ hot.ps1Heat.getLsbD 0 = true ∧ hot.ps1Cap.getLsbD 0 = false ∧ { hot with ps1Cap := 1 }.ps1Cap.getLsbD 0 = true) ∧
    (115 * 16 ≤ 1840 ∧ 1839 < 115 * 16) ∧ (idle.dieBusy 0 = false ∧ idle.pkgState = 0) ∧ busy.dieBusy 0 = true := by decide +kernel

theorem meets_ResetEvents :
    let asked := fun (s : State) (p : BitVec 2) => s.modPart p fun x => { x with psReq := 3 }
    busy.live.all (fun k => ((asked busy 1).part k).psReq == 3) = false ∧
    ((busy.part 0).state = 2 ∧ (busy.part 0).psReq ≠ 3 ∧ busy.live.all (fun k => ((asked busy 0).part k).psReq == 3) = true ∧ busy.pkgState = 0 ∧
      allParts.any (fun k => (busy.part k).resident.isSome) = true) ∧
    (let s := busy.modPart 0 fun x => { x with resident := none }
     s.live.all (fun k => ((asked s 0).part k).psReq == 3) = true ∧
      allParts.any (fun k => (s.part k).resident.isSome) = false) ∧
    ({ idle with pkgState := 1 } : State).pkgState = 1 ∧ ({ idle with pkgState := 3 } : State).pkgState = 3 ∧ idle.off = false := by
  decide +kernel

theorem meets_RegisterEvents :
    -- both halves of a register, a misaligned access, one of 2 bytes; a PART_CTL while the package is awake and asleep
    ([0, 0x50000, 0x1000000, 0x3FFFFF8].all fun off => decide (off < 2 ^ 26) && off % 8 == 0 && (idle.regRead off).isSome) = true ∧
    idle.pkgState = 0 ∧ 0x3FFFFFC % 8 = 4 ∧ 0x3FFFFFC % 4 = 0 ∧ 0x3FFFFFC % 8 ≠ 0 ∧ (2 : Nat) ≠ 4 ∧ (2 : Nat) ≠ 8 ∧ isPartCtl 0x3FFFFF8 = false ∧
    (let s : State := { idle with pkgState := 2 }
     ¬(s.pkgState = 0 ∨ isPartCtl (0x1C00004 / 8 * 8) = false) ∧ 0x1C00004 % 4 = 0 ∧ 0x1C00000 % 8 = 0) ∧ (busy.part 0).state = 2 ∧ (0xFFFFFFFFFFFFFFFF : Word).toNat.testBit 0 = true ∧
    (0 : Word).toNat.testBit 0 = false ∧ 1 % 2 = 1 ∧ (idle.part 3).xltGo = false ∧
    ((idle.modPart 3 fun x => { x with xltGo := true }).part 3).xltGo = true := by decide +kernel

theorem meets_RegisterEvents_window :
    let on := busy.modPart 0 fun x => { x with mwEn := true }
    idle.pkgState = 0 ∧ 2 ^ 36 - 64 + 64 ≤ 2 ^ 36 ∧ 2 ^ 36 - 1 + [(5 : Byte)].length ≤ 2 ^ 36 ∧ (idle.part 3).mwEn = false ∧ (on.part 0).mwEn = true ∧ on.pkgState = 0 ∧
    -- an access at the end of a sector and one over two; in a mapped page, in a poisoned sector, in no page; behind a write and a read
    (let rd := fun (a n : Nat) => on.windowAcc 0 a n none
     let key := fun (s : State) (a : Nat) (w : Bool) => s.windowKey (rd a 1).agent (rd a 1).va w
     (rd 0xFFF0 16).parts = [(0, 16)] ∧ (rd 0xFFF1 16).parts = [(0, 15), (15, 1)] ∧ on.windows = [] ∧
     (key on 0xFFF0 false).2 = some 0x5FFF0 ∧ (key on 0x10000 false).2 = none ∧ (key on 0x10000 true).2 = none ∧ (key on 0xFFF0 true).2 = some 0x5FFF0 ∧
     (on.poison.contains (0x5FFF0 / 32) || on.farDead 0x5FFF0) = false ∧
     ({ on with poison := [0x5FFF0 / 32] }.poison.contains (0x5FFF0 / 32)) = true ∧
     (rd 0xFFF1 16).left = [0, 1] ∧ { rd 0xFFF1 16 with did := [(1, [])] }.left = [0] ∧ mayAccess [rd 0 1] = true ∧
     mayAccess [on.windowAcc 0 0 1 (some [0])] = false) := by decide +kernel

/-- Each access code at a register of its own, at the ends of its ranges (R6). -/
theorem meets_RegisterEvents_codes :
    idle.bootStage = 5 ∧ 3 < idle.parts.length ∧ Sparse.wf 0 idle.msix = true ∧ Sparse.wf {} (idle.part 3).queues = true ∧
    Sparse.wf {} (idle.part 3).ctxs = true ∧ 0x238 % 8 = 0 ∧ 0x47FF8 % 8 = 0 ∧
    -- a word of ones that nothing of the range writes, and what DEV_EVT and PWR_CAP make of it
    (let ones := 2 ^ 64 - 1
     ([0x238, 0x47FF8, 0x1C00018, 0x1C04F10, 0x1C05FE8].all fun off => (idle.regWrite off ones ones).regRead off == some ones) = true ∧
     (idle.regWrite 0x10000 ones ones).regRead 0x10000 = some 0xFFFF ∧
     ({ idle with devEvt := 0xFF }.regWrite 0x10 0xF0 ones).regRead 0x10 = some 0x0F ∧
     ([0x28, 0xF8, 0x118, 0xFFF8, 0x4FFF8, 0x60000, 0xFFFFF8].all fun off => idle.regRead off == some 0) = true) := by decide +kernel

theorem meets_FirmwareEvents :
    idle.fwGo = false ∧ allParts.any (fun p => (idle.part p).resident.isSome) = false ∧
    busy.fwGo = false ∧ ¬ (allParts.any (fun p => (busy.part p).resident.isSome) = false) ∧
    (let go := fun (n : Word) => ({ idle with fwGo := true, attGo := true, fwLen := n } : State)
     (go 4095).fwGo = true ∧ allParts.any (fun p => ((go 4095).part p).resident.isSome) = false ∧ (go 4095).fwLen.toNat < 4096 ∧
      2 ^ 25 < (go 0x2000001).fwLen.toNat ∧ (go 4096).attGo = true) ∧
    -- images of the least and the greatest length, at a HOST pointer that is aligned and at one that is not: what Config.imageGood and
    -- Config.imageVersion say of them is free, and each of the three outcomes is one of their values
    ([(4096 : Nat), 2 ^ 25].all fun n =>
      let s : State := { idle with fwGo := true, fwLen := BitVec.ofNat 64 n, fwPtr := 0x4000000000001000 }
      hostPtr s.fwPtr.toNat && s.fwPtr.toNat % 4096 == 0 && !(s.hostSilent (s.fwPtr.toNat % 2 ^ 57) n) && s.fwLen.toNat == n &&
        hostPtr 0x4000000000001800 && 0x4000000000001800 % 4096 != 0) = true := by
  decide +kernel

/-- A log with room, one that a merge makes room in, one that it does not, and one that the append fills to 90 %. -/
theorem meets_FirmwareEvents_lifetime :
    let block := fun (n : Nat) => signedBlock n n n [⟨.rollback, 0, 0, 0⟩]
    let es := fun (s : State) => { s.lifeNow with thermalHours := s.thermalTime }.entries s.fwRollback.toNat s.cfgRollback.toNat
    let new := fun (s : State) => (lifeBlocks (es s).length (s.lifeSeq + 1) (es s)).length
    let log := fun (k cap : Nat) => ({ idle with life := (List.range k).map block, lifeCap := cap } : State)
    let old := fun (s : State) => if s.lifeCap < s.life.length + new s then (mergeLife s.life).length else s.life.length
    old idle + new idle ≤ idle.lifeCap ∧ (log 3 3).lifeCap < 3 + new (log 3 3) ∧ old (log 3 3) + new (log 3 3) ≤ (log 3 3).lifeCap ∧
    (log 1 1).lifeCap < old (log 1 1) + new (log 1 1) ∧
    10 * (log 1 2).life.length < 9 * 2 ∧ 9 * 2 ≤ 10 * ((log 1 2).life.length + new (log 1 2)) ∧ 0 < (es idle).length := by decide +kernel

/-- Partition 0 with a page mapped on far set 0 (target 8), and far sets 1 and 7 on. -/
def farBusy : State :=
  { busy with mem := busy.mem.setBytes 0x40000 (leBytes 8 (0x5000D + 2 ^ 47))
              cxlSets := [⟨1, 0, 0, true⟩, {}, {}, {}, {}, {}, {}, ⟨2, 3, 3, true⟩] }

theorem meets_MemoryEvents_held :
    (let s : State := { busy with held := [⟨0, 0x5001F, 7, 0⟩, ⟨0, 0x50020, 8, 0⟩, ⟨1, 0x5001F, 9, 0⟩] }
     Memory.wf s.mem = true ∧ 0x5001F / 32 = 0x50020 / 32 - 1 ∧
      (s.held.all fun x => decide (x.quad ≠ 0) || decide (x.addr ≠ 0x5001F) || x.byte == 7) = true) ∧
    -- a tile of two sectors touched, at its ends and beside them
    ([(0x2800, true), (0x2801, true), (0x27FF, false), (0x2802, false)].all fun (k : Nat × Bool) =>
      ([(0x2800, 2)].any fun (x : Nat × Nat) => decide (x.1 ≤ k.1) && decide (k.1 < x.1 + x.2)) == k.2) = true := by decide +kernel

theorem meets_MemoryEvents :
    (let v := 0x1080
     (cxlSetOf v).en = true ∧ v < 2 ^ 13 ∧ (busy.cxlSets.getD 7 {}).en = false ∧ busy.setAllowed 7 (cxlSetOf v) = true) ∧
    ((cxlSetOf 0).en = false ∧ (farBusy.cxlSets.getD 7 {}).en = true ∧ farBusy.setMapped (farBusy.cxlSets.getD 7 {}) = false) ∧
    (7 < 8 ∧ 0 < 8 ∧ (farBusy.cxlSets.getD 0 {}).en = true ∧ farBusy.setMapped (farBusy.cxlSets.getD 0 {}) = true) ∧
    (({ idle with cxlPorts := List.replicate 8 { state := 2 } } : State).cxlPorts.getD 7 {}).state = 2 ∧
    (let s : State := { idle with exts := [{ tag := 5, deadline := 9 }], cycle := 9 }
     (s.exts.find? fun r => r.tag == 5).any (fun r => r.peer.isNone && decide (r.deadline ≤ s.cycle)) = true) := by decide +kernel

theorem crcBit_lt (c : Nat) (b : Bool) (h : c < 2 ^ 32) : crcBit c b < 2 ^ 32 := by
  unfold crcBit
  dsimp only
  split
  · exact Nat.xor_lt_two_pow (by omega) (by decide)
  · omega

theorem crc32_lt (bs : List Byte) : crc32 bs < 2 ^ 32 := by
  have h1 : ∀ (l : List Nat) (b : Byte) (c : Nat), c < 2 ^ 32 → l.foldl (fun c i => crcBit c (b.getLsbD i)) c < 2 ^ 32 := by
    intro l b
    induction l with
    | nil => exact fun c h => h
    | cons x xs ih => exact fun c h => ih _ (crcBit_lt c _ h)
  have h2 : ∀ (l : List Byte) (c : Nat), c < 2 ^ 32 → l.foldl (fun c b => (List.range 8).foldl (fun c i => crcBit c (b.getLsbD i)) c) c < 2 ^ 32 := by
    intro l
    induction l with
    | nil => exact fun c h => h
    | cons x xs ih => exact fun c h => ih _ (h1 _ _ c h)
  exact Nat.xor_lt_two_pow (h2 bs _ (by decide)) (by decide)

/-- A flit whose CRC is right, and one whose CRC is not (R25). -/
def soundFlit (f : Flit) : Flit := { f with crc := BitVec.ofNat 32 (crc32 (flitCovered f)) }
def tornFlit (f : Flit) : Flit := { f with crc := BitVec.ofNat 32 (crc32 (flitCovered f)) + 1 }

theorem soundFlit_sound (f : Flit) : flitSound (soundFlit f) = true := by
  have h : flitCovered (soundFlit f) = flitCovered f := rfl
  unfold flitSound
  rw [h]
  have h2 := crc32_lt (flitCovered f)
  unfold soundFlit
  generalize crc32 (flitCovered f) = k at h2 ⊢
  simpa using h2

theorem tornFlit_unsound (f : Flit) : flitSound (tornFlit f) = false := by
  have h : flitCovered (tornFlit f) = flitCovered f := rfl
  unfold flitSound
  rw [h]
  have h2 := crc32_lt (flitCovered f)
  unfold tornFlit
  generalize crc32 (flitCovered f) = k at h2 ⊢
  have : (BitVec.ofNat 32 k + 1).toNat = (k + 1) % 2 ^ 32 := by simp
  simp only [this, beq_eq_false_iff_ne, ne_eq]
  omega

/-- A data flit of port 17. -/
def dataFlit : Flit := ⟨3, 0, 9, 0, 0, 0, 0, 0, 0, [], 0, []⟩

/-- An entry that is asked for, open and closed, with a plane to its peer and without; a table in its one form. -/
theorem meets_LinkEvents_sessions :
    let at_ := fun (k : BitVec 2) => idle.modSession 3 255 fun x => { x with state := k, open_ := decide (k ≠ 0) }
    let dark := fun (s : State) => ({ s with ports := s.ports.map fun x => { x with en := false } } : State)
    (((at_ 1).part 3).session 255).state = 1 ∧ (((at_ 2).part 3).session 255).state = 2 ∧
    (((at_ 3).part 3).session 255).state ≠ 1 ∧ (((at_ 3).part 3).session 255).state ≠ 2 ∧
    ((at_ 2).plane 255 0).isSome = true ∧ ((at_ 1).plane 255 0).isSome = true ∧ (dark (at_ 1)).plane 255 0 = none ∧ (dark (at_ 2)).plane 255 0 = none ∧
    Sparse.wf {} (idle.part 3).sessions = true ∧ Sparse.wf {} ((at_ 2).part 3).sessions = true := by decide +kernel

/-- At port 17, which is up: a torn flit, one that skips a number, an old one, and those in order of each type. -/
theorem meets_LinkEvents_flits :
    (idle.port 17).state = 2 ∧ (idle.port 17).en = true ∧ flitSound (tornFlit dataFlit) = false ∧
    (∀ f : Flit, flitSound (soundFlit f) = true) ∧
    (let f := { dataFlit with seq := 0x7FFFFFFF }
     f.seq ≠ (idle.port 17).rxSeq ∧ (f.seq - (idle.port 17).rxSeq).toNat < 2 ^ 31) ∧
    (let f := { dataFlit with seq := 0x80000000 }
     2 ^ 31 ≤ (f.seq - (idle.port 17).rxSeq).toNat) ∧
    dataFlit.seq = (idle.port 17).rxSeq ∧ dataFlit.type = 3 ∧ { dataFlit with type := 4 }.type = 4 ∧ { dataFlit with type := 0 }.type = 0 := by
  refine ⟨by decide, by decide, tornFlit_unsound dataFlit, soundFlit_sound, by decide, by decide, by decide, by decide, by decide, by decide⟩

/-- Device 9 with an open entry of generation 3, which names context 0 of partition 0; it reads a byte there, and answers. -/
theorem meets_LinkEvents_messages :
    let s := { busy.modSession 0 9 fun x => { x with state := 2, gen := 3 } with exts := [{ tag := 5, peer := some 9 }] }
    let isOpen := fun (f : Flit) (p : BitVec 2) (c : BitVec 6) =>
      let e := (s.part 0).session f.src.toNat
      decide (e.state = 2 ∧ e.gen = f.gen ∧ e.part = p ∧ e.ctx = c)
    let f := { dataFlit with type := 1, gen := 3 }
    let g := { dataFlit with type := 2, gen := 3 }
    f.src = 9 ∧ f.type = 1 ∧ isOpen f 0 0 = true ∧ isOpen f 0 1 = false ∧
    -- a byte and a sector of the page, one past its end, a read over two sectors, a barrier of a context that is being exchanged
    (let x := fun (a : BitVec 52) (op : PeerOp) => ({ port := 17, dev := 9, gen := 3, tag := 5, part := 0, ctx := 0, addr := a, op := op } : Inbound)
     (x 0x100 (.read 1)).parts = 1 ∧ (s.servePart (x 0x100 (.read 1)) 0).2.isOk = true ∧ (s.port 17).alive = true ∧ s.mayServe (x 0x100 (.read 1)) [] = true ∧
     (x 0x11F (.read 2)).parts = 2 ∧ (x 0x11F (.read 2)).left = [0, 1] ∧ { x 0x11F (.read 2) with did := [(1, [0])] }.left = [0] ∧
     (s.servePart (x 0x11C (peerWrite 0x11C [1, 2])) 0).2.isOk = true ∧ (s.servePart (x 0x20000 (.read 1)) 0).2.isOk = false ∧
     s.mayServe (x 0x100 (.read 1)) [x 0x1F00 (.read 1)] = true ∧ s.mayServe (x 0x100 (.read 1)) [x 0xF00 (.read 1)] = false ∧
     (s.modPart 0 fun y => { y with switch := .exchanging none }).mayServe (x 0 (.barrier 1 0 1)) [] = false) ∧
    g.type = 2 ∧ ((s.exts.find? fun r => r.tag == 5 && r.peer == some g.src).any fun r => r.part == 0) = true ∧ isOpen g 0 0 = true ∧
    isOpen { g with gen := 4 } 0 0 = false := by decide +kernel

theorem meets_LinkEvents_ports :
    let at_ := fun (k : BitVec 2) => idle.modPort 17 fun x => { x with state := k }
    ((at_ 3).port 17).state = 3 ∧ ((at_ 2).port 17).state ≠ 3 ∧ ((at_ 2).port 17).en = true ∧ ((at_ 0).port 17).state = 0 ∧
    (((at_ 1).port 17).state = 1 ∧ ((at_ 1).port 17).en = true ∧ 17 < (at_ 1).ports.length) ∧ ((at_ 2).port 17).state ≠ 1 ∧ 7 < 8 ∧
    ([8, 9].all fun d =>
      let s : State := { idle with exts := [{ tag := 5, peer := some 9, deadline := d }], cycle := 8 }
      (s.exts.find? fun r => r.tag == 5).any (fun r => r.peer == some 9 && decide (r.deadline ≤ s.cycle) == (d == 8))) = true := by decide +kernel

/-! ## Queues and records -/

/-- `busy` with command queue 63 of partition 0. -/
def queued (x : Queue) : State := { busy with parts := modifyAt (fun y => { y with queues := [(63, x)] }) busy.parts 0, cycle := 10000 }
def x63 (s : State) : Queue := (s.part 0).queue 63

/-- Record 1 of a ring at page offset 0x8000 (R52): a kernel of one warp of 32 slices, or `f` of its bytes. -/
def recordBytes : List Byte :=
  leBytes 4 1 ++ leBytes 2 0 ++ leBytes 2 0 ++ leBytes 8 0x3000000000000000 ++ leBytes 4 1 ++ leBytes 4 1 ++ leBytes 4 1 ++ leBytes 2 1 ++
    leBytes 2 0 ++ leBytes 8 32 ++ List.replicate 216 0
def ring (x : Queue) (f : List Byte → List Byte) : State :=
  { queued { x with en := true, base := 0x3000000000008000, tail := 1 } with mem := busy.mem.setBytes 0x58000 (f recordBytes) }

theorem meets_QueueEvents :
    (let s := queued {}
     (x63 s).en = false ∧ (x63 s).fetch = .idle ∧ (1 : Word).toNat.testBit 0 = true) ∧
    (let s := queued { en := true, halted := true }
     (x63 s).en = true ∧ (x63 s).halted = true ∧ (x63 s).fetch = .idle ∧ ((x63 s).tail - (x63 s).head).toNat ≤ 2 ^ (x63 s).log ∧
      Sparse.wf {} (s.part 0).queues = true) ∧
    (let s := queued { en := true, halted := true, tail := 17 }
     (x63 s).fetch = .idle ∧ ¬(((x63 s).tail - (x63 s).head).toNat ≤ 2 ^ (x63 s).log)) ∧
    (let s := queued { en := true }
     s.pkgState = 0 ∧ (x63 s).halted = false ∧ ((16 : BitVec 32) - (x63 s).head).toNat ≤ 2 ^ (x63 s).log ∧
      2 ^ (x63 s).log < ((17 : BitVec 32) - (x63 s).head).toNat) := by decide +kernel

def readsBytes (s : State) (ptr n : Nat) (ok : List Byte → Bool) : Bool :=
  match (s.mastRead (x63 s).ctx ptr n { tag := 0, part := 0, use := 10, job := 63 }).2 with
  | .bytes bs => ok bs
  | _ => false

theorem meets_RecordEvents :
    (let s := ring {} id
     s.fetchTurn 0 = some 63 ∧ (x63 s).base.toNat / 2 ^ 60 = 3 ∧ (x63 s).base.toNat % 256 = 0) ∧
    (let s := ring { fetch := .seqRead 0 0 false } id
     readsBytes s (x63 s).slot 4 (fun bs => leNat bs == 1) = true) ∧
    (let s := ring { fetch := .retry 9000 170 8000 false } id
     (x63 s).fetch = .retry 9000 170 8000 false ∧ 9000 ≤ s.cycle) ∧
    (let s := { ring { fetch := .retry 9000 170 0 false } id with cycle := 1000 * Config.cyclesPerUs }
     (x63 s).fetch = .retry 9000 170 0 false ∧ 0 + 1000 * Config.cyclesPerUs ≤ s.cycle) ∧
    -- a record in order, and one whose reserved flags are not zero
    ([(id, true), ((fun b => b.take 6 ++ [0xF0] ++ b.drop 7), false)].all fun c =>
      let s := ring { fetch := .payload } c.1
      (x63 s).fetch == .payload && readsBytes s ((x63 s).slot + 4) 252 fun bs =>
        let raw := leBytes 4 ((x63 s).head + 1).toNat ++ bs
        let r := recordOf raw
        let dies := (s.part 0).dies.toNat
        recordOk raw (x63 s).priMax.toNat dies (s.ctx 0 (x63 s).ctx).expertEn == c.2 &&
          (!c.2 || (refusalOf r (diesOf (if r.dieMask = 0 then dies else r.dieMask.toNat &&& dies)).length).isNone)) = true ∧
    (ring { fetch := .waiting { waits := [(BitVec.ofNat 64 ptr0, 1)] } [false] 0 } id).pollDue 0 63 = true ∧
    (let s := ring { fetch := .waiting { waits := [(BitVec.ofNat 64 ptr0, 1)] } [true] 0 } id
     (s.startable 0 63).any (fun r => r.kind != 1) = true) ∧
    (let s : State := { busy with launches := [{ id := 1, part := 0, ctx := 0, queue := some 63, record := {}, prio := 0, nextWg := 1 }], wgs := [] }
     (s.launch? 1).any (fun l => l.queue == some 63 && s.workDone l && !(s.exts.any fun r => r.use == 9 && r.job == l.id) && l.record.kind != 1 &&
      l.record.signal.1 == 0) = true) ∧
    -- the record of a killed context, and copy records: cancelled, and with an error
    ((busy.modCtx 0 0 fun x => { x with state := .killed }).ctx 0 0).state = .killed ∧
    ([((0x200 : BitVec 32), false), (0x201, true)].all fun v =>
      let s : State := { busy with wgs := [], launches := [{ id := 1, part := 0, ctx := 0, queue := some 63, record := { kind := 1 }, prio := 0, nextWg := 1, copyStatus := v.1 }] }
      (s.launch? 1).any fun l => l.queue == some 63 && s.workDone l && !(s.exts.any fun r => r.use == 9 && r.job == l.id) && l.record.kind == 1 &&
        decide (l.copyStatus &&& 0x42B ≠ 0) == v.2 && l.copyStatus.getLsbD 9) = true := by decide +kernel

/-- A copy record that may start, with more chunks than Sheets and with one; a signal on a mapped word and on an unmapped one; records that
can never be placed: too many tiles, too many workgroups for the die, too many accumulators for a quad. -/
theorem meets_RecordEvents_rest :
    (let s := ring { fetch := .waiting { kind := 1, count := 8192, entry := 0x3000000000000000, arg := 0x3000000000008000 } [true] 0 } id
     (s.startable 0 63).any (fun r => r.kind == 1) = true) ∧ ((1 : Nat) ≤ 31 ∧ 0 < 33) ∧
    ([((ptr0 : Nat), true), (0x3000000000010000, false)].all fun v =>
      let l : Launch := { id := 1, part := 0, ctx := 0, queue := some 63, record := { signal := (BitVec.ofNat 64 v.1, 5) }, prio := 0, nextWg := 1 }
      let s : State := { busy with wgs := [], launches := [l] }
      s.launch? 1 == some l && l.queue == some 63 && s.workDone l && !(s.exts.any fun r => r.use == 9 && r.job == l.id) && l.record.signal.1 != 0 &&
        (s.ctx l.part l.ctx).state != .killed && l.copyStatus.getLsbD 9 == false && l.record.kind != 1 &&
        match (s.places (mastAgent l.part l.ctx) .atomic l.record.signal.1.toNat 8).2 with
        | .ok [(.mem _, 8)] => v.2
        | .ok _ => false
        | .error _ => !v.2) = true ∧
    (let put := fun (i : Nat) (x b : List Byte) => b.take i ++ x ++ b.drop (i + x.length)
     [((fun b => put 0x1C [64] (put 0x22 [16] b)), 3), ((fun b => put 6 [4] (put 0x10 (leBytes 4 20000) b)), 4),
        ((fun b => put 6 [2] (put 0x1C [64] (put 0x23 [2] (put 0x10 [4] b)))), 5)].all fun c =>
      let s := ring { fetch := .payload } c.1
      (x63 s).fetch == .payload && readsBytes s ((x63 s).slot + 4) 252 fun bs =>
        let raw := leBytes 4 ((x63 s).head + 1).toNat ++ bs
        let r := recordOf raw
        let dies := (s.part 0).dies.toNat
        recordOk raw (x63 s).priMax.toNat dies (s.ctx 0 (x63 s).ctx).expertEn && r.kind == 0 &&
          refusalOf r (diesOf (if r.dieMask = 0 then dies else r.dieMask.toNat &&& dies)).length == some c.2) = true := by decide +kernel

/-! ## Placement and warps -/

/-- Partition 0 with a launch of four workgroups. -/
def launching (l : Launch) : State := { busy with launches := [l], wgs := [], warps := [], cycle := 200000 }
def launch4 : Launch := { id := 1, part := 0, ctx := 0, queue := some 0, record := { gx := 4 }, prio := 0 }

theorem meets_PlacementEvents :
    idle.noteStuck 0 = idle ∧ idle.placeFirst (idle.placeOrder 0) = none ∧
    (let s := (launching launch4).noteStuck 0
     (match s.placeOrder 0 with
      | l :: _ => (s.placeNext l).isSome
      | [] => false) = true) ∧
    -- a launch of a higher priority that no core holds, and one behind it that a core does
    (let s := ({ launching launch4 with launches := [{ launch4 with id := 2, prio := 7, record := { gx := 4, tmpl := { warps := 513 } } }, launch4] } :
       State).noteStuck 0
     (match s.placeOrder 0 with
      | l :: m :: _ => (s.placeNext l).isNone && (s.placeNext m).isSome
      | _ => false) = true) ∧
    (let s := launching { launch4 with noCore := some 0 }
     (s.drainDue 0).any (fun x => x.1.record.coopQuad == false &&
      (s.bestRatio x.1.record.tmpl ((s.candidateCores x.1 x.2).filter fun k => !s.dieReserved (dieOf k))).isSome) = true) ∧
    -- a core reserved for the next workgroup, which fits there, and one of another die, where a lost workgroup does not go
    (let s := { launching launch4 with reservations := [⟨0, 1, some 31⟩] }
     launch4.next.any (fun x => s.reservedFor launch4 x == some 31 && s.coreFits 31 launch4.record.tmpl && x.was.isNone) = true ∧
     s.reservedFor launch4 { num := 0, n := 0, was := some 32 } = none) ∧
    -- 32 workgroups of a whole scratchpad, one on each core of the die, of which core 0 is in use
    (let l : Launch := { launch4 with id := 2, record := { gx := 32, coopDie := true, tmpl := { scratchKiB := 1024 } } }
     ({ busy with launches := busy.launches ++ [l] } : State).coopDue 0 = some l) ∧
    (busy.modWarp 1 fun w => { w with exited := true }).warp? 1 = some { placedWarp with exited := true } ∧
    (let s := busy.modWarp 1 fun w => { w with exited := true }
     (s.wg? 1).any (fun g => s.wgOver g) = true) ∧
    (let s : State := { busy with bins := [⟨0, 0, 0, 0, 0, [], 0, 1000⟩], cycle := 1700 }
     (s.bins[0]?).any (fun b => decide (17 * b.flushNs ≤ 10 * (s.cycle - b.first))) = true) := by decide +kernel

/-- `busy` with split 0 of warp 1 waiting, at cycle 100. -/
def waits (w : Wait) : State := { busy.modSplit ⟨1, 0⟩ (fun p => { p with wait := w }) with cycle := 100 }

theorem meets_WarpEvents :
    (let s := busy.modWarp 1 fun w => { w with pending := [{ split := 0, dest := .ureg 5, value := 7 }] }
     (s.warp? 1).any (fun w => w.landable 0 && decide (w.partsLeft 0 ≤ 1)) = true) ∧
    (let s := busy.modWarp 1 fun w => { w with pending := [{ split := 0, dest := .slices 31 0 2, value := 7, acq := some 3 }] }
     (s.warp? 1).any (fun w => w.landable 0 && decide (w.partsLeft 0 ≤ 1) && (w.pending[0]?).any (·.acq.isSome)) = true) ∧
    (let s := busy.modWarp 1 fun w => { w with pending :=
       [{ split := 0, dest := .ureg 5, value := 7, load := some { core := 0, lane := none, pieces := [(.mem 0x5001C, 4), (.mem 0x50020, 4)] } }] }
     (s.warp? 1).any (fun w => w.landable 0 && decide (1 < w.partsLeft 0)) = true) ∧
    (let s := busy.modWarp 1 fun w => { w with stores := [⟨some 0, 1, 0, BitVec.ofNat 64 ptr0, [1], false, none, 0, []⟩] }
     (s.warp? 1).any (fun w => (s.wg? w.wg).any fun g => s.settleable w g 0) = true) ∧
    ([Wait.yield 100 [(1, 3)], .sleep 100, .sleep 101].all fun x => ((waits x).splitOf ⟨1, 0⟩).any fun p => p.wait == x) = true ∧
    (let s : State := { busy with cycle := 1024 }
     (s.warp? 1).any (fun w => (w.split 0).any fun p => s.liftDue w p) = true) ∧
    (let s := { waits (.waite (BitVec.ofNat 64 ptr0) 1) with cycle := 100000 }
     (s.waitingIssue 1 0).any (fun c => s.waiteDue c) = true) := by decide +kernel

/-! ## Tables and engines at work -/

/-- An ordered table of one stripe whose root leaf holds key 7 (R163), of the node version given; a request of lane 0. -/
def tableBusy (v : Nat) (op : TableOp) (key : Nat) : State :=
  let d := tdescOf 0x3000000000001040 (tableBytes 1 0)
  let m1 := (busy.mem.setBytes 0x51040 (tableBytes 1 0)).setBytes 0x55000 (Stripe.mk 0 1 0 1 1).bytes
  let r : TableReq := { op := op, core := 0, warp := 1, split := 0, lane := 0, part := 0, ctx := 0, group := 0, binding := d.binding 0x101 false, key := key }
  { busy with mem := m1.setBytes 0x56000 (TNode.bytes { n := 0, version := v, kind := 2, keys := [7], vals := [0x3000000000002000], next := noNode })
              tableReqs := [r], lookups := [r] }

/-- What the first mutation of a state comes to, by the clause that speaks of it, and whether that succeeds. -/
def mutationStep (s : State) : Option (Nat × Bool) :=
  match s.tableReqs[0]? with
  | none => none
  | some r =>
    let ag := s.reqAgent r
    if s.nextMutation 0 = false then none
    else match r.work with
      | none => match s.mutation ag r.binding r.op r.key with
        | (_, .error _) => some (1, false)
        | (t, .ok (d, m)) => match m.plan with
          | none => some (2, (s.mutate ag r.binding r.op r.key).2.isOk)
          | some x => some (3, (t.beginWork ag d r.key x).2.isOk)
      | some w => match s.readDesc ag (tbPtr r.binding) with
        | (_, .error _) => none
        | (t, .ok d) => match w.todo with
          | y :: _ => some (4, (t.workNode ag d y).2.isOk)
          | [] => some (5, (t.commitWork ag d (d.stripeOf r.key) w).2.isOk)

/-- An insert of key 8 that has begun, with its node writes to come, or all behind it. -/
def begun (all : Bool) : State :=
  let s := tableBusy 0 .tins 8
  let w : Option TableWork := match s.tableReqs[0]? with
    | none => none
    | some r => match s.mutation (s.reqAgent r) r.binding r.op r.key with
      | (t, .ok (d, m)) => m.plan.bind fun x => (t.beginWork (s.reqAgent r) d r.key x).2.toOption
      | _ => none
  { s with tableReqs := s.tableReqs.map fun r => { r with work := w.map fun w => if all then { w with todo := [] } else w } }

/-- The table's index at an address that is not mapped. -/
def lostIndex (s : State) : State := { s with mem := s.mem.setBytes 0x51058 (leBytes 8 0x3000000000015000) }

/-- A rate instruction while a mutation of its table is between two node writes. -/
theorem meets_RateInstructionsComplete_between :
    let u := tableUses 0 [] [] [(0, 16)]
    let tb := fun (s : State) => (s.tableReqs[0]?).elim 0 (·.binding)
    startsIn { (begun false).modSplit ⟨1, 0⟩ (fun p => { p with tb := Sparse.set 0 p.tb 0 (tb (begun false)) }) with cur := some ⟨1, 0⟩ } u (.rdue false 0 0 7) (fun c t =>
      t.committing c.g.part c.g.ctx (c.p.tbind 0) && !(u.todo c).isEmpty) = true := by decide +kernel

theorem meets_TableEvents :
    -- each way that a mutation goes on, and each way that it fails
    mutationStep (tableBusy 0 .tinsx 7) = some (1, false) ∧ mutationStep (tableBusy 0 .tups 7) = some (2, true) ∧
    mutationStep (let s := tableBusy 0 .tups 7
      { s with mem := s.mem.setBytes 0x56000 (TNode.bytes { n := 0, version := 0, kind := 2, keys := [7], vals := [0x3000000000012000], next := noNode }) }) =
      some (2, false) ∧
    mutationStep (tableBusy 0 .tins 8) = some (3, true) ∧
    mutationStep { tableBusy 0 .tins 8 with poison := (List.range 32).map (0x52000 / 32 + ·) } = some (3, false) ∧
    mutationStep (begun false) = some (4, true) ∧ mutationStep (lostIndex (begun false)) = some (4, false) ∧
    mutationStep (begun true) = some (5, true) ∧ mutationStep (lostIndex (begun true)) = some (5, false) := by decide +kernel

theorem meets_TableEvents_lookups :
    let look := fun (s : State) (f : Except TErr (List (Dest × Nat)) → Bool) =>
      (s.lookups[0]?).any fun r =>
        let s1 := { s with lookups := removeAt s.lookups 0 }
        match s1.readDesc (s1.reqAgent r) (tbPtr r.binding) with
        | (t, .ok d) => f (t.lookupIn (s1.reqAgent r) r (decide (64 ≤ r.retries)) d).2
        | _ => false
    let retires := fun (s : State) => (s.retiring[0]?).map fun x =>
      let mine := fun (r : TableReq) => r.part == x.1 && r.ctx == x.2.1 && tbPtr r.binding == x.2.2
      s.tableReqs.any mine || s.lookups.any mine
    let again := fun (x : Except TErr (List (Dest × Nat))) => match x with
      | .error .retry => true
      | _ => false
    let stops := fun (x : Except TErr (List (Dest × Nat))) => match x with
      | .error (.fault _ _ _) => true
      | _ => false
    look (tableBusy 0 .tget 7) (fun x => x.isOk) = true ∧ look (tableBusy 1 .tget 7) again = true ∧
    look (lostIndex (tableBusy 0 .tget 7)) stops = true ∧
    retires { tableBusy 0 .tins 8 with retiring := [(0, 0, 0x3000000000001040)] } = some true ∧
    retires { busy with retiring := [(0, 0, 0x3000000000001040)] } = some false := by decide +kernel

/-- `busy` with one job. -/
def working (k : JobKind) (f : Job → Job) : State := { busy with jobs := [f { newJob k 0 with id := 5, wg := 1, warp := 1, total := 1, bytes := 32 }] }

theorem meets_EngineEvents :
    let has := fun (s : State) (f : Job → Bool) => (s.jobs.find? fun j => j.id == 5).any f
    let sheet := working .cpy id
    let step := fun (k : JobKind) (done flag : Bool) =>
      let s := working k fun j => { j with done := done, flag := flag }
      has s fun j => s.jobReaches j && j.asking == false && j.done == done && j.torn == false && j.kind == k && j.flag == flag
    has sheet (fun j => sheet.sheetServes j && j.kind != .copyRecord && j.clash.isEmpty) = true ∧
    ([JobKind.adrn, .afill, .mma].all fun k => has (working k id) fun j => j.kind.unit == 2 &&
      ((working k id).mainsailPick j.place).map (·.id) == some j.id && j.status.getLsbD 10 == false) = true ∧
    (step .cpy true false && step .tld false false && step .tst false false && step .tst false true) = true := by decide +kernel

/-- A copy record's chunk: after an error, one that met earlier locks, one that did not; and the job when it is done. -/
theorem meets_EngineEvents_copies :
    let s := fun (status : BitVec 32) (clash : List Nat) (done : Bool) =>
      ({ working .copyRecord (fun j => { j with launch := 1, clash := clash, done := done }) with
         launches := busy.launches.map fun l => { l with copyStatus := status } } : State)
    let on := fun (x : State) (f : Job → Bool) => (x.jobs.find? fun j => j.id == 5).any fun j => j.kind == .copyRecord && f j
    on (s 1 [] false) (fun j => (s 1 [] false).sheetServes j && (s 1 [] false).recordStopped j && ((s 1 [] false).launch? j.launch).isSome) = true ∧
    ([[], [0]].all fun k => on (s 0 k false) fun j => (s 0 k false).sheetServes j && !(s 0 k false).recordStopped j &&
      j.clash.contains j.next == !k.isEmpty) = true ∧
    on (s 0 [] true) (fun j => (s 0 [] true).jobReaches j && j.asking == false && j.done) = true := by decide +kernel

/-- Torn operations: a tile load in a halt and an XFRM, 45 and 46 cycles after the attempt; the same of a prologue. -/
theorem meets_EngineEvents_torn :
    let at_ := fun (n : Nat) (k : JobKind) (f : Part → Part) =>
      ({ working k (fun j => { j with torn := true, since := 100 }) with cycle := 100 + n } : State).modPart 0 f
    let on := fun (x : State) (torn : Bool) => (x.jobs.find? fun j => j.id == 5).any fun j => x.tornJob j == torn
    on (at_ 46 .tld fun x => { x with switch := .halting none }) true = true ∧ on (at_ 45 .tld id) false = true ∧ on (at_ 46 .xfrm id) true = true ∧
    on (at_ 46 .xfrm fun x => { x with switch := .halting none }) false = true ∧
    ([45, 46].all fun n =>
      let s : State := { busy.modWg 1 (fun g => { g with prologue := some (0, 0), torn := true, tornAt := 100 }) with cycle := 100 + n }
      (s.wg? 1).any fun g => s.tornWg g == (n == 46)) = true := by decide +kernel

theorem meets_EngineEvents_journal :
    (let s : State := { busy with journal := [⟨0, 0x50100, List.replicate 64 1, 2, 5, 0⟩] }
     (s.journal[0]?).isSome ∧ ((s.journal.take 0).any fun x => x.addr == 0x50100) = false ∧
      ((removeAt s.journal 0).any fun x => x.addr == 0x50100) = false ∧
      (s.homeWrite 0x50100 (List.replicate 64 1)).journal = s.journal) ∧
    (let s := busy.modWg 1 fun g => { g with prologue := some (0, 0) }
     (s.wg? 1).any (fun g => g.prologue == some (0, 0) && s.jibServes g) = true) := by decide +kernel

/-! ## Contexts, rungs, partitions -/

/-- `busy` with a second context, which waits for its turn with the priority given, at a cycle. -/
def twoCtx (prio cycle : Nat) (f : Part → Part) : State :=
  let q : Queue := { en := true, ctx := 1, tail := 1, fetch := .waiting { prio := prio } [true] 0 }
  { busy with cycle := cycle
              parts := modifyAt (fun x => f { x with queues := [(0, q)], ctxs := [(0, placedCtx), (1, { placedCtx with state := .free })] }) busy.parts 0 }

theorem meets_ContextEvents :
    (twoCtx 0 3400000 id).sliceDue 0 = some 1 ∧ (twoCtx 7 340000 id).preemptDue 0 = some 1 ∧
    (let s := twoCtx 0 0 fun x => { x with switch := .halting (some 1) }
     (s.part 0).switch = .halting (some 1) ∧ (s.part 0).resident = some 0 ∧ s.haltDone 0 0 = true ∧ (s.ctx 0 0).state ≠ .killed ∧
      (s.part 0).staged = true ∧ (s.part 0).writeback = none) ∧
    (let s := twoCtx 0 0 fun x => { x with switch := .halting none, ctxs := [(0, { placedCtx with state := .killed })] }
     (s.part 0).switch = .halting none ∧ (s.part 0).resident = some 0 ∧ s.haltDone 0 0 = true ∧ (s.ctx 0 0).state = .killed) ∧
    (let s := twoCtx 0 0 fun x => { x with switch := .exchanging (some 1), resident := none }
     (s.part 0).switch = .exchanging (some 1) ∧ (s.part 0).resident = none ∧ (s.ctx 0 1).valid = true ∧ (s.ctx 0 1).state = .free ∧
      (s.ctx 0 1).raised = none ∧ (0 : BitVec 2).toNat < s.parts.length ∧ s.pkgState = 0 ∧ ({ s with pkgState := 2 } : State).pkgState ≠ 0) ∧
    -- context 0 was resident before context 1
    (let s := twoCtx 0 0 fun x => { x with lastIn := some 0 }
     Sparse.wf {} (s.part 0).ctxs = true ∧ (s.part 0).lastIn = some 0 ∧ (0 : BitVec 6) ≠ 1) ∧
    (let s := twoCtx 0 0 fun x => { x with switch := .exchanging none }
     (s.part 0).switch = .exchanging none ∧ (s.part 0).resident = some 0 ∧ (s.ctx 0 0).state = .resident) ∧
    (let s := twoCtx 0 0 fun x => { x with writeback := some 1 }
     (s.part 0).writeback = some 1 ∧ (s.ctx 0 1).state ≠ .killed) := by decide +kernel

/-- `busy` whose context 0 is faulted and waits for the host, with the summary naming workgroup 1. -/
def faulted (f : Ctx → Ctx) : State :=
  busy.modPart 0 fun x => { x with resident := none, ctxs := [(0, f { placedCtx with state := .faulted, summary := { pending := true, wg := 1 } })] }

theorem meets_ContextEvents_life :
    (busy.ctx 0 0).state ≠ .killed ∧ (0 : BitVec 2).toNat < busy.parts.length ∧
    (let s := busy.modCtx 0 0 fun x => { x with state := .killed, valid := false, zeroed := true }
     (s.ctx 0 0).state = .killed ∧ (s.ctx 0 0).valid = false ∧ (s.ctx 0 0).zeroed = true) ∧
    ((faulted id).ctx 0 0).summary.pending = true ∧ ((faulted id).ctx 0 0).state = .faulted ∧
    ((faulted id).ctx 0 0).summary.noWorkgroup = false ∧ ((faulted id).wg? ((faulted id).ctx 0 0).summary.wg).isSome := by decide +kernel

theorem meets_RungEvents :
    (let s := busy.modWg 1 fun g => { g with raised := some { code := .trap, rung := 2 } }
     (s.wg? 1).any (fun g => g.raised.isSome && g.handler.isNone && s.running g && s.wgCanStop g.id) = true) ∧
    (let s := busy.modCtx 0 0 fun x => { x with raised := some ({ code := .trap, rung := 3 }, {}) }
     (s.ctx 0 0).raised.isSome ∧ (s.part 0).resident = some 0 ∧ (s.part 0).switch = .none ∧ (s.part 0).staged = true ∧
      (s.part 0).writeback = none ∧ ((s.modPart 0 fun x => { x with staged := false }).part 0).staged = false ∧
      ((s.modPart 0 fun x => { x with writeback := some 1 }).part 0).writeback ≠ none) ∧
    (let s := (busy.modCtx 0 0 fun x => { x with raised := some ({ code := .trap, rung := 3 }, {}) }).modPart 0 fun x => { x with resident := none }
     (s.ctx 0 0).raised.isSome ∧ (s.part 0).resident ≠ some 0 ∧ (s.part 0).switch = .none) ∧
    ([(1 : Nat), 2].all fun k =>
      let s := { busy.modWarp 1 (fun w => { w with handler := some ⟨k, 0, true, w.splits, 0⟩ }) with cycle := 1700000 }
      (s.warp? 1).any fun w => (s.handlerLate w).any fun x => x.2.rung == k) = true ∧
    ({ faulted id with cycle := 17000000 } : State).hostLate 0 0 = true ∧
    (let s := { busy.modPart 0 (fun x => { x with raised := some ({ code := .trap, rung := 4 }, {}), resetAt := some 0 }) with cycle := 170000000 }
     (s.part 0).raised.isSome ∧ (s.part 0).resetAt = some 0 ∧ 1000 * Config.cyclesPerUs * max 1 (s.part 0).partMs.toNat ≤ s.cycle - 0) ∧
    (let s := (busy.modSplit ⟨1, 0⟩ fun p => { p with wait := .bwait 7 0 }).modWg 1 fun g => { g with bars := [(7, { init := true, fixed := true })] }
     (s.wg? 1).any (fun g => s.starved g) = true) ∧
    (busy.wg? 1).any (fun g => busy.running g && !((busy.launch? g.launch).any fun l => l.record.idempotent && decide (g.losses < 2))) = true ∧
    (let s := { busy with launches := [{ id := 1, part := 0, ctx := 0, record := { idempotent := true }, prio := 0 }] }
     (s.wg? 1).any (fun g => s.running g && (s.launch? g.launch).any fun l => l.record.idempotent && decide (g.losses < 2)) = true) := by
  decide +kernel

/-- The handler's vector at the page's start for the WARP and the WORKGROUP rung; at its end, where the frame lies in no page. -/
def risen (at_ : Nat) : State :=
  let m := busy.mem.setBytes (0x50000 + at_ + 0xD0) (leBytes 8 0x3000000000000400)
  let s := { busy with mem := m.setBytes (0x50000 + at_ + 0x1D0) (leBytes 8 0x3000000000000800) }
  (s.modCtx 0 0 fun x => { x with vecBase := BitVec.ofNat 64 (0x3000000000000000 + at_) }).modWarp 1 fun w =>
    { w with raised := some { code := .trap, fmask := 1 } }

theorem meets_RungEvents_warp :
    let r : FaultRec := { code := .trap, fmask := 1 }
    let ok := fun (s : State) (f : Option (Bool × Nat) → Bool) => (s.warp? 1).any fun w => (s.wg? w.wg).any fun g =>
      w.raised == some r && w.handler.isNone && s.running g && s.canStop w && g.raised.isNone &&
      (let s1 := s.modWarp 1 fun x => { x with raised := none, delivering := [], splits := x.splits.map (Option.map Split.stop) }
       (s1.warp? 1).any fun w1 => f ((s1.vector (w.agent g 0 none) (s.vecBase g) 1 r.code.num).map fun x =>
         ((x.1.writeCore (w.agent g 0 none) (frameAddr (s.vecBase g) w.core w.slot 1) (w1.header g w1.splits (some { r with rung := 1 }))).2.isOk,
           x.2)))
    ok (risen 0) (· == some (true, 0x3000000000000400)) = true ∧ ok (risen 0xF000) (· == some (false, 0x3000000000000400)) = true ∧
    ok (busy.modWarp 1 fun w => { w with raised := some r }) (· == none) = true ∧
    -- a split that a marker parks, and a context that does not run
    (((risen 0).modSplit ⟨1, 0⟩ fun p => { p with wait := .marker }).warp? 1).any (fun w => !((risen 0).canStop w)) = true ∧
    (let s := (risen 0).modPart 0 fun x => { x with resident := none }
     (s.wg? 1).any (fun g => !(s.running g)) = true) := by decide +kernel

theorem meets_RungEvents_workgroup :
    let r : FaultRec := { code := .trap, rung := 2, fmask := 1 }
    let s := (((risen 0).modWarp 1 fun w => { w with raised := none }).modWg 1 fun g => { g with raised := some r, live := 2 })
    let s := { s with warps := s.warps ++ [{ placedWarp with id := 2, num := 1, slot := 1 }] }
    let s2 := (s.warpsOf 1).foldl (fun t x => t.modWarp x.id fun y => { y with splits := y.splits.map (Option.map Split.stop) }) s
    let live := (s2.warpsOf 1).filter fun x => !x.exited && !x.valid.isEmpty
    (s.wg? 1).any (fun g => g.raised == some r && g.handler.isNone && s.running g && s.wgCanStop 1 && live.length == 2 &&
      (s.warps.all fun x => s.warp? x.id == some x) && ((s.warpsOf 1).all fun x => x.handler.isNone && x.raised.isNone) &&
      live.head?.any fun w => (live.all fun x => x == w || decide (w.num < x.num)) &&
        match s2.vector (w.agent g (w.valid.headD 0) none) (s.vecBase g) 2 r.code.num with
        | some (s3, v) => v == 0x3000000000000800 && (State.writeFrames g w.id r live s3).isSome
        | none => false) = true ∧
    -- a workgroup without a live warp
    (((s.modWarp 1 fun w => { w with exited := true }).modWarp 2 fun w => { w with exited := true }).warpsOf 1).all (·.exited) = true := by
  decide +kernel

theorem meets_PartitionEvents :
    (busy.pkgState = 0 ∧ (busy.part 3).state = 0 ∧ (14 : BitVec 4) ≠ 0 ∧ (14 : BitVec 4) &&& busy.diesTaken 3 = 0 ∧ (14 : BitVec 4) &&& ~~~busy.dieOn = 0) ∧
    ((15 : BitVec 4) &&& busy.diesTaken 3 ≠ 0) ∧ ((14 : BitVec 4) &&& ~~~({ busy with dieOn := 7 } : State).dieOn ≠ 0) ∧ ((busy.part 0).state = 2 ∧ (busy.part 0).dies ≠ 0) ∧
    ((busy.modPart 3 fun x => { x with state := 3 }).part 3).state = 3 ∧ (3 : BitVec 2).toNat < busy.parts.length ∧ (busy.part 0).state ≠ 3 := by
  decide +kernel

/-! ## The machine as a whole, checks, faults and frames -/

def busyWith (w : Nat) : State := State.reset.withFetchWord 32 w

theorem meets_StepRunsDecoded :
    (let m : Move := { row := .psReqNone }
     let s : State := { idle with agenda := [m] }
     (encodeNat m.row).isSome = false ∧ ({ s with agenda := [] } : State).takes m.row = true) ∧
    (let s : State := { idle with agenda := [{ row := .psReqNone }], off := true }
     ({ s with agenda := [] } : State).takes .psReqNone = false) ∧
    (let s : State := { waits (.sleep 50) with cur := none }
     s.agenda = [] ∧ s.off = false ∧
      (match s.pick s.candidates with
        | some (.event m) => (encodeNat m.row).isSome == false && s.takes m.row
        | _ => false) = true) ∧
    (idle.agenda = [] ∧ idle.candidates = [] ∧ ({ idle with off := true } : State).off = true) ∧
    (let s := busyWith 0x77800000
     s.agenda = [] ∧ s.off = false ∧ s.pick s.candidates = some (.issue ⟨1, 0⟩) ∧
      ((s.warp? 1).any fun w => ((s.atIssue ⟨1, 0⟩ w).issue? false).any fun c =>
        match ((s.atIssue ⟨1, 0⟩ w).fetchWord (c.agent none) c.g c.pc).2 with
        | .ok x => x == 0x77800000 && decode x == .ok (.nop false)
        | .error _ => false) = true) ∧
    ((ready.issue? false).any fun c =>
      match ready.places (c.agent none) .fetch 0x3000000000000000 4 with
      | (t, .ok [(.mem key, 4)]) => key == 0x50000 && (t.stale.any fun x => x.key == key && decide (c.g.started ≤ x.at_)) == false
      | _ => false) = true := by decide +kernel

/-- A split that has issued, one that waits for a result, one that waits for room. -/
theorem meets_StepRunsDecoded_issued :
    [Wait.ready, .results, .full].all (fun x =>
      let s := readySplit fun p => { p with wait := x }
      s.cur == some ⟨1, 0⟩ && (s.warp? 1).any fun w => (w.split 0).any fun p => p.wait == x) = true := by decide +kernel

/-- Memory in its form, and a step that goes on. -/
theorem meets_StepKeepsMemory : (busyWith 0x77800000).memOk ∧ ∃ t, step (busyWith 0x77800000) = .next t := by
  refine ⟨⟨by decide +kernel, rfl⟩, ?_⟩
  have h : (match step (busyWith 0x77800000) with
    | .next _ => true
    | _ => false) = true := by decide +kernel
  split at h
  · next t ht => exact ⟨t, ht⟩
  · cases h

theorem meets_OffStays :
    let s : State := { idle with off := true, agenda := [{ row := .psReqNone }] }
    s.off = true ∧ (∀ m rest, s.agenda = m :: rest → m.row ≠ .deviceReset) ∧ ∃ t, step s = .next t := by
  refine ⟨rfl, ?_, _, rfl⟩
  intro m rest h
  injection h with h1 h2
  subst h1
  decide

theorem meets_RoundTrip : (Instr.iadd true 7 3 127 127 127).wf = true ∧ encode (.iadd true 7 3 127 127 127) = some 0x83FFFFFF ∧
    decode 0x83FFFFFF = .ok (.iadd true 7 3 127 127 127) := by decide

/-- The issue of `ready`. -/
def readyIssue : Issue := (ready.issue? false).getD ⟨⟨0, 0⟩, placedWarp, { id := 0, launch := 0 }, { pc := 0, mask := 0 }, 0, 0, false⟩

theorem meets_IssueChecks :
    busy.issue? false = none ∧ ready.issue? false = some readyIssue ∧
    (({ okOp := false } : Uses).check readyIssue (.nop false)).isSome ∧
    (({ okWidth := false } : Uses).check readyIssue (.nop false)).isSome ∧
    -- a result pending on a register that the instruction reads, and a run hazard in checked mode
    ((readyWarp fun w => { w with pending := [{ split := 0, dest := .ureg 5, value := 7 }] }).issue? false).any (fun c =>
      let u : Uses := { uregs := [5] }
      (u.check c (.nop false)).isNone && u.stalled ready c) = true ∧
    (let s := (readyWarp fun w => { w with pending := [{ split := 0, dest := .slices 0 1016 8, value := 7 }], slicesA := 1024 }).modCtx 0 0
       fun x => { x with checked := true }
     (s.issue? false).any (fun c =>
       let c1 := { c with p := { c.p with wb := 31 } }
       let u : Uses := { vs := [(31, 1)], src := [(31, 1)] }
       (u.check c1 (.nop false)).isNone && u.stalled s c1 == false && s.checkedMode c1 &&
         (u.hazard c1 (u.lanes c1 &&& ~~~(if u.keyProg then 0 else c1.doneBefore))).isSome) = true) ∧
    (let c := { readyIssue with p := { readyIssue.p with hints := [⟨4, 0⟩, ⟨8, 0⟩, ⟨4, 0⟩] } }
     (({} : Uses).hintFault c.p.hints).isSome ∧ ((4 : BitVec 5) ≠ 8 ∧ ({} : Uses).fits.contains 4 = false) ∧ c.p.hints[0]? = some ⟨4, 0⟩ ∧
      c.p.hints[2]? = some ⟨4, 0⟩) ∧
    (let c := { readyIssue with p := { readyIssue.p with hints := [⟨3, 4⟩], sregs := [(5, 12)] } }
     let u : Uses := { fits := [3, 4], target := some 5 }
     u.hintFault c.p.hints = none ∧ u.targetWaits c = false ∧ (tcvtHint c.p.hints ((c.p.ureg 5).toNat % 16)).isSome ∧
      tcvtHint c.p.hints 8 = none) ∧
    ((({ vs := [(127, 386)] } : Uses).windowFault readyIssue).isSome ∧ readyIssue.w.slicesA < readyIssue.abs 127 + 386) ∧
    (match (ready.places (readyIssue.agent none) .fetch 0x3000000000010000 4).2 with
      | .error _ => true
      | _ => false) = true ∧ (0x3000000000010000 : Word).toNat / 2 ^ 60 = 3 ∧ (0x2FFFFFFFFFFFFFFC : Word).toNat / 2 ^ 60 ≠ 3 ∧
    (let s := busy.modSplit ⟨1, 0⟩ fun p => { p with pc := 0x3000000000010000 }
     (s.warp? 1).any (fun w => ((s.atIssue ⟨1, 0⟩ w).issue? false).any fun c =>
       match ((s.atIssue ⟨1, 0⟩ w).fetchWord (c.agent none) c.g c.pc).2 with
       | .error _ => true
       | _ => false) = true) ∧
    decode 0x73F00000 = .illegalOp ∧ decode 0x61000008 = .illegalWidth := by decide +kernel

/-- `busy` with a vector base: the vector of code 0x1A at the WARP rung is 0x3000000000000400. -/
def vectored : State :=
  ({ busy with mem := busy.mem.setBytes 0x500D0 (leBytes 8 0x3000000000000400) }).modCtx 0 0 fun x => { x with vecBase := 0x3000000000000000 }

def isCalm (s : State) : Bool :=
  (s.warp? 1).any fun w => (s.wg? w.wg).any fun g => (w.split 0).isSome && w.splits.length == 4 && w.handler.isNone && w.raised.isNone &&
    g.raised.isNone && g.handler.isNone && s.running g &&
      [1, 2, 3].all fun n => (w.split n).all fun q => q.canStop (!w.resultsOut n && s.storesSettled w.id)

theorem meets_TakingAFault :
    let r : FaultRec := { code := .trap, fmask := 0xFFFFFFFF, counter := 0x3000000000000000, detail := 5 }
    let stop : Word := 0x3000000000000004
    isCalm vectored ∧ r.split ≠ 0xFF ∧ (vectored.warp? 1).any (fun w => (vectored.wg? 1).any fun g =>
      let r1 : FaultRec := { r with rung := 1, split := 0, serial := w.serial }
      let s1 := vectored.stoppedFor ⟨1, 0⟩ stop
      (s1.warp? 1).any fun w1 =>
      match s1.vector (w.agent g 0 none) (vectored.vecBase g) 1 r.code.num with
      | some (t2, v) => v == 0x3000000000000400 &&
          (t2.writeCore (w.agent g 0 none) (frameAddr (vectored.vecBase g) w.core w.slot 1) (w1.header g w1.splits (some r1))).2.isOk &&
          (match t2.places (w.agent g 0 none) .store (frameAddr (vectored.vecBase g) w.core w.slot 1) 256 with
            | (u, .ok ps) => Memory.wf u.mem && ps.all fun x => match x.1 with
              | .mem key => decide (0x50FFF < key) && decide (key + x.2 ≤ 0x51100)
              | _ => false
            | _ => false)
      | none => false) = true := by decide +kernel

/-- Without a vector base, with the context's summary free, and pending already. -/
theorem meets_FaultClimbs :
    let s := busy.modCtx 0 0 fun x => { x with summary := { pending := true } }
    isCalm busy ∧ isCalm s ∧ (busy.wg? 1).any (fun g => busy.vecBase g == 0 && decide (g.part.toNat < busy.parts.length) &&
      busy.warpsOf g.id == (busy.warp? 1).toList && (busy.ctx g.part g.ctx).summary.pending == false && (busy.ctx g.part g.ctx).raised.isNone &&
      (s.ctx g.part g.ctx).summary.pending && (s.part g.part).raised.isNone) = true ∧
    (busy.warp? 1).any (fun w => w.id == 1 && w.exited == false && (w.split 0).any fun p => p.trap.isNone) = true ∧
    ([busy, s].all fun t => (t.warps.all fun v => v.handler.isNone) && t.wgs.all fun x => x.handler.isNone) = true := by
  decide +kernel

/-- A WARP handler over split 0; a frame in order, which names split 0 with its lanes, and one that names a split that was
not valid. -/
def handled (valid : Byte) : State :=
  let s := vectored.modWarp 1 fun w => { w with handler := some ⟨1, 0, true, w.splits, 0⟩ }
  { s with mem := ((s.mem.setBytes 0x5100F [valid]).setBytes 0x51040 (leBytes 8 0x3000000000000008 ++ leBytes 4 0xFFFFFFFF)) }

theorem meets_ReturnFromHandler :
    ([((1 : Byte), (none : Option Nat)), (3, some 1)].all fun v =>
      let s := handled v.1
      let d := s.drain 1 0xFFFFFFFF
      (d.warp? 1).any fun w => (d.wg? w.wg).any fun g => w.handler.any fun h => h.rung == 1 && w.id == 1 && w.held.isEmpty &&
        match (d.readDirect (w.agent g 0 none) (frameAddr (d.vecBase g) w.core w.slot 1) 256).2 with
        | .ok fr => rettCause (h.stopped w) fr == v.2 && (v.2.isSome || (reloadAll (h.stopped w) fr).all fun p => p.all fun q => q.mask != 0)
        | .error _ => false) = true := by decide +kernel

/-- The hypotheses of the frames hold of an issuing split, whatever the instruction: no result is pending and no marker set. -/
def isPlain (s : State) (sw : Bool) : Bool :=
  (s.issue? sw).any fun c => (s.warp? c.id.warp) == some c.w && c.w.split c.id.split == some c.p && c.w.pending.isEmpty && c.sw == false &&
    c.w.lanes.length == 32

theorem meets_VectorFrame : isPlain ready false ∧ readyIssue.abs 1008 + 16 ≤ 1024 ∧ readyIssue.abs 1023 + 1 ≤ 1024 := by decide +kernel
theorem meets_FlagAndPredicateFrame : isPlain ready false ∧ readyIssue.abs 1008 + 16 ≤ 1024 ∧ (0 : BitVec 3) ≠ 7 := by decide +kernel
theorem meets_UniformFrame : isPlain ready false ∧ (63 : Nat) ≠ 0 ∧ Sparse.wf (0 : Word) [(1, 7), (63, 9)] = true ∧ 2 ^ 64 - 1 < 2 ^ 64 := by
  decide +kernel

/-- Under the marker: a result outstanding, a store outstanding, neither. -/
theorem meets_MarkerParks :
    let ok := fun (s : State) (f : Issue → Bool) => (s.issue? true).any fun c =>
      (s.warp? c.id.warp) == some c.w && c.w.split c.id.split == some c.p && decide (c.id.split < 4) && c.sw && f c
    ok (readyWarp fun w => { w with pending := [{ split := 0, dest := .ureg 5, value := 7 }] })
      (fun c => c.w.resultsOut c.id.split && c.w.late.isEmpty && c.w.raised.isNone) = true ∧
    (let s := readyWarp fun w => { w with stores := [⟨some 0, 1, 0, BitVec.ofNat 64 ptr0, [1], false, none, 0, []⟩] }
     ok s (fun c => s.storesSettled c.id.warp == false) = true) ∧
    ok ready (fun c => c.w.resultsOut c.id.split == false && ready.storesSettled c.id.warp && c.w.late.isEmpty && c.w.raised.isNone &&
      (List.range 4).all fun j => (c.w.split j).all fun p => p.trap.isNone) = true := by
  decide +kernel

/-- Parked under the marker: with a result outstanding, with a store outstanding, with neither. -/
theorem meets_MarkerParks_later :
    let ok := fun (f : Warp → Warp) (g : State → Warp → Bool) =>
      let s := (waits .marker).modWarp 1 f
      (s.warp? 1).any fun w => w.id == 1 && w.raised.isNone && (w.split 0).any fun p => p.wait == .marker && p.trap.isNone && g s w
    ok (fun w => { w with pending := [{ split := 0, dest := .ureg 5, value := 7 }] }) (fun _ w => w.resultsOut 0) = true ∧
    ok (fun w => { w with stores := [⟨some 0, 1, 0, BitVec.ofNat 64 ptr0, [1], false, none, 0, []⟩] }) (fun s _ => !s.storesSettled 1) = true ∧
    ok id (fun s w => !w.resultsOut 0 && s.storesSettled 1 && w.late.isEmpty) = true := by decide +kernel

theorem meets_MemoryBytes : Memory.wf [(5, 1), (7, 2)] = true ∧ Memory.wf ([] : Cells) = true ∧ Memory.wf (idle.mem) = true := by decide

/-- A store that its page takes, at the end of a sector, and one to an unmapped page. -/
def storing (p done : Nat) : State :=
  (readyTwo ptr0).modWarp 1 fun w => { w with stores := [⟨some 0, 1, 0, BitVec.ofNat 64 p, [1, 2], false, none, 0, (List.range done)⟩] }

/-- The last part of a store, within a sector and behind another, and a first part with one behind it; at a place that is there and
at one that is not. -/
theorem meets_StoreSettles :
    ([(ptr0 + 30, 0, 1, true), (0x3000000000010000, 0, 1, false), (ptr0 + 31, 1, 1, true), (ptr0 + 31, 0, 2, true), (0x300000000001001F, 0, 2, false)].all
     fun (x : Nat × Nat × Nat × Bool) =>
      let s := storing x.1 x.2.1
      (s.warp? 1).any fun w => w.id == 1 && (s.wg? w.wg).any fun g => (w.stores[0]?).any fun q =>
        let left := q.left
        left.length == x.2.2.1 && left.head?.any fun y =>
        match ((s.beforeStore w g q).place { w.agent g 0 q.lane with handler := q.inHandler } .store q.ptr.toNat y.1 y.2 q.data.length).2 with
        | .ok (.mem _) => x.2.2.2
        | .ok _ => false
        | .error _ => !x.2.2.2) = true := by decide +kernel

/-! ## Words that the manual writes out for its examples -/

def decodes (xs : List (BitVec 32 × Instr)) : Bool := xs.all fun x => decode x.1 == .ok x.2 && encode x.2 == some x.1

/-- Chapter 12: LD.32, ST.32, LDL.512, LDS.n48, FENCE.sc.pkg, and ADD with HINT.ORD before it (R326 to R336). -/
theorem test_decode_memory : decodes [(0x681EA810, .ld false 7 5 40 8 0), (0x683EA810, .st false 7 5 40 8 0),
    (0x685CC010, .ldl false 7 1 64 8), (0x689E2811, .lds false 7 4 40 8 1), (0x68FC0F00, .fence false 7 3 3),
    (0x6825B440, .st false 1 3 52 32 0), (0xEC003080, .atomAdd true 0 0 0 48 64 0)] = true := by decide

/-- Chapters 10 and 13: CSRW QB0, SMOVI and SLUI. -/
theorem test_decode_uniform : decodes [(0x71F10040, .csrw false 4 0x10), (0x71104000, .smovi false 1 0), (0x71204000, .slui false 1 0),
    (0x7000C414, .sadd false 3 4 5)] = true := by decide

/-- Chapter 12: barriers, CPY; chapter 10: SPAWN and QPULL. -/
theorem test_decode_barriers_queues : decodes [(0x78020900, .binit false 8 9), (0x78120920, .barv false 8 9 1), (0x78610620, .cpy false 4 6 8),
    (0x78511901, .bstat false 4 25 1), (0x7A60A1C1, .spawn false 0 40 56 1), (0x7A80A001, .qpull false 0 40 1),
    (0x7B134E00, .waite false 13 14), (0x7B234E00, .sige false 13 14)] = true := by decide

/-- Chapter 15 (R363). -/
theorem test_decode_tables : decodes [(0x79942800, .tbind false 2 5), (0x79A0A1C1, .tget false 0 40 56 1), (0x79B0A1C1, .tgetx false 0 40 56 1),
    (0x79C0A1C2, .tins false 0 40 56 2), (0x79D2A1C3, .tinsx false 1 40 56 3), (0x79E0A1C2, .tups false 0 40 56 2),
    (0x79F001C1, .tdel false 0 56 1), (0x7A0301C0, .tscan false 1 64 56), (0x7A12A202, .tnext false 1 40 64 2),
    (0x7A22A1C0, .tcnt false 1 40 56), (0x7A32A1C0, .tref false 1 40 56), (0x7A451000, .href false 40 64), (0x7A580000, .hbnd false 64)] = true := by
  decide

/-- Chapter 17. -/
theorem test_decode_tiles : decodes [(0x78911080, .tld false 1 4 8), (0x78A11081, .tst false 1 4 8 1), (0x78B21000, .tmov false 2 1),
    (0x78C11000, .thdr false 1 4), (0x78D11000, .thset false 1 4), (0x78E21180, .tcvt false 2 1 6), (0x78F11000, .tfill false 1 4),
    (0x79018028, .tdrn false 1 64 5), (0x79100240, .mma false 0 0 1 8 0), (0x79144641, .mma false 2 2 3 8 1), (0x79208310, .adrn false 0 4 6 8),
    (0x79302100, .afill false 0 4 8), (0x79410000, .tbnd false 1), (0x79511480, .prune false 1 5 1), (0x79601000, .ldh false 0 4),
    (0x79702000, .seth false 0 8), (0x79801000, .sth false 0 4)] = true := by decide

/-- Chapter 19 (R406), and hints (R269). -/
theorem test_decode_rates_hints : decodes [(0x7AA22800, .rsweep false 1 5), (0x7AB001C1, .rdue false 0 56 1), (0x7AC0A1C2, .rvisit false 0 40 56 2),
    (0x7AD0A1C0, .rreadh false 0 40 56), (0x7AE0A1C0, .rreadx false 0 40 56), (0x7AF0A1C0, .rset false 0 40 56), (0x7C800000, .hintSat),
    (0x7C010000, .hintImm 0x10000), (0x7C200180, .hintImmhi 0x180), (0x7C400001, .hintGuard 0 1), (0x7CA0000E, .hintOrd 3 2),
    (0x7CFFFFFE, .hintOffs 0x1FFFFE)] = true := by decide

/-! ## Single instructions: the manual's worked examples, and corners calculated by hand from its rules -/

/-- What an instruction leaves in a state, if it answers a next state. -/
def after {α : Type} (s : State) (i : Instr) (f : State → α) : Option α :=
  match exec i s with
  | .next t => some (f t)
  | _ => none

/-- Slices of a lane of warp 1, and S(n) of its split 0. -/
def lane1 (l start width : Nat) (t : State) : Nat := (t.laneOf 1 l).get start width
def reg1 (n : Nat) (t : State) : Nat := ((t.splitOf ⟨1, 0⟩).map fun p => (p.ureg n).toNat).getD 0

/-- `ready` with hints, and lane l's slices `f l`, in the lanes of a mask. -/
def lanesReady (m : BitVec 32) (hs : List HintRec) (f : Nat → Nat) (ps : Nat → Nat) : State :=
  (readyWarp fun w => { w with lanes := (List.range 32).map fun l => { slices := BitVec.ofNat 4096 (f l), preds := BitVec.ofNat 8 (ps l) } }).modSplit
    ⟨1, 0⟩ fun p => { p with mask := m, hints := hs }

/-- R307: 0x70 + 0x20 saturates to 0x7F, and is 0x90 without HINT.SAT. -/
theorem test_iadd_sat :
    let s := fun hs => lanesReady 1 hs (fun _ => 0x70 * 2 ^ 160 + 0x20 * 2 ^ 168) fun _ => 0
    after (s [⟨4, 0⟩]) (.iadd false 1 0 40 40 42) (lane1 0 40 2) = some 0x7F ∧ after (s []) (.iadd false 1 0 40 40 42) (lane1 0 40 2) = some 0x90 := by
  decide +kernel

/-- R313: VMOVI.16 of −3. -/
theorem test_vmovi : after ready (.vmovi false 3 40 0x7FD) (lane1 31 40 4) = some 0xFFFD := by decide +kernel

/-- R322: index 37 at slices 8 to 11 names lane 2's slices 84 to 87. -/
theorem test_shfx :
    let s := lanesReady 0xFFFFFFFF [] (fun l => 37 * 2 ^ 32 + (0x1000 + l) * 2 ^ (4 * 84)) fun _ => 0
    after s (.shfx false 3 0 40 64 8) (lane1 5 40 4) = some 0x1002 := by decide +kernel

/-- R323: the example of lanes 0 to 7. -/
theorem test_scans :
    let s := lanesReady 0xFF [] (fun l => [3, 1, 4, 1, 5, 9, 2, 6].getD l 0 * 2 ^ 192) fun l => if l = 3 ∨ l = 5 then 0x20 else 0
    let out := fun i => after s i fun t => (List.range 8).map fun l => lane1 l 40 8 t
    out (.vscan false 5 40 48 0 5) = some [3, 4, 8, 1, 6, 9, 11, 17] ∧ out (.vscanx false 5 40 48 0 5) = some [0, 3, 4, 0, 1, 0, 9, 11] ∧
      out (.vred false 5 40 48 0 5) = some [8, 8, 8, 6, 6, 17, 17, 17] ∧ out (.vredmax false 5 40 48 0 7) = some (List.replicate 8 9) := by
  decide +kernel

/-- R323: VRED.f32 over 2^24, 1.0 and 1.0 is 2^24. -/
theorem test_vred_f32 :
    let s := lanesReady 7 [] (fun l => [0x4B800000, 0x3F800000, 0x3F800000].getD l 0 * 2 ^ 192) fun _ => 0
    after s (.vred false 5 40 48 1 7) (lane1 2 40 8) = some 0x4B800000 := by decide +kernel

/-- R229: 1.25 to E2M1 under SR with the draws 0x1234 and 0x9000 gives 1.5 (0x3) and 1 (0x2). -/
theorem test_stochastic :
    let f := FloatFmt.e2m1
    let x := FloatFmt.f32.decode 0x3FA00000
    (f.ofVal { mode := .sr, draw := 0x1234 } x).code = 3 ∧ (f.ofVal { mode := .sr, draw := 0x9000 } x).code = 2 := by decide +kernel

/-- BF16 3.5 has bound 0x4060_0000; against 4.0 PRUNE answers 1, against 3.5 it answers 0. -/
theorem test_bound :
    let b := FloatFmt.f32.decode (boundOf (FloatFmt.bf16.decode 0x4060))
    boundOf (FloatFmt.bf16.decode 0x4060) = 0x40600000 ∧ b.ltNum (FloatFmt.f32.decode 0x40800000) = true ∧ b.ltNum (FloatFmt.f32.decode 0x40600000) = false := by
  decide +kernel

/-- R337: four lanes add 1 to one word that holds 0; without .nr each has a result on its way, and at the home slice the word
ends at 4. -/
theorem test_atomic_add :
    let s := lanesReady 0xF [] (fun _ => ptr0 + 1 * 2 ^ (4 * 16)) fun _ => 0
    after s (.atomAdd false 0 7 0 16 0 1) (fun t => (t.warp? 1).map fun w => w.pending.length) = some (some 0) ∧
      after s (.atomAdd false 0 7 0 16 0 0) (fun t => (t.warp? 1).map fun w => w.pending.length) = some (some 4) ∧
      after s (.atomAdd false 3 7 0 16 0 1) (fun t => leNat (t.mem.bytes 0x50100 4)) = some 4 := by decide +kernel

/-- R121, R285: s0 discards and reads zero; a sum wraps; a signed high product. -/
theorem test_uniform :
    let s := readyRegs [(1, 0xFFFFFFFFFFFFFFFF), (2, 2)]
    after s (.sadd false 3 1 2) (reg1 3) = some 1 ∧ after s (.sadd false 0 1 2) (reg1 0) = some 0 ∧
      after s (.smulh false 3 1 2) (reg1 3) = some 0xFFFFFFFFFFFFFFFF ∧ after s (.sltu false 3 2 1) (reg1 3) = some 1 ∧
      after s (.slt false 3 2 1) (reg1 3) = some 0 := by decide +kernel

/-- R278: the taken lanes of a CBR go to the lowest free split, with a copy of the uniform file. -/
theorem test_fork :
    let s := (lanesReady 0xFFFFFFFF [] (fun _ => 0) fun l => if 16 ≤ l then 1 else 0).modSplit ⟨1, 0⟩ fun p => { p with sregs := [(4, 7)] }
    after s (.cbr false 0 0 4) (fun t => ([0, 1].map fun n => (t.splitOf ⟨1, n⟩).map fun p => (p.mask, p.pc, p.ureg 4))) =
      some [some (0x0000FFFF, 0x3000000000000004, 7), some (0xFFFF0000, 0x3000000000000010, 7)] := by decide +kernel

/-- R307, R317: shifts by the width; a signed and an unsigned compare. -/
theorem test_shifts_compares :
    let s := lanesReady 1 [] (fun _ => 0x80 + 8 * 2 ^ 8 + 0x7F * 2 ^ 16) fun _ => 0
    after s (.shl false 1 0 40 0 2) (lane1 0 40 2) = some 0 ∧ after s (.sra false 1 0 40 0 2) (lane1 0 40 2) = some 0xFF ∧
      after s (.icmpLt false 1 4 0 0 1) (fun t => (t.laneOf 1 0).pred 1) = some true ∧
      after s (.icmpLtu false 1 4 0 0 1) (fun t => (t.laneOf 1 0).pred 1) = some false := by decide +kernel

/-- R230: 1 + 2^-24 is a tie and goes to the even 1. -/
theorem test_fadd_tie :
    let s := lanesReady 1 [] (fun _ => 0x3F800000 + 0x33800000 * 2 ^ 32) fun _ => 0
    after s (.fadd false 5 0 40 0 8) (lane1 0 40 8) = some 0x3F800000 := by decide +kernel

/-- A step fetches a NOP and its split goes on by 4 (R253). -/
theorem test_step :
    (match step (busyWith 0x77800000) with
      | .next t => (t.splitOf ⟨1, 0⟩).map (·.pc)
      | _ => none) = some 0x3000000000000004 := by decide +kernel

/-- R214: a TRAP with a vector goes to the vector, and the frame holds the counter behind the TRAP. -/
theorem test_trap :
    after { vectored with cur := some ⟨1, 0⟩ } (.trap false 7 0 5) (fun t =>
      ((t.splitOf ⟨1, 0⟩).map (·.pc), leNat (t.mem.bytes (0x51000 + 64) 8), (t.warp? 1).map fun w => w.fmask)) =
      some (some 0x3000000000000400, 0x3000000000000004, some 0xFFFFFFFF) := by decide +kernel

end Sys2Proof.Machine
end

section
/-! SUPPORT. Bytes written read back (R4, R17). -/
namespace Sys2Proof.Machine

theorem Cells.bytes_setBytes {m : Cells} (hm : Memory.wf m = true) (a : Nat) (bs : List Byte) :
    (m.setBytes a bs).bytes a bs.length = bs := by
  rw [Cells.bytes_eq (Cells.setBytes_wf hm a bs)]
  refine List.ext_getElem (by simp) fun k h _ => ?_
  have hk : k < bs.length := by simpa using h
  rw [List.getElem_map, List.getElem_range, Cells.byte_setBytes hm, if_pos (by omega), Nat.add_sub_cancel_left,
    List.getD_eq_getElem _ _ hk]

end Sys2Proof.Machine

open Sys2Proof.Machine

/-- Settles O58 from read after write of one byte, the frame of `setBytes` and extensionality of canonical maps. -/
theorem memoryBytes : Obligations.MemoryBytes := by
  unfold Obligations.MemoryBytes
  refine ⟨fun m a bs hm => ⟨Cells.setBytes_wf hm a bs, Cells.bytes_setBytes hm a bs, fun k hk => ?_, fun k hk => ?_⟩,
    fun m a n hm => Cells.bytes_eq hm a n,
    fun m a v hm => ⟨Cells.setByte_wf hm a v, ?_, fun k hk => ?_⟩,
    fun m n hm hn h => Sparse.ext_from hm hn h, leNat_leBytes, leBytes_leNat⟩
  · rw [Cells.byte_setBytes hm, if_neg (by omega)]
  · rw [Cells.byte_setBytes hm, if_pos (by omega), Nat.add_sub_cancel_left]
  · rw [Cells.byte_setByte hm, if_pos rfl]
  · rw [Cells.byte_setByte hm, if_neg hk]
end

section
/-! SUPPORT. Register accesses of the host: sizes, alignment, and the registers with a row of their own (R6, R41, R154, R426). -/
namespace Sys2Proof.Machine

/-! ## Register accesses of the host (R6, R41) -/

section
variable {s : State}

/-- An access that execution takes up: in the window, of 4 or 8 bytes, aligned (R41). -/
def State.regAccess (s : State) : Prop :=
  s.args.addr < 2 ^ 26 ∧ (s.args.size = 4 ∨ s.args.size = 8) ∧ s.args.addr % s.args.size = 0

theorem State.regAccess_tests (h : s.regAccess) :
    ¬ 2 ^ 26 ≤ s.args.addr ∧ ¬ ((s.args.size ≠ 4 ∧ s.args.size ≠ 8) ∨ s.args.addr % s.args.size ≠ 0) := by
  obtain ⟨ha, hn, hm⟩ := h
  exact ⟨by omega, fun h => by rcases h with h | h <;> omega⟩

theorem exec_registerRead (h : s.regAccess) (hf : s.args.flag = true) :
    Goes .registerWrite s { s with hostReply := (s.regRead (s.args.addr / 8 * 8)).map fun v =>
      ⟨leBytes s.args.size (v / 2 ^ (8 * (s.args.addr % 8))), false⟩ } := by
  obtain ⟨ha, hn⟩ := State.regAccess_tests h
  simp only [Goes, exec_registerWrite, execRegisterWrite, if_neg ha, if_neg hn, hf, if_true]

theorem exec_registerWrite_awake (h : s.regAccess) (hf : s.args.flag = false)
    (hw : s.pkgState = 0 ∨ isPartCtl (s.args.addr / 8 * 8) = false) :
    Goes .registerWrite s (s.regWrite (s.args.addr / 8 * 8)
      (s.args.val.toNat % 2 ^ (8 * s.args.size) * 2 ^ (8 * (s.args.addr % 8)))
      ((2 ^ (8 * s.args.size) - 1) * 2 ^ (8 * (s.args.addr % 8)))) := by
  obtain ⟨ha, hn⟩ := State.regAccess_tests h
  have hnone : (if isPartCtl (s.args.addr / 8 * 8) then s.wakeFor .registerWrite else none) = none := by
    rcases hw with hw | hw <;> simp [State.wakeFor, hw]
  simp only [Goes, exec_registerWrite, execRegisterWrite, if_neg ha, if_neg hn, hf, Bool.false_eq_true, if_false, hnone]

theorem exec_registerWrite_asleep (h : s.regAccess) (hf : s.args.flag = false)
    (hw : ¬ (s.pkgState = 0 ∨ isPartCtl (s.args.addr / 8 * 8) = false)) :
    Goes .registerWrite s { s.wake with deferred := s.deferred ++ [⟨.registerWrite, s.args⟩] } := by
  obtain ⟨ha, hn⟩ := State.regAccess_tests h
  obtain ⟨hp, hc⟩ := not_or.mp hw
  simp only [Goes, exec_registerWrite, execRegisterWrite, if_neg ha, if_neg hn, hf, Bool.false_eq_true, if_false, State.wakeFor, if_neg hp,
    Bool.of_not_eq_false hc, if_true]

theorem exec_registerWrite_bad (ha : s.args.addr < 2 ^ 26)
    (hn : (s.args.size ≠ 4 ∧ s.args.size ≠ 8) ∨ s.args.addr % s.args.size ≠ 0) :
    Goes .registerWrite s
      ((if s.args.flag then { s with hostReply := some ⟨allOnes s.args.size, false⟩ } else s).raiseEvt 7) := by
  simp only [Goes, exec_registerWrite, execRegisterWrite, if_neg (by omega : ¬ 2 ^ 26 ≤ s.args.addr), if_pos hn]

/-- A partition's field is changed only where it stands: an update that leaves the present entry alike may be replaced. -/
theorem State.modPart_congr {p : BitVec 2} {f g : Part → Part} (h : f (s.part p) = g (s.part p)) : s.modPart p f = s.modPart p g := by
  unfold State.modPart
  congr 1
  refine List.ext_getElem? fun k => ?_
  rw [modifyAt_getElem?, modifyAt_getElem?]
  split
  · next hk =>
    subst hk
    cases hx : s.parts[p.toNat]? with
    | none => rfl
    | some x =>
      have hd : s.part p = x := by simp [State.part, List.getD_eq_getElem?_getD, hx]
      rw [Option.map_some, Option.map_some, ← hd, h]
  · rfl

end

theorem exec_handleMint_live {s : State} (h : (s.part s.args.p).state = 2) :
    Goes .handleMint s { s with hostReply := some ⟨leBytes 8
      ((s.part s.args.p).hmintIndex.toNat + 2 ^ 32 * (s.part s.args.p).hmintGen.toNat +
        2 ^ 48 * (Config.shroudCheck (s.part s.args.p).secret (s.part s.args.p).hmintIndex (s.part s.args.p).hmintGen).toNat), false⟩ } := by
  simp only [Goes, exec_handleMint, execHandleMint, Part.hmint, if_pos h, at_, Nat.mul_comm]

theorem ofNat_bits (n v lo : Nat) : BitVec.ofNat n (bits v lo n) = BitVec.ofNat n (v / 2 ^ lo) :=
  BitVec.eq_of_toNat_eq (by simp only [BitVec.toNat_ofNat, bits, Nat.mod_mod])

theorem exec_translationInvalidate_go {s : State} (hv : s.args.val.toNat % 2 = 1) (hg : (s.part s.args.p).xltGo = false) :
    Goes .translationInvalidate s (s.modPart s.args.p fun x =>
      { x with xltVa := BitVec.ofNat 41 (s.args.val.toNat / 2 ^ 16), xltCtx := BitVec.ofNat 6 (s.args.val.toNat / 2 ^ 8),
               xltAll := s.args.val.toNat.testBit 1, xltGo := true }) := by
  have hb : s.args.val.toNat.testBit 0 = true := by simpa [Nat.testBit_zero] using hv
  simp only [Goes, exec_translationInvalidate, execTranslationInvalidate, hb, if_true, State.writeXlt]
  rw [State.modPart_congr]
  simp only [hg, Bool.false_eq_true, if_false, ofNat_bits]

theorem exec_xltinvComplete_go {s : State} (hg : (s.part s.args.p).xltGo = true) :
    Goes .xltinvComplete s
      { s.modPart s.args.p fun x => { x with xltGo := false } with
        tlb := s.tlb.filter fun e => !(e.named s.args.p (s.part s.args.p))
        walks := s.walks.filter fun e => !(e.named s.args.p (s.part s.args.p)) } := by
  simp only [Goes, exec_xltinvComplete, execXltinvComplete, hg, if_true]

theorem registerRows : RegisterRows := by
  intro s
  have hv : s.args.val.toNat < 2 ^ 64 := s.args.val.isLt
  refine ⟨?_, ?_, ?_, ?_, ?_, ?_, ?_, ?_, ?_, exec_handleMint_live, ?_, exec_translationInvalidate_go, exec_xltinvComplete_go⟩
  · intro ha hn hm hf
    have h := exec_registerRead ⟨ha, .inr hn, by rw [hn]; exact hm⟩ hf
    have hb : s.args.addr / 8 * 8 = s.args.addr := by omega
    simp only [hn, hm, hb, Nat.mul_zero, Nat.pow_zero, Nat.div_one] at h
    exact h
  · intro ha hn hm hf
    have h := exec_registerRead ⟨ha, .inl hn, by rw [hn]; omega⟩ hf
    have hb : s.args.addr / 8 * 8 = s.args.addr := by omega
    simp only [hn, hm, hb, Nat.mul_zero, Nat.pow_zero, Nat.div_one] at h
    exact h
  · intro ha hn hm hf
    have h := exec_registerRead ⟨ha, .inl hn, by rw [hn]; omega⟩ hf
    have hb : s.args.addr / 8 * 8 = s.args.addr - 4 := by omega
    rw [hn, hm, hb] at h
    exact h
  · intro ha hn hm hf hw
    have h := exec_registerWrite_awake ⟨ha, .inr hn, by rw [hn]; exact hm⟩ hf hw
    have hb : s.args.addr / 8 * 8 = s.args.addr := by omega
    rwa [hn, hm, hb, Nat.mul_zero, Nat.pow_zero, Nat.mul_one, Nat.mul_one, Nat.mod_eq_of_lt hv] at h
  · intro ha hn hm hf hw
    have h := exec_registerWrite_awake ⟨ha, .inl hn, by rw [hn]; omega⟩ hf hw
    have hb : s.args.addr / 8 * 8 = s.args.addr := by omega
    rwa [hn, hm, hb, Nat.mul_zero, Nat.pow_zero, Nat.mul_one, Nat.mul_one] at h
  · intro ha hn hm hf hw
    have h := exec_registerWrite_awake ⟨ha, .inl hn, by rw [hn]; omega⟩ hf hw
    have hb : s.args.addr / 8 * 8 = s.args.addr - 4 := by omega
    rwa [hn, hm, hb] at h
  · exact fun ha hn hm hf hw => exec_registerWrite_asleep ⟨ha, hn, hm⟩ hf hw
  · intro ha hn hf
    have h := exec_registerWrite_bad ha hn
    simp only [hf, Bool.false_eq_true, if_false] at h
    exact h
  · intro ha hn hf
    have h := exec_registerWrite_bad ha hn
    simp only [hf, if_true] at h
    exact h
  · exact ⟨s.clearCounters s.args.val.toNat, rfl, fun hb => if_pos hb, fun hb => by simp [State.clearCounters, hb], rfl⟩

end Sys2Proof.Machine
end

section
/-! SUPPORT. The control window: what each block reads and takes (R40 to R46, R49, R59). -/
namespace Sys2Proof.Machine

/-! ## Reading and writing the control window block by block (R40) -/

/-- A write of all 64 bits replaces the word. -/
theorem mergeWord_all {old : Nat} (ho : old < 2 ^ 64) (v : Nat) : (old - (old &&& (2 ^ 64 - 1))) ||| v = v := by
  rw [Nat.and_two_pow_sub_one_eq_mod, Nat.mod_eq_of_lt ho, Nat.sub_self, Nat.zero_or]

/-- A write of the lower half keeps the upper one. -/
theorem mergeWord_low (old v : Nat) : (old - (old &&& (2 ^ 32 - 1))) ||| (v % 2 ^ 32) = old / 2 ^ 32 * 2 ^ 32 + v % 2 ^ 32 := by
  have ho : old - old % 2 ^ 32 = 2 ^ 32 * (old / 2 ^ 32) := by omega
  rw [Nat.and_two_pow_sub_one_eq_mod, ho, ← Nat.two_pow_add_eq_or_of_lt (Nat.mod_lt _ (by decide)), Nat.mul_comm]

theorem toNat_ofNat_of_lt {n v : Nat} (h : v < 2 ^ n) : (BitVec.ofNat n v).toNat = v := by
  rw [BitVec.toNat_ofNat, Nat.mod_eq_of_lt h]

section
variable {s : State} {off : Nat}

theorem State.regRead_dev (h : off < 0x10000) : s.regRead off = some (s.devRead off) := if_pos h

theorem State.regWrite_dev (h : off < 0x10000) (w m : Nat) :
    s.regWrite off w m = s.devWrite off ((s.devRead off - (s.devRead off &&& m)) ||| w) w m := by
  simp only [State.regWrite, State.regRead_dev h, if_pos h]

theorem State.regRead_booted (hb : s.bootStage = 5) (h : 0x10000 ≤ off) (hl : ¬ (0x50000 ≤ off ∧ off < 0x60000)) :
    s.regRead off =
      if off < 0x20000 then some (s.pwrRead (off - 0x10000))
      else if off < 0x30000 then some (s.stayRead (off - 0x20000))
      else if off < 0x40000 then some (s.cxlpRead (off - 0x30000))
      else if off < 0x48000 then some (Sparse.get 0 s.msix ((off - 0x40000) / 8)).toNat
      else if off < 0x1000000 then some 0
      else if off < 0x2000000 then
        (s.part (BitVec.ofNat 2 ((off - 0x1000000) / 0x400000))).read s.free ((off - 0x1000000) % 0x400000)
      else some (s.counterRead (off - 0x2000000)) := by
  simp only [State.regRead, if_neg (Nat.not_lt.mpr h), if_neg hl, hb, ne_eq, not_true_eq_false, if_false]

theorem State.regRead_pwr (hb : s.bootStage = 5) (h : off < 0x10000) : s.regRead (0x10000 + off) = some (s.pwrRead off) := by
  rw [State.regRead_booted hb (by omega) (by omega), if_pos (by omega), Nat.add_sub_cancel_left]

theorem State.regRead_stay (hb : s.bootStage = 5) (h : off < 0x10000) : s.regRead (0x20000 + off) = some (s.stayRead off) := by
  rw [State.regRead_booted hb (by omega) (by omega), if_neg (by omega), if_pos (by omega), Nat.add_sub_cancel_left]

theorem State.regRead_msix (hb : s.bootStage = 5) (h : 0x40000 ≤ off) (h' : off < 0x48000) :
    s.regRead off = some (Sparse.get 0 s.msix ((off - 0x40000) / 8)).toNat := by
  rw [State.regRead_booted hb (by omega) (by omega)]
  iterate 3 rw [if_neg (by omega)]
  exact if_pos h'

theorem State.regRead_part (hb : s.bootStage = 5) (p : BitVec 2) (h : off < 0x400000) :
    s.regRead (0x1000000 + 0x400000 * p.toNat + off) = (s.part p).read s.free off := by
  have hp := p.isLt
  have hq : (0x1000000 + 0x400000 * p.toNat + off - 0x1000000) / 0x400000 = p.toNat := by omega
  have hr : (0x1000000 + 0x400000 * p.toNat + off - 0x1000000) % 0x400000 = off := by omega
  rw [State.regRead_booted hb (by omega) (by omega)]
  iterate 5 rw [if_neg (by omega)]
  rw [if_pos (by omega), hq, hr, BitVec.ofNat_toNat, BitVec.setWidth_eq]

theorem State.regWrite_pwr (hb : s.bootStage = 5) (h : off < 0x10000) (w m : Nat) :
    s.regWrite (0x10000 + off) w m = s.pwrWrite off ((s.pwrRead off - (s.pwrRead off &&& m)) ||| w) w := by
  simp only [State.regWrite, State.regRead_pwr hb h]
  rw [if_neg (by omega), if_pos (by omega), Nat.add_sub_cancel_left]

theorem State.regWrite_stay (hb : s.bootStage = 5) (h : off < 0x10000) (w m : Nat) :
    s.regWrite (0x20000 + off) w m = s.stayWrite off ((s.stayRead off - (s.stayRead off &&& m)) ||| w) m := by
  simp only [State.regWrite, State.regRead_stay hb h]
  rw [if_neg (by omega), if_neg (by omega), if_pos (by omega), Nat.add_sub_cancel_left]

theorem State.regWrite_part (hb : s.bootStage = 5) (p : BitVec 2) (h : off < 0x400000) {old : Nat}
    (ho : (s.part p).read s.free off = some old) (w m : Nat) :
    s.regWrite (0x1000000 + 0x400000 * p.toNat + off) w m = s.partWrite p off ((old - (old &&& m)) ||| w) w m := by
  have hp := p.isLt
  have hq : (0x1000000 + 0x400000 * p.toNat + off - 0x1000000) / 0x400000 = p.toNat := by omega
  have hr : (0x1000000 + 0x400000 * p.toNat + off - 0x1000000) % 0x400000 = off := by omega
  simp only [State.regWrite, State.regRead_part hb p h, ho]
  iterate 7 rw [if_neg (by omega)]
  rw [if_pos (by omega), hq, hr, BitVec.ofNat_toNat, BitVec.setWidth_eq]

theorem State.regWrite_msix (hb : s.bootStage = 5) (h : 0x40000 ≤ off) (h' : off < 0x48000) {v : Nat} :
    s.regWrite off v (2 ^ 64 - 1) = { s with msix := Sparse.set 0 s.msix ((off - 0x40000) / 8) (BitVec.ofNat 64 v) } := by
  simp only [State.regWrite, State.regRead_msix hb h h']
  iterate 5 rw [if_neg (by omega)]
  rw [if_pos h', mergeWord_all (BitVec.isLt _)]

/-- A partition's register whose write changes the partition alone reads back by the partition as changed. -/
theorem State.regRead_regWrite_part (hb : s.bootStage = 5) {p : BitVec 2} (hp : p.toNat < s.parts.length) (h : off < 0x400000)
    {old v x : Nat} {f : Part → Part} (ho : (s.part p).read s.free off = some old) (hold : old < 2 ^ 64)
    (hw : s.partWrite p off v v (2 ^ 64 - 1) = s.modPart p f) (hr : (f (s.part p)).read s.free off = some x) :
    (s.regWrite (0x1000000 + 0x400000 * p.toNat + off) v (2 ^ 64 - 1)).regRead (0x1000000 + 0x400000 * p.toNat + off) = some x := by
  rw [State.regWrite_part hb p h ho, mergeWord_all hold, hw, State.regRead_part (by exact hb) p h, State.part_modPart,
    if_pos ⟨rfl, hp⟩]
  exact hr

end

/-! Where the registers of a partition's queues and contexts lie (R49, R59). -/

section
variable {s : State} {p : BitVec 2} {o : Nat}

theorem Part.read_queue (x : Part) (n : Nat) (q : BitVec 6) (h : o < 256) : x.read n (0x1000 + 256 * q.toNat + o) = some ((x.queue q).read o) := by
  have hq := q.isLt
  have h1 : (0x1000 + 256 * q.toNat + o - 0x1000) / 256 = q.toNat := by omega
  have h2 : (0x1000 + 256 * q.toNat + o) % 256 = o := by omega
  rw [Part.read, if_neg (by omega), if_pos (by omega), h1, h2, BitVec.ofNat_toNat, BitVec.setWidth_eq]

theorem State.partWrite_queue (q : BitVec 6) (h : o < 256) (v w m : Nat) :
    s.partWrite p (0x1000 + 256 * q.toNat + o) v w m = s.queueWrite p q o v w m := by
  have hq := q.isLt
  have h1 : (0x1000 + 256 * q.toNat + o - 0x1000) / 256 = q.toNat := by omega
  have h2 : (0x1000 + 256 * q.toNat + o) % 256 = o := by omega
  rw [State.partWrite, if_neg (by omega), if_pos (by omega), h1, h2, BitVec.ofNat_toNat, BitVec.setWidth_eq]

theorem Part.read_ctx (x : Part) (n : Nat) (c : BitVec 6) (h : o < 64) : x.read n (0x5000 + 64 * c.toNat + o) = some ((x.ctx c).read o) := by
  have hc := c.isLt
  have h1 : (0x5000 + 64 * c.toNat + o - 0x5000) / 64 = c.toNat := by omega
  have h2 : (0x5000 + 64 * c.toNat + o) % 64 = o := by omega
  rw [Part.read, if_neg (by omega), if_neg (by omega), if_pos (by omega), h1, h2, BitVec.ofNat_toNat, BitVec.setWidth_eq]

theorem State.partWrite_ctx (c : BitVec 6) (h : o < 64) (v w m : Nat) :
    s.partWrite p (0x5000 + 64 * c.toNat + o) v w m = s.ctxWrite p c o v w := by
  have hc := c.isLt
  have h1 : (0x5000 + 64 * c.toNat + o - 0x5000) / 64 = c.toNat := by omega
  have h2 : (0x5000 + 64 * c.toNat + o) % 64 = o := by omega
  rw [State.partWrite, if_neg (by omega), if_neg (by omega), if_pos (by omega), h1, h2, BitVec.ofNat_toNat, BitVec.setWidth_eq]

variable (hb : s.bootStage = 5) (hp : p.toNat < s.parts.length) {v : Nat}
include hb hp

/-- A queue's register reads back what its write leaves in the queue. -/
theorem State.regRead_regWrite_queue (hs : Sparse.wf {} (s.part p).queues = true) (q : BitVec 6) (ho : o < 256) (f : Queue → Queue)
    (hold : ((s.part p).queue q).read o < 2 ^ 64) (hw : s.queueWrite p q o v v (2 ^ 64 - 1) = s.modQueue p q f)
    (hr : (f ((s.part p).queue q)).read o = v) :
    (s.regWrite (0x1000000 + 0x400000 * p.toNat + 0x1000 + 256 * q.toNat + o) v (2 ^ 64 - 1)).regRead
      (0x1000000 + 0x400000 * p.toNat + 0x1000 + 256 * q.toNat + o) = some v := by
  have hq := q.isLt
  have hread : ∀ x : Part, x.read s.free (0x1000 + 256 * q.toNat + o) = some ((x.queue q).read o) := fun x => x.read_queue _ q ho
  rw [Nat.add_assoc (_ + 0x1000), Nat.add_assoc _ 0x1000, ← Nat.add_assoc 0x1000]
  refine State.regRead_regWrite_part hb hp (by omega) (hread _) hold ((State.partWrite_queue q ho v v _).trans hw) ?_
  rw [hread, Part.queue, Sparse.get_set hs, if_pos rfl, hr]

/-- A context's register reads back what its write leaves in the entry. -/
theorem State.regRead_regWrite_ctx (hs : Sparse.wf {} (s.part p).ctxs = true) (c : BitVec 6) (ho : o < 64) (f : Ctx → Ctx)
    (hold : ((s.part p).ctx c).read o < 2 ^ 64) (hw : s.ctxWrite p c o v v = s.modCtx p c f)
    (hr : (f ((s.part p).ctx c)).read o = v) :
    (s.regWrite (0x1000000 + 0x400000 * p.toNat + 0x5000 + 64 * c.toNat + o) v (2 ^ 64 - 1)).regRead
      (0x1000000 + 0x400000 * p.toNat + 0x5000 + 64 * c.toNat + o) = some v := by
  have hc := c.isLt
  have hread : ∀ x : Part, x.read s.free (0x5000 + 64 * c.toNat + o) = some ((x.ctx c).read o) := fun x => x.read_ctx _ c ho
  rw [Nat.add_assoc (_ + 0x5000), Nat.add_assoc _ 0x5000, ← Nat.add_assoc 0x5000]
  refine State.regRead_regWrite_part hb hp (by omega) (hread _) hold ((State.partWrite_ctx c ho v v _).trans hw) ?_
  rw [hread, Part.setCtx, Part.ctx, Sparse.get_set hs, if_pos rfl, hr]

variable (hv : v < 2 ^ 64)
include hv

theorem State.regRead_regWrite_queueWords (hs : Sparse.wf {} (s.part p).queues = true) (q : BitVec 6) (ho : o = 0x08 ∨ o = 0x10) :
    (s.regWrite (0x1000000 + 0x400000 * p.toNat + 0x1000 + 256 * q.toNat + o) v (2 ^ 64 - 1)).regRead
      (0x1000000 + 0x400000 * p.toNat + 0x1000 + 256 * q.toNat + o) = some v := by
  rcases ho with rfl | rfl
  · exact State.regRead_regWrite_queue hb hp hs q (by decide) (fun x => { x with base := BitVec.ofNat 64 v }) (BitVec.isLt _) rfl
      (toNat_ofNat_of_lt hv)
  · exact State.regRead_regWrite_queue hb hp hs q (by decide) (fun x => { x with headWb := BitVec.ofNat 64 v }) (BitVec.isLt _) rfl
      (toNat_ofNat_of_lt hv)

theorem State.regRead_regWrite_ctxWords (hs : Sparse.wf {} (s.part p).ctxs = true) (c : BitVec 6)
    (ho : o = 0x08 ∨ o = 0x10 ∨ o = 0x18 ∨ o = 0x20 ∨ o = 0x28) :
    (s.regWrite (0x1000000 + 0x400000 * p.toNat + 0x5000 + 64 * c.toNat + o) v (2 ^ 64 - 1)).regRead
      (0x1000000 + 0x400000 * p.toNat + 0x5000 + 64 * c.toNat + o) = some v := by
  rcases ho with rfl | rfl | rfl | rfl | rfl
  · exact State.regRead_regWrite_ctx hb hp hs c (by decide) (fun x => { x with root := BitVec.ofNat 64 v }) (BitVec.isLt _) rfl
      (toNat_ofNat_of_lt hv)
  · exact State.regRead_regWrite_ctx hb hp hs c (by decide) (fun x => { x with tableDir := BitVec.ofNat 64 v }) (BitVec.isLt _) rfl
      (toNat_ofNat_of_lt hv)
  · exact State.regRead_regWrite_ctx hb hp hs c (by decide) (fun x => { x with shroud := BitVec.ofNat 64 v }) (BitVec.isLt _) rfl
      (toNat_ofNat_of_lt hv)
  · exact State.regRead_regWrite_ctx hb hp hs c (by decide) (fun x => { x with vecBase := BitVec.ofNat 64 v }) (BitVec.isLt _) rfl
      (toNat_ofNat_of_lt hv)
  · refine State.regRead_regWrite_ctx hb hp hs c (by decide)
      (fun x => { x with privKiB := BitVec.ofNat 32 v, privBase := BitVec.ofNat 32 (v / 2 ^ 32) }) ?_ rfl ?_
    · have h1 := ((s.part p).ctx c).privKiB.isLt
      have h2 := ((s.part p).ctx c).privBase.isLt
      simp only [Ctx.read, at_]
      omega
    · simp only [Ctx.read, at_, BitVec.toNat_ofNat]
      omega

/-- The times of a partition (R219). -/
theorem State.regRead_regWrite_times :
    (s.regWrite (0x1000000 + 0x400000 * p.toNat + 0x18) v (2 ^ 64 - 1)).regRead (0x1000000 + 0x400000 * p.toNat + 0x18) = some v := by
  refine State.regRead_regWrite_part hb hp (by decide) (f := fun x =>
    { x with warpUs := BitVec.ofNat 16 v, wgUs := BitVec.ofNat 16 (bits v 16 16), ctxMs := BitVec.ofNat 16 (bits v 32 16),
             partMs := BitVec.ofNat 16 (bits v 48 16) }) rfl ?_ rfl ?_
  · have h1 := (s.part p).warpUs.isLt
    have h2 := (s.part p).wgUs.isLt
    have h3 := (s.part p).ctxMs.isLt
    have h4 := (s.part p).partMs.isLt
    simp only [at_]
    omega
  · refine congrArg some ?_
    simp only [at_, BitVec.toNat_ofNat, bits]
    omega

/-- HOST_MWIN: its fields are RW, but for ERR, which a 1 clears (R46). -/
theorem State.regRead_regWrite_mwin :
    (s.regWrite (0x1000000 + 0x400000 * p.toNat + 0x7000) v (2 ^ 64 - 1)).regRead (0x1000000 + 0x400000 * p.toNat + 0x7000) =
      some (v % 2 + 2 * ((s.part p).mwErr && !(v.testBit 1)).toNat + v / 2 ^ 10 * 2 ^ 10) := by
  refine State.regRead_regWrite_part hb hp (by decide) (f := fun x =>
    { x with mwBase := BitVec.ofNat 48 (bits v 16 48), mwCtx := BitVec.ofNat 6 (bits v 10 6), mwErr := x.mwErr && !(v.testBit 1),
             mwEn := v.testBit 0 }) rfl ?_ rfl ?_
  · have h1 := (s.part p).mwEn.toNat_lt
    have h2 := (s.part p).mwErr.toNat_lt
    have h3 := (s.part p).mwCtx.isLt
    have h4 := (s.part p).mwBase.isLt
    simp only [Part.mwinWord, at_]
    omega
  · refine congrArg some ?_
    have h0 : (v.testBit 0).toNat = v % 2 := Nat.toNat_testBit v 0 |>.trans (by omega)
    simp only [Part.mwinWord, at_, BitVec.toNat_ofNat, bits, h0]
    omega

end

/-! The blocks of the device (R42 to R44), and the MSI-X table. -/

section
variable {s : State} {off v : Nat}

/-- The words of the DEV block that are RW as a whole (R42). -/
theorem State.regRead_regWrite_dev (hv : v < 2 ^ 64) (ho : off = 0x100 ∨ off = 0x108 ∨ (0x200 ≤ off ∧ off < 0x240 ∧ off % 8 = 0)) :
    (s.regWrite off v (2 ^ 64 - 1)).regRead off = some v := by
  have hoff : off < 0x10000 := by omega
  rw [State.regWrite_dev hoff, State.regRead_dev hoff]
  rcases ho with rfl | rfl | ⟨hl, hu, h8⟩
  · rw [mergeWord_all (show s.devRead 0x100 < 2 ^ 64 from BitVec.isLt s.fwPtr)]
    exact congrArg some (toNat_ofNat_of_lt hv)
  · rw [mergeWord_all (show s.devRead 0x108 < 2 ^ 64 from BitVec.isLt s.fwLen)]
    exact congrArg some (toNat_ofNat_of_lt hv)
  · have hread : ∀ t : State, t.devRead off = bits t.attNonce.toNat (8 * (off - 0x200)) 64 := fun t => by
      rw [State.devRead]
      iterate 8 rw [if_neg (by omega)]
      exact if_pos ⟨hl, hu⟩
    have hold : s.devRead off < 2 ^ 64 := by rw [hread]; exact Nat.mod_lt _ (Nat.two_pow_pos _)
    rw [mergeWord_all hold, State.devWrite]
    iterate 4 rw [if_neg (by omega)]
    rw [if_pos ⟨hl, hu⟩, hread]
    refine congrArg some (Nat.eq_of_testBit_eq fun i => ?_)
    rw [testBit_bits, BitVec.toNat_ofNat, Nat.testBit_mod_two_pow, testBit_setBits]
    by_cases hi : i < 64
    · rw [if_pos (by omega), Nat.add_sub_cancel_left, decide_eq_true hi, decide_eq_true (by omega), Bool.true_and, Bool.true_and]
    · rw [decide_eq_false hi, Bool.false_and, Nat.testBit_lt_two_pow (hv.trans_le (Nat.pow_le_pow_right (by decide) (by omega)))]

/-- A write of the lower half of DEV_FWLOAD.PTR. -/
theorem State.regRead_regWrite_half (v : Nat) : (s.regWrite 0x100 (v % 2 ^ 32) (2 ^ 32 - 1)).regRead 0x100 =
    some (s.fwPtr.toNat / 2 ^ 32 * 2 ^ 32 + v % 2 ^ 32) := by
  have hf := s.fwPtr.isLt
  have hread : ∀ t : State, t.devRead 0x100 = t.fwPtr.toNat := fun _ => rfl
  have hwrite : ∀ x w m, s.devWrite 0x100 x w m = { s with fwPtr := BitVec.ofNat 64 x } := fun _ _ _ => rfl
  rw [State.regWrite_dev (by decide), State.regRead_dev (by decide), hwrite, hread, hread, mergeWord_low, toNat_ofNat_of_lt (by omega)]

theorem State.regRead_regWrite_pwrCap (hb : s.bootStage = 5) :
    (s.regWrite 0x10000 v (2 ^ 64 - 1)).regRead 0x10000 = some (v % 2 ^ 16) := by
  have hold : s.pwrRead 0 < 2 ^ 64 := (BitVec.isLt s.pwrCap).trans (by decide)
  rw [State.regWrite_pwr (off := 0) hb (by decide), mergeWord_all hold, State.regRead_pwr (off := 0) (by exact hb) (by decide)]
  exact congrArg some (BitVec.toNat_ofNat _ _)

theorem State.regRead_regWrite_ringTimeout (hb : s.bootStage = 5) :
    (s.regWrite 0x20008 v (2 ^ 64 - 1)).regRead 0x20008 = some (v % 2 ^ 16) := by
  have hold : s.stayRead 8 < 2 ^ 64 := (BitVec.isLt s.ringTimeout).trans (by decide)
  rw [State.regWrite_stay (off := 8) hb (by decide), mergeWord_all hold, State.regRead_stay (off := 8) (by exact hb) (by decide)]
  exact congrArg some (BitVec.toNat_ofNat _ _)

theorem State.regRead_regWrite_msix (hb : s.bootStage = 5) (hv : v < 2 ^ 64) (hs : Sparse.wf 0 s.msix = true) (h : 0x40000 ≤ off)
    (h' : off < 0x48000) : (s.regWrite off v (2 ^ 64 - 1)).regRead off = some v := by
  rw [State.regWrite_msix hb h h', State.regRead_msix (by exact hb) h h', Sparse.get_set hs, if_pos rfl, toNat_ofNat_of_lt hv]

/-! Words that a write leaves alone: read-only ones, and those that are reserved (R6). -/

theorem State.devWrite_fixed (h : off ≠ 0x10 ∧ ¬ (0x100 ≤ off ∧ off < 0x118) ∧ ¬ (0x200 ≤ off ∧ off < 0x248)) (v w m : Nat) :
    s.devWrite off v w m = s := by
  rw [State.devWrite]
  iterate 6 rw [if_neg (by omega)]

theorem State.devRead_reserved (h : (0x28 ≤ off ∧ off < 0x100) ∨ (0x118 ≤ off ∧ off < 0x200) ∨ (0x248 ≤ off ∧ off < 0x400) ∨
    (0xC00 ≤ off ∧ off < 0x1000) ∨ 0x2000 ≤ off) : s.devRead off = 0 := by
  rw [State.devRead]
  iterate 12 rw [if_neg (by omega)]

theorem State.regWrite_pwr_fixed (hb : s.bootStage = 5) (h : 0x10010 ≤ off) (h' : off < 0x20000) (w m : Nat) : s.regWrite off w m = s := by
  have he : off = 0x10000 + (off - 0x10000) := by omega
  rw [he, State.regWrite_pwr hb (by omega), State.pwrWrite, if_neg (by omega), if_neg (by omega)]

/-- Above the blocks PWR and STAY the CXL sets, the MSI-X table, the partition blocks and CNT_CLR alone take a write. -/
theorem State.regWrite_fixed (h : 0x30000 ≤ off) (hset : ¬ (0x30100 ≤ off ∧ off < 0x30140)) (hmsix : ¬ (0x40000 ≤ off ∧ off < 0x48000))
    (hpart : ¬ (0x1000000 ≤ off ∧ off < 0x2000000)) (hclr : off ≠ 0x2014000) (w m : Nat) : s.regWrite off w m = s := by
  rw [State.regWrite]
  split
  · exact if_neg (by omega)
  · iterate 4 rw [if_neg (by omega)]
    split
    · rfl
    rw [if_neg (by omega)]
    split
    · rfl
    rw [if_neg (by omega)]

theorem State.regRead_reserved (hb : s.bootStage = 5) (h : (0x48000 ≤ off ∧ off < 0x50000) ∨ (0x60000 ≤ off ∧ off < 0x1000000)) :
    s.regRead off = some 0 := by
  rw [State.regRead_booted hb (by omega) (by omega)]
  iterate 4 rw [if_neg (by omega)]
  exact if_pos (by omega)

end

theorem registerCodes : RegisterCodes := by
  intro s p c q off v m hb hv hp
  refine ⟨State.regRead_regWrite_dev hv, State.regRead_regWrite_pwrCap hb, State.regRead_regWrite_ringTimeout hb,
    State.regRead_regWrite_times hb hp hv, fun hs h h' _ => State.regRead_regWrite_msix hb hv hs h h',
    fun hs ho => State.regRead_regWrite_queueWords hb hp hv hs q ho, fun hs ho => State.regRead_regWrite_ctxWords hb hp hv hs c ho,
    State.regRead_regWrite_half v, ?_, ?_, State.regRead_regWrite_mwin hb hp hv, fun h => ?_, fun h => ?_⟩
  · exact State.regWrite_dev (by decide) v _
  · exact State.regWrite_pwr (off := 8) hb (by decide) v _
  · by_cases hd : off < 0x10000
    · rw [State.regWrite_dev hd]
      exact State.devWrite_fixed (by omega) _ _ _
    by_cases hw : off < 0x20000
    · exact State.regWrite_pwr_fixed hb (by omega) hw v m
    · exact State.regWrite_fixed (by omega) (by omega) (by omega) (by omega) (by omega) v m
  · by_cases hd : off < 0x10000
    · rw [State.regRead_dev hd, State.devRead_reserved (by omega), State.regWrite_dev hd]
      exact ⟨rfl, State.devWrite_fixed (by omega) _ _ _⟩
    · exact ⟨State.regRead_reserved hb (by omega), State.regWrite_fixed (by omega) (by omega) (by omega) (by omega) (by omega) v m⟩

end Sys2Proof.Machine
end

section
/-! SUPPORT. The memory window: accesses within a sector, queued ones and their parts (R46, R47, R182). -/
namespace Sys2Proof.Machine

/-! ## The host's accesses through the memory window (R46, R47, R182) -/

section
variable {s : State}

theorem mayAccess_iff {xs : List WindowAcc} : mayAccess xs = true ↔ ∀ y ∈ xs, y.data = none := by
  simp [mayAccess, List.all_eq_true, Option.isNone_iff_eq_none]

theorem State.wakeFor_awake (h : s.pkgState = 0) (row : Instr) : s.wakeFor row = none := if_pos h

/-- One that has one part, with no write before it, is performed at once. -/
theorem State.windowAsk_whole {x : WindowAcc} (hx : x.parts = [(0, x.size)]) (hs : ∀ y ∈ s.windows, y.data = none) :
    s.windowAsk x = (s.windowPart x 0).1.windowDone (s.windowPart x 0).2 := by
  unfold State.windowAsk
  rw [if_pos ⟨by rw [hx]; exact Nat.le_refl _, mayAccess_iff.mpr hs⟩]

theorem State.windowAsk_queued {x : WindowAcc} (h : 1 < x.parts.length ∨ ∃ y ∈ s.windows, y.data ≠ none) :
    s.windowAsk x = { s with windows := s.windows ++ [x] } := by
  unfold State.windowAsk
  rw [if_neg]
  rintro ⟨h1, h2⟩
  rcases h with h | ⟨y, hy, hd⟩
  · omega
  · exact hd (mayAccess_iff.mp h2 y hy)

/-- A part whose page is missing or protected is not performed, and sets ERR. -/
theorem State.windowPart_missing {x : WindowAcc} {k o n : Nat} {t : State} (hk : x.parts[k]? = some (o, n))
    (ht : s.windowKey x.agent (x.va + o) x.data.isSome = (t, none)) :
    s.windowPart x k = (t.windowErr x.part, { x with did := x.did ++ [(k, [])], missing := true }) := by
  simp only [State.windowPart, hk, ht]

theorem State.windowPart_read {x : WindowAcc} {k o n key : Nat} {t : State} (hk : x.parts[k]? = some (o, n)) (hd : x.data = none)
    (ht : s.windowKey x.agent (x.va + o) false = (t, some key)) :
    s.windowPart x k = (t, { x with
      did := x.did ++ [(k, t.homeBytes key n)], poisoned := x.poisoned || t.poison.contains (key / 32) || t.farDead key }) := by
  simp only [State.windowPart, hk, hd, Option.isSome_none, ht]

theorem State.windowPart_write {x : WindowAcc} {k o n key : Nat} {t : State} {d : List Byte} (hk : x.parts[k]? = some (o, n))
    (hd : x.data = some d) (ht : s.windowKey x.agent (x.va + o) true = (t, some key)) :
    s.windowPart x k = (t.writeHome key ((d.drop o).take n), { x with did := x.did ++ [(k, [])] }) := by
  simp only [State.windowPart, hk, hd, Option.isSome_some, ht]

/-! The reply to an access whose parts are all performed. -/

theorem State.windowDone_write {x : WindowAcc} {d : List Byte} (hd : x.data = some d) : s.windowDone x = s := by
  simp only [State.windowDone, hd, Option.isSome_some, if_true]

theorem State.windowDone_missing {x : WindowAcc} (hd : x.data = none) (hm : x.missing = true) :
    s.windowDone x = { s with hostReply := some ⟨allOnes x.size, false⟩ } := by
  simp only [State.windowDone, hd, hm, Option.isSome_none, Bool.false_eq_true, if_false, if_true]

theorem State.windowDone_poisoned {x : WindowAcc} (hd : x.data = none) (hm : x.missing = false) (hp : x.poisoned = true) :
    s.windowDone x = { s.raiseEvt 4 with hostReply := some ⟨allOnes x.size, true⟩ } := by
  simp only [State.windowDone, hd, hm, hp, Option.isSome_none, Bool.false_eq_true, if_false, if_true]

theorem State.windowDone_read {x : WindowAcc} (hd : x.data = none) (hm : x.missing = false) (hp : x.poisoned = false) :
    s.windowDone x =
      { s with hostReply := some ⟨(List.range x.parts.length).flatMap fun k => (x.did.lookup k).getD [], false⟩ } := by
  simp only [State.windowDone, hd, hm, hp, Option.isSome_none, Bool.false_eq_true, if_false]

/-! An access within a sector, with no write before it. -/

section
variable {x : WindowAcc} {t : State} (hx : x.parts = [(0, x.size)]) (hs : ∀ y ∈ s.windows, y.data = none)
include hx hs

theorem State.windowAsk_missing (ht : s.windowKey x.agent x.va x.data.isSome = (t, none)) :
    s.windowAsk x = (t.windowErr x.part).windowDone { x with did := x.did ++ [(0, [])], missing := true } := by
  rw [State.windowAsk_whole hx hs, State.windowPart_missing (o := 0) (n := x.size) (by rw [hx]; rfl) ht]

theorem State.windowAsk_read {key : Nat} (hd : x.data = none) (ht : s.windowKey x.agent x.va false = (t, some key)) :
    s.windowAsk x = t.windowDone { x with
      did := x.did ++ [(0, t.homeBytes key x.size)], poisoned := x.poisoned || t.poison.contains (key / 32) || t.farDead key } := by
  rw [State.windowAsk_whole hx hs, State.windowPart_read (o := 0) (n := x.size) (by rw [hx]; rfl) hd ht]

theorem State.windowAsk_write {key : Nat} {d : List Byte} (hd : x.data = some d) (hn : x.size = d.length)
    (ht : s.windowKey x.agent x.va true = (t, some key)) : s.windowAsk x = t.writeHome key d := by
  rw [State.windowAsk_whole hx hs, State.windowPart_write (o := 0) (n := x.size) (by rw [hx]; rfl) hd ht, List.drop_zero, hn,
    List.take_length]
  exact State.windowDone_write (d := d) hd

end

/-! The events of the two rows. -/

theorem exec_hostMwinRead_ask (hp : s.pkgState = 0) (hf : s.args.flag = false) (ha : s.args.addr + s.args.size ≤ 2 ^ 36) :
    Goes .hostMwinRead s (if (s.part s.args.p).mwEn = false then { s with hostReply := some ⟨allOnes s.args.size, false⟩ }
      else s.windowAsk (s.windowAcc s.args.p s.args.addr s.args.size none)) := by
  simp only [Goes, exec_hostMwinRead, execHostMwinRead, hf, Bool.false_eq_true, if_false, State.wakeFor_awake hp,
    if_neg (Nat.not_lt.mpr ha)]

theorem exec_hostMwinWrite_ask (hp : s.pkgState = 0) (hf : s.args.flag = false) (ha : s.args.addr + s.args.data.length ≤ 2 ^ 36) :
    Goes .hostMwinWrite s (if (s.part s.args.p).mwEn = false then s
      else s.windowAsk (s.windowAcc s.args.p s.args.addr s.args.data.length (some s.args.data))) := by
  simp only [Goes, exec_hostMwinWrite, execHostMwinWrite, hf, Bool.false_eq_true, if_false, State.wakeFor_awake hp,
    if_neg (Nat.not_lt.mpr ha)]

/-- A part of an access under way: the device performs it by either row. -/
theorem exec_hostMwin_step (hf : s.args.flag = true) :
    Goes .hostMwinRead s (s.windowStep s.args.i) ∧ Goes .hostMwinWrite s (s.windowStep s.args.i) := by
  constructor <;> simp only [Goes, exec_hostMwinRead, exec_hostMwinWrite, execHostMwinRead, execHostMwinWrite, hf, if_true]

/-- A part of access `i` is performed: which one is left to a free value. -/
theorem State.windowStep_part {i : Nat} {x : WindowAcc} (hx : s.windows[i]? = some x) (hb : ∀ y ∈ s.windows.take i, y.data = none)
    (hl : x.left ≠ []) : ∃ k ∈ x.left, ∀ u y, s.windowPart x k = (u, y) → s.windowStep i =
      if y.left = [] then { u with windows := u.windows.eraseIdx i }.windowDone y
      else { u with windows := modifyAt (fun _ => y) u.windows i } := by
  have hlt : Config.pick s.free 28 i x.left.length % x.left.length < x.left.length :=
    Nat.mod_lt _ (List.length_pos_iff.mpr hl)
  refine ⟨x.left[Config.pick s.free 28 i x.left.length % x.left.length], List.getElem_mem hlt, fun u y h => ?_⟩
  simp only [State.windowStep, hx, mayAccess_iff.mpr hb, Bool.true_eq_false, if_false, List.getD_eq_getElem _ _ hlt, h,
    List.isEmpty_iff]

/-- A read through the window, with the window on (R47). -/
theorem State.windowAsk_readRow {x : WindowAcc} (hd : x.data = none) (hdid : x.did = []) (hm : x.missing = false)
    (hp : x.poisoned = false) (hx : x.parts = [(0, x.size)]) (hs : ∀ y ∈ s.windows, y.data = none) :
    (∀ t key, s.windowKey x.agent x.va false = (t, some key) →
      ((t.poison.contains (key / 32) || t.farDead key) = false →
        s.windowAsk x = { t with hostReply := some ⟨t.homeBytes key x.size, false⟩ }) ∧
      ((t.poison.contains (key / 32) || t.farDead key) = true →
        s.windowAsk x = { t.raiseEvt 4 with hostReply := some ⟨allOnes x.size, true⟩ })) ∧
    (∀ t, s.windowKey x.agent x.va false = (t, none) →
      s.windowAsk x = { t.windowErr x.part with hostReply := some ⟨allOnes x.size, false⟩ }) := by
  refine ⟨fun t key ht => ⟨fun hb => ?_, fun hb => ?_⟩, fun t ht => ?_⟩
  · have hp' : (x.poisoned || t.poison.contains (key / 32) || t.farDead key) = false := by rw [hp, Bool.false_or]; exact hb
    refine (State.windowAsk_read hx hs hd ht).trans ((State.windowDone_read (x := { x with
      did := x.did ++ [(0, t.homeBytes key x.size)]
      poisoned := x.poisoned || t.poison.contains (key / 32) || t.farDead key }) hd hm hp').trans ?_)
    have hd0 : (List.range x.parts.length).flatMap (fun k => ((x.did ++ [(0, t.homeBytes key x.size)]).lookup k).getD []) =
        t.homeBytes key x.size := by
      simp [hx, hdid]
    exact congrArg (fun d => { t with hostReply := some ⟨d, false⟩ }) hd0
  · exact (State.windowAsk_read hx hs hd ht).trans (State.windowDone_poisoned hd hm (by rw [hp, Bool.false_or]; exact hb))
  · exact (State.windowAsk_missing hx hs (by rw [hd]; exact ht)).trans (State.windowDone_missing hd rfl)

end

theorem hostWindowRows : HostWindowRows := by
  intro s
  refine ⟨fun hp hf ha => ?_, fun hp hf ha => ?_, fun x hf hx hb hl => ?_, fun u y hd => ?_⟩
  · have h := exec_hostMwinRead_ask hp hf ha
    refine ⟨fun he => by rwa [if_pos he] at h, fun he => ?_⟩
    rw [if_neg (by rw [he]; decide)] at h
    refine ⟨fun hx hs => ?_, fun hq => ?_⟩
    · obtain ⟨hr, hn⟩ := State.windowAsk_readRow (x := s.windowAcc s.args.p s.args.addr s.args.size none) rfl rfl rfl rfl hx hs
      exact ⟨fun t key ht => ⟨fun hb => (hr t key ht).1 hb ▸ h, fun hb => (hr t key ht).2 hb ▸ h⟩, fun t ht => hn t ht ▸ h⟩
    · rwa [State.windowAsk_queued (x := s.windowAcc s.args.p s.args.addr s.args.size none) hq] at h
  · have h := exec_hostMwinWrite_ask hp hf ha
    refine ⟨fun he => by rwa [if_pos he] at h, fun he => ?_⟩
    rw [if_neg (by rw [he]; decide)] at h
    refine ⟨fun hx hs => ⟨fun t key ht => ?_, fun t ht => ?_⟩, fun hq => ?_⟩
    · exact State.windowAsk_write (x := s.windowAcc s.args.p s.args.addr s.args.data.length (some s.args.data)) hx hs rfl rfl ht ▸ h
    · have hm := (State.windowAsk_missing (x := s.windowAcc s.args.p s.args.addr s.args.data.length (some s.args.data)) hx hs ht).trans
        (State.windowDone_write (d := s.args.data) rfl)
      rwa [hm] at h
    · rwa [State.windowAsk_queued (x := s.windowAcc s.args.p s.args.addr s.args.data.length (some s.args.data)) hq] at h
  · obtain ⟨hread, hwrite⟩ := exec_hostMwin_step hf
    obtain ⟨k, hk, hstep⟩ := State.windowStep_part hx hb hl
    refine ⟨k, hk, fun o n t ho => ⟨fun key d hd ht => ?_, fun key hd ht => ?_, fun ht => ⟨?_, ?_⟩⟩⟩
    · rwa [hstep _ _ (State.windowPart_write ho hd ht)] at hwrite
    · rwa [hstep _ _ (State.windowPart_read ho hd ht)] at hread
    · rwa [hstep _ _ (State.windowPart_missing ho ht)] at hwrite
    · rwa [hstep _ _ (State.windowPart_missing ho ht)] at hread
  · exact ⟨State.windowDone_missing hd, State.windowDone_poisoned hd, State.windowDone_read hd⟩

end Sys2Proof.Machine

/-- Settles O30 from the three groups of rows: register accesses, access codes, and the memory window. -/
theorem registerEvents : Obligations.RegisterEvents :=
  ⟨Sys2Proof.Machine.registerRows, Sys2Proof.Machine.registerCodes, Sys2Proof.Machine.hostWindowRows⟩
end

section
/-! SUPPORT. Every operation keeps both memories in their form (R4, R17). One lemma for each function of the model that gives back a
state says that it keeps `State.memOk`, in the order of the model's text; a function that takes a continuation keeps the form where its
continuation does. Few functions write memory, and `Laws/Memory` treats these; another leaves both as they are by definition, or is made
of functions that keep the form. The patterns, known in this section alone, tell `grind` to use a function's lemma wherever the function
stands, so that it has only the branches of the definition to go through. -/
namespace Sys2Proof.Machine

variable {s : State}

/-- An outcome keeps the memories in their form: the next state, where there is one, has both in it. -/
def KeepsMem (o : Host.Outcome State Fault Refusal) : Prop := ∀ t, o = .next t → t.memOk

theorem keepsMem_next {t : State} : KeepsMem (.next t) ↔ t.memOk := ⟨fun h => h t rfl, fun h _ e => by cases e; exact h⟩
local grind_pattern keepsMem_next => KeepsMem (.next t)

theorem keepsMem_fault {f : Fault} : KeepsMem (.fault f) := fun _ e => by cases e
local grind_pattern keepsMem_fault => KeepsMem (.fault f)

theorem State.memOk_iff : s.memOk ↔ Memory.wf s.mem = true ∧ Memory.wf s.host = true := Iff.rfl
local grind_pattern State.memOk_iff => s.memOk

theorem foldl_memOk {α : Type} {f : State → α → State} {xs : List α} (hf : ∀ t x, t.memOk → (f t x).memOk) (h : s.memOk) :
    (xs.foldl f s).memOk := List.foldlRecOn xs f h fun t ht x _ => hf t x ht
local grind_pattern foldl_memOk => xs.foldl f s

theorem fst_memOk {α : Type} {x : State × α} {t : State} {a : α} (hx : x.1.memOk) (e : x = (t, a)) : t.memOk := by
  rw [e] at hx; exact hx

/-! ## Access -/

theorem State.modPart_memOk {p : BitVec 2} {f : Part → Part} (h : s.memOk) : (s.modPart p f).memOk := h
local grind_pattern State.modPart_memOk => s.modPart p f

theorem State.modCtx_memOk {p : BitVec 2} {c : BitVec 6} {f : Ctx → Ctx} (h : s.memOk) : (s.modCtx p c f).memOk := h
local grind_pattern State.modCtx_memOk => s.modCtx p c f

theorem State.modQueue_memOk {p : BitVec 2} {q : BitVec 6} {f : Queue → Queue} (h : s.memOk) : (s.modQueue p q f).memOk := h
local grind_pattern State.modQueue_memOk => s.modQueue p q f

theorem State.modSession_memOk {p : BitVec 2} {i : Nat} {f : Session → Session} (h : s.memOk) : (s.modSession p i f).memOk := h
local grind_pattern State.modSession_memOk => s.modSession p i f

theorem State.raiseEvt_memOk {bit : Nat} (h : s.memOk) : (s.raiseEvt bit).memOk := h
local grind_pattern State.raiseEvt_memOk => s.raiseEvt bit

theorem State.modLaunch_memOk {id : Nat} {f : Launch → Launch} (h : s.memOk) : (s.modLaunch id f).memOk := h
local grind_pattern State.modLaunch_memOk => s.modLaunch id f

theorem State.modWg_memOk {id : Nat} {f : Workgroup → Workgroup} (h : s.memOk) : (s.modWg id f).memOk := h
local grind_pattern State.modWg_memOk => s.modWg id f

theorem State.modWarp_memOk {id : Nat} {f : Warp → Warp} (h : s.memOk) : (s.modWarp id f).memOk := h
local grind_pattern State.modWarp_memOk => s.modWarp id f

theorem State.modSplit_memOk {id : SplitId} {f : Split → Split} (h : s.memOk) : (s.modSplit id f).memOk := h
local grind_pattern State.modSplit_memOk => s.modSplit id f

/-! ## Memory -/

theorem State.writeHome_memOk {key : Nat} {data : List Byte} (h : s.memOk) : (s.writeHome key data).memOk :=
  State.writeHome_formed h key data
local grind_pattern State.writeHome_memOk => s.writeHome key data

theorem State.updateCache_memOk {core key : Nat} {data : List Byte} (h : s.memOk) : (s.updateCache core key data).memOk := h
local grind_pattern State.updateCache_memOk => s.updateCache core key data

theorem State.updateHeld_memOk {q key : Nat} {data : List Byte} (h : s.memOk) : (s.updateHeld q key data).memOk := h
local grind_pattern State.updateHeld_memOk => s.updateHeld q key data

theorem State.dropCache_memOk {core : Nat} (h : s.memOk) : (s.dropCache core).memOk := h
local grind_pattern State.dropCache_memOk => s.dropCache core

theorem State.dropLines_memOk {core key n : Nat} (h : s.memOk) : (s.dropLines core key n).memOk := h
local grind_pattern State.dropLines_memOk => s.dropLines core key n

theorem State.nudge_memOk {pl : Place} {n : Nat} (h : s.memOk) : (s.nudge pl n).memOk := h
local grind_pattern State.nudge_memOk => s.nudge pl n

theorem State.bringHome_memOk {hs : List HeldByte} (h : s.memOk) : (s.bringHome hs).memOk := State.bringHome_formed hs h
local grind_pattern State.bringHome_memOk => s.bringHome hs

theorem State.writeBack_memOk {q : Nat} (h : s.memOk) : (s.writeBack q).memOk := State.writeBack_formed h q
local grind_pattern State.writeBack_memOk => s.writeBack q

theorem State.hold_memOk {q key : Nat} {data : List Byte} (h : s.memOk) : (s.hold q key data).memOk := h
local grind_pattern State.hold_memOk => s.hold q key data

theorem State.zeroFrames_memOk {key n : Nat} (h : s.memOk) : (s.zeroFrames key n).memOk := State.zeroFrames_formed h key n
local grind_pattern State.zeroFrames_memOk => s.zeroFrames key n

theorem State.countCore_memOk {core cls : Nat} {write : Bool} {n : Nat} (h : s.memOk) : (s.countCore core cls write n).memOk := h
local grind_pattern State.countCore_memOk => s.countCore core cls write n

theorem State.countTable_memOk {p : BitVec 2} {set cls : Nat} {write : Bool} {n : Nat} (h : s.memOk) :
    (s.countTable p set cls write n).memOk := by
  unfold State.countTable
  grind
local grind_pattern State.countTable_memOk => s.countTable p set cls write n

theorem State.count_memOk {core : Nat} {p : BitVec 2} {tab : Nat} {pl : Place} {write : Bool} {n : Nat} (h : s.memOk) :
    (s.count core p tab pl write n).memOk := by
  unfold State.count
  grind
local grind_pattern State.count_memOk => s.count core p tab pl write n

theorem State.keepWalk_memOk {die p : BitVec 2} {c : BitVec 6} {va : Nat} {es : List (Nat × Nat)} (h : s.memOk) :
    (s.keepWalk die p c va es).memOk := h
local grind_pattern State.keepWalk_memOk => s.keepWalk die p c va es

theorem State.poolTake_memOk {p : BitVec 2} {t : Nat} {big : Bool} {u : State} {a' : Nat} (h : s.memOk)
    (hu : s.poolTake p t big = some (u, a')) : u.memOk := by
  unfold State.poolTake at hu
  grind
local grind_pattern State.poolTake_memOk => s.poolTake p t big, some (u, a')

theorem State.claim_memOk {e : TlbEntry} (h : s.memOk) : (s.claim e).memOk := by unfold State.claim; grind
local grind_pattern State.claim_memOk => s.claim e

theorem State.walkBack_memOk {ag : Agent} {va : Nat} (h : s.memOk) : (s.walkBack ag va).1.memOk := by
  unfold State.walkBack
  simp only
  split <;> grind
local grind_pattern State.walkBack_memOk => s.walkBack ag va

theorem State.tlbFill_memOk {e : TlbEntry} (h : s.memOk) : (s.tlbFill e).memOk := h
local grind_pattern State.tlbFill_memOk => s.tlbFill e

theorem State.translate_memOk {ag : Agent} {va : Nat} (h : s.memOk) : (s.translate ag va).1.memOk := by unfold State.translate; grind
local grind_pattern State.translate_memOk => s.translate ag va

theorem State.rowPlace_memOk {ag : Agent} {use : Use} {far : Bool} {va n : Nat} (h : s.memOk) :
    (s.rowPlace ag use far va n).1.memOk := by
  unfold State.rowPlace
  grind
local grind_pattern State.rowPlace_memOk => s.rowPlace ag use far va n

theorem State.place_memOk {ag : Agent} {use : Use} {p i len total : Nat} (h : s.memOk) : (s.place ag use p i len total).1.memOk := by
  unfold State.place
  grind
local grind_pattern State.place_memOk => s.place ag use p i len total

theorem State.placesGo_memOk {ag : Agent} {use : Use} {p n : Nat} {xs : List (Nat × Nat)} {acc : List (Place × Nat)} (h : s.memOk)
    : (State.placesGo ag use p n xs s acc).1.memOk := by
  induction xs generalizing s acc with
  | nil => exact h
  | cons x xs ih => unfold State.placesGo; grind
local grind_pattern State.placesGo_memOk => State.placesGo ag use p n xs s acc

theorem State.places_memOk {ag : Agent} {use : Use} {p n : Nat} (h : s.memOk) : (s.places ag use p n).1.memOk := by
  unfold State.places
  grind
local grind_pattern State.places_memOk => s.places ag use p n

theorem State.writePlace_memOk {pl : Place} {data : List Byte} (h : s.memOk) : (s.writePlace pl data).memOk :=
  State.writePlace_formed h pl data
local grind_pattern State.writePlace_memOk => s.writePlace pl data

theorem State.coreWrite_memOk {core : Nat} {pl : Place} {data : List Byte} (h : s.memOk) : (s.coreWrite core pl data).memOk :=
  State.coreWrite_formed h core pl data
local grind_pattern State.coreWrite_memOk => s.coreWrite core pl data

theorem State.makeRoom_memOk {core sector : Nat} (h : s.memOk) : (s.makeRoom core sector).memOk := by unfold State.makeRoom; grind
local grind_pattern State.makeRoom_memOk => s.makeRoom core sector

theorem State.loadPart_memOk {r : LoadReq} {pl : Place} {n : Nat} (h : s.memOk) : (s.loadPart r pl n).1.memOk := by
  unfold State.loadPart
  grind
local grind_pattern State.loadPart_memOk => s.loadPart r pl n

theorem State.readPart_memOk {r : LoadReq} {k : Nat} (h : s.memOk) : (s.readPart r k).1.memOk := by unfold State.readPart; grind
local grind_pattern State.readPart_memOk => s.readPart r k

theorem State.loadBytes_memOk {r : LoadReq} (h : s.memOk) : (s.loadBytes r).1.memOk :=
  List.foldlRecOn (motive := fun (a : State × LoadReq) => a.1.memOk) r.left _ h fun _ ha _ _ => State.readPart_memOk ha
local grind_pattern State.loadBytes_memOk => s.loadBytes r

theorem State.countLoad_memOk {ag : Agent} {ptr : Nat} {r : LoadReq} (h : s.memOk) : (s.countLoad ag ptr r).memOk := by
  unfold State.countLoad
  grind
local grind_pattern State.countLoad_memOk => s.countLoad ag ptr r

theorem State.countBadPart_memOk {ag : Agent} {ptr n : Nat} {write : Bool} (h : s.memOk) : (s.countBadPart ag ptr n write).memOk := by
  unfold State.countBadPart
  grind
local grind_pattern State.countBadPart_memOk => s.countBadPart ag ptr n write

theorem State.countBad_memOk {ag : Agent} {ptr n : Nat} {write : Bool} (h : s.memOk) : (s.countBad ag ptr n write).memOk := by
  unfold State.countBad
  grind
local grind_pattern State.countBad_memOk => s.countBad ag ptr n write

theorem State.readDirect_memOk {ag : Agent} {p n : Nat} (h : s.memOk) : (s.readDirect ag p n).1.memOk := by unfold State.readDirect; grind
local grind_pattern State.readDirect_memOk => s.readDirect ag p n

theorem State.readNat_memOk {ag : Agent} {p n : Nat} (h : s.memOk) : (s.readNat ag p n).1.memOk := by unfold State.readNat; grind
local grind_pattern State.readNat_memOk => s.readNat ag p n

theorem State.writeParts_memOk {core : Option Nat} {ps : List (Place × Nat)} {d : List Byte} (h : s.memOk) :
    (State.writeParts core ps d s).memOk := State.writeParts_formed core ps d h
local grind_pattern State.writeParts_memOk => State.writeParts core ps d s

theorem State.writeCore_memOk {ag : Agent} {p : Nat} {data : List Byte} (h : s.memOk) : (s.writeCore ag p data).1.memOk := by
  unfold State.writeCore
  grind
local grind_pattern State.writeCore_memOk => s.writeCore ag p data

/-! ## Ops -/

theorem State.sendMsg_memOk {port : Nat} {dst : BitVec 8} {vc : Nat} {gen : BitVec 16} {m : PeerMsg} (h : s.memOk) :
    (s.sendMsg port dst vc gen m).memOk := h
local grind_pattern State.sendMsg_memOk => s.sendMsg port dst vc gen m

theorem State.addExt_memOk {r : ExtReq} (h : s.memOk) : (s.addExt r).memOk := h
local grind_pattern State.addExt_memOk => s.addExt r

theorem State.peerRequest_memOk {part : BitVec 2} {dev : BitVec 8} {addr : Nat} {op : PeerOp} {r : ExtReq} {u : State}
    (h : s.memOk) (hu : s.peerRequest part dev addr op r = some u) : u.memOk := by
  unfold State.peerRequest at hu
  grind
local grind_pattern State.peerRequest_memOk => s.peerRequest part dev addr op r, some u

theorem State.acquireFor_memOk {x : Pending} (h : s.memOk) : (s.acquireFor x).memOk := by unfold State.acquireFor; grind
local grind_pattern State.acquireFor_memOk => s.acquireFor x

theorem State.bindAt_memOk {wid k : Nat} (h : s.memOk) : (s.bindAt wid k).memOk := by unfold State.bindAt; grind
local grind_pattern State.bindAt_memOk => s.bindAt wid k

theorem State.bindPart_memOk {wid k : Nat} (h : s.memOk) : (s.bindPart wid k).memOk := by unfold State.bindPart; grind
local grind_pattern State.bindPart_memOk => s.bindPart wid k

theorem State.bindIf_memOk {wid : Nat} {f : LoadReq → Bool} (h : s.memOk) : (s.bindIf wid f).memOk := by unfold State.bindIf; grind
local grind_pattern State.bindIf_memOk => s.bindIf wid f

theorem State.storePart_memOk {w : Warp} {g : Workgroup} {q : StoreReq} {i n : Nat} (h : s.memOk) : (s.storePart w g q i n).memOk := by
  unfold State.storePart
  grind
local grind_pattern State.storePart_memOk => s.storePart w g q i n

theorem State.countStore_memOk {w : Warp} {g : Workgroup} {q : StoreReq} (h : s.memOk) : (s.countStore w g q).memOk := by
  unfold State.countStore
  grind
local grind_pattern State.countStore_memOk => s.countStore w g q

theorem State.beforeStore_memOk {w : Warp} {g : Workgroup} {q : StoreReq} (h : s.memOk) : (s.beforeStore w g q).memOk := by
  unfold State.beforeStore
  grind
local grind_pattern State.beforeStore_memOk => s.beforeStore w g q

theorem State.settleOne_memOk {wid k : Nat} (h : s.memOk) : (s.settleOne wid k).memOk := by unfold State.settleOne; grind
local grind_pattern State.settleOne_memOk => s.settleOne wid k

theorem State.settlePart_memOk {wid k : Nat} (h : s.memOk) : (s.settlePart wid k).memOk := by unfold State.settlePart; grind
local grind_pattern State.settlePart_memOk => s.settlePart wid k

theorem State.settleIf_memOk {wid : Nat} {f : StoreReq → Bool} {n k : Nat} (h : s.memOk) : (s.settleIf wid f n k).memOk := by
  induction n generalizing s k with
  | zero => exact h
  | succ n ih => unfold State.settleIf; grind
local grind_pattern State.settleIf_memOk => s.settleIf wid f n k

theorem State.settleMeeting_memOk {wid : Nat} {lane : Option Nat} {ps : List (Place × Nat)} (h : s.memOk) :
    (s.settleMeeting wid lane ps).memOk := by
  unfold State.settleMeeting
  grind
local grind_pattern State.settleMeeting_memOk => s.settleMeeting wid lane ps

theorem State.sendEarlier_memOk {dev : BitVec 8} {a n : Nat} (h : s.memOk) : (State.sendEarlier dev a n s).memOk := by
  induction n generalizing s with
  | zero => exact h
  | succ n ih => unfold State.sendEarlier; grind
local grind_pattern State.sendEarlier_memOk => State.sendEarlier dev a n s

theorem State.beforePeer_memOk {dev : BitVec 8} {a : Nat} (h : s.memOk) : (s.beforePeer dev a).memOk := by unfold State.beforePeer; grind
local grind_pattern State.beforePeer_memOk => s.beforePeer dev a

theorem State.beforePages_memOk {ps : List (Place × Nat)} (h : s.memOk) : (s.beforePages ps).memOk := by unfold State.beforePages; grind
local grind_pattern State.beforePages_memOk => s.beforePages ps

theorem State.drain_memOk {wid : Nat} {lanes : BitVec 32} (h : s.memOk) : (s.drain wid lanes).memOk := by unfold State.drain; grind
local grind_pattern State.drain_memOk => s.drain wid lanes

theorem State.acquire_memOk {core scope : Nat} (h : s.memOk) : (s.acquire core scope).memOk := by unfold State.acquire; grind
local grind_pattern State.acquire_memOk => s.acquire core scope

theorem State.dropLatch_memOk {f : LatchEntry → Bool} (h : s.memOk) : (s.dropLatch f).memOk := h
local grind_pattern State.dropLatch_memOk => s.dropLatch f

theorem State.latchLanded_memOk {wid : Nat} {d : Dest} (h : s.memOk) : (s.latchLanded wid d).memOk := by unfold State.latchLanded; grind
local grind_pattern State.latchLanded_memOk => s.latchLanded wid d

theorem State.stopWalks_memOk {wid : Nat} (h : s.memOk) : (s.stopWalks wid).memOk := by unfold State.stopWalks; grind
local grind_pattern State.stopWalks_memOk => s.stopWalks wid

theorem State.setBar_memOk {b : BarAt} {v : Barrier} (h : s.memOk) : (s.setBar b v).memOk := by unfold State.setBar; grind
local grind_pattern State.setBar_memOk => s.setBar b v

theorem State.observe_memOk {core : Nat} {b : BarAt} {ph : Nat} (h : s.memOk) : (s.observe core b ph).memOk := by
  unfold State.observe
  grind
local grind_pattern State.observe_memOk => s.observe core b ph

theorem State.abandon_memOk {wid : Nat} (h : s.memOk) : (s.abandon wid).memOk := by unfold State.abandon; grind
local grind_pattern State.abandon_memOk => s.abandon wid

theorem State.raisePart_memOk {p : BitVec 2} {r : FaultRec} {m : Summary} (h : s.memOk) : (s.raisePart p r m).memOk := h
local grind_pattern State.raisePart_memOk => s.raisePart p r m

theorem State.raiseCtx_memOk {p : BitVec 2} {c : BitVec 6} {r : FaultRec} {m : Summary} (h : s.memOk) : (s.raiseCtx p c r m).memOk := by
  unfold State.raiseCtx
  grind
local grind_pattern State.raiseCtx_memOk => s.raiseCtx p c r m

theorem State.abandonWg_memOk {x : Workgroup} (h : s.memOk) : (s.abandonWg x).memOk := by unfold State.abandonWg; grind
local grind_pattern State.abandonWg_memOk => s.abandonWg x

theorem State.noteFmask_memOk {gid : Nat} {r : FaultRec} (h : s.memOk) : (s.noteFmask gid r).memOk := by unfold State.noteFmask; grind
local grind_pattern State.noteFmask_memOk => s.noteFmask gid r

theorem State.climbCtx_memOk {gid : Nat} {r : FaultRec} (h : s.memOk) : (s.climbCtx gid r).memOk := by unfold State.climbCtx; grind
local grind_pattern State.climbCtx_memOk => s.climbCtx gid r

theorem State.writeFrames_memOk {g : Workgroup} {first : Nat} {r : FaultRec} {ws : List Warp} {s u : State} (h : s.memOk)
    (hu : State.writeFrames g first r ws s = some u) : u.memOk := by
  induction ws generalizing s with
  | nil => cases hu; exact h
  | cons w ws ih => unfold State.writeFrames at hu; grind
local grind_pattern State.writeFrames_memOk => State.writeFrames g first r ws s, some u

theorem State.dropOwn_memOk {wid : Nat} (h : s.memOk) : (s.dropOwn wid).memOk := h
local grind_pattern State.dropOwn_memOk => s.dropOwn wid

theorem State.vector_memOk {ag : Agent} {base rung code : Nat} {u : State} {a' : Nat} (h : s.memOk)
    (hu : s.vector ag base rung code = some (u, a')) : u.memOk := by
  unfold State.vector at hu
  grind
local grind_pattern State.vector_memOk => s.vector ag base rung code, some (u, a')

theorem State.enterWg_memOk {gid : Nat} (h : s.memOk) : (s.enterWg gid).memOk := by
  unfold State.enterWg
  split
  · exact h
  split
  · exact h
  extract_lets s1 s2 live
  have h2 : s2.memOk := foldl_memOk (fun _ _ => State.modWarp_memOk) (foldl_memOk (fun _ _ => State.abandon_memOk) h)
  clear_value s2 live
  split
  · exact State.climbCtx_memOk h2
  extract_lets r2
  split
  · exact State.climbCtx_memOk h2
  next hv =>
  split
  · exact State.climbCtx_memOk (State.vector_memOk h2 hv)
  next hw =>
  extract_lets s5 s6
  have h5 : s5.memOk := foldl_memOk (fun _ _ => State.modWarp_memOk) (State.writeFrames_memOk (State.vector_memOk h2 hv) hw)
  clear_value s5
  grind
local grind_pattern State.enterWg_memOk => s.enterWg gid

theorem State.raiseWg_memOk {gid : Nat} {r : FaultRec} (h : s.memOk) : (s.raiseWg gid r).memOk := by unfold State.raiseWg; grind
local grind_pattern State.raiseWg_memOk => s.raiseWg gid r

theorem State.enterWarp_memOk {wid : Nat} (h : s.memOk) : (s.enterWarp wid).memOk := by
  unfold State.enterWarp
  split
  · exact h
  split
  · extract_lets r1 subject s1
    have h1 : s1.memOk := State.modWarp_memOk h
    clear_value s1
    split
    · exact State.raiseWg_memOk h1
    next hv =>
    split
    · exact State.vector_memOk h1 hv
    split
    · next hw => exact State.raiseWg_memOk (fst_memOk (State.writeCore_memOk (State.vector_memOk h1 hv)) hw)
    · next hw =>
      exact State.modWarp_memOk (State.dropOwn_memOk (fst_memOk (State.writeCore_memOk (State.vector_memOk h1 hv)) hw))
  · exact h
local grind_pattern State.enterWarp_memOk => s.enterWarp wid

theorem State.climbFrom_memOk {gid : Nat} {hh : Handler} {r : FaultRec} (h : s.memOk) : (s.climbFrom gid hh r).memOk := by
  unfold State.climbFrom
  grind
local grind_pattern State.climbFrom_memOk => s.climbFrom gid hh r

theorem State.warpEnters_memOk {wid : Nat} (h : s.memOk) : (s.warpEnters wid).memOk := by unfold State.warpEnters; grind
local grind_pattern State.warpEnters_memOk => s.warpEnters wid

theorem State.takeFault_memOk {id : SplitId} {stop : Word} {r : FaultRec} (h : s.memOk) : (s.takeFault id stop r).memOk := by
  unfold State.takeFault
  grind
local grind_pattern State.takeFault_memOk => s.takeFault id stop r

theorem State.raiseAt_memOk {wid n : Nat} (h : s.memOk) : (s.raiseAt wid n).memOk := by unfold State.raiseAt; grind
local grind_pattern State.raiseAt_memOk => s.raiseAt wid n

theorem State.raiseHeld_memOk {wid : Nat} (h : s.memOk) : (s.raiseHeld wid).memOk := by unfold State.raiseHeld; grind
local grind_pattern State.raiseHeld_memOk => s.raiseHeld wid

theorem State.deliverLate_memOk {wid n : Nat} (h : s.memOk) : (s.deliverLate wid n).memOk := by unfold State.deliverLate; grind
local grind_pattern State.deliverLate_memOk => s.deliverLate wid n

theorem State.unpark1_memOk {wid n : Nat} (h : s.memOk) : (s.unpark1 wid n).memOk := by unfold State.unpark1; grind
local grind_pattern State.unpark1_memOk => s.unpark1 wid n

theorem State.unpark_memOk {wid : Nat} (h : s.memOk) : (s.unpark wid).memOk := by unfold State.unpark; grind
local grind_pattern State.unpark_memOk => s.unpark wid

theorem State.unparkDue_memOk (h : s.memOk) : (s.unparkDue).memOk := by unfold State.unparkDue; grind
local grind_pattern State.unparkDue_memOk => s.unparkDue

theorem State.wakeResults_memOk {wid : Nat} (h : s.memOk) : (s.wakeResults wid).memOk := h
local grind_pattern State.wakeResults_memOk => s.wakeResults wid

theorem State.resume_memOk {id : SplitId} {f : Split → Split} (h : s.memOk) : (s.resume id f).memOk := by unfold State.resume; grind
local grind_pattern State.resume_memOk => s.resume id f

theorem State.releaseParked_memOk {b : BarAt} {seen : Bool} (h : s.memOk) : (s.releaseParked b seen).memOk := by
  unfold State.releaseParked
  grind
local grind_pattern State.releaseParked_memOk => s.releaseParked b seen

theorem State.testBar_memOk {b : BarAt} (h : s.memOk) : (s.testBar b).memOk := by unfold State.testBar; grind
local grind_pattern State.testBar_memOk => s.testBar b

theorem State.withdraw_memOk {g : Workgroup} {num : Nat} (h : s.memOk) : (s.withdraw g num).memOk := by unfold State.withdraw; grind
local grind_pattern State.withdraw_memOk => s.withdraw g num

theorem State.deliver_memOk {b : BarAt} {bytes : Nat} {status : BitVec 32} {rowDest : Bool} (h : s.memOk) :
    (s.deliver b bytes status rowDest).memOk := by
  unfold State.deliver
  grind
local grind_pattern State.deliver_memOk => s.deliver b bytes status rowDest

theorem State.landAt_memOk {wid k : Nat} (h : s.memOk) : (s.landAt wid k).memOk := by unfold State.landAt; grind
local grind_pattern State.landAt_memOk => s.landAt wid k

theorem State.joinCheck_memOk {wid : Nat} (h : s.memOk) : (s.joinCheck wid).memOk := by unfold State.joinCheck; grind
local grind_pattern State.joinCheck_memOk => s.joinCheck wid

theorem State.yieldSweep_memOk {issued : Option SplitId} (h : s.memOk) : (s.yieldSweep issued).memOk := by unfold State.yieldSweep; grind
local grind_pattern State.yieldSweep_memOk => s.yieldSweep issued

theorem State.takeRetired1_memOk {x : Nat × Retired} (h : s.memOk) : (s.takeRetired1 x).memOk := by unfold State.takeRetired1; grind
local grind_pattern State.takeRetired1_memOk => s.takeRetired1 x

theorem State.raiseRetired_memOk (h : s.memOk) : (s.raiseRetired).memOk := by unfold State.raiseRetired; grind
local grind_pattern State.raiseRetired_memOk => s.raiseRetired

theorem State.leave_memOk {wid : Nat} (h : s.memOk) : (s.leave wid).memOk := by unfold State.leave; grind
local grind_pattern State.leave_memOk => s.leave wid

theorem State.takeRetiredGo_memOk {n : Nat} (h : s.memOk) : (State.takeRetiredGo n s).memOk := by
  induction n generalizing s with
  | zero => exact h
  | succ n ih => unfold State.takeRetiredGo; grind
local grind_pattern State.takeRetiredGo_memOk => State.takeRetiredGo n s

theorem State.takeRetired_memOk (h : s.memOk) : (s.takeRetired).memOk := by unfold State.takeRetired; grind
local grind_pattern State.takeRetired_memOk => s.takeRetired

theorem State.tryExit_memOk {wid : Nat} (h : s.memOk) : (s.tryExit wid).memOk := by unfold State.tryExit; grind
local grind_pattern State.tryExit_memOk => s.tryExit wid

theorem State.emptied_memOk {id : SplitId} (h : s.memOk) : (s.emptied id).memOk := by unfold State.emptied; grind
local grind_pattern State.emptied_memOk => s.emptied id

theorem State.readFrames_memOk {g : Workgroup} {rung : Nat} {ws : List Warp} {acc : List (Warp × List Byte)} (h : s.memOk) :
    (State.readFrames g rung ws s acc).1.memOk := by
  induction ws generalizing s acc with
  | nil => exact h
  | cons w ws ih => unfold State.readFrames; grind
local grind_pattern State.readFrames_memOk => State.readFrames g rung ws s acc

theorem State.returnFrom_memOk {id : SplitId} {pc : Word} {word : IWord} (h : s.memOk) : (s.returnFrom id pc word).memOk := by
  have hd : (s.drain id.warp 0xFFFFFFFF).memOk := State.drain_memOk h
  unfold State.returnFrom
  generalize s.drain id.warp 0xFFFFFFFF = d at hd
  simp only
  split
  · exact hd
  split
  · split
    · next hr => exact State.takeFault_memOk (fst_memOk (State.readFrames_memOk hd) hr)
    · next hr =>
      have hr := fst_memOk (State.readFrames_memOk hd) hr
      split
      · exact State.takeFault_memOk hr
      · refine foldl_memOk (fun _ _ => State.raiseHeld_memOk)
          (foldl_memOk (fun _ _ => foldl_memOk fun _ _ => State.emptied_memOk) ?_)
        split
        · exact State.modWg_memOk (foldl_memOk (fun _ _ => State.modWarp_memOk) hr)
        · exact foldl_memOk (fun _ _ => State.modWarp_memOk) hr
  · exact hd
local grind_pattern State.returnFrom_memOk => s.returnFrom id pc word

theorem State.stepTo_memOk {c : Issue} {target : Word} (h : s.memOk) : (s.stepTo c target).memOk := by unfold State.stepTo; grind
local grind_pattern State.stepTo_memOk => s.stepTo c target

theorem State.goTo_memOk {c : Issue} {target : Word} (h : s.memOk) : (s.goTo c target).memOk := by unfold State.goTo; grind
local grind_pattern State.goTo_memOk => s.goTo c target

theorem State.complete_memOk {c : Issue} (h : s.memOk) : (s.complete c).memOk := by unfold State.complete; grind
local grind_pattern State.complete_memOk => s.complete c

theorem State.waitAt_memOk {c : Issue} {w : Wait} (h : s.memOk) : (s.waitAt c w).memOk := h
local grind_pattern State.waitAt_memOk => s.waitAt c w

theorem State.afterStores_memOk {c : Issue} {lanes : BitVec 32} {k : State → State} (h : s.memOk) (hk : ∀ t, t.memOk → (k t).memOk)
    : (s.afterStores c lanes k).memOk := by
  unfold State.afterStores
  grind
local grind_pattern State.afterStores_memOk => s.afterStores c lanes k

theorem State.trapAt_memOk {c : Issue} {r : FaultRec} (h : s.memOk) : (s.trapAt c r).memOk := by unfold State.trapAt; grind
local grind_pattern State.trapAt_memOk => s.trapAt c r

theorem State.releaseTo_memOk {c : Issue} {lanes : BitVec 32} {scope : Nat} {k : State → State} (h : s.memOk)
    (hk : ∀ t, t.memOk → (k t).memOk) : (s.releaseTo c lanes scope k).memOk := by
  unfold State.releaseTo
  grind
local grind_pattern State.releaseTo_memOk => s.releaseTo c lanes scope k

theorem State.faultAt_memOk {c : Issue} {code : FaultCode} {lanes : BitVec 32} {addr : Word} {detail : Nat} (h : s.memOk) :
    (s.faultAt c code lanes addr detail).memOk := by
  unfold State.faultAt
  grind
local grind_pattern State.faultAt_memOk => s.faultAt c code lanes addr detail

theorem State.outcome_memOk {c : Issue} {done : BitVec 32} {fs : LaneFaults} (h : s.memOk) : (s.outcome c done fs).memOk := by
  unfold State.outcome
  grind
local grind_pattern State.outcome_memOk => s.outcome c done fs

theorem State.awaitOutcome_memOk {c : Issue} {waiting done : BitVec 32} {fs : LaneFaults} (h : s.memOk) :
    (s.awaitOutcome c waiting done fs).memOk := by
  unfold State.awaitOutcome
  grind
local grind_pattern State.awaitOutcome_memOk => s.awaitOutcome c waiting done fs

theorem State.laneOutcome_memOk {id : SplitId} {lane : Nat} {f : Option FaultRec} (h : s.memOk) : (s.laneOutcome id lane f).memOk := by
  unfold State.laneOutcome
  grind
local grind_pattern State.laneOutcome_memOk => s.laneOutcome id lane f

theorem State.freeFull_memOk (h : s.memOk) : (s.freeFull).memOk := h
local grind_pattern State.freeFull_memOk => s.freeFull

theorem LaneRun.foldl_memOk {α : Type} {f : LaneRun → α → LaneRun} {xs : List α} {r : LaneRun}
    (hf : ∀ r x, r.st.memOk → (f r x).st.memOk) (h : r.st.memOk) : (xs.foldl f r).st.memOk :=
  List.foldlRecOn (motive := fun r => r.st.memOk) xs f h fun r hr x _ => hf r x hr
local grind_pattern LaneRun.foldl_memOk => xs.foldl f r

theorem fst_foldl_memOk {α β : Type} {f : State × β → α → State × β} {xs : List α} {x : State × β}
    (hf : ∀ x a, x.1.memOk → (f x a).1.memOk) (h : x.1.memOk) : (xs.foldl f x).1.memOk :=
  List.foldlRecOn (motive := fun x => x.1.memOk) xs f h fun x hx a _ => hf x a hx
local grind_pattern fst_foldl_memOk => xs.foldl f x

theorem getD_memOk {o : Option State} (ho : ∀ u, o = some u → u.memOk) (h : s.memOk) : (o.getD s).memOk := by
  cases o with
  | none => exact h
  | some u => exact ho u rfl
local grind_pattern getD_memOk => o.getD s

/-! ## Operands -/

theorem State.bindSources_memOk {u : Uses} {c : Issue} (h : s.memOk) : (s.bindSources u c).memOk := by unfold State.bindSources; grind
local grind_pattern State.bindSources_memOk => s.bindSources u c

theorem State.latchTick_memOk {u : Uses} {c : Issue} (h : s.memOk) : (s.latchTick u c).memOk := h
local grind_pattern State.latchTick_memOk => s.latchTick u c

theorem State.latchHold_memOk {c : Issue} {operand field width : Nat} (h : s.memOk) : (s.latchHold c operand field width).memOk := h
local grind_pattern State.latchHold_memOk => s.latchHold c operand field width

theorem State.issueWith_memOk {i : Instr} {sw : Bool} {u : Uses} {body : Issue → State → State} (h : s.memOk)
    (hbody : ∀ a t, t.memOk → (body a t).memOk) : KeepsMem (s.issueWith i sw u body) := by
  unfold State.issueWith
  grind
local grind_pattern State.issueWith_memOk => s.issueWith i sw u body

theorem State.put_memOk {c : Issue} {xs : List (Dest × Nat)} (h : s.memOk) : (s.put c xs).memOk := by unfold State.put; grind
local grind_pattern State.put_memOk => s.put c xs

theorem State.putLater_memOk {c : Issue} {xs : List (Dest × Nat)} (h : s.memOk) : (s.putLater c xs).memOk := h
local grind_pattern State.putLater_memOk => s.putLater c xs

theorem State.vec_memOk {c : Issue} {lanes : BitVec 32} {field width : Nat} {f : Nat → Nat} (h : s.memOk) :
    (s.vec c lanes field width f).memOk := by
  unfold State.vec
  grind
local grind_pattern State.vec_memOk => s.vec c lanes field width f

/-! ## Flags -/

theorem State.flagLanes_memOk {c : Issue} {rs : List (Nat × Rounded)} (h : s.memOk) : (s.flagLanes c rs).memOk := h
local grind_pattern State.flagLanes_memOk => s.flagLanes c rs

theorem State.vecF_memOk {c : Issue} {later : Bool} {lanes : BitVec 32} {field width : Nat} {f : Nat → Rounded} (h : s.memOk) :
    (s.vecF c later lanes field width f).memOk := by
  unfold State.vecF
  grind
local grind_pattern State.vecF_memOk => s.vecF c later lanes field width f

/-! ## Vector -/

theorem State.holdOps_memOk {c : Issue} {hh : BitVec 2} {a b : BitVec 7} {n m : Nat} (h : s.memOk) : (s.holdOps c hh a b n m).memOk := by
  unfold State.holdOps
  grind
local grind_pattern State.holdOps_memOk => s.holdOps c hh a b n m

theorem State.v3Int_memOk {i : Instr} {sw : Bool} {w : BitVec 3} {hh : BitVec 2} {d a b : BitVec 7} {sat addend : Bool}
    {f : Bool → Nat → Nat → Nat → Nat → Int} (h : s.memOk) : KeepsMem (s.v3Int i sw w hh d a b sat addend f) := by
  unfold State.v3Int
  grind
local grind_pattern State.v3Int_memOk => s.v3Int i sw w hh d a b sat addend f

theorem State.v3Fp_memOk {i : Instr} {sw : Bool} {w : BitVec 3} {hh : BitVec 2} {d a b : BitVec 7} {rnd addend : Bool}
    {f : FloatFmt → Rounding → Nat → Nat → Nat → Rounded} (h : s.memOk) : KeepsMem (s.v3Fp i sw w hh d a b rnd addend f) := by
  unfold State.v3Fp
  grind
local grind_pattern State.v3Fp_memOk => s.v3Fp i sw w hh d a b rnd addend f

theorem State.vuInt_memOk {i : Instr} {sw : Bool} {u : Uses} {d a : BitVec 7} {n m : Nat} {f : Issue → Nat → Nat → Int}
    (h : s.memOk) : KeepsMem (s.vuInt i sw u d a n m f) := by
  unfold State.vuInt
  grind
local grind_pattern State.vuInt_memOk => s.vuInt i sw u d a n m f

theorem State.vuFp_memOk {i : Instr} {sw later : Bool} {u : Uses} {d a : BitVec 7} {n m : Nat} {f : Rounding → Nat → Rounded}
    (h : s.memOk) : KeepsMem (s.vuFp i sw later u d a n m f) := by
  unfold State.vuFp
  grind
local grind_pattern State.vuFp_memOk => s.vuFp i sw later u d a n m f

theorem State.vuNone_memOk {i : Instr} {sw : Bool} {u : Uses} {d : BitVec 7} {n : Nat} {f : Issue → Nat → Int} (h : s.memOk) :
    KeepsMem (s.vuNone i sw u d n f) := by
  unfold State.vuNone
  grind
local grind_pattern State.vuNone_memOk => s.vuNone i sw u d n f

/-! ## Cross -/

theorem State.putPreds_memOk {c : Issue} {lanes : BitVec 32} {n : BitVec 1} {p : BitVec 3} {f : Nat → Bool} (h : s.memOk) :
    (s.putPreds c lanes n p f).memOk := by
  unfold State.putPreds
  grind
local grind_pattern State.putPreds_memOk => s.putPreds c lanes n p f

theorem State.icmp_memOk {i : Instr} {sw : Bool} {w : BitVec 3} {b a : BitVec 7} {n : BitVec 1} {p : BitVec 3}
    {f : Nat → Nat → Nat → Bool} (h : s.memOk) : KeepsMem (s.icmp i sw w b a n p f) := by
  unfold State.icmp
  grind
local grind_pattern State.icmp_memOk => s.icmp i sw w b a n p f

theorem State.fcmp_memOk {i : Instr} {sw quiet : Bool} {w : BitVec 3} {b a : BitVec 7} {n : BitVec 1} {p : BitVec 3}
    {f : FVal → FVal → Bool} (h : s.memOk) : KeepsMem (s.fcmp i sw quiet w b a n p f) := by
  unfold State.fcmp
  grind
local grind_pattern State.fcmp_memOk => s.fcmp i sw quiet w b a n p f

theorem State.scan_memOk {i : Instr} {sw : Bool} {w : BitVec 3} {d a : BitVec 7} {f : BitVec 1} {hh : BitVec 3} {k : Fold}
    {part : Nat → Nat → Bool} (h : s.memOk) : KeepsMem (s.scan i sw w d a f hh k part) := by
  unfold State.scan
  grind
local grind_pattern State.scan_memOk => s.scan i sw w d a f hh k part

theorem State.ballotOf_memOk {i : Instr} {sw : Bool} {d : BitVec 7} {n : Nat} {p : BitVec 3} {f : BitVec 32 → Nat} (h : s.memOk) :
    KeepsMem (s.ballotOf i sw d n p f) := by
  unfold State.ballotOf
  grind
local grind_pattern State.ballotOf_memOk => s.ballotOf i sw d n p f

theorem State.shuffle_memOk {i : Instr} {sw : Bool} {w : BitVec 3} {d a : BitVec 7} {k : BitVec 4} {f : Nat → Nat → Nat}
    (h : s.memOk) : KeepsMem (s.shuffle i sw w d a k f) := by
  unfold State.shuffle
  grind
local grind_pattern State.shuffle_memOk => s.shuffle i sw w d a k f

theorem State.predFn_memOk {i : Instr} {sw : Bool} {ps : List Nat} {p : BitVec 3} {f : Lane → Bool} (h : s.memOk) :
    KeepsMem (s.predFn i sw ps p f) := by
  unfold State.predFn
  grind
local grind_pattern State.predFn_memOk => s.predFn i sw ps p f

/-! ## Peer -/

theorem State.extDrop_memOk {r : ExtReq} (h : s.memOk) : (s.extDrop r).memOk := h
local grind_pattern State.extDrop_memOk => s.extDrop r

theorem State.extStoreEnd_memOk {r : ExtReq} (h : s.memOk) : (s.extStoreEnd r).memOk := by unfold State.extStoreEnd; grind
local grind_pattern State.extStoreEnd_memOk => s.extStoreEnd r

theorem State.prologueFault_memOk {gid : Nat} {code : FaultCode} {detail : Nat} {addr : Word} (h : s.memOk) :
    (s.prologueFault gid code detail addr).memOk := by
  unfold State.prologueFault
  grind
local grind_pattern State.prologueFault_memOk => s.prologueFault gid code detail addr

theorem State.stopQueue_memOk {p : BitVec 2} {q : BitVec 6} {code : Nat} {seq : BitVec 32} (h : s.memOk) :
    (s.stopQueue p q code seq).memOk := h
local grind_pattern State.stopQueue_memOk => s.stopQueue p q code seq

theorem State.failQueue_memOk {p : BitVec 2} {q c : BitVec 6} {code : Nat} {seq : BitVec 32} {more : Nat} (h : s.memOk) :
    (s.failQueue p q c code seq more).memOk := by
  unfold State.failQueue
  grind
local grind_pattern State.failQueue_memOk => s.failQueue p q c code seq more

theorem State.dropLaunch_memOk {id : Nat} (h : s.memOk) : (s.dropLaunch id).memOk := h
local grind_pattern State.dropLaunch_memOk => s.dropLaunch id

theorem State.signalFailed_memOk {id : Nat} (h : s.memOk) : (s.signalFailed id).memOk := by unfold State.signalFailed; grind
local grind_pattern State.signalFailed_memOk => s.signalFailed id

theorem State.halfDone_memOk {r : ExtReq} {d : List Byte} {bad : Option (FaultCode × Nat)} {u : State} (h : s.memOk)
    (hu : s.halfDone r d bad = some u) : u.memOk := by
  unfold State.halfDone at hu
  grind
local grind_pattern State.halfDone_memOk => s.halfDone r d bad, some u

theorem State.modJob_memOk {id : Nat} {f : Job → Job} (h : s.memOk) : (s.modJob id f).memOk := h
local grind_pattern State.modJob_memOk => s.modJob id f

theorem State.stopJob_memOk {id bit : Nat} (h : s.memOk) : (s.stopJob id bit).memOk := by unfold State.stopJob; grind
local grind_pattern State.stopJob_memOk => s.stopJob id bit

theorem State.extFail_memOk {r : ExtReq} {code : FaultCode} {detail bit : Nat} (h : s.memOk) : (s.extFail r code detail bit).memOk := by
  unfold State.extFail
  grind
local grind_pattern State.extFail_memOk => s.extFail r code detail bit

theorem State.extValue_memOk {r : ExtReq} {v : Nat} (h : s.memOk) : (s.extValue r v).memOk := by unfold State.extValue; grind
local grind_pattern State.extValue_memOk => s.extValue r v

theorem State.podLost_memOk {p : BitVec 2} {dev : BitVec 8} (h : s.memOk) : (s.podLost p dev).memOk := by unfold State.podLost; grind
local grind_pattern State.podLost_memOk => s.podLost p dev

theorem State.waiteLost_memOk {p : BitVec 2} {dev : BitVec 8} (h : s.memOk) : (s.waiteLost p dev).memOk := by
  unfold State.waiteLost
  grind
local grind_pattern State.waiteLost_memOk => s.waiteLost p dev

theorem State.jobsLost_memOk {p : BitVec 2} {dev : BitVec 8} (h : s.memOk) : (s.jobsLost p dev).memOk := by unfold State.jobsLost; grind
local grind_pattern State.jobsLost_memOk => s.jobsLost p dev

theorem State.peerLost_memOk {p : BitVec 2} {dev : BitVec 8} (h : s.memOk) : (s.peerLost p dev).memOk := by unfold State.peerLost; grind
local grind_pattern State.peerLost_memOk => s.peerLost p dev

theorem State.losePeer_memOk {p : BitVec 2} {dev : BitVec 8} (h : s.memOk) : (s.losePeer p dev).memOk := by unfold State.losePeer; grind
local grind_pattern State.losePeer_memOk => s.losePeer p dev

theorem State.lostDue_memOk (h : s.memOk) : (s.lostDue).memOk := by unfold State.lostDue; grind
local grind_pattern State.lostDue_memOk => s.lostDue

/-! ## Mem -/

theorem LaneRun.add_memOk {r : LaneRun} {l : Nat} {addr : Word} {x : State × LaneAns} (h : x.1.memOk) : (r.add l addr x).st.memOk := by
  unfold LaneRun.add
  grind
local grind_pattern LaneRun.add_memOk => r.add l addr x

theorem LaneRun.finish_memOk {r : LaneRun} {c : Issue} (h : r.st.memOk) : (r.finish c).memOk := by unfold LaneRun.finish; grind
local grind_pattern LaneRun.finish_memOk => r.finish c

theorem State.ask_memOk {c : Issue} {ps : List (Place × Nat)} {op : PeerOp} {r : ExtReq} (h : s.memOk) : (s.ask c ps op r).1.memOk := by
  unfold State.ask
  extract_lets s1 s2
  have h1 : s1.memOk := State.settleMeeting_memOk h
  have h2 : s2.memOk := State.beforePages_memOk h1
  clear_value s2
  split
  · extract_lets
    split
    · next hr =>
      split at hr
      · exact State.peerRequest_memOk h2 hr
      · obtain ⟨t, ht, hr⟩ := Option.bind_eq_some_iff.mp hr
        exact State.peerRequest_memOk (State.peerRequest_memOk h2 ht) hr
    · exact State.losePeer_memOk h2
  · exact State.addExt_memOk h1
local grind_pattern State.ask_memOk => s.ask c ps op r

theorem State.loadFor_memOk {c : Issue} {lane : Option Nat} {p n : Nat} {dest : Dest} {now bypass stream : Bool} (h : s.memOk) :
    (s.loadFor c lane p n dest now bypass stream).1.memOk := by
  unfold State.loadFor
  grind
local grind_pattern State.loadFor_memOk => s.loadFor c lane p n dest now bypass stream

theorem State.loadLanes_memOk {c : Issue} {u : Uses} {d a : BitVec 7} {n k : Nat} {ptr : Nat → Nat} (h : s.memOk) :
    (s.loadLanes c u d a n k ptr).memOk := by
  unfold State.loadLanes
  grind
local grind_pattern State.loadLanes_memOk => s.loadLanes c u d a n k ptr

theorem State.storeAs_memOk {c : Issue} {seq : Nat} {lane : Option Nat} {p : Nat} {data : List Byte} {release : Option Nat}
    (h : s.memOk) : (s.storeAs c seq lane p data release).memOk := by
  unfold State.storeAs
  grind
local grind_pattern State.storeAs_memOk => s.storeAs c seq lane p data release

theorem State.storeFor_memOk {c : Issue} {lane : Option Nat} {p : Nat} {data : List Byte} {release : Option Nat} (h : s.memOk) :
    (s.storeFor c lane p data release).memOk := by
  unfold State.storeFor
  grind
local grind_pattern State.storeFor_memOk => s.storeFor c lane p data release

theorem State.storeLanes_memOk {c : Issue} {u : Uses} {d a : BitVec 7} {n k : Nat} (h : s.memOk) : (s.storeLanes c u d a n k).memOk := by
  unfold State.storeLanes
  grind
local grind_pattern State.storeLanes_memOk => s.storeLanes c u d a n k

theorem State.stcStores_memOk {c : Issue} {run : StoreRun} {m : Nat} (h : s.memOk) : (s.stcStores c run m).memOk := by
  unfold State.stcStores
  grind
local grind_pattern State.stcStores_memOk => s.stcStores c run m

theorem State.prefetch_memOk {c : Issue} {l p : Nat} {stream : Bool} (h : s.memOk) : (s.prefetch c l p stream).memOk := by
  unfold State.prefetch
  grind
local grind_pattern State.prefetch_memOk => s.prefetch c l p stream

theorem State.uniformEnd_memOk {c : Issue} {addr : Word} {ans : LaneAns} (h : s.memOk) : (s.uniformEnd c addr ans).memOk := by
  unfold State.uniformEnd
  grind
local grind_pattern State.uniformEnd_memOk => s.uniformEnd c addr ans

theorem State.readSeen_memOk {c : Issue} {p n : Nat} (h : s.memOk) : (s.readSeen c p n).1.memOk := by unfold State.readSeen; grind
local grind_pattern State.readSeen_memOk => s.readSeen c p n

/-! ## Atom -/

theorem State.rmw_memOk {core : Nat} {loc : Locus} {pl : Place} {n : Nat} {f : Nat → Option Nat} (h : s.memOk) :
    (s.rmw core loc pl n f).1.memOk := by
  unfold State.rmw
  grind
local grind_pattern State.rmw_memOk => s.rmw core loc pl n f

theorem State.noteRetire_memOk {p : BitVec 2} {c : BitVec 6} {va key n old new : Nat} (h : s.memOk) :
    (s.noteRetire p c va key n old new).memOk := by
  unfold State.noteRetire
  grind
local grind_pattern State.noteRetire_memOk => s.noteRetire p c va key n old new

theorem State.beforeAtomic_memOk {c : Issue} {lanes : BitVec 32} {scope : Nat} {release : Bool} {k : State → State} (h : s.memOk)
    (hk : ∀ t, t.memOk → (k t).memOk) : (s.beforeAtomic c lanes scope release k).memOk := by
  unfold State.beforeAtomic
  grind
local grind_pattern State.beforeAtomic_memOk => s.beforeAtomic c lanes scope release k

theorem State.atomFor_memOk {c : Issue} {lane : Option Nat} {op n scope p v second : Nat} {ret : Option (Nat × Nat)}
    {acquire : Bool} (h : s.memOk) : (s.atomFor c lane op n scope p v second ret acquire).1.memOk := by
  unfold State.atomFor
  split
  · exact h
  split
  · exact h
  split
  · exact h
  split
  · next hp => exact State.countBad_memOk (fst_memOk (State.places_memOk h) hp)
  next s1 ps hp =>
  have h1 : s1.memOk := fst_memOk (State.places_memOk h) hp
  split
  · split
    · exact h1
    extract_lets s2 x s3 r0 r
    have h2 : s2.memOk := State.count_memOk h1
    clear_value s2
    split
    · exact State.ask_memOk h2
    have h0 : r0.1.memOk := State.rmw_memOk (State.bindIf_memOk (State.settleMeeting_memOk h2))
    have hr : r.1.memOk := by grind
    clear_value r
    grind
  · exact h1
local grind_pattern State.atomFor_memOk => s.atomFor c lane op n scope p v second ret acquire

theorem State.atomics_memOk {i : Instr} {sw : Bool} {op : Nat} {c g : BitVec 3} {w : BitVec 1} {d a : BitVec 7} {n : BitVec 1}
    (h : s.memOk) : KeepsMem (s.atomics i sw op c g w d a n) := by
  unfold State.atomics
  grind
local grind_pattern State.atomics_memOk => s.atomics i sw op c g w d a n

/-! ## BarrierOps -/

theorem State.arrive_memOk {b : BarAt} {num n : Nat} (h : s.memOk) : (s.arrive b num n).1.memOk := by unfold State.arrive; grind
local grind_pattern State.arrive_memOk => s.arrive b num n

theorem State.binitAt_memOk {b : BarAt} {cfg live : Nat} {serial : Word} (h : s.memOk) : (s.binitAt b cfg live serial).memOk := by
  unfold State.binitAt
  grind
local grind_pattern State.binitAt_memOk => s.binitAt b cfg live serial

theorem State.peerWait_memOk {b : BarAt} {dev : BitVec 8} {arg : Nat} (h : s.memOk) : (s.peerWait b dev arg).1.memOk := by
  unfold State.peerWait
  grind
local grind_pattern State.peerWait_memOk => s.peerWait b dev arg

theorem State.peerBarrier_memOk {b : BarAt} {dev : BitVec 8} {fn arg : Nat} (h : s.memOk) : (s.peerBarrier b dev fn arg).1.memOk := by
  unfold State.peerBarrier
  grind
local grind_pattern State.peerBarrier_memOk => s.peerBarrier b dev fn arg

theorem State.askBarrier_memOk {c : Issue} {p : BitVec 2} {dev : BitVec 8} {fn i arg dest ref : Nat} (h : s.memOk) :
    (s.askBarrier c p dev fn i arg dest ref).memOk := by
  unfold State.askBarrier
  grind
local grind_pattern State.askBarrier_memOk => s.askBarrier c p dev fn i arg dest ref

theorem State.withBar_memOk {c : Issue} {ref : Nat} {go : State → State} (h : s.memOk) (hgo : ∀ t, t.memOk → (go t).memOk) :
    (s.withBar c ref go).memOk := by
  unfold State.withBar
  grind
local grind_pattern State.withBar_memOk => s.withBar c ref go

theorem State.barrierOp_memOk {i : Instr} {sw : Bool} {b a : BitVec 6} {u : Uses} {fn dest : Nat} {release : Bool}
    {here : Issue → BarAt → State → State} (h : s.memOk) (hhere : ∀ a b t, t.memOk → (here a b t).memOk) :
    KeepsMem (s.barrierOp i sw b a u fn dest release here) := by
  unfold State.barrierOp
  grind
local grind_pattern State.barrierOp_memOk => s.barrierOp i sw b a u fn dest release here

theorem State.predLater_memOk {c : Issue} {p : BitVec 3} {v : Bool} (h : s.memOk) : (s.predLater c p v).memOk := h
local grind_pattern State.predLater_memOk => s.predLater c p v

theorem State.readEvent_memOk {c : Issue} {p v : Nat} (h : s.memOk) : (s.readEvent c p v).memOk := by unfold State.readEvent; grind
local grind_pattern State.readEvent_memOk => s.readEvent c p v

/-! ## Uniform -/

theorem State.putU_memOk {c : Issue} {d : BitVec 6} {v : Int} (h : s.memOk) : (s.putU c d v).memOk := by unfold State.putU; grind
local grind_pattern State.putU_memOk => s.putU c d v

theorem State.uni2_memOk {i : Instr} {sw : Bool} {d a b : BitVec 6} {f : Nat → Nat → Int} (h : s.memOk) :
    KeepsMem (s.uni2 i sw d a b f) := by
  unfold State.uni2
  grind
local grind_pattern State.uni2_memOk => s.uni2 i sw d a b f

theorem State.uni1_memOk {i : Instr} {sw : Bool} {d a : BitVec 6} {f : Nat → Nat} (h : s.memOk) : KeepsMem (s.uni1 i sw d a f) := by
  unfold State.uni1
  grind
local grind_pattern State.uni1_memOk => s.uni1 i sw d a f

theorem State.readBind_memOk {c : Issue} {v : Nat} (h : s.memOk) : (s.readBind c v).1.memOk := by unfold State.readBind; grind
local grind_pattern State.readBind_memOk => s.readBind c v

theorem State.bindQueue_memOk {c : Issue} {n v : Nat} (h : s.memOk) : (s.bindQueue c n v).memOk := by unfold State.bindQueue; grind
local grind_pattern State.bindQueue_memOk => s.bindQueue c n v

theorem State.csrWrite_memOk {c : Issue} {n v : Nat} (h : s.memOk) : (s.csrWrite c n v).memOk := by unfold State.csrWrite; grind
local grind_pattern State.csrWrite_memOk => s.csrWrite c n v

/-! ## Control -/

theorem State.jump_memOk {c : Issue} {a : Nat} (h : s.memOk) : (s.jump c a).memOk := by unfold State.jump; grind
local grind_pattern State.jump_memOk => s.jump c a

theorem State.fork_memOk {c : Issue} {taken : BitVec 32} {target : Word} (h : s.memOk) : (s.fork c taken target).memOk := by
  unfold State.fork
  grind
local grind_pattern State.fork_memOk => s.fork c taken target

/-! ## Engine -/

theorem State.pageNames_memOk {ag : Agent} {far : Bool} {a b : Nat} (h : s.memOk) : (s.pageNames ag far a b).1.memOk := by
  unfold State.pageNames
  grind
local grind_pattern State.pageNames_memOk => s.pageNames ag far a b

theorem State.partNames_memOk {ag : Agent} {use : Use} {a b : Nat} (h : s.memOk) : (s.partNames ag use a b).1.memOk := by
  unfold State.partNames
  grind
local grind_pattern State.partNames_memOk => s.partNames ag use a b

theorem State.rangeNames_memOk {ag : Agent} {use : Use} {p n : Nat} (h : s.memOk) : (s.rangeNames ag use p n).1.memOk := by
  unfold State.rangeNames
  grind
local grind_pattern State.rangeNames_memOk => s.rangeNames ag use p n

theorem State.dropJob_memOk {id : Nat} (h : s.memOk) : (s.dropJob id).memOk := h
local grind_pattern State.dropJob_memOk => s.dropJob id

theorem State.completeJob_memOk {j : Job} (h : s.memOk) : (s.completeJob j).memOk := by unfold State.completeJob; grind
local grind_pattern State.completeJob_memOk => s.completeJob j

theorem State.bindLocked_memOk {p : BitVec 2} {x : BitVec 6} {on : List LockOn} (h : s.memOk) : (s.bindLocked p x on).memOk := by
  unfold State.bindLocked
  grind
local grind_pattern State.bindLocked_memOk => s.bindLocked p x on

theorem State.clearLocked_memOk {locks : List (LockOn × Bool)} (h : s.memOk) : (s.clearLocked locks).memOk := by
  unfold State.clearLocked
  grind
local grind_pattern State.clearLocked_memOk => s.clearLocked locks

theorem State.enterJob_memOk {c : Issue} {j : Job} {locks : List (LockOn × Bool)} (h : s.memOk) : (s.enterJob c j locks).memOk := by
  unfold State.enterJob
  grind
local grind_pattern State.enterJob_memOk => s.enterJob c j locks

theorem State.issueJob_memOk {c : Issue} {j : Job} {dst src : List LockOn} {regs : List (LockOn × Bool)} {clash : Bool}
    {fix : State → State} (h : s.memOk) (hfix : ∀ t, t.memOk → (fix t).memOk) : (s.issueJob c j dst src regs clash fix).memOk := by
  unfold State.issueJob
  grind
local grind_pattern State.issueJob_memOk => s.issueJob c j dst src regs clash fix

theorem State.enginePlaces_memOk {ag : Agent} {use : Use} {p n : Nat} (h : s.memOk) : (s.enginePlaces ag use p n).1.memOk := by
  unfold State.enginePlaces
  grind
local grind_pattern State.enginePlaces_memOk => s.enginePlaces ag use p n

theorem State.countParts_memOk {ag : Agent} {ptr : Nat} {write : Bool} {ps : List (Place × Nat)} (h : s.memOk) :
    (s.countParts ag ptr write ps).memOk := by
  unfold State.countParts
  grind
local grind_pattern State.countParts_memOk => s.countParts ag ptr write ps

theorem State.chunkDone_memOk {id : Nat} (h : s.memOk) : (s.chunkDone id).memOk := h
local grind_pattern State.chunkDone_memOk => s.chunkDone id

theorem State.askJob_memOk {j : Job} {ps : List (Place × Nat)} {op : Nat → PeerOp} (h : s.memOk) : (s.askJob j ps op).memOk := by
  unfold State.askJob
  grind
local grind_pattern State.askJob_memOk => s.askJob j ps op

theorem State.chunkBad_memOk {j : Job} {why : XfBad} (h : s.memOk) : (s.chunkBad j why).memOk := by unfold State.chunkBad; grind
local grind_pattern State.chunkBad_memOk => s.chunkBad j why

theorem State.touch_memOk {id : Nat} {ps : List (Place × Nat)} (h : s.memOk) : (s.touch id ps).memOk := h
local grind_pattern State.touch_memOk => s.touch id ps

theorem State.runChunk_memOk {fuel id : Nat} (h : s.memOk) : (State.runChunk fuel id s).memOk := by
  induction fuel generalizing s with
  | zero => exact h
  | succ fuel ih =>
    unfold State.runChunk
    split
    · exact h
    split
    · exact h
    split
    · exact State.stopJob_memOk h
    split
    · grind
    split
    · exact State.chunkBad_memOk h
    · exact ih (State.modJob_memOk h)
    · grind
local grind_pattern State.runChunk_memOk => State.runChunk fuel id s

theorem State.jobAnswer_memOk {id : Nat} {data : List Byte} (h : s.memOk) : (s.jobAnswer id data).memOk := by
  unfold State.jobAnswer
  grind
local grind_pattern State.jobAnswer_memOk => s.jobAnswer id data

theorem State.sheetIssue_memOk {i : Instr} {sw : Bool} {d n b : BitVec 6} {ptrs : Issue → List Nat} {more : Issue → Option Nat}
    {go : Issue → State → State} (h : s.memOk) (hgo : ∀ a t, t.memOk → (go a t).memOk) :
    KeepsMem (s.sheetIssue i sw d n b ptrs more go) := by
  unfold State.sheetIssue
  grind
local grind_pattern State.sheetIssue_memOk => s.sheetIssue i sw d n b ptrs more go

theorem State.queueSheet_memOk {c : Issue} {j : Job} {len : Nat} {dst src : List LockOn} {clash : Bool} (h : s.memOk) :
    (s.queueSheet c j len dst src clash).memOk := by
  unfold State.queueSheet
  grind
local grind_pattern State.queueSheet_memOk => s.queueSheet c j len dst src clash

/-! ## Matrix -/

theorem State.tilesFree_memOk {c : Issue} {ts : List (Nat × Bool)} {go : State} (h : s.memOk) (h1 : go.memOk) :
    (s.tilesFree c ts go).memOk := by
  unfold State.tilesFree
  grind
local grind_pattern State.tilesFree_memOk => s.tilesFree c ts go

theorem State.putTile_memOk {c : Issue} {t : BitVec 4} {v : Nat} (h : s.memOk) : (s.putTile c t v).memOk := by unfold State.putTile; grind
local grind_pattern State.putTile_memOk => s.putTile c t v

theorem TRes.andThen_memOk {α β : Type} {x : TRes α} {f : State → α → TRes β} (h : x.1.memOk)
    (hf : ∀ t a, t.memOk → (f t a).1.memOk) : (x.andThen f).1.memOk := by
  obtain ⟨s, r⟩ := x
  cases r with
  | error e => exact h
  | ok a => exact hf s a h
local grind_pattern TRes.andThen_memOk => x.andThen f

/-! ## TableIndex -/

theorem State.hwKey_memOk {ag : Agent} {soft : Bool} {p : Nat} (h : s.memOk) : (s.hwKey ag soft p).1.memOk := by unfold State.hwKey; grind
local grind_pattern State.hwKey_memOk => s.hwKey ag soft p

theorem State.readAt_memOk {ag : Agent} {soft : Bool} {p n : Nat} (h : s.memOk) : (s.readAt ag soft p n).1.memOk := by
  unfold State.readAt
  grind
local grind_pattern State.readAt_memOk => s.readAt ag soft p n

theorem State.hwRead_memOk {ag : Agent} {p n : Nat} (h : s.memOk) : (s.hwRead ag p n).1.memOk := by unfold State.hwRead; grind
local grind_pattern State.hwRead_memOk => s.hwRead ag p n

theorem State.idxRead_memOk {ag : Agent} {p n : Nat} (h : s.memOk) : (s.idxRead ag p n).1.memOk := by unfold State.idxRead; grind
local grind_pattern State.idxRead_memOk => s.idxRead ag p n

theorem State.homeWrite_memOk {key : Nat} {data : List Byte} (h : s.memOk) : (s.homeWrite key data).memOk := by
  unfold State.homeWrite
  grind
local grind_pattern State.homeWrite_memOk => s.homeWrite key data

theorem State.hwWrite_memOk {ag : Agent} {p : Nat} {data : List Byte} (h : s.memOk) : (s.hwWrite ag p data).1.memOk := by
  unfold State.hwWrite
  grind
local grind_pattern State.hwWrite_memOk => s.hwWrite ag p data

theorem State.idxWrite_memOk {ag : Agent} {p : Nat} {data : List Byte} (h : s.memOk) : (s.idxWrite ag p data).1.memOk := by
  unfold State.idxWrite
  grind
local grind_pattern State.idxWrite_memOk => s.idxWrite ag p data

theorem State.readDesc_memOk {ag : Agent} {ptr : Nat} (h : s.memOk) : (s.readDesc ag ptr).1.memOk := by unfold State.readDesc; grind
local grind_pattern State.readDesc_memOk => s.readDesc ag ptr

theorem State.tableCheck_memOk {ag : Agent} {b : BitVec 128} {need : Need} (h : s.memOk) : (s.tableCheck ag b need).1.memOk := by
  unfold State.tableCheck
  grind
local grind_pattern State.tableCheck_memOk => s.tableCheck ag b need

theorem State.countIndex_memOk {ag : Agent} {d : TDesc} {p n : Nat} {byCore write : Bool} (h : s.memOk) :
    (s.countIndex ag d p n byCore write).memOk := by
  unfold State.countIndex
  grind
local grind_pattern State.countIndex_memOk => s.countIndex ag d p n byCore write

theorem State.readStripe_memOk {ag : Agent} {d : TDesc} {force : Bool} {st : Nat} (h : s.memOk) :
    (s.readStripe ag d force st).1.memOk := by
  unfold State.readStripe
  grind
local grind_pattern State.readStripe_memOk => s.readStripe ag d force st

theorem State.readNode_memOk {ag : Agent} {d : TDesc} {force : Bool} {n : Nat} (h : s.memOk) : (s.readNode ag d force n).1.memOk := by
  unfold State.readNode
  grind
local grind_pattern State.readNode_memOk => s.readNode ag d force n

theorem State.writeNodes_memOk {ag : Agent} {d : TDesc} {xs : List TNode} (h : s.memOk) : (State.writeNodes ag d xs s).1.memOk := by
  induction xs generalizing s with
  | nil => exact h
  | cons y ys ih => unfold State.writeNodes; grind
local grind_pattern State.writeNodes_memOk => State.writeNodes ag d xs s

theorem State.descend_memOk {ag : Agent} {d : TDesc} {force : Bool} {k height n : Nat} {path : List (TNode × Nat)} (h : s.memOk) :
    (State.descend ag d force k height n path s).1.memOk := by
  induction height generalizing n path s with
  | zero => unfold State.descend; grind
  | succ height ih => unfold State.descend; grind
local grind_pattern State.descend_memOk => State.descend ag d force k height n path s

theorem State.leafFor_memOk {ag : Agent} {d : TDesc} {force : Bool} {k : Nat} (h : s.memOk) : (s.leafFor ag d force k).1.memOk := by
  unfold State.leafFor
  grind
local grind_pattern State.leafFor_memOk => s.leafFor ag d force k

theorem State.firstFrom_memOk {ag : Agent} {d : TDesc} {force : Bool} {k fuel : Nat} {x : TNode} (h : s.memOk) :
    (State.firstFrom ag d force k fuel x s).1.memOk := by
  induction fuel generalizing x s with
  | zero => exact h
  | succ fuel ih => unfold State.firstFrom; grind
local grind_pattern State.firstFrom_memOk => State.firstFrom ag d force k fuel x s

theorem State.pairsFrom_memOk {ag : Agent} {d : TDesc} {force : Bool} {more : TNode → Bool} {fuel : Nat} {x : TNode}
    {acc : List (Nat × Nat)} (h : s.memOk) : (State.pairsFrom ag d force more fuel x acc s).1.memOk := by
  induction fuel generalizing x acc s with
  | zero => exact h
  | succ fuel ih => unfold State.pairsFrom; grind
local grind_pattern State.pairsFrom_memOk => State.pairsFrom ag d force more fuel x acc s

theorem State.chainFrom_memOk {ag : Agent} {d : TDesc} {force : Bool} {fuel n : Nat} {acc : List TNode} (h : s.memOk) :
    (State.chainFrom ag d force fuel n acc s).1.memOk := by
  induction fuel generalizing n acc s with
  | zero => exact h
  | succ fuel ih => unfold State.chainFrom; grind
local grind_pattern State.chainFrom_memOk => State.chainFrom ag d force fuel n acc s

theorem State.chainOf_memOk {ag : Agent} {d : TDesc} {force : Bool} {k : Nat} (h : s.memOk) : (s.chainOf ag d force k).1.memOk := by
  unfold State.chainOf
  grind
local grind_pattern State.chainOf_memOk => s.chainOf ag d force k

theorem State.pointRef_memOk {ag : Agent} {d : TDesc} {far force : Bool} {k : Nat} (h : s.memOk) :
    (s.pointRef ag d far force k).1.memOk := by
  unfold State.pointRef
  grind
local grind_pattern State.pointRef_memOk => s.pointRef ag d far force k

theorem State.leastFrom_memOk {ag : Agent} {d : TDesc} {far force : Bool} {k : Nat} (h : s.memOk) :
    (s.leastFrom ag d far force k).1.memOk := by
  unfold State.leastFrom
  grind
local grind_pattern State.leastFrom_memOk => s.leastFrom ag d far force k

theorem State.keysIn_memOk {ag : Agent} {d : TDesc} {force : Bool} {lo hi : Nat} (h : s.memOk) :
    (s.keysIn ag d force lo hi).1.memOk := by
  unfold State.keysIn
  grind
local grind_pattern State.keysIn_memOk => s.keysIn ag d force lo hi

theorem State.bucketPairs_memOk {ag : Agent} {d : TDesc} {first fuel : Nat} {acc : List (Nat × Nat)} (h : s.memOk) :
    (State.bucketPairs ag d first fuel acc s).1.memOk := by
  induction fuel generalizing acc s with
  | zero => exact h
  | succ fuel ih => unfold State.bucketPairs; grind
local grind_pattern State.bucketPairs_memOk => State.bucketPairs ag d first fuel acc s

theorem State.stripePairs_memOk {ag : Agent} {d : TDesc} {st : Nat} {x : Stripe} (h : s.memOk) : (s.stripePairs ag d st x).1.memOk := by
  unfold State.stripePairs
  grind
local grind_pattern State.stripePairs_memOk => s.stripePairs ag d st x

theorem State.dropHeld_memOk {q key n : Nat} (h : s.memOk) : (s.dropHeld q key n).memOk := h
local grind_pattern State.dropHeld_memOk => s.dropHeld q key n

theorem State.writeRow_memOk {ag : Agent} {d : TDesc} {ref i : Nat} {data : List Byte} (h : s.memOk) :
    (s.writeRow ag d ref i data).1.memOk := by
  unfold State.writeRow
  grind
local grind_pattern State.writeRow_memOk => s.writeRow ag d ref i data

theorem State.commitRows_memOk {ag : Agent} {d : TDesc} {st : Nat} {x : List Byte} (h : s.memOk) : (s.commitRows ag d st x).1.memOk := by
  unfold State.commitRows
  grind
local grind_pattern State.commitRows_memOk => s.commitRows ag d st x

theorem State.noteSplits_memOk {stripe n : Nat} (h : s.memOk) : (s.noteSplits stripe n).memOk := by unfold State.noteSplits; grind
local grind_pattern State.noteSplits_memOk => s.noteSplits stripe n

theorem State.planInsert_memOk {ag : Agent} {d : TDesc} {far : Bool} {k : Nat} (h : s.memOk) : (s.planInsert ag d far k).1.memOk := by
  unfold State.planInsert
  grind
local grind_pattern State.planInsert_memOk => s.planInsert ag d far k

theorem State.planDelete_memOk {ag : Agent} {d : TDesc} {k : Nat} (h : s.memOk) : (s.planDelete ag d k).1.memOk := by
  unfold State.planDelete
  grind
local grind_pattern State.planDelete_memOk => s.planDelete ag d k

theorem State.mutation_memOk {ag : Agent} {b : BitVec 128} {op : TableOp} {k : Nat} (h : s.memOk) : (s.mutation ag b op k).1.memOk := by
  unfold State.mutation
  grind
local grind_pattern State.mutation_memOk => s.mutation ag b op k

theorem State.dropRowLines_memOk {ag : Agent} {ref width : Nat} (h : s.memOk) : (s.dropRowLines ag ref width).memOk := by
  unfold State.dropRowLines
  grind
local grind_pattern State.dropRowLines_memOk => s.dropRowLines ag ref width

theorem State.mutate_memOk {ag : Agent} {b : BitVec 128} {op : TableOp} {k : Nat} (h : s.memOk) : (s.mutate ag b op k).1.memOk := by
  unfold State.mutate
  grind
local grind_pattern State.mutate_memOk => s.mutate ag b op k

theorem State.oldNodes_memOk {ag : Agent} {d : TDesc} {ns : List Nat} (h : s.memOk) : (State.oldNodes ag d ns s).1.memOk := by
  induction ns generalizing s with
  | nil => exact h
  | cons y ys ih => unfold State.oldNodes; grind
local grind_pattern State.oldNodes_memOk => State.oldNodes ag d ns s

theorem State.beginWork_memOk {ag : Agent} {d : TDesc} {k : Nat} {x : Plan} (h : s.memOk) : (s.beginWork ag d k x).1.memOk := by
  unfold State.beginWork
  grind
local grind_pattern State.beginWork_memOk => s.beginWork ag d k x

theorem State.workNode_memOk {ag : Agent} {d : TDesc} {x : Nat × Nat × Nat} (h : s.memOk) : (s.workNode ag d x).1.memOk := by
  unfold State.workNode
  grind
local grind_pattern State.workNode_memOk => s.workNode ag d x

theorem State.commitWork_memOk {ag : Agent} {d : TDesc} {st : Nat} {w : TableWork} (h : s.memOk) : (s.commitWork ag d st w).1.memOk := by
  unfold State.commitWork
  grind
local grind_pattern State.commitWork_memOk => s.commitWork ag d st w

theorem State.restoreNodes_memOk {ag : Agent} {d : TDesc} {xs : List (Nat × Nat)} (h : s.memOk) :
    (State.restoreNodes ag d xs s).memOk := by
  induction xs generalizing s with
  | nil => exact h
  | cons y ys ih => unfold State.restoreNodes; grind
local grind_pattern State.restoreNodes_memOk => State.restoreNodes ag d xs s

theorem State.undoWork_memOk {ag : Agent} {r : TableReq} (h : s.memOk) : (s.undoWork ag r).memOk := by unfold State.undoWork; grind
local grind_pattern State.undoWork_memOk => s.undoWork ag r

/-! ## EngineEvents -/

theorem State.onePass_memOk {id : Nat} (h : s.memOk) : (s.onePass id).memOk := by unfold State.onePass; grind
local grind_pattern State.onePass_memOk => s.onePass id

theorem State.passes_memOk {id n : Nat} (h : s.memOk) : (State.passes id n s).memOk := by
  induction n generalizing s with
  | zero => exact h
  | succ n ih => unfold State.passes; grind
local grind_pattern State.passes_memOk => State.passes id n s

theorem State.runAdrn_memOk {j : Job} (h : s.memOk) : (s.runAdrn j).memOk := by unfold State.runAdrn; grind
local grind_pattern State.runAdrn_memOk => s.runAdrn j

theorem State.runAfill_memOk {j : Job} (h : s.memOk) : (s.runAfill j).memOk := by unfold State.runAfill; grind
local grind_pattern State.runAfill_memOk => s.runAfill j

theorem State.tldAttempt_memOk {j : Job} (h : s.memOk) : (s.tldAttempt j).memOk := by unfold State.tldAttempt; grind
local grind_pattern State.tldAttempt_memOk => s.tldAttempt j

theorem State.jobWrite_memOk {j : Job} {p : Nat} {data : List Byte} {go : State → State} (h : s.memOk)
    (hgo : ∀ t, t.memOk → (go t).memOk) : (s.jobWrite j p data go).memOk := by
  unfold State.jobWrite
  grind
local grind_pattern State.jobWrite_memOk => s.jobWrite j p data go

theorem State.tstStep_memOk {j : Job} (h : s.memOk) : (s.tstStep j).memOk := by unfold State.tstStep; grind
local grind_pattern State.tstStep_memOk => s.tstStep j

theorem State.journalBegin_memOk {addr : Nat} (h : s.memOk) : (s.journalBegin addr).memOk := by unfold State.journalBegin; grind
local grind_pattern State.journalBegin_memOk => s.journalBegin addr

theorem State.tstCommit_memOk {j : Job} (h : s.memOk) : (s.tstCommit j).memOk := by unfold State.tstCommit; grind
local grind_pattern State.tstCommit_memOk => s.tstCommit j

theorem State.journalApply_memOk {i : Nat} (h : s.memOk) : (s.journalApply i).memOk := by unfold State.journalApply; grind
local grind_pattern State.journalApply_memOk => s.journalApply i

theorem State.journalDue_memOk {n : Nat} (h : s.memOk) : (State.journalDue n s).memOk := by
  induction n generalizing s with
  | zero => exact h
  | succ n ih => unfold State.journalDue; grind
local grind_pattern State.journalDue_memOk => State.journalDue n s

theorem State.retryJob_memOk {j : Job} (h : s.memOk) : (s.retryJob j).memOk := by unfold State.retryJob; grind
local grind_pattern State.retryJob_memOk => s.retryJob j

theorem State.warpsReady_memOk {gid : Nat} (h : s.memOk) : (s.warpsReady gid).memOk := h
local grind_pattern State.warpsReady_memOk => s.warpsReady gid

theorem State.prologueNext_memOk {g : Workgroup} {b k : Nat} (h : s.memOk) : (s.prologueNext g b k).memOk := by
  unfold State.prologueNext
  grind
local grind_pattern State.prologueNext_memOk => s.prologueNext g b k

theorem State.jibGo_memOk {g : Workgroup} {b k : Nat} {x : Binding} {fuel : Nat} {got : List (List Byte)} (h : s.memOk) :
    (State.jibGo g b k x fuel got s).memOk := by
  induction fuel generalizing got s with
  | zero => exact h
  | succ fuel ih =>
    unfold State.jibGo
    extract_lets ag
    split
    · split
      · next hp => exact State.prologueFault_memOk (fst_memOk (State.enginePlaces_memOk h) hp)
      · grind
    · refine State.prologueNext_memOk ?_
      exact h
    · split
      · exact State.prologueFault_memOk h
      · exact State.prologueFault_memOk h
      · exact State.prologueFault_memOk h
      · exact State.prologueFault_memOk h
      · grind
local grind_pattern State.jibGo_memOk => State.jibGo g b k x fuel got s

theorem State.jibChunk_memOk {g : Workgroup} (h : s.memOk) : (s.jibChunk g).memOk := by unfold State.jibChunk; grind
local grind_pattern State.jibChunk_memOk => s.jibChunk g

theorem State.retryWg_memOk {g : Workgroup} (h : s.memOk) : (s.retryWg g).memOk := by unfold State.retryWg; grind
local grind_pattern State.retryWg_memOk => s.retryWg g

theorem State.retriesDue_memOk (h : s.memOk) : (s.retriesDue).memOk := by unfold State.retriesDue; grind
local grind_pattern State.retriesDue_memOk => s.retriesDue

/-! ## Hints -/

theorem State.takeHint_memOk {c : Issue} {hh : HintRec} (h : s.memOk) : (s.takeHint c hh).memOk := by unfold State.takeHint; grind
local grind_pattern State.takeHint_memOk => s.takeHint c hh

theorem State.hint_memOk {kind payload : Nat} (h : s.memOk) : KeepsMem (s.hint kind payload) := by unfold State.hint; grind
local grind_pattern State.hint_memOk => s.hint kind payload

/-! ## WarpEvents -/

theorem State.landFixed_memOk {n wid : Nat} (h : s.memOk) : (State.landFixed n wid s).memOk := by
  induction n generalizing s with
  | zero => exact h
  | succ n ih => unfold State.landFixed; grind
local grind_pattern State.landFixed_memOk => State.landFixed n wid s

theorem State.landed_memOk {wid : Nat} {x : Option Pending} (h : s.memOk) : (s.landed wid x).memOk := by unfold State.landed; grind
local grind_pattern State.landed_memOk => s.landed wid x

theorem State.rereadWaites_memOk {at_ : List (Place × Nat)} (h : s.memOk) : (s.rereadWaites at_).memOk := by
  unfold State.rereadWaites
  grind
local grind_pattern State.rereadWaites_memOk => s.rereadWaites at_

/-! ## Table -/

theorem State.setLeaves_memOk {xs : List LeafPos} {f : LeafPos → Nat} (h : s.memOk) : (s.setLeaves xs f).memOk := by
  unfold State.setLeaves
  grind
local grind_pattern State.setLeaves_memOk => s.setLeaves xs f

theorem State.writeStripes_memOk {ag : Agent} {d : TDesc} {xs : List Nat} (h : s.memOk) : (State.writeStripes ag d xs s).1.memOk := by
  induction xs generalizing s with
  | nil => exact h
  | cons y ys ih => unfold State.writeStripes; grind
local grind_pattern State.writeStripes_memOk => State.writeStripes ag d xs s

theorem State.createTable_memOk {ag : Agent} {ptr : Nat} {raw : List Byte} (h : s.memOk) : (s.createTable ag ptr raw).1.memOk := by
  unfold State.createTable
  extract_lets
  split
  · exact h
  split
  · exact h
  split
  · exact h
  split
  · exact h
  split
  · extract_lets base s1 s2 made
    have h2 : s2.memOk := State.setLeaves_memOk (State.setLeaves_memOk h)
    have hm : made.1.memOk := TRes.andThen_memOk (State.writeStripes_memOk h2) fun t _ ht =>
      TRes.andThen_memOk (State.hwWrite_memOk ht) fun t _ ht => TRes.andThen_memOk (State.hwKey_memOk ht) fun _ _ ht => ht
    clear_value made
    split
    · exact h
    · exact hm
  · exact h
local grind_pattern State.createTable_memOk => s.createTable ag ptr raw

theorem State.bindTable_memOk {ag : Agent} {hh : Nat} (h : s.memOk) : (s.bindTable ag hh).1.memOk := by unfold State.bindTable; grind
local grind_pattern State.bindTable_memOk => s.bindTable ag hh

theorem LaneRun.addT_memOk {r : LaneRun} {c : Issue} {l : Nat} {x : TRes (List (Dest × Nat))} (h : x.1.memOk) :
    (r.addT c l x).st.memOk := by
  unfold LaneRun.addT
  grind
local grind_pattern LaneRun.addT_memOk => r.addT c l x

theorem State.lookupIn_memOk {ag : Agent} {r : TableReq} {force : Bool} {d : TDesc} (h : s.memOk) :
    (s.lookupIn ag r force d).1.memOk := by
  unfold State.lookupIn
  grind
local grind_pattern State.lookupIn_memOk => s.lookupIn ag r force d

theorem State.lookup_memOk {ag : Agent} {r : TableReq} {force : Bool} (h : s.memOk) : (s.lookup ag r force).1.memOk := by
  unfold State.lookup
  grind
local grind_pattern State.lookup_memOk => s.lookup ag r force

theorem LaneRun.look_memOk {r : LaneRun} {c : Issue} {q : TableReq} (h : r.st.memOk) : (r.look c q).st.memOk := by
  unfold LaneRun.look
  grind
local grind_pattern LaneRun.look_memOk => r.look c q

theorem State.lookups1_memOk {i : Instr} {sw : Bool} {u : Uses} {q : Issue → State → Nat → TableReq} (h : s.memOk) :
    KeepsMem (s.lookups1 i sw u q) := by
  unfold State.lookups1
  grind
local grind_pattern State.lookups1_memOk => s.lookups1 i sw u q

theorem State.mutations_memOk {i : Instr} {sw : Bool} {u : Uses} {op : TableOp} {b : BitVec 3} {d : Nat} {k : BitVec 7}
    {p : BitVec 3} (h : s.memOk) : KeepsMem (s.mutations i sw u op b d k p) := by
  unfold State.mutations
  grind
local grind_pattern State.mutations_memOk => s.mutations i sw u op b d k p

theorem State.tcount_memOk {ag : Agent} {d : TDesc} {force : Bool} {ranges : List (Nat × Nat × Nat)} {above : Option Nat}
    (h : s.memOk) : (s.tcount ag d force ranges above).1.memOk := by
  unfold State.tcount
  grind
local grind_pattern State.tcount_memOk => s.tcount ag d force ranges above

theorem State.walkOn_memOk {c : Issue} {lanes : BitVec 32} {run : CountRun} (h : s.memOk) : (s.walkOn c lanes run).memOk := by
  unfold State.walkOn
  grind
local grind_pattern State.walkOn_memOk => s.walkOn c lanes run

theorem State.countHw_memOk {ag : Agent} {p n : Nat} {write : Bool} (h : s.memOk) : (s.countHw ag p n write).memOk := by
  unfold State.countHw
  grind
local grind_pattern State.countHw_memOk => s.countHw ag p n write

theorem State.shroudEntry_memOk {ag : Agent} {hh : Nat} (h : s.memOk) : (s.shroudEntry ag hh).1.memOk := by
  unfold State.shroudEntry
  grind
local grind_pattern State.shroudEntry_memOk => s.shroudEntry ag hh

theorem State.shroudKey_memOk {ag : Agent} {hh pos layer : Nat} (h : s.memOk) : (s.shroudKey ag hh pos layer).1.memOk := by
  unfold State.shroudKey
  grind
local grind_pattern State.shroudKey_memOk => s.shroudKey ag hh pos layer

theorem State.dropReqs_memOk {f : TableReq → Bool} (h : s.memOk) : (s.dropReqs f).memOk := by unfold State.dropReqs; grind
local grind_pattern State.dropReqs_memOk => s.dropReqs f

theorem State.tableEnd_memOk {r : TableReq} {x : Except TErr (List (Dest × Nat))} (h : s.memOk) : (s.tableEnd r x).memOk := by
  unfold State.tableEnd
  grind
local grind_pattern State.tableEnd_memOk => s.tableEnd r x

theorem State.mutationEnd_memOk {k : Nat} {r : TableReq} {x : TRes (Bool × Option Nat)} (h : s.memOk) (h1 : x.1.memOk) :
    (s.mutationEnd k r x).memOk := by
  unfold State.mutationEnd
  grind
local grind_pattern State.mutationEnd_memOk => s.mutationEnd k r x

theorem State.poolReturn_memOk {p : BitVec 2} {pa size : Nat} (h : s.memOk) : (s.poolReturn p pa size).memOk :=
  ⟨Cells.filter_wf h.1 _, h.2⟩
local grind_pattern State.poolReturn_memOk => s.poolReturn p pa size

theorem State.retire_memOk {p : BitVec 2} {c : BitVec 6} {ptr : Nat} (h : s.memOk) : (s.retire p c ptr).memOk := by
  unfold State.retire
  grind
local grind_pattern State.retire_memOk => s.retire p c ptr

/-! ## Work -/

theorem State.ensureLaunch_memOk {p : BitVec 2} {c : BitVec 6} {desc : Word} {q : QDesc} (h : s.memOk) :
    (s.ensureLaunch p c desc q).memOk := by
  unfold State.ensureLaunch
  grind
local grind_pattern State.ensureLaunch_memOk => s.ensureLaunch p c desc q

theorem State.raiseHead_memOk {p : BitVec 2} {c : BitVec 6} {desc : Word} (h : s.memOk) : (s.raiseHead p c desc).memOk := by
  unfold State.raiseHead
  grind
local grind_pattern State.raiseHead_memOk => s.raiseHead p c desc

theorem State.flushBin_memOk {b : Bin} (h : s.memOk) : (s.flushBin b).memOk := by unfold State.flushBin; grind
local grind_pattern State.flushBin_memOk => s.flushBin b

theorem State.flushWhere_memOk {f : Bin → Bool} (h : s.memOk) : (s.flushWhere f).memOk := by unfold State.flushWhere; grind
local grind_pattern State.flushWhere_memOk => s.flushWhere f

theorem State.binItem_memOk {die p : BitVec 2} {c : BitVec 6} {desc entry arg : Word} (h : s.memOk) :
    (s.binItem die p c desc entry arg).memOk := by
  unfold State.binItem
  grind
local grind_pattern State.binItem_memOk => s.binItem die p c desc entry arg

theorem State.countEntry_memOk {ag : Agent} {p : Nat} {write : Bool} (h : s.memOk) : (s.countEntry ag p write).memOk := by
  unfold State.countEntry
  grind
local grind_pattern State.countEntry_memOk => s.countEntry ag p write

/-- Both states that a run over a queue's entries carries have their memories in form. -/
def QRun.memOk (x : QRun) : Prop := x.st.memOk ∧ x.run.st.memOk

theorem QRun.memOk_iff {x : QRun} : x.memOk ↔ x.st.memOk ∧ x.run.st.memOk := Iff.rfl
local grind_pattern QRun.memOk_iff => x.memOk

theorem QRun.foldl_memOk {α : Type} {f : QRun → α → QRun} {xs : List α} {x : QRun} (hf : ∀ x a, x.memOk → (f x a).memOk)
    (h : x.memOk) : (xs.foldl f x).memOk := List.foldlRecOn xs f h fun x hx a _ => hf x a hx
local grind_pattern QRun.foldl_memOk => xs.foldl f x

theorem QRun.push_memOk {x : QRun} {c : Issue} {q : QDesc} {desc entry arg : Word} {l pred : Nat} (h : x.memOk) :
    (x.push c q desc entry arg l pred).memOk := by
  unfold QRun.push
  grind
local grind_pattern QRun.push_memOk => x.push c q desc entry arg l pred

theorem State.queueBack_memOk {ag : Agent} {kind desc : Nat} {x : QRun} (h : s.memOk) : (s.queueBack ag kind desc x).memOk := by
  unfold State.queueBack
  grind
local grind_pattern State.queueBack_memOk => s.queueBack ag kind desc x

theorem State.pushes_memOk {i : Instr} {sw : Bool} {u : Uses} {kind : Nat} {q : BitVec 3} {e : Option (BitVec 7)} {g : BitVec 7}
    {p : BitVec 3} (h : s.memOk) : KeepsMem (s.pushes i sw u kind q e g p) := by
  unfold State.pushes
  grind
local grind_pattern State.pushes_memOk => s.pushes i sw u kind q e g p

theorem QRun.pull_memOk {x : QRun} {c : Issue} {q : QDesc} {d : BitVec 7} {l pred : Nat} (h : x.memOk) :
    (x.pull c q d l pred).memOk := by
  unfold QRun.pull
  grind
local grind_pattern QRun.pull_memOk => x.pull c q d l pred

/-! ## Placement -/

theorem State.putWg_memOk {l : Launch} {x : NextWg} {core : Nat} (h : s.memOk) : (s.putWg l x core).memOk := by unfold State.putWg; grind
local grind_pattern State.putWg_memOk => s.putWg l x core

theorem State.ageOthers_memOk {l : Launch} (h : s.memOk) : (s.ageOthers l).memOk := by unfold State.ageOthers; grind
local grind_pattern State.ageOthers_memOk => s.ageOthers l

theorem State.placeOn_memOk {l : Launch} {x : NextWg} {core : Nat} (h : s.memOk) : (s.placeOn l x core).memOk := by
  unfold State.placeOn
  grind
local grind_pattern State.placeOn_memOk => s.placeOn l x core

theorem map_memOk {α : Type} {o : Option α} {f : α → State} {u : State} (hf : ∀ a, o = some a → (f a).memOk)
    (hu : o.map f = some u) : u.memOk := by
  obtain ⟨a, ha, rfl⟩ := Option.map_eq_some_iff.mp hu
  exact hf a ha

theorem State.placeSingle_memOk {l : Launch} {x : NextWg} {u : State} (h : s.memOk) (hu : s.placeSingle l x = some u) : u.memOk := by
  unfold State.placeSingle at hu
  split at hu
  · split at hu
    · exact Option.some.inj hu ▸ State.placeOn_memOk h
    · cases hu
  · exact map_memOk (fun _ _ => State.placeOn_memOk h) hu
local grind_pattern State.placeSingle_memOk => s.placeSingle l x, some u

theorem State.placeGroup_memOk {l : Launch} {x : NextWg} {u : State} (h : s.memOk) (hu : s.placeGroup l x = some u) : u.memOk := by
  unfold State.placeGroup at hu
  extract_lets n es open_ fits quads at hu
  split at hu
  · cases hu
  · refine List.foldlRecOn (motive := fun o => ∀ t, o = some t → t.memOk) _ _ (fun _ ht => Option.some.inj ht ▸ h) ?_ u hu
    intro o ho k _ t ht
    split at ht
    · cases ht
    · split at ht
      · exact map_memOk (fun _ _ => State.placeOn_memOk (ho _ rfl)) ht
      · cases ht
local grind_pattern State.placeGroup_memOk => s.placeGroup l x, some u

theorem State.placeAll_memOk {n id : Nat} {s u : State} (h : s.memOk) (hu : State.placeAll n id s = some u) : u.memOk := by
  induction n generalizing s with
  | zero => unfold State.placeAll at hu; grind
  | succ n ih => unfold State.placeAll at hu; grind
local grind_pattern State.placeAll_memOk => State.placeAll n id s, some u

theorem State.placeNext_memOk {l : Launch} {u : State} (h : s.memOk) (hu : s.placeNext l = some u) : u.memOk := by
  unfold State.placeNext at hu
  split at hu
  · cases hu
  split at hu
  · exact State.placeSingle_memOk h hu
  split at hu
  · exact State.placeGroup_memOk h hu
  split at hu
  · split at hu
    · cases hu
    · refine map_memOk (fun t ht => ?_) hu
      have h2 : t.memOk := State.placeAll_memOk h ht
      exact h2
  · exact State.placeSingle_memOk h hu
local grind_pattern State.placeNext_memOk => s.placeNext l, some u

theorem State.placeFirst_memOk {ls : List Launch} {u : State} (h : s.memOk) (hu : s.placeFirst ls = some u) : u.memOk := by
  induction ls with
  | nil => cases hu
  | cons l ls ih => unfold State.placeFirst at hu; grind
local grind_pattern State.placeFirst_memOk => s.placeFirst ls, some u

theorem State.noteStuck_memOk {p : BitVec 2} (h : s.memOk) : (s.noteStuck p).memOk := by unfold State.noteStuck; grind
local grind_pattern State.noteStuck_memOk => s.noteStuck p

theorem State.removeWg_memOk {g : Workgroup} (h : s.memOk) : (s.removeWg g).memOk := by unfold State.removeWg; grind
local grind_pattern State.removeWg_memOk => s.removeWg g

theorem State.dropStale_memOk (h : s.memOk) : (s.dropStale).memOk := by unfold State.dropStale; grind
local grind_pattern State.dropStale_memOk => s.dropStale

/-! ## Lifetime -/

theorem State.noteEcc_memOk {uncorrected : Bool} {unit : Nat} (h : s.memOk) : (s.noteEcc uncorrected unit).memOk := by
  unfold State.noteEcc
  grind
local grind_pattern State.noteEcc_memOk => s.noteEcc uncorrected unit

theorem State.noteRetrain_memOk {unit : Nat} (h : s.memOk) : (s.noteRetrain unit).memOk := by unfold State.noteRetrain; grind
local grind_pattern State.noteRetrain_memOk => s.noteRetrain unit

theorem State.appendLife_memOk (h : s.memOk) : (s.appendLife).memOk := by unfold State.appendLife; grind
local grind_pattern State.appendLife_memOk => s.appendLife

/-! ## Power -/

theorem State.closeSession_memOk {p : BitVec 2} {i : Nat} (h : s.memOk) : (s.closeSession p i).memOk := by
  unfold State.closeSession
  grind
local grind_pattern State.closeSession_memOk => s.closeSession p i

theorem State.closeSessions_memOk {p : BitVec 2} (h : s.memOk) : (s.closeSessions p).memOk := by unfold State.closeSessions; grind
local grind_pattern State.closeSessions_memOk => s.closeSessions p

theorem State.cold_memOk (h : s.memOk) : (s.cold).memOk := ⟨State.reset_formed.1, h.2⟩
local grind_pattern State.cold_memOk => s.cold

theorem State.bootFails_memOk {done : BitVec 3} {err : BitVec 8} (h : s.memOk) : (s.bootFails done err).memOk := by
  unfold State.bootFails
  grind
local grind_pattern State.bootFails_memOk => s.bootFails done err

theorem State.configure_memOk {cfg : List Byte} (h : s.memOk) : (s.configure cfg).memOk := by unfold State.configure; grind
local grind_pattern State.configure_memOk => s.configure cfg

theorem State.boot_memOk (h : s.memOk) : (s.boot).memOk := by unfold State.boot; grind
local grind_pattern State.boot_memOk => s.boot

theorem State.deviceReset_memOk (h : s.memOk) : (s.deviceReset).memOk := by unfold State.deviceReset; grind
local grind_pattern State.deviceReset_memOk => s.deviceReset

theorem State.setClock_memOk {d : Nat} {mhz : BitVec 16} (h : s.memOk) : (s.setClock d mhz).memOk := by unfold State.setClock; grind
local grind_pattern State.setClock_memOk => s.setClock d mhz

theorem State.wake_memOk (h : s.memOk) : (s.wake).memOk := by unfold State.wake; grind
local grind_pattern State.wake_memOk => s.wake

theorem State.wakeFor_memOk {row : Instr} {u : State} (h : s.memOk) (hu : s.wakeFor row = some u) : u.memOk := by
  unfold State.wakeFor at hu
  grind
local grind_pattern State.wakeFor_memOk => s.wakeFor row, some u

theorem State.clearPsReq_memOk (h : s.memOk) : (s.clearPsReq).memOk := by unfold State.clearPsReq; grind
local grind_pattern State.clearPsReq_memOk => s.clearPsReq

theorem State.askPs3_memOk {p : BitVec 2} (h : s.memOk) : (s.askPs3 p).memOk := by
  unfold State.askPs3
  extract_lets s1 last
  split
  · exact h
  split
  · exact h
  · have h2 : (allParts.foldl (fun t k => t.closeSessions k) s1).memOk := foldl_memOk (fun _ _ => State.closeSessions_memOk) h
    exact ⟨h2.1, h2.2⟩
local grind_pattern State.askPs3_memOk => s.askPs3 p

theorem State.dropPs3_memOk {p : BitVec 2} (h : s.memOk) : (s.dropPs3 p).memOk := by unfold State.dropPs3; grind
local grind_pattern State.dropPs3_memOk => s.dropPs3 p

theorem State.gateDies_memOk (h : s.memOk) : (s.gateDies).memOk := by unfold State.gateDies; grind
local grind_pattern State.gateDies_memOk => s.gateDies

/-! ## Records -/

theorem State.dropRing_memOk {p : BitVec 2} {q : BitVec 6} (h : s.memOk) : (s.dropRing p q).memOk := by unfold State.dropRing; grind
local grind_pattern State.dropRing_memOk => s.dropRing p q

theorem State.checkOverrun_memOk {p : BitVec 2} {q : BitVec 6} (h : s.memOk) : (s.checkOverrun p q).memOk := by
  unfold State.checkOverrun
  grind
local grind_pattern State.checkOverrun_memOk => s.checkOverrun p q

theorem State.writeQueueCfg_memOk {p : BitVec 2} {q : BitVec 6} {v : Nat} (h : s.memOk) : (s.writeQueueCfg p q v).memOk := by
  unfold State.writeQueueCfg
  grind
local grind_pattern State.writeQueueCfg_memOk => s.writeQueueCfg p q v

theorem State.notify_memOk {p : BitVec 2} {q : BitVec 6} {v : BitVec 32} (h : s.memOk) : (s.notify p q v).memOk := by
  unfold State.notify
  grind
local grind_pattern State.notify_memOk => s.notify p q v

theorem State.mastAsk_memOk {r : ExtReq} {ps : List (Place × Nat)} {op : PeerOp} (h : s.memOk) : (s.mastAsk r ps op).1.memOk := by
  unfold State.mastAsk
  grind
local grind_pattern State.mastAsk_memOk => s.mastAsk r ps op

theorem State.mastRead_memOk {c : BitVec 6} {ptr n : Nat} {r : ExtReq} (h : s.memOk) : (s.mastRead c ptr n r).1.memOk := by
  unfold State.mastRead
  grind
local grind_pattern State.mastRead_memOk => s.mastRead c ptr n r

theorem State.pollWait_memOk {p : BitVec 2} {q : BitVec 6} {i : Nat} (h : s.memOk) : (s.pollWait p q i).memOk := by
  unfold State.pollWait
  grind
local grind_pattern State.pollWait_memOk => s.pollWait p q i

theorem State.pollWaits_memOk {p : BitVec 2} {q : BitVec 6} (h : s.memOk) : (s.pollWaits p q).memOk := by unfold State.pollWaits; grind
local grind_pattern State.pollWaits_memOk => s.pollWaits p q

theorem State.rereadWaits_memOk {p : BitVec 2} {q : BitVec 6} {at_ : List (Place × Nat)} (h : s.memOk) :
    (s.rereadWaits p q at_).memOk := by
  unfold State.rereadWaits
  grind
local grind_pattern State.rereadWaits_memOk => s.rereadWaits p q at_

theorem State.reread_memOk (h : s.memOk) : (s.reread).memOk := by unfold State.reread; grind
local grind_pattern State.reread_memOk => s.reread

theorem State.dropCaches_memOk {p : BitVec 2} (h : s.memOk) : (s.dropCaches p).memOk := by unfold State.dropCaches; grind
local grind_pattern State.dropCaches_memOk => s.dropCaches p

theorem State.writeBacks_memOk {p : BitVec 2} (h : s.memOk) : (s.writeBacks p).memOk := by unfold State.writeBacks; grind
local grind_pattern State.writeBacks_memOk => s.writeBacks p

theorem State.consume_memOk {p : BitVec 2} {q : BitVec 6} (h : s.memOk) : (s.consume p q).memOk := by unfold State.consume; grind
local grind_pattern State.consume_memOk => s.consume p q

theorem State.chunkNames_memOk {ag : Agent} {dst src off n : Nat} (h : s.memOk) : (s.chunkNames ag dst src off n).1.memOk := by
  unfold State.chunkNames
  grind
local grind_pattern State.chunkNames_memOk => s.chunkNames ag dst src off n

theorem State.copyShare_memOk {earlier : List Lock} {l : Launch} {core i c chunks : Nat} (h : s.memOk) :
    (s.copyShare earlier l core i c chunks).memOk := by
  unfold State.copyShare
  grind
local grind_pattern State.copyShare_memOk => s.copyShare earlier l core i c chunks

theorem State.startCopy_memOk {l : Launch} (h : s.memOk) : (s.startCopy l).memOk := by unfold State.startCopy; grind
local grind_pattern State.startCopy_memOk => s.startCopy l

theorem State.signalAdd_memOk {l : Launch} (h : s.memOk) : (s.signalAdd l).memOk := by unfold State.signalAdd; grind
local grind_pattern State.signalAdd_memOk => s.signalAdd l

/-! ## Links -/

theorem State.modPort_memOk {i : Nat} {f : Port → Port} (h : s.memOk) : (s.modPort i f).memOk := by unfold State.modPort; grind
local grind_pattern State.modPort_memOk => s.modPort i f

theorem State.pump_memOk {i : Nat} (h : s.memOk) : (s.pump i).memOk := by unfold State.pump; grind
local grind_pattern State.pump_memOk => s.pump i

theorem State.sendCredits_memOk {i : Nat} (h : s.memOk) : (s.sendCredits i).memOk := by unfold State.sendCredits; grind
local grind_pattern State.sendCredits_memOk => s.sendCredits i

theorem State.oweCredit_memOk {i vc : Nat} (h : s.memOk) : (s.oweCredit i vc).memOk := by unfold State.oweCredit; grind
local grind_pattern State.oweCredit_memOk => s.oweCredit i vc

theorem State.takeAck_memOk {i : Nat} {ack : BitVec 32} (h : s.memOk) : (s.takeAck i ack).memOk := by unfold State.takeAck; grind
local grind_pattern State.takeAck_memOk => s.takeAck i ack

theorem State.takeCredit_memOk {i : Nat} {credit : BitVec 32} (h : s.memOk) : (s.takeCredit i credit).memOk := by
  unfold State.takeCredit
  grind
local grind_pattern State.takeCredit_memOk => s.takeCredit i credit

theorem State.retrain_memOk {i : Nat} (h : s.memOk) : (s.retrain i).memOk := by unfold State.retrain; grind
local grind_pattern State.retrain_memOk => s.retrain i

theorem State.nak_memOk {i : Nat} {n : BitVec 32} (h : s.memOk) : (s.nak i n).memOk := by unfold State.nak; grind
local grind_pattern State.nak_memOk => s.nak i n

theorem State.meetOpen_memOk {i : Nat} {p : BitVec 2} {src : BitVec 8} {gen : BitVec 16} {reply : Bool} (h : s.memOk) :
    (s.meetOpen i p src gen reply).memOk := by
  unfold State.meetOpen
  grind
local grind_pattern State.meetOpen_memOk => s.meetOpen i p src gen reply

theorem State.linkControl_memOk {i : Nat} {src : BitVec 8} {m : PeerMsg} (h : s.memOk) : (s.linkControl i src m).memOk := by
  unfold State.linkControl
  grind
local grind_pattern State.linkControl_memOk => s.linkControl i src m

theorem State.peerAtomic_memOk {ag : Agent} {ptr : Nat} {op : BitVec 4} {wide : Bool} {v cmp : Nat} (h : s.memOk) :
    (s.peerAtomic ag ptr op wide v cmp).1.memOk := by
  unfold State.peerAtomic
  grind
local grind_pattern State.peerAtomic_memOk => s.peerAtomic ag ptr op wide v cmp

theorem State.peerBar_memOk {p : BitVec 2} {c : BitVec 6} {dev : BitVec 8} {fn k arg : Nat} (h : s.memOk) :
    (s.peerBar p c dev fn k arg).1.memOk := by
  unfold State.peerBar
  grind
local grind_pattern State.peerBar_memOk => s.peerBar p c dev fn k arg

theorem State.runPlaces_memOk {ag : Agent} {p : Nat} {xs : List (Nat × Nat)} (h : s.memOk) : (State.runPlaces ag p xs s).1.memOk := by
  induction xs generalizing s with
  | nil => exact h
  | cons x xs ih => unfold State.runPlaces; grind
local grind_pattern State.runPlaces_memOk => State.runPlaces ag p xs s

theorem State.writeMasked_memOk {ag : Agent} {p : Nat} {m : BitVec 32} {d : List Byte} (h : s.memOk) :
    (s.writeMasked ag p m d).1.memOk := by
  unfold State.writeMasked
  grind
local grind_pattern State.writeMasked_memOk => s.writeMasked ag p m d

theorem State.servePart_memOk {x : Inbound} {k : Nat} (h : s.memOk) : (s.servePart x k).1.memOk := by unfold State.servePart; grind
local grind_pattern State.servePart_memOk => s.servePart x k

theorem State.serveOne_memOk {x : Inbound} {k : Nat} (h : s.memOk) : (s.serveOne x k).1.memOk := by unfold State.serveOne; grind
local grind_pattern State.serveOne_memOk => s.serveOne x k

theorem State.answerPeer_memOk {x : Inbound} (h : s.memOk) : (s.answerPeer x).memOk := by unfold State.answerPeer; grind
local grind_pattern State.answerPeer_memOk => s.answerPeer x

theorem State.serveStep_memOk {k : Nat} (h : s.memOk) : (s.serveStep k).memOk := by unfold State.serveStep; grind
local grind_pattern State.serveStep_memOk => s.serveStep k

theorem State.drop_memOk {i : Nat} (h : s.memOk) : (s.drop i).memOk := by unfold State.drop; grind
local grind_pattern State.drop_memOk => s.drop i

theorem State.peerAsked_memOk {i : Nat} {f : Flit} {tag : Nat} {p : BitVec 2} {c : BitVec 6} {addr : BitVec 52} {op : PeerOp}
    (h : s.memOk) : (s.peerAsked i f tag p c addr op).memOk := by
  unfold State.peerAsked
  grind
local grind_pattern State.peerAsked_memOk => s.peerAsked i f tag p c addr op

theorem State.barrierAnswer_memOk {r : ExtReq} {d : List Byte} (h : s.memOk) : (s.barrierAnswer r d).memOk := by
  unfold State.barrierAnswer
  grind
local grind_pattern State.barrierAnswer_memOk => s.barrierAnswer r d

theorem State.eventAnswer_memOk {r : ExtReq} {v : Nat} (h : s.memOk) : (s.eventAnswer r v).memOk := by unfold State.eventAnswer; grind
local grind_pattern State.eventAnswer_memOk => s.eventAnswer r v

theorem State.loadAnswer_memOk {r : ExtReq} {d : List Byte} (h : s.memOk) : (s.loadAnswer r d).memOk := by unfold State.loadAnswer; grind
local grind_pattern State.loadAnswer_memOk => s.loadAnswer r d

theorem State.nudgePeer_memOk {r : ExtReq} (h : s.memOk) : (s.nudgePeer r).memOk := by unfold State.nudgePeer; grind
local grind_pattern State.nudgePeer_memOk => s.nudgePeer r

theorem State.extAnswer_memOk {r : ExtReq} {d : List Byte} (h : s.memOk) : (s.extAnswer r d).memOk := by unfold State.extAnswer; grind
local grind_pattern State.extAnswer_memOk => s.extAnswer r d

theorem State.peerAnswered_memOk {i : Nat} {f : Flit} {tag : Nat} {p : BitVec 2} {c : BitVec 6} {status : BitVec 8} {d : List Byte}
    (h : s.memOk) : (s.peerAnswered i f tag p c status d).memOk := by
  unfold State.peerAnswered
  grind
local grind_pattern State.peerAnswered_memOk => s.peerAnswered i f tag p c status d

theorem State.deliverMsg_memOk {i : Nat} {f : Flit} {m : PeerMsg} (h : s.memOk) : (s.deliverMsg i f m).memOk := by
  unfold State.deliverMsg
  grind
local grind_pattern State.deliverMsg_memOk => s.deliverMsg i f m

theorem State.takeFlit_memOk {i : Nat} {f : Flit} (h : s.memOk) : (s.takeFlit i f).memOk := by unfold State.takeFlit; grind
local grind_pattern State.takeFlit_memOk => s.takeFlit i f

theorem State.openSession_memOk {p : BitVec 2} {i : Nat} (h : s.memOk) : (s.openSession p i).memOk := by unfold State.openSession; grind
local grind_pattern State.openSession_memOk => s.openSession p i

theorem State.loseCut_memOk (h : s.memOk) : (s.loseCut).memOk := by unfold State.loseCut; grind
local grind_pattern State.loseCut_memOk => s.loseCut

theorem State.reroute_memOk {i : Nat} {fs : List Flit} (h : s.memOk) : (s.reroute i fs).memOk := by unfold State.reroute; grind
local grind_pattern State.reroute_memOk => s.reroute i fs

theorem State.portDown_memOk {i : Nat} {state : BitVec 2} (h : s.memOk) : (s.portDown i state).memOk := by unfold State.portDown; grind
local grind_pattern State.portDown_memOk => s.portDown i state

theorem State.farPortDown_memOk {i : Nat} {dev : BitVec 8} (h : s.memOk) : (s.farPortDown i dev).memOk := by
  unfold State.farPortDown
  grind
local grind_pattern State.farPortDown_memOk => s.farPortDown i dev

theorem State.writePortEn_memOk {i : Nat} {en : Bool} (h : s.memOk) : (s.writePortEn i en).memOk := by unfold State.writePortEn; grind
local grind_pattern State.writePortEn_memOk => s.writePortEn i en

/-! ## MemWindow -/

theorem State.windowKey_memOk {ag : Agent} {va : Nat} {write : Bool} (h : s.memOk) : (s.windowKey ag va write).1.memOk := by
  unfold State.windowKey
  grind
local grind_pattern State.windowKey_memOk => s.windowKey ag va write

theorem State.windowErr_memOk {p : BitVec 2} (h : s.memOk) : (s.windowErr p).memOk := by unfold State.windowErr; grind
local grind_pattern State.windowErr_memOk => s.windowErr p

theorem State.windowPart_memOk {x : WindowAcc} {k : Nat} (h : s.memOk) : (s.windowPart x k).1.memOk := by unfold State.windowPart; grind
local grind_pattern State.windowPart_memOk => s.windowPart x k

theorem State.windowDone_memOk {x : WindowAcc} (h : s.memOk) : (s.windowDone x).memOk := by unfold State.windowDone; grind
local grind_pattern State.windowDone_memOk => s.windowDone x

theorem State.windowAsk_memOk {x : WindowAcc} (h : s.memOk) : (s.windowAsk x).memOk := by unfold State.windowAsk; grind
local grind_pattern State.windowAsk_memOk => s.windowAsk x

theorem State.windowStep_memOk {k : Nat} (h : s.memOk) : (s.windowStep k).memOk := by unfold State.windowStep; grind
local grind_pattern State.windowStep_memOk => s.windowStep k

theorem State.writeSet_memOk {j v : Nat} (h : s.memOk) : (s.writeSet j v).memOk := by unfold State.writeSet; grind
local grind_pattern State.writeSet_memOk => s.writeSet j v

/-! ## Rate -/

theorem State.rateSetOf_memOk {ag : Agent} {b : BitVec 128} (h : s.memOk) : (s.rateSetOf ag b).1.memOk := by unfold State.rateSetOf; grind
local grind_pattern State.rateSetOf_memOk => s.rateSetOf ag b

theorem State.rateOp_memOk {ag : Agent} {b : BitVec 128} {k : Nat} {write : Bool}
    {f : RatePar → RateHdr → RateHdr × List (Dest × Nat)} (h : s.memOk) : (s.rateOp ag b k write f).1.memOk := by
  unfold State.rateOp
  grind
local grind_pattern State.rateOp_memOk => s.rateOp ag b k write f

theorem State.rates_memOk {i : Instr} {sw : Bool} {u : Uses} {b : BitVec 3} {k : BitVec 7} {write : Bool}
    {f : Issue → State → Nat → RatePar → RateHdr → RateHdr × List (Dest × Nat)} (h : s.memOk) :
    KeepsMem (s.rates i sw u b k write f) := by
  unfold State.rates
  grind
local grind_pattern State.rates_memOk => s.rates i sw u b k write f

theorem State.sweepOp_memOk {ag : Agent} {b : BitVec 128} (h : s.memOk) : (s.sweepOp ag b).1.memOk := by unfold State.sweepOp; grind
local grind_pattern State.sweepOp_memOk => s.sweepOp ag b

/-! ## Switch -/

theorem State.settleHalt_memOk {p : BitVec 2} {c : BitVec 6} (h : s.memOk) : (s.settleHalt p c).memOk := by unfold State.settleHalt; grind
local grind_pattern State.settleHalt_memOk => s.settleHalt p c

theorem State.cancelJobs_memOk {f : Job → Bool} (h : s.memOk) : (s.cancelJobs f).memOk := by unfold State.cancelJobs; grind
local grind_pattern State.cancelJobs_memOk => s.cancelJobs f

theorem State.discardCtx_memOk {p : BitVec 2} {c : BitVec 6} (h : s.memOk) : (s.discardCtx p c).memOk := by unfold State.discardCtx; grind
local grind_pattern State.discardCtx_memOk => s.discardCtx p c

theorem State.stopFetching_memOk {p : BitVec 2} {c : BitVec 6} (h : s.memOk) : (s.stopFetching p c).memOk := by
  unfold State.stopFetching
  grind
local grind_pattern State.stopFetching_memOk => s.stopFetching p c

theorem State.killCtx_memOk {p : BitVec 2} {c : BitVec 6} (h : s.memOk) : (s.killCtx p c).memOk := by unfold State.killCtx; grind
local grind_pattern State.killCtx_memOk => s.killCtx p c

theorem State.disown_memOk {f : BitVec 2 → BitVec 6 → Bool} (h : s.memOk) : (s.disown f).memOk := by unfold State.disown; grind
local grind_pattern State.disown_memOk => s.disown f

theorem State.resumeCtx_memOk {p : BitVec 2} {c : BitVec 6} (h : s.memOk) : (s.resumeCtx p c).memOk := by unfold State.resumeCtx; grind
local grind_pattern State.resumeCtx_memOk => s.resumeCtx p c

theorem State.resetMap_memOk {p : BitVec 2} {c : BitVec 6} (h : s.memOk) : (s.resetMap p c).memOk := by unfold State.resetMap; grind
local grind_pattern State.resetMap_memOk => s.resetMap p c

theorem State.endWg_memOk {g : Workgroup} (h : s.memOk) : (s.endWg g).memOk := by unfold State.endWg; grind
local grind_pattern State.endWg_memOk => s.endWg g

theorem State.resumeFaulted_memOk {p : BitVec 2} {c : BitVec 6} (h : s.memOk) : (s.resumeFaulted p c).memOk := by
  unfold State.resumeFaulted
  grind
local grind_pattern State.resumeFaulted_memOk => s.resumeFaulted p c

theorem State.killAll_memOk {p : BitVec 2} {f : Option Summary} (h : s.memOk) : (s.killAll p f).memOk := by unfold State.killAll; grind
local grind_pattern State.killAll_memOk => s.killAll p f

theorem State.stopQueues_memOk {p : BitVec 2} (h : s.memOk) : (s.stopQueues p).memOk := by unfold State.stopQueues; grind
local grind_pattern State.stopQueues_memOk => s.stopQueues p

theorem State.stopAll_memOk {p : BitVec 2} (h : s.memOk) : (s.stopAll p).memOk := by unfold State.stopAll; grind
local grind_pattern State.stopAll_memOk => s.stopAll p

theorem State.zeroQuads_memOk {p : BitVec 2} (h : s.memOk) : (s.zeroQuads p).memOk := by unfold State.zeroQuads; grind
local grind_pattern State.zeroQuads_memOk => s.zeroQuads p

theorem State.raiseLost_memOk {p : BitVec 2} {c : BitVec 6} {serial : Word} {noWg : Bool} {wg : Nat} (h : s.memOk) :
    (s.raiseLost p c serial noWg wg).memOk := by
  unfold State.raiseLost
  grind
local grind_pattern State.raiseLost_memOk => s.raiseLost p c serial noWg wg

theorem State.splitTableLost_memOk {p : BitVec 2} {c : BitVec 6} {wid : Nat} (h : s.memOk) : (s.splitTableLost p c wid).memOk := by
  unfold State.splitTableLost
  grind
local grind_pattern State.splitTableLost_memOk => s.splitTableLost p c wid

theorem State.loseWg_memOk {g : Workgroup} {job : Nat} (h : s.memOk) : (s.loseWg g job).memOk := by unfold State.loseWg; grind
local grind_pattern State.loseWg_memOk => s.loseWg g job

theorem State.writeDies_memOk {p : BitVec 2} {v : BitVec 4} (h : s.memOk) : (s.writeDies p v).memOk := by unfold State.writeDies; grind
local grind_pattern State.writeDies_memOk => s.writeDies p v

/-! ## Window -/

theorem State.startLoad_memOk {kind : Bool} (h : s.memOk) : (s.startLoad kind).memOk := by unfold State.startLoad; grind
local grind_pattern State.startLoad_memOk => s.startLoad kind

theorem State.writeXlt_memOk {p : BitVec 2} {v : Nat} (h : s.memOk) : (s.writeXlt p v).memOk := by unfold State.writeXlt; grind
local grind_pattern State.writeXlt_memOk => s.writeXlt p v

theorem State.clearCounters_memOk {v : Nat} (h : s.memOk) : (s.clearCounters v).memOk := by unfold State.clearCounters; grind
local grind_pattern State.clearCounters_memOk => s.clearCounters v

theorem State.writeFwCtl_memOk {v : Nat} (h : s.memOk) : (s.writeFwCtl v).memOk := by unfold State.writeFwCtl; grind
local grind_pattern State.writeFwCtl_memOk => s.writeFwCtl v

theorem State.devWrite_memOk {off v w m : Nat} (h : s.memOk) : (s.devWrite off v w m).memOk := by unfold State.devWrite; grind
local grind_pattern State.devWrite_memOk => s.devWrite off v w m

theorem State.pwrWrite_memOk {off v w : Nat} (h : s.memOk) : (s.pwrWrite off v w).memOk := by unfold State.pwrWrite; grind
local grind_pattern State.pwrWrite_memOk => s.pwrWrite off v w

theorem State.stayWrite_memOk {off v m : Nat} (h : s.memOk) : (s.stayWrite off v m).memOk := by unfold State.stayWrite; grind
local grind_pattern State.stayWrite_memOk => s.stayWrite off v m

theorem State.queueWrite_memOk {p : BitVec 2} {q : BitVec 6} {off v w m : Nat} (h : s.memOk) : (s.queueWrite p q off v w m).memOk := by
  unfold State.queueWrite
  grind
local grind_pattern State.queueWrite_memOk => s.queueWrite p q off v w m

theorem State.writeCtxCfg_memOk {p : BitVec 2} {c : BitVec 6} {v w : Nat} (h : s.memOk) : (s.writeCtxCfg p c v w).memOk := by
  unfold State.writeCtxCfg
  grind
local grind_pattern State.writeCtxCfg_memOk => s.writeCtxCfg p c v w

theorem State.ctxWrite_memOk {p : BitVec 2} {c : BitVec 6} {off v w : Nat} (h : s.memOk) : (s.ctxWrite p c off v w).memOk := by
  unfold State.ctxWrite
  grind
local grind_pattern State.ctxWrite_memOk => s.ctxWrite p c off v w

theorem State.sessionWrite_memOk {p : BitVec 2} {i v m : Nat} (h : s.memOk) : (s.sessionWrite p i v m).memOk := by
  unfold State.sessionWrite
  grind
local grind_pattern State.sessionWrite_memOk => s.sessionWrite p i v m

theorem State.expertWrite_memOk {p : BitVec 2} {c : BitVec 6} {n v : Nat} (h : s.memOk) : (s.expertWrite p c n v).memOk := by
  unfold State.expertWrite
  grind
local grind_pattern State.expertWrite_memOk => s.expertWrite p c n v

theorem State.writePartCtl_memOk {p : BitVec 2} {v : Nat} (h : s.memOk) : (s.writePartCtl p v).memOk := by
  unfold State.writePartCtl
  grind
local grind_pattern State.writePartCtl_memOk => s.writePartCtl p v

theorem State.cmdWrite_memOk {p : BitVec 2} {c : BitVec 6} {cmd : Nat} (h : s.memOk) : (s.cmdWrite p c cmd).memOk := by
  unfold State.cmdWrite
  grind
local grind_pattern State.cmdWrite_memOk => s.cmdWrite p c cmd

theorem State.ctlWrite_memOk {p : BitVec 2} {off v w m : Nat} (h : s.memOk) : (s.ctlWrite p off v w m).memOk := by
  unfold State.ctlWrite
  grind
local grind_pattern State.ctlWrite_memOk => s.ctlWrite p off v w m

theorem State.mwinWrite_memOk {p : BitVec 2} {v w : Nat} (h : s.memOk) : (s.mwinWrite p v w).memOk := by unfold State.mwinWrite; grind
local grind_pattern State.mwinWrite_memOk => s.mwinWrite p v w

theorem State.partWrite_memOk {p : BitVec 2} {off v w m : Nat} (h : s.memOk) : (s.partWrite p off v w m).memOk := by
  unfold State.partWrite
  grind
local grind_pattern State.partWrite_memOk => s.partWrite p off v w m

theorem State.regWrite_memOk {off w m : Nat} (h : s.memOk) : (s.regWrite off w m).memOk := by
  unfold State.regWrite
  split
  · grind
  · grind
local grind_pattern State.regWrite_memOk => s.regWrite off w m

/-! ## Instructions and events -/

theorem execShf_memOk {sw : Bool} {w : BitVec 3} {hh : BitVec 2} {d a b : BitVec 7} (h : s.memOk) :
    KeepsMem (execShf sw w hh d a b s) := by
  unfold execShf
  grind

theorem execShfx_memOk {sw : Bool} {w : BitVec 3} {hh : BitVec 2} {d a b : BitVec 7} (h : s.memOk) :
    KeepsMem (execShfx sw w hh d a b s) := by
  unfold execShfx
  grind

theorem execBrev_memOk {sw : Bool} {w : BitVec 3} {d a : BitVec 7} (h : s.memOk) : KeepsMem (execBrev sw w d a s) := by
  unfold execBrev
  exact State.vuInt_memOk h

theorem execQhad_memOk {sw : Bool} {w : BitVec 3} {d a : BitVec 7} {n : BitVec 1} {r : BitVec 3} (h : s.memOk) :
    KeepsMem (execQhad sw w d a n r s) := by
  unfold execQhad
  grind

theorem execSel_memOk {sw : Bool} {w : BitVec 3} {d a : BitVec 7} {n : BitVec 1} {p : BitVec 3} (h : s.memOk) :
    KeepsMem (execSel sw w d a n p s) := by
  unfold execSel
  grind

theorem execPmovv_memOk {sw : Bool} {w : BitVec 3} {a : BitVec 7} {n : BitVec 1} {p : BitVec 3} (h : s.memOk) :
    KeepsMem (execPmovv sw w a n p s) := by
  unfold execPmovv
  grind

theorem execVmovp_memOk {sw : Bool} {w : BitVec 3} {d : BitVec 7} {p : BitVec 3} (h : s.memOk) : KeepsMem (execVmovp sw w d p s) := by
  unfold execVmovp
  grind

theorem execLd_memOk {sw : Bool} {g w : BitVec 3} {d a : BitVec 7} {x : BitVec 1} (h : s.memOk) : KeepsMem (execLd sw g w d a x s) := by
  unfold execLd
  grind

theorem execLdl_memOk {sw : Bool} {g w : BitVec 3} {d a : BitVec 7} (h : s.memOk) : KeepsMem (execLdl sw g w d a s) := by
  unfold execLdl
  grind

theorem execLds_memOk {sw : Bool} {g w : BitVec 3} {d a : BitVec 7} {x : BitVec 1} (h : s.memOk) : KeepsMem (execLds sw g w d a x s) := by
  unfold execLds
  grind

theorem execSt_memOk {sw : Bool} {g w : BitVec 3} {d a : BitVec 7} {x : BitVec 1} (h : s.memOk) : KeepsMem (execSt sw g w d a x s) := by
  unfold execSt
  grind

theorem execSts_memOk {sw : Bool} {g w : BitVec 3} {d a : BitVec 7} {x : BitVec 1} (h : s.memOk) : KeepsMem (execSts sw g w d a x s) := by
  unfold execSts
  grind

theorem execStc_memOk {sw : Bool} {g w : BitVec 3} {d a : BitVec 7} (h : s.memOk) : KeepsMem (execStc sw g w d a s) := by
  unfold execStc
  grind

theorem execPref_memOk {sw : Bool} {g : BitVec 3} {a : BitVec 7} (h : s.memOk) : KeepsMem (execPref sw g a s) := by unfold execPref; grind

theorem execFence_memOk {sw : Bool} {g c : BitVec 3} {k : BitVec 2} (h : s.memOk) : KeepsMem (execFence sw g c k s) := by
  unfold execFence
  grind

theorem execFlushrc_memOk {sw : Bool} (h : s.memOk) : KeepsMem (execFlushrc sw s) := by unfold execFlushrc; grind

theorem execSld_memOk {sw : Bool} {d a : BitVec 6} {x : BitVec 2} (h : s.memOk) : KeepsMem (execSld sw d a x s) := by
  unfold execSld
  grind

theorem execSst_memOk {sw : Bool} {d a : BitVec 6} {x : BitVec 2} (h : s.memOk) : KeepsMem (execSst sw d a x s) := by
  unfold execSst
  grind

theorem execBinit_memOk {sw : Bool} {b a : BitVec 6} (h : s.memOk) : KeepsMem (execBinit sw b a s) := by unfold execBinit; grind

theorem execBarv_memOk {sw : Bool} {b a : BitVec 6} {p : BitVec 3} (h : s.memOk) : KeepsMem (execBarv sw b a p s) := by
  unfold execBarv
  grind

theorem execBwait_memOk {sw : Bool} {b a : BitVec 6} (h : s.memOk) : KeepsMem (execBwait sw b a s) := by unfold execBwait; grind

theorem execBexp_memOk {sw : Bool} {b a : BitVec 6} (h : s.memOk) : KeepsMem (execBexp sw b a s) := by unfold execBexp; grind

theorem execBtest_memOk {sw : Bool} {b a : BitVec 6} {p : BitVec 3} (h : s.memOk) : KeepsMem (execBtest sw b a p s) := by
  unfold execBtest
  grind

theorem execBstat_memOk {sw : Bool} {b d : BitVec 6} {l : BitVec 1} (h : s.memOk) : KeepsMem (execBstat sw b d l s) := by
  unfold execBstat
  grind

theorem execWaite_memOk {sw : Bool} {p v : BitVec 6} (h : s.memOk) : KeepsMem (execWaite sw p v s) := by unfold execWaite; grind

theorem execSige_memOk {sw : Bool} {p v : BitVec 6} (h : s.memOk) : KeepsMem (execSige sw p v s) := by unfold execSige; grind

theorem execPcnt_memOk {sw : Bool} {d e : BitVec 6} (h : s.memOk) : KeepsMem (execPcnt sw d e s) := by unfold execPcnt; grind

theorem execSmovi_memOk {sw : Bool} {d : BitVec 6} {i : BitVec 14} (h : s.memOk) : KeepsMem (execSmovi sw d i s) := by
  unfold execSmovi
  grind

theorem execSlui_memOk {sw : Bool} {d : BitVec 6} {i : BitVec 14} (h : s.memOk) : KeepsMem (execSlui sw d i s) := by
  unfold execSlui
  grind

theorem execSbfi_memOk {sw : Bool} {d a b : BitVec 6} (h : s.memOk) : KeepsMem (execSbfi sw d a b s) := by unfold execSbfi; grind

theorem execSaddi_memOk {sw : Bool} {d a : BitVec 6} {i : BitVec 8} (h : s.memOk) : KeepsMem (execSaddi sw d a i s) := by
  unfold execSaddi
  grind

theorem execSread_memOk {sw : Bool} {d c : BitVec 6} (h : s.memOk) : KeepsMem (execSread sw d c s) := by unfold execSread; grind

theorem execWinImm_memOk {sw : Bool} {i : BitVec 5} (h : s.memOk) : KeepsMem (execWinImm sw i s) := by unfold execWinImm; grind

theorem execWinReg_memOk {sw : Bool} {a : BitVec 6} (h : s.memOk) : KeepsMem (execWinReg sw a s) := by unfold execWinReg; grind

theorem execVtos_memOk {sw : Bool} {d : BitVec 6} {v : BitVec 7} (h : s.memOk) : KeepsMem (execVtos sw d v s) := by unfold execVtos; grind

theorem execCsrr_memOk {sw : Bool} {d : BitVec 6} {c : BitVec 12} (h : s.memOk) : KeepsMem (execCsrr sw d c s) := by
  unfold execCsrr
  grind

theorem execCsrw_memOk {sw : Bool} {d : BitVec 6} {c : BitVec 12} (h : s.memOk) : KeepsMem (execCsrw sw d c s) := by
  unfold execCsrw
  grind

theorem execBra_memOk {sw : Bool} {o : BitVec 18} (h : s.memOk) : KeepsMem (execBra sw o s) := by unfold execBra; grind

theorem execBrz_memOk {sw : Bool} {r : BitVec 6} {o : BitVec 12} (h : s.memOk) : KeepsMem (execBrz sw r o s) := by unfold execBrz; grind

theorem execBrnz_memOk {sw : Bool} {r : BitVec 6} {o : BitVec 12} (h : s.memOk) : KeepsMem (execBrnz sw r o s) := by
  unfold execBrnz
  grind

theorem execCall_memOk {sw : Bool} {o : BitVec 18} (h : s.memOk) : KeepsMem (execCall sw o s) := by unfold execCall; grind

theorem execRet_memOk {sw : Bool} (h : s.memOk) : KeepsMem (execRet sw s) := by unfold execRet; grind

theorem execBrx_memOk {sw : Bool} {r : BitVec 6} (h : s.memOk) : KeepsMem (execBrx sw r s) := by unfold execBrx; grind

theorem execCbr_memOk {sw : Bool} {g : BitVec 3} {n : BitVec 1} {o : BitVec 18} (h : s.memOk) : KeepsMem (execCbr sw g n o s) := by
  unfold execCbr
  grind

theorem execExit_memOk {sw : Bool} {g : BitVec 3} {n : BitVec 1} (h : s.memOk) : KeepsMem (execExit sw g n s) := by unfold execExit; grind

theorem execYield_memOk {sw : Bool} {o : BitVec 18} (h : s.memOk) : KeepsMem (execYield sw o s) := by unfold execYield; grind

theorem execJoinw_memOk {sw : Bool} {o : BitVec 18} (h : s.memOk) : KeepsMem (execJoinw sw o s) := by unfold execJoinw; grind

theorem execTrap_memOk {sw : Bool} {g : BitVec 3} {n : BitVec 1} {i : BitVec 18} (h : s.memOk) : KeepsMem (execTrap sw g n i s) := by
  unfold execTrap
  grind

theorem execBrk_memOk {sw : Bool} {g : BitVec 3} {n : BitVec 1} (h : s.memOk) : KeepsMem (execBrk sw g n s) := by unfold execBrk; grind

theorem execRett_memOk {sw : Bool} (h : s.memOk) : KeepsMem (execRett sw s) := by unfold execRett; grind

theorem execSleep_memOk {sw : Bool} {c : BitVec 18} (h : s.memOk) : KeepsMem (execSleep sw c s) := by unfold execSleep; grind

theorem execNop_memOk {sw : Bool} (h : s.memOk) : KeepsMem (execNop sw s) := by unfold execNop; grind

theorem execCpy_memOk {sw : Bool} {d n b : BitVec 6} (h : s.memOk) : KeepsMem (execCpy sw d n b s) := by unfold execCpy; grind

theorem execGath_memOk {sw : Bool} {d n b : BitVec 6} (h : s.memOk) : KeepsMem (execGath sw d n b s) := by unfold execGath; grind

theorem execXfrm_memOk {sw : Bool} {d n b : BitVec 6} (h : s.memOk) : KeepsMem (execXfrm sw d n b s) := by unfold execXfrm; grind

theorem execTld_memOk {sw : Bool} {t : BitVec 4} {p b : BitVec 6} (h : s.memOk) : KeepsMem (execTld sw t p b s) := by
  unfold execTld
  grind

theorem execTst_memOk {sw : Bool} {t : BitVec 4} {p b : BitVec 6} {o : BitVec 1} (h : s.memOk) : KeepsMem (execTst sw t p b o s) := by
  unfold execTst
  grind

theorem execTmov_memOk {sw : Bool} {t u : BitVec 4} (h : s.memOk) : KeepsMem (execTmov sw t u s) := by unfold execTmov; grind

theorem execThdr_memOk {sw : Bool} {t : BitVec 4} {d : BitVec 6} (h : s.memOk) : KeepsMem (execThdr sw t d s) := by unfold execThdr; grind

theorem execThset_memOk {sw : Bool} {t : BitVec 4} {d : BitVec 6} (h : s.memOk) : KeepsMem (execThset sw t d s) := by
  unfold execThset
  extract_lets rs
  refine State.issueWith_memOk h fun c x hx => ?_
  refine State.tilesFree_memOk hx ?_
  extract_lets given hd
  split
  · exact State.faultAt_memOk hx
  split
  · exact State.faultAt_memOk hx
  · exact State.putTile_memOk hx

theorem execTcvt_memOk {sw : Bool} {t u : BitVec 4} {f : BitVec 6} (h : s.memOk) : KeepsMem (execTcvt sw t u f s) := by
  unfold execTcvt
  grind

theorem execTfill_memOk {sw : Bool} {t : BitVec 4} {v : BitVec 6} (h : s.memOk) : KeepsMem (execTfill sw t v s) := by
  unfold execTfill
  grind

theorem execTdrn_memOk {sw : Bool} {t : BitVec 4} {d : BitVec 7} {i : BitVec 6} (h : s.memOk) : KeepsMem (execTdrn sw t d i s) := by
  unfold execTdrn
  grind

theorem execTbnd_memOk {sw : Bool} {t : BitVec 4} (h : s.memOk) : KeepsMem (execTbnd sw t s) := by unfold execTbnd; grind

theorem execPrune_memOk {sw : Bool} {t : BitVec 4} {m : BitVec 6} {p : BitVec 3} (h : s.memOk) : KeepsMem (execPrune sw t m p s) := by
  unfold execPrune
  grind

theorem execMma_memOk {sw : Bool} {a : BitVec 3} {t u : BitVec 4} {b : BitVec 6} {z : BitVec 1} (h : s.memOk) :
    KeepsMem (execMma sw a t u b z s) := by
  unfold execMma
  grind

theorem execAdrn_memOk {sw : Bool} {a : BitVec 3} {t : BitVec 4} {f b : BitVec 6} (h : s.memOk) : KeepsMem (execAdrn sw a t f b s) := by
  unfold execAdrn
  grind

theorem execAfill_memOk {sw : Bool} {a : BitVec 3} {v b : BitVec 6} (h : s.memOk) : KeepsMem (execAfill sw a v b s) := by
  unfold execAfill
  grind

theorem execLdh_memOk {sw : Bool} {hh : BitVec 4} {p : BitVec 6} (h : s.memOk) : KeepsMem (execLdh sw hh p s) := by unfold execLdh; grind

theorem execSeth_memOk {sw : Bool} {hh : BitVec 4} {d : BitVec 6} (h : s.memOk) : KeepsMem (execSeth sw hh d s) := by
  unfold execSeth
  grind

theorem execSth_memOk {sw : Bool} {hh : BitVec 4} {p : BitVec 6} (h : s.memOk) : KeepsMem (execSth sw hh p s) := by unfold execSth; grind

theorem execSheetChunkComplete_memOk (h : s.memOk) : KeepsMem (execSheetChunkComplete s) := by unfold execSheetChunkComplete; grind

theorem execMainsailGrant_memOk (h : s.memOk) : KeepsMem (execMainsailGrant s) := by unfold execMainsailGrant; grind

theorem execJournalApply_memOk (h : s.memOk) : KeepsMem (execJournalApply s) := by unfold execJournalApply; grind

theorem execEngineOperationComplete_memOk (h : s.memOk) : KeepsMem (execEngineOperationComplete s) := by
  unfold execEngineOperationComplete
  grind

theorem execTileLoadRetry_memOk (h : s.memOk) : KeepsMem (execTileLoadRetry s) := by unfold execTileLoadRetry; grind

theorem execJibChunkComplete_memOk (h : s.memOk) : KeepsMem (execJibChunkComplete s) := by unfold execJibChunkComplete; grind

theorem execResultLands_memOk (h : s.memOk) : KeepsMem (execResultLands s) := by unfold execResultLands; grind

theorem execStoreSettled_memOk (h : s.memOk) : KeepsMem (execStoreSettled s) := by unfold execStoreSettled; grind

theorem execYieldTimeout_memOk (h : s.memOk) : KeepsMem (execYieldTimeout s) := by unfold execYieldTimeout; grind

theorem execSleepExpiry_memOk (h : s.memOk) : KeepsMem (execSleepExpiry s) := by unfold execSleepExpiry; grind

theorem execWaitePoll_memOk (h : s.memOk) : KeepsMem (execWaitePoll s) := by unfold execWaitePoll; grind

theorem execSplitLift_memOk (h : s.memOk) : KeepsMem (execSplitLift s) := by unfold execSplitLift; grind

theorem execQuadAtomicWriteback_memOk (h : s.memOk) : KeepsMem (execQuadAtomicWriteback s) := by unfold execQuadAtomicWriteback; grind

theorem execRowCacheEviction_memOk (h : s.memOk) : KeepsMem (execRowCacheEviction s) := by unfold execRowCacheEviction; grind

theorem execWarpRungEntry_memOk (h : s.memOk) : KeepsMem (execWarpRungEntry s) := by unfold execWarpRungEntry; grind

theorem execWorkgroupRungEntry_memOk (h : s.memOk) : KeepsMem (execWorkgroupRungEntry s) := by unfold execWorkgroupRungEntry; grind

theorem execHandlerTimeout_memOk (h : s.memOk) : KeepsMem (execHandlerTimeout s) := by unfold execHandlerTimeout; grind

theorem execBarrierStarved_memOk (h : s.memOk) : KeepsMem (execBarrierStarved s) := by unfold execBarrierStarved; grind

theorem execTbind_memOk {sw : Bool} {b : BitVec 3} {hh : BitVec 6} (h : s.memOk) : KeepsMem (execTbind sw b hh s) := by
  unfold execTbind
  grind

theorem execTscan_memOk {sw : Bool} {b : BitVec 3} {c k : BitVec 7} (h : s.memOk) : KeepsMem (execTscan sw b c k s) := by
  unfold execTscan
  grind

theorem execTcnt_memOk {sw : Bool} {b : BitVec 3} {d k : BitVec 7} (h : s.memOk) : KeepsMem (execTcnt sw b d k s) := by
  unfold execTcnt
  grind

theorem execHref_memOk {sw : Bool} {d hh : BitVec 7} (h : s.memOk) : KeepsMem (execHref sw d hh s) := by unfold execHref; grind

theorem execHbnd_memOk {sw : Bool} {hh : BitVec 7} (h : s.memOk) : KeepsMem (execHbnd sw hh s) := by unfold execHbnd; grind

theorem execHalyardCommit_memOk (h : s.memOk) : KeepsMem (execHalyardCommit s) := by
  unfold execHalyardCommit
  extract_lets k
  split
  · exact keepsMem_next.mpr h
  next r _ =>
  split
  · exact keepsMem_next.mpr h
  extract_lets ag
  split
  · split
    · next hm =>
      have hm := fst_memOk (State.mutation_memOk h) hm
      split
      · next hb =>
        have hb := fst_memOk (State.beginWork_memOk hm) hb
        exact keepsMem_next.mpr hb
      · next hb =>
        have hb := fst_memOk (State.beginWork_memOk hm) hb
        exact keepsMem_next.mpr (State.mutationEnd_memOk h hb)
    · exact keepsMem_next.mpr (State.mutationEnd_memOk h (State.mutate_memOk h))
  · have hr := State.readDesc_memOk (ag := ag) (ptr := tbPtr r.binding) h
    split
    · split
      · next hw =>
        have hw := fst_memOk (TRes.andThen_memOk hr fun _ _ ht => State.workNode_memOk ht) hw
        exact keepsMem_next.mpr hw
      · next hw =>
        have hw := fst_memOk (TRes.andThen_memOk hr fun _ _ ht => State.workNode_memOk ht) hw
        exact keepsMem_next.mpr (State.mutationEnd_memOk h hw)
    · exact keepsMem_next.mpr (State.mutationEnd_memOk h (TRes.andThen_memOk hr fun _ _ ht =>
        TRes.andThen_memOk (State.commitWork_memOk ht) fun _ _ ht => ht))

theorem execNodeReadRetry_memOk (h : s.memOk) : KeepsMem (execNodeReadRetry s) := by unfold execNodeReadRetry; grind

theorem execTableRetire_memOk (h : s.memOk) : KeepsMem (execTableRetire s) := by unfold execTableRetire; grind

theorem execQpull_memOk {sw : Bool} {q : BitVec 3} {d : BitVec 7} {p : BitVec 3} (h : s.memOk) : KeepsMem (execQpull sw q d p s) := by
  unfold execQpull
  grind

theorem execQflush_memOk {sw : Bool} {q : BitVec 3} (h : s.memOk) : KeepsMem (execQflush sw q s) := by unfold execQflush; grind

theorem execPackFlushTimeout_memOk (h : s.memOk) : KeepsMem (execPackFlushTimeout s) := by unfold execPackFlushTimeout; grind

theorem execWorkgroupPlace_memOk (h : s.memOk) : KeepsMem (execWorkgroupPlace s) := by unfold execWorkgroupPlace; grind

theorem execDrainReservation_memOk (h : s.memOk) : KeepsMem (execDrainReservation s) := by unfold execDrainReservation; grind

theorem execCoopDieReserve_memOk (h : s.memOk) : KeepsMem (execCoopDieReserve s) := by unfold execCoopDieReserve; grind

theorem execResourceRelease_memOk (h : s.memOk) : KeepsMem (execResourceRelease s) := by unfold execResourceRelease; grind

theorem execLifetimeAppend_memOk (h : s.memOk) : KeepsMem (execLifetimeAppend s) := by unfold execLifetimeAppend; grind

theorem execDeviceReset_memOk (h : s.memOk) : KeepsMem (execDeviceReset s) := by unfold execDeviceReset; grind

theorem execPowerLoss_memOk (h : s.memOk) : KeepsMem (execPowerLoss s) := by unfold execPowerLoss; grind

theorem execPowerCapStep_memOk (h : s.memOk) : KeepsMem (execPowerCapStep s) := by unfold execPowerCapStep; grind

theorem execThermalLimit105_memOk (h : s.memOk) : KeepsMem (execThermalLimit105 s) := by unfold execThermalLimit105; grind

theorem execThermalRecover_memOk (h : s.memOk) : KeepsMem (execThermalRecover s) := by unfold execThermalRecover; grind

theorem execThermalLimit115_memOk (h : s.memOk) : KeepsMem (execThermalLimit115 s) := by unfold execThermalLimit115; grind

theorem execDieIdle_memOk (h : s.memOk) : KeepsMem (execDieIdle s) := by unfold execDieIdle; grind

theorem execPsReqPs3_memOk (h : s.memOk) : KeepsMem (execPsReqPs3 s) := by unfold execPsReqPs3; grind

theorem execPsReqNone_memOk (h : s.memOk) : KeepsMem (execPsReqNone s) := by unfold execPsReqNone; grind

theorem execPs3EntryComplete_memOk (h : s.memOk) : KeepsMem (execPs3EntryComplete s) := by unfold execPs3EntryComplete; grind

theorem execPs3WakeComplete_memOk (h : s.memOk) : KeepsMem (execPs3WakeComplete s) := by unfold execPs3WakeComplete; grind

theorem execQueueEnable_memOk (h : s.memOk) : KeepsMem (execQueueEnable s) := by unfold execQueueEnable; grind

theorem execQueueResume_memOk (h : s.memOk) : KeepsMem (execQueueResume s) := by unfold execQueueResume; grind

theorem execQueueDisable_memOk (h : s.memOk) : KeepsMem (execQueueDisable s) := by unfold execQueueDisable; grind

theorem execHqStatusClear_memOk (h : s.memOk) : KeepsMem (execHqStatusClear s) := by unfold execHqStatusClear; grind

theorem execQueueNotify_memOk (h : s.memOk) : KeepsMem (execQueueNotify s) := by unfold execQueueNotify; grind

theorem execRecordFetch_memOk (h : s.memOk) : KeepsMem (execRecordFetch s) := by unfold execRecordFetch; grind

theorem execSeqReadReturn_memOk (h : s.memOk) : KeepsMem (execSeqReadReturn s) := by unfold execSeqReadReturn; grind

theorem execSeqRetryTimer_memOk (h : s.memOk) : KeepsMem (execSeqRetryTimer s) := by unfold execSeqRetryTimer; grind

theorem execSeqStallTimeout_memOk (h : s.memOk) : KeepsMem (execSeqStallTimeout s) := by
  unfold execSeqStallTimeout
  split
  · refine keepsMem_next.mpr ?_
    split
    · exact State.raiseEvt_memOk (State.modQueue_memOk h)
    · exact h
  · exact keepsMem_next.mpr h

theorem execRecordPayloadReturn_memOk (h : s.memOk) : KeepsMem (execRecordPayloadReturn s) := by unfold execRecordPayloadReturn; grind

theorem execRecordWaitPoll_memOk (h : s.memOk) : KeepsMem (execRecordWaitPoll s) := by unfold execRecordWaitPoll; grind

theorem execRecordStart_memOk (h : s.memOk) : KeepsMem (execRecordStart s) := by unfold execRecordStart; grind

theorem execRecordSignal_memOk (h : s.memOk) : KeepsMem (execRecordSignal s) := by unfold execRecordSignal; grind

theorem execFlitReceive_memOk (h : s.memOk) : KeepsMem (execFlitReceive s) := by unfold execFlitReceive; grind

theorem execSessionOpen_memOk (h : s.memOk) : KeepsMem (execSessionOpen s) := by unfold execSessionOpen; grind

theorem execSessionClose_memOk (h : s.memOk) : KeepsMem (execSessionClose s) := by unfold execSessionClose; grind

theorem execStayPortDown_memOk (h : s.memOk) : KeepsMem (execStayPortDown s) := by unfold execStayPortDown; grind

theorem execStayPortTrained_memOk (h : s.memOk) : KeepsMem (execStayPortTrained s) := by unfold execStayPortTrained; grind

theorem execLinkRetrainComplete_memOk (h : s.memOk) : KeepsMem (execLinkRetrainComplete s) := by unfold execLinkRetrainComplete; grind

theorem execPeerRingTimeout_memOk (h : s.memOk) : KeepsMem (execPeerRingTimeout s) := by unfold execPeerRingTimeout; grind

theorem execHostMwinRead_memOk (h : s.memOk) : KeepsMem (execHostMwinRead s) := by unfold execHostMwinRead; grind

theorem execHostMwinWrite_memOk (h : s.memOk) : KeepsMem (execHostMwinWrite s) := by unfold execHostMwinWrite; grind

theorem execMemoryErrorCorrected_memOk (h : s.memOk) : KeepsMem (execMemoryErrorCorrected s) := by unfold execMemoryErrorCorrected; grind

theorem execMemoryErrorUncorrectable_memOk (h : s.memOk) : KeepsMem (execMemoryErrorUncorrectable s) := by
  unfold execMemoryErrorUncorrectable
  grind

theorem execCxlpSetEnable_memOk (h : s.memOk) : KeepsMem (execCxlpSetEnable s) := by unfold execCxlpSetEnable; grind

theorem execCxlpSetDisable_memOk (h : s.memOk) : KeepsMem (execCxlpSetDisable s) := by unfold execCxlpSetDisable; grind

theorem execCxlExpanderTimeout_memOk (h : s.memOk) : KeepsMem (execCxlExpanderTimeout s) := by unfold execCxlExpanderTimeout; grind

theorem execHostCompletionTimeout_memOk (h : s.memOk) : KeepsMem (execHostCompletionTimeout s) := by
  unfold execHostCompletionTimeout
  grind

theorem execRsweep_memOk {sw : Bool} {b : BitVec 3} {d : BitVec 6} (h : s.memOk) : KeepsMem (execRsweep sw b d s) := by
  unfold execRsweep
  grind

theorem execContextSliceExpiry_memOk (h : s.memOk) : KeepsMem (execContextSliceExpiry s) := by unfold execContextSliceExpiry; grind

theorem execContextPreempt_memOk (h : s.memOk) : KeepsMem (execContextPreempt s) := by unfold execContextPreempt; grind

theorem execContextKill_memOk (h : s.memOk) : KeepsMem (execContextKill s) := by unfold execContextKill; grind

theorem execContextFree_memOk (h : s.memOk) : KeepsMem (execContextFree s) := by unfold execContextFree; grind

theorem execHaltComplete_memOk (h : s.memOk) : KeepsMem (execHaltComplete s) := by unfold execHaltComplete; grind

theorem execExchangeComplete_memOk (h : s.memOk) : KeepsMem (execExchangeComplete s) := by
  unfold execExchangeComplete
  extract_lets p x out
  split
  · split
    · exact keepsMem_next.mpr h
    extract_lets in_
    have ho : out.memOk := by grind
    clear_value out in_
    split
    · exact keepsMem_next.mpr (State.modPart_memOk ho)
    extract_lets t u u1
    have hu : u.memOk := State.modCtx_memOk (State.modPart_memOk (State.resetMap_memOk (State.resumeCtx_memOk ho)))
    have hu1 : u1.memOk := hu
    clear_value u1
    exact keepsMem_next.mpr (foldl_memOk (fun _ _ => State.unpark_memOk) hu1)
  · exact keepsMem_next.mpr h

theorem execWritebackComplete_memOk (h : s.memOk) : KeepsMem (execWritebackComplete s) := by unfold execWritebackComplete; grind

theorem execStagingComplete_memOk (h : s.memOk) : KeepsMem (execStagingComplete s) := by unfold execStagingComplete; grind

theorem execContextRungEntry_memOk (h : s.memOk) : KeepsMem (execContextRungEntry s) := by unfold execContextRungEntry; grind

theorem execContextResume_memOk (h : s.memOk) : KeepsMem (execContextResume s) := by unfold execContextResume; grind

theorem execWorkgroupEnd_memOk (h : s.memOk) : KeepsMem (execWorkgroupEnd s) := by unfold execWorkgroupEnd; grind

theorem execHostResponseTimeout_memOk (h : s.memOk) : KeepsMem (execHostResponseTimeout s) := by unfold execHostResponseTimeout; grind

theorem execPartitionReset_memOk (h : s.memOk) : KeepsMem (execPartitionReset s) := by unfold execPartitionReset; grind

theorem execPartitionResetTimeout_memOk (h : s.memOk) : KeepsMem (execPartitionResetTimeout s) := by
  unfold execPartitionResetTimeout
  grind

theorem execWorkgroupStateError_memOk (h : s.memOk) : KeepsMem (execWorkgroupStateError s) := by unfold execWorkgroupStateError; grind

theorem execPartitionCreate_memOk (h : s.memOk) : KeepsMem (execPartitionCreate s) := by unfold execPartitionCreate; grind

theorem execPartitionDelete_memOk (h : s.memOk) : KeepsMem (execPartitionDelete s) := by unfold execPartitionDelete; grind

theorem execPartitionDeleteComplete_memOk (h : s.memOk) : KeepsMem (execPartitionDeleteComplete s) := by
  unfold execPartitionDeleteComplete
  grind

theorem execFwloadFirmware_memOk (h : s.memOk) : KeepsMem (execFwloadFirmware s) := by unfold execFwloadFirmware; grind

theorem execFwloadConfiguration_memOk (h : s.memOk) : KeepsMem (execFwloadConfiguration s) := by unfold execFwloadConfiguration; grind

theorem execFwloadComplete_memOk (h : s.memOk) : KeepsMem (execFwloadComplete s) := by unfold execFwloadComplete; grind

theorem execAttestStart_memOk (h : s.memOk) : KeepsMem (execAttestStart s) := by unfold execAttestStart; grind

theorem execAttestComplete_memOk (h : s.memOk) : KeepsMem (execAttestComplete s) := by unfold execAttestComplete; grind

theorem execExpertDisable_memOk (h : s.memOk) : KeepsMem (execExpertDisable s) := by unfold execExpertDisable; grind

theorem execTranslationInvalidate_memOk (h : s.memOk) : KeepsMem (execTranslationInvalidate s) := by
  unfold execTranslationInvalidate
  grind

theorem execXltinvComplete_memOk (h : s.memOk) : KeepsMem (execXltinvComplete s) := by unfold execXltinvComplete; grind

theorem execHandleMint_memOk (h : s.memOk) : KeepsMem (execHandleMint s) := by unfold execHandleMint; grind

theorem execCounterClear_memOk (h : s.memOk) : KeepsMem (execCounterClear s) := by unfold execCounterClear; grind

theorem execRegisterWrite_memOk (h : s.memOk) : KeepsMem (execRegisterWrite s) := by unfold execRegisterWrite; grind

theorem exec_memOk (i : Instr) (h : s.memOk) : KeepsMem (exec i s) := by
  cases i with
  | iadd | isub | imul | imulh | imulhu | imad | imin | iminu | imax | imaxu | and | or | xor | shl | shr |
    sra => rw [exec]; exact State.v3Int_memOk h
  | fadd | fsub | fmul | ffma | fmin | fmax => rw [exec]; exact State.v3Fp_memOk h
  | mov | not | neg | abs | popc | clz | ctz | exts | extz | fcls | shli | shri | srai |
    addi => rw [exec]; exact State.vuInt_memOk h
  | cvt | cvts | icvt | ucvt | frcp | frsq | fsqrt | fexp2 | flog2 | fsin | fcos | ftanh |
    frnd => rw [exec]; exact State.vuFp_memOk h
  | laneid | movu | vmovi => rw [exec]; exact State.vuNone_memOk h
  | icmpEq | icmpNe | icmpLt | icmpLe | icmpLtu | icmpLeu => rw [exec]; exact State.icmp_memOk h
  | fcmpEq | fcmpNe | fcmpLt | fcmpLe | fcmpUn => rw [exec]; exact State.fcmp_memOk h
  | vscan | vscanx | vred | vredmax | vredmin => rw [exec]; exact State.scan_memOk h
  | ballot | vpopc | vfirst => rw [exec]; exact State.ballotOf_memOk h
  | shfu | shfd | shfxor => rw [exec]; exact State.shuffle_memOk h
  | pand | por | pxor | pnot => rw [exec]; exact State.predFn_memOk h
  | atomAdd | atomMin | atomMax | atomMinu | atomMaxu | atomAnd | atomOr | atomXor | atomExch | atomCas | atomFadd | atomFmin |
    atomFmax | atomRedc | atomInc => rw [exec]; exact State.atomics_memOk h
  | sadd | ssub | smul | smulh | sand | sor | sxor | sshl | sshr | ssra | smin | smax | sminu | smaxu | seq | slt | sltu |
    sbfx => rw [exec]; exact State.uni2_memOk h
  | spopc | sclz | sctz => rw [exec]; exact State.uni1_memOk h
  | hintImm | hintImmhi | hintGuard | hintRnd | hintSat | hintOrd | hintCache | hintOffs | hintCheck |
    hintPri => rw [exec]; exact State.hint_memOk h
  | tget | tgetx | tref | tnext => rw [exec]; exact State.lookups1_memOk h
  | tins | tinsx | tups | tdel => rw [exec]; exact State.mutations_memOk h
  | spawn | qpush => rw [exec]; exact State.pushes_memOk h
  | rdue | rvisit | rreadh | rreadx | rset => rw [exec]; exact State.rates_memOk h
  | shf => exact execShf_memOk h
  | shfx => exact execShfx_memOk h
  | brev => exact execBrev_memOk h
  | qhad => exact execQhad_memOk h
  | sel => exact execSel_memOk h
  | pmovv => exact execPmovv_memOk h
  | vmovp => exact execVmovp_memOk h
  | ld => exact execLd_memOk h
  | ldl => exact execLdl_memOk h
  | lds => exact execLds_memOk h
  | st => exact execSt_memOk h
  | sts => exact execSts_memOk h
  | stc => exact execStc_memOk h
  | pref => exact execPref_memOk h
  | fence => exact execFence_memOk h
  | flushrc => exact execFlushrc_memOk h
  | sld => exact execSld_memOk h
  | sst => exact execSst_memOk h
  | binit => exact execBinit_memOk h
  | barv => exact execBarv_memOk h
  | bwait => exact execBwait_memOk h
  | bexp => exact execBexp_memOk h
  | btest => exact execBtest_memOk h
  | bstat => exact execBstat_memOk h
  | waite => exact execWaite_memOk h
  | sige => exact execSige_memOk h
  | pcnt => exact execPcnt_memOk h
  | smovi => exact execSmovi_memOk h
  | slui => exact execSlui_memOk h
  | sbfi => exact execSbfi_memOk h
  | saddi => exact execSaddi_memOk h
  | sread => exact execSread_memOk h
  | winImm => exact execWinImm_memOk h
  | winReg => exact execWinReg_memOk h
  | vtos => exact execVtos_memOk h
  | csrr => exact execCsrr_memOk h
  | csrw => exact execCsrw_memOk h
  | bra => exact execBra_memOk h
  | brz => exact execBrz_memOk h
  | brnz => exact execBrnz_memOk h
  | call => exact execCall_memOk h
  | ret => exact execRet_memOk h
  | brx => exact execBrx_memOk h
  | cbr => exact execCbr_memOk h
  | exit => exact execExit_memOk h
  | yield => exact execYield_memOk h
  | joinw => exact execJoinw_memOk h
  | trap => exact execTrap_memOk h
  | brk => exact execBrk_memOk h
  | rett => exact execRett_memOk h
  | sleep => exact execSleep_memOk h
  | nop => exact execNop_memOk h
  | cpy => exact execCpy_memOk h
  | gath => exact execGath_memOk h
  | xfrm => exact execXfrm_memOk h
  | tld => exact execTld_memOk h
  | tst => exact execTst_memOk h
  | tmov => exact execTmov_memOk h
  | thdr => exact execThdr_memOk h
  | thset => exact execThset_memOk h
  | tcvt => exact execTcvt_memOk h
  | tfill => exact execTfill_memOk h
  | tdrn => exact execTdrn_memOk h
  | tbnd => exact execTbnd_memOk h
  | prune => exact execPrune_memOk h
  | mma => exact execMma_memOk h
  | adrn => exact execAdrn_memOk h
  | afill => exact execAfill_memOk h
  | ldh => exact execLdh_memOk h
  | seth => exact execSeth_memOk h
  | sth => exact execSth_memOk h
  | sheetChunkComplete => exact execSheetChunkComplete_memOk h
  | mainsailGrant => exact execMainsailGrant_memOk h
  | journalApply => exact execJournalApply_memOk h
  | engineOperationComplete => exact execEngineOperationComplete_memOk h
  | tileLoadRetry => exact execTileLoadRetry_memOk h
  | jibChunkComplete => exact execJibChunkComplete_memOk h
  | resultLands => exact execResultLands_memOk h
  | storeSettled => exact execStoreSettled_memOk h
  | yieldTimeout => exact execYieldTimeout_memOk h
  | sleepExpiry => exact execSleepExpiry_memOk h
  | waitePoll => exact execWaitePoll_memOk h
  | splitLift => exact execSplitLift_memOk h
  | quadAtomicWriteback => exact execQuadAtomicWriteback_memOk h
  | rowCacheEviction => exact execRowCacheEviction_memOk h
  | warpRungEntry => exact execWarpRungEntry_memOk h
  | workgroupRungEntry => exact execWorkgroupRungEntry_memOk h
  | handlerTimeout => exact execHandlerTimeout_memOk h
  | barrierStarved => exact execBarrierStarved_memOk h
  | tbind => exact execTbind_memOk h
  | tscan => exact execTscan_memOk h
  | tcnt => exact execTcnt_memOk h
  | href => exact execHref_memOk h
  | hbnd => exact execHbnd_memOk h
  | halyardCommit => exact execHalyardCommit_memOk h
  | nodeReadRetry => exact execNodeReadRetry_memOk h
  | tableRetire => exact execTableRetire_memOk h
  | qpull => exact execQpull_memOk h
  | qflush => exact execQflush_memOk h
  | packFlushTimeout => exact execPackFlushTimeout_memOk h
  | workgroupPlace => exact execWorkgroupPlace_memOk h
  | drainReservation => exact execDrainReservation_memOk h
  | coopDieReserve => exact execCoopDieReserve_memOk h
  | resourceRelease => exact execResourceRelease_memOk h
  | lifetimeAppend => exact execLifetimeAppend_memOk h
  | deviceReset => exact execDeviceReset_memOk h
  | powerLoss => exact execPowerLoss_memOk h
  | powerCapStep => exact execPowerCapStep_memOk h
  | thermalLimit105 => exact execThermalLimit105_memOk h
  | thermalRecover => exact execThermalRecover_memOk h
  | thermalLimit115 => exact execThermalLimit115_memOk h
  | dieIdle => exact execDieIdle_memOk h
  | psReqPs3 => exact execPsReqPs3_memOk h
  | psReqNone => exact execPsReqNone_memOk h
  | ps3EntryComplete => exact execPs3EntryComplete_memOk h
  | ps3WakeComplete => exact execPs3WakeComplete_memOk h
  | queueEnable => exact execQueueEnable_memOk h
  | queueResume => exact execQueueResume_memOk h
  | queueDisable => exact execQueueDisable_memOk h
  | hqStatusClear => exact execHqStatusClear_memOk h
  | queueNotify => exact execQueueNotify_memOk h
  | recordFetch => exact execRecordFetch_memOk h
  | seqReadReturn => exact execSeqReadReturn_memOk h
  | seqRetryTimer => exact execSeqRetryTimer_memOk h
  | seqStallTimeout => exact execSeqStallTimeout_memOk h
  | recordPayloadReturn => exact execRecordPayloadReturn_memOk h
  | recordWaitPoll => exact execRecordWaitPoll_memOk h
  | recordStart => exact execRecordStart_memOk h
  | recordSignal => exact execRecordSignal_memOk h
  | flitReceive => exact execFlitReceive_memOk h
  | sessionOpen => exact execSessionOpen_memOk h
  | sessionClose => exact execSessionClose_memOk h
  | stayPortDown => exact execStayPortDown_memOk h
  | stayPortTrained => exact execStayPortTrained_memOk h
  | linkRetrainComplete => exact execLinkRetrainComplete_memOk h
  | peerRingTimeout => exact execPeerRingTimeout_memOk h
  | hostMwinRead => exact execHostMwinRead_memOk h
  | hostMwinWrite => exact execHostMwinWrite_memOk h
  | memoryErrorCorrected => exact execMemoryErrorCorrected_memOk h
  | memoryErrorUncorrectable => exact execMemoryErrorUncorrectable_memOk h
  | cxlpSetEnable => exact execCxlpSetEnable_memOk h
  | cxlpSetDisable => exact execCxlpSetDisable_memOk h
  | cxlExpanderTimeout => exact execCxlExpanderTimeout_memOk h
  | hostCompletionTimeout => exact execHostCompletionTimeout_memOk h
  | rsweep => exact execRsweep_memOk h
  | contextSliceExpiry => exact execContextSliceExpiry_memOk h
  | contextPreempt => exact execContextPreempt_memOk h
  | contextKill => exact execContextKill_memOk h
  | contextFree => exact execContextFree_memOk h
  | haltComplete => exact execHaltComplete_memOk h
  | exchangeComplete => exact execExchangeComplete_memOk h
  | writebackComplete => exact execWritebackComplete_memOk h
  | stagingComplete => exact execStagingComplete_memOk h
  | contextRungEntry => exact execContextRungEntry_memOk h
  | contextResume => exact execContextResume_memOk h
  | workgroupEnd => exact execWorkgroupEnd_memOk h
  | hostResponseTimeout => exact execHostResponseTimeout_memOk h
  | partitionReset => exact execPartitionReset_memOk h
  | partitionResetTimeout => exact execPartitionResetTimeout_memOk h
  | workgroupStateError => exact execWorkgroupStateError_memOk h
  | partitionCreate => exact execPartitionCreate_memOk h
  | partitionDelete => exact execPartitionDelete_memOk h
  | partitionDeleteComplete => exact execPartitionDeleteComplete_memOk h
  | fwloadFirmware => exact execFwloadFirmware_memOk h
  | fwloadConfiguration => exact execFwloadConfiguration_memOk h
  | fwloadComplete => exact execFwloadComplete_memOk h
  | attestStart => exact execAttestStart_memOk h
  | attestComplete => exact execAttestComplete_memOk h
  | expertDisable => exact execExpertDisable_memOk h
  | translationInvalidate => exact execTranslationInvalidate_memOk h
  | xltinvComplete => exact execXltinvComplete_memOk h
  | handleMint => exact execHandleMint_memOk h
  | counterClear => exact execCounterClear_memOk h
  | registerWrite => exact execRegisterWrite_memOk h

/-! ## Fetch -/

theorem State.fetchWord_memOk {ag : Agent} {g : Workgroup} {pc : Word} (h : s.memOk) : (s.fetchWord ag g pc).1.memOk := by
  unfold State.fetchWord
  grind
local grind_pattern State.fetchWord_memOk => s.fetchWord ag g pc

theorem State.issuedNow_memOk (h : s.memOk) : (s.issuedNow).memOk := by unfold State.issuedNow; grind
local grind_pattern State.issuedNow_memOk => s.issuedNow

/-! ## Perform -/

theorem State.writeBackOld_memOk (h : s.memOk) : (s.writeBackOld).memOk := by unfold State.writeBackOld; grind
local grind_pattern State.writeBackOld_memOk => s.writeBackOld

theorem State.leaveDue_memOk (h : s.memOk) : (s.leaveDue).memOk := by unfold State.leaveDue; grind
local grind_pattern State.leaveDue_memOk => s.leaveDue

theorem State.keepTime_memOk (h : s.memOk) : (s.keepTime).memOk := by unfold State.keepTime; grind
local grind_pattern State.keepTime_memOk => s.keepTime

theorem State.advance_memOk (h : s.memOk) : (s.advance).memOk := by unfold State.advance; grind
local grind_pattern State.advance_memOk => s.advance

theorem State.tick_memOk (h : s.memOk) : (s.tick).memOk := by unfold State.tick; grind
local grind_pattern State.tick_memOk => s.tick

theorem ticked_memOk {o : Host.Outcome State Fault Refusal} (h : KeepsMem o) : KeepsMem (ticked o) := by unfold ticked; grind
local grind_pattern ticked_memOk => ticked o

/-- The state that a fetch leaves has its memories in form, whether an instruction is to run or not. -/
def Fetched.memOk : Fetched → Prop
  | .run _ t => t.memOk
  | .taken t => t.memOk

theorem State.decodeFor_memOk {c : Issue} {w : IWord} (h : s.memOk) : (s.decodeFor c w).memOk := by
  unfold State.decodeFor
  split
  · exact h
  · exact State.faultAt_memOk h
  · exact State.faultAt_memOk h
  · exact State.takeHint_memOk h

theorem State.fetch_memOk {id : SplitId} (h : s.memOk) : (s.fetch id).memOk := by
  unfold State.fetch
  split
  · exact h
  extract_lets b s0 s0' y s1
  have h0 : s0'.memOk := by grind
  have hy : y.memOk := State.yieldSweep_memOk h0
  have h1 : s1.memOk := hy
  clear_value s1
  split
  · exact h1
  split
  · next hf =>
    have hf := fst_memOk (State.fetchWord_memOk h1) hf
    exact State.faultAt_memOk hf
  · next hf =>
    have hf := fst_memOk (State.fetchWord_memOk h1) hf
    exact State.decodeFor_memOk hf

theorem State.happen_memOk {m : Move} (h : s.memOk) : KeepsMem (s.happen m) := by
  unfold State.happen
  split
  · exact keepsMem_next.mpr h
  · exact exec_memOk _ h
local grind_pattern State.happen_memOk => s.happen m

theorem issued_memOk {o : Host.Outcome State Fault Refusal} (h : KeepsMem o) : KeepsMem (issued o) := by unfold issued; grind
local grind_pattern issued_memOk => issued o

theorem State.perform_memOk {x : Candidate} (h : s.memOk) : KeepsMem (s.perform x) := by
  cases x with
  | event m => exact State.happen_memOk h
  | issue id =>
    have hf := State.fetch_memOk (id := id) h
    unfold State.perform
    simp only
    split
    · next i t hx => exact issued_memOk (exec_memOk i (hx ▸ hf : (Fetched.run i t).memOk))
    · next t hx => exact keepsMem_next.mpr (State.issuedNow_memOk (hx ▸ hf : (Fetched.taken t).memOk))
local grind_pattern State.perform_memOk => s.perform x

/-! ## Step -/

theorem step_memOk (h : s.memOk) : KeepsMem (step s) := by unfold step; grind
local grind_pattern step_memOk => step s

end Sys2Proof.Machine

/-- Settles O57: every function that a step is made of keeps both memories in their form. -/
theorem stepKeepsMemory : Obligations.StepKeepsMemory := fun _ t h ht => Sys2Proof.Machine.step_memOk h t ht
end

section
/-! SUPPORT. A device without power (R36): the event whose turn it is goes by, unless it is a reset. -/
namespace Sys2Proof.Machine

variable {s : State}

theorem State.takes_off (h : s.off = true) {i : Instr} (hi : i ≠ .deviceReset) : s.takes i = false := by
  simp [State.takes, wakesOff, h, hi]

theorem State.happen_off (h : s.off = true) {m : Move} (hm : m.row ≠ .deviceReset) : s.happen m = .next s :=
  if_pos (.inr (State.takes_off h hm))

theorem step_off_event (h : s.off = true) {m : Move} {rest : List Move} (ha : s.agenda = m :: rest) (hm : m.row ≠ .deviceReset) :
    step s = .next ({ s with agenda := rest } : State).advance := by
  have hoff : ({ s with agenda := rest } : State).off = true := h
  simp only [step, ha, State.happen_off hoff hm, ticked, State.tick_off hoff]

theorem step_off_idle (h : s.off = true) (ha : s.agenda = []) : step s = .next s.advance := by
  simp only [step, ha, h, if_true, State.tick_off h]

end Sys2Proof.Machine

open Sys2Proof.Machine

/-- Settles O45: an event that finds the device off is not taken, with no event nothing is chosen, and behind either the step does nothing
of its own accord but count. -/
theorem offStays : Obligations.OffStays := by
  intro s t hoff hrow hstep
  cases ha : s.agenda with
  | nil =>
    rw [step_off_idle hoff ha] at hstep
    cases hstep
    simp [State.advance, ha]
  | cons m rest =>
    rw [step_off_event hoff ha (hrow m rest ha)] at hstep
    cases hstep
    simp [State.advance]
end

section
/-! SUPPORT. The power and thermal events (R36 to R38), one lemma a case. -/
namespace Sys2Proof.Machine

/-! ## The power cap (R36, R43) -/

section
variable {s : State}

theorem ofNat16_val (hw : s.args.val.toNat < 2 ^ 16) : (BitVec.ofNat 16 s.args.val.toNat).toNat = s.args.val.toNat :=
  toNat_ofNat_of_lt hw

theorem stepDown_of_le {c : BitVec 16} (h : 900 ≤ c) : stepDown c = c - 100 := if_neg (by bv_omega)

theorem stepDown_of_lt {c : BitVec 16} (h : c < 900) : stepDown c = 800 := if_pos (by bv_omega)

/-- Above the cap a clock above 800 MHz steps down. -/
theorem exec_powerCapStep_above (hw : s.args.val.toNat < 2 ^ 16) (hcap : s.powerCap < s.args.val.toNat)
    (hc : 800 < s.clock s.args.die.toNat) :
    Goes .powerCapStep s { s.setClock s.args.die.toNat (stepDown (s.clock s.args.die.toNat)) with
      ps1Cap := s.ps1Cap ||| (1#4 <<< s.args.die.toNat) } := by
  simp only [Goes, exec_powerCapStep, execPowerCapStep, ofNat16_val hw, if_pos hcap, if_neg (BitVec.not_le.mpr hc)]

theorem exec_powerCapStep_least (hw : s.args.val.toNat < 2 ^ 16) (hcap : s.powerCap < s.args.val.toNat)
    (hc : s.clock s.args.die.toNat ≤ 800) : Goes .powerCapStep s s := by
  simp only [Goes, exec_powerCapStep, execPowerCapStep, ofNat16_val hw, if_pos hcap, if_pos hc]

/-- Within the cap a die that the cap slows has its clock raised. -/
theorem exec_powerCapStep_within (hw : s.args.val.toNat < 2 ^ 16) (hcap : s.args.val.toNat ≤ s.powerCap) :
    let d := s.args.die.toNat
    Goes .powerCapStep s (if s.ps1Cap.getLsbD d then
      if s.fullClock d ≤ s.clock d + 100 then
        { s.setClock d (if s.ps1Heat.getLsbD d then s.cappedClock d else s.fullClock d) with ps1Cap := s.ps1Cap &&& ~~~(1#4 <<< d) }
      else s.setClock d (s.clock d + 100)
    else s) := by
  simp only [Goes, exec_powerCapStep, execPowerCapStep, ofNat16_val hw, if_neg (Nat.not_lt.mpr hcap)]

/-! ## Heat (R38) -/

theorem exec_thermalLimit105_hot (hw : 105 * 16 ≤ s.args.val.toNat) (hh : s.ps1Heat.getLsbD s.args.die.toNat = false) :
    let d := s.args.die.toNat
    Goes .thermalLimit105 s ({ s.setClock d (if s.clock d = s.fullClock d then s.cappedClock d else s.clock d) with
      ps1Heat := s.ps1Heat ||| (1#4 <<< d) }.raiseEvt 0) := by
  have h : ¬ (s.args.val.toNat < 105 * 16 ∨ s.ps1Heat.getLsbD s.args.die.toNat = true) := by
    rw [hh]; simpa using hw
  simp only [Goes, exec_thermalLimit105, execThermalLimit105, if_neg h]

theorem exec_thermalLimit105_else (h : s.args.val.toNat < 105 * 16 ∨ s.ps1Heat.getLsbD s.args.die.toNat = true) :
    Goes .thermalLimit105 s s := by
  simp only [Goes, exec_thermalLimit105, execThermalLimit105, if_pos h]

theorem exec_thermalRecover_cooled (hw : s.args.val.toNat ≤ 100 * 16) (hh : s.ps1Heat.getLsbD s.args.die.toNat = true) :
    let d := s.args.die.toNat
    Goes .thermalRecover s { s.setClock d (if s.ps1Cap.getLsbD d then s.clock d else s.fullClock d) with
      ps1Heat := s.ps1Heat &&& ~~~(1#4 <<< d) } := by
  have h : ¬ (100 * 16 < s.args.val.toNat ∨ s.ps1Heat.getLsbD s.args.die.toNat = false) := by
    rw [hh]; simpa using hw
  simp only [Goes, exec_thermalRecover, execThermalRecover, if_neg h]

theorem exec_thermalRecover_else (h : 100 * 16 < s.args.val.toNat ∨ s.ps1Heat.getLsbD s.args.die.toNat = false) :
    Goes .thermalRecover s s := by
  simp only [Goes, exec_thermalRecover, execThermalRecover, if_pos h]

theorem exec_thermalLimit115_hot (hw : 115 * 16 ≤ s.args.val.toNat) : Goes .thermalLimit115 s (s.deviceReset.raiseEvt 0) := by
  simp only [Goes, exec_thermalLimit115, execThermalLimit115, if_neg (Nat.not_lt.mpr hw)]

theorem exec_thermalLimit115_else (hw : s.args.val.toNat < 115 * 16) : Goes .thermalLimit115 s s := by
  simp only [Goes, exec_thermalLimit115, execThermalLimit115, if_pos hw]

/-! ## Idle dies (R36) -/

theorem exec_dieIdle_idle (hb : s.dieBusy s.args.die.toNat = false) (hp : s.pkgState = 0) :
    Goes .dieIdle s { s with ps2 := s.ps2 ||| (1#4 <<< s.args.die.toNat) } := by
  have h : ¬ (s.dieBusy s.args.die.toNat = true ∨ s.pkgState ≠ 0) := by simp [hb, hp]
  simp only [Goes, exec_dieIdle, execDieIdle, if_neg h]

theorem exec_dieIdle_else (h : s.dieBusy s.args.die.toNat = true ∨ s.pkgState ≠ 0) : Goes .dieIdle s s := by
  simp only [Goes, exec_dieIdle, execDieIdle, if_pos h]

end
end Sys2Proof.Machine

open Sys2Proof.Machine

/-- Settles O28, event by event. -/
theorem powerEvents : Obligations.PowerEvents := by
  intro s
  refine ⟨fun hw hcap hc => ?_, fun hw hcap hlo hhi => ?_, exec_powerCapStep_least, fun hw hcap h1 hc => ?_, fun hw hcap h1 hc hh => ?_,
    fun hw hcap h1 hc hh => ?_, fun hw hcap h1 => ?_, exec_thermalLimit105_hot, exec_thermalLimit105_else, fun hw hh hc => ?_,
    fun hw hh hc => ?_, exec_thermalRecover_else, exec_thermalLimit115_hot, exec_thermalLimit115_else, exec_dieIdle_idle, exec_dieIdle_else⟩
  · simpa only [stepDown_of_le hc] using exec_powerCapStep_above hw hcap (by bv_omega)
  · simpa only [stepDown_of_lt hhi] using exec_powerCapStep_above hw hcap hlo
  · simpa only [if_pos h1, if_neg (BitVec.not_le.mpr hc)] using exec_powerCapStep_within hw hcap
  · simpa only [if_pos h1, if_pos hc, if_neg (Bool.eq_false_iff.mp hh)] using exec_powerCapStep_within hw hcap
  · simpa only [if_pos h1, if_pos hc, if_pos hh] using exec_powerCapStep_within hw hcap
  · simpa only [if_neg (Bool.eq_false_iff.mp h1)] using exec_powerCapStep_within hw hcap
  · simpa only [if_neg (Bool.eq_false_iff.mp hc)] using exec_thermalRecover_cooled hw hh
  · simpa only [if_pos hc] using exec_thermalRecover_cooled hw hh
end

section
/-! SUPPORT. The sleep states of the package (R37), and what is left of the device in PS3 and in Off (R36). -/
namespace Sys2Proof.Machine

variable {s : State}

/-! ## Requests for PS3 (R37) -/

theorem State.askPs3_waits {p : BitVec 2}
    (h : s.live.all (fun k => ((s.modPart p fun x => { x with psReq := 3 }).part k).psReq == 3) = false) :
    s.askPs3 p = s.modPart p fun x => { x with psReq := 3 } := by
  simp only [State.askPs3, h, Bool.and_false, true_or, if_true]

/-- The last live partition asks. -/
theorem State.askPs3_last {p : BitVec 2} (hs : (s.part p).state = 2) (hq : (s.part p).psReq ≠ 3)
    (h : s.live.all (fun k => ((s.modPart p fun x => { x with psReq := 3 }).part k).psReq == 3) = true) (hp : s.pkgState = 0) :
    let asked := s.modPart p fun x => { x with psReq := 3 }
    s.askPs3 p = if allParts.any fun k => (s.part k).resident.isSome then { asked.clearPsReq with pwrRefused := true }
      else { allParts.foldl (fun t k => t.closeSessions k) asked with pkgState := 1 } := by
  have hlast : ((s.part p).state == 2 && (s.part p).psReq != 3) = true := by rw [hs]; simpa using hq
  simp only [State.askPs3, hlast, h, hp, Bool.and_true, Bool.true_eq_false, ne_eq, not_true_eq_false, or_self, if_false]

/-! ## Entry to PS3 (R36) -/

@[simp] theorem State.bringHome_held (hs : List HeldByte) (t : State) : (t.bringHome hs).held = t.held := by
  induction hs generalizing t with
  | nil => rfl
  | cons h hs ih => exact ih ((t.writeHome h.addr [h.byte]).nudge (.mem h.addr) 1)

theorem State.writeBack_held (t : State) (q : Nat) : (t.writeBack q).held = t.held.filter fun h => h.quad != q :=
  State.bringHome_held _ _

/-- Once the units of some quads have written back no byte of theirs is held. -/
theorem State.foldl_writeBack_held (qs : List Nat) (t : State) :
    (qs.foldl (fun t q => t.writeBack q) t).held = t.held.filter fun h => !qs.contains h.quad := by
  induction qs generalizing t with
  | nil => simp
  | cons q qs ih =>
    rw [List.foldl_cons, ih, State.writeBack_held, List.filter_filter]
    refine List.filter_congr fun h _ => ?_
    rw [List.contains_cons, Bool.not_or, Bool.and_comm]; rfl

theorem State.gateDies_held (h : ∀ x, x ∈ s.held → x.quad < 32) : s.gateDies.held = [] := by
  simp only [State.gateDies, State.foldl_writeBack_held, List.filter_eq_nil_iff]
  intro x hx
  simp [h x hx]

/-! ## Off (R36, R66) -/

/-- An append to the lifetime record leaves the flash and the host's memory alone. -/
theorem State.appendLife_world (s : State) :
    s.appendLife.flashFw = s.flashFw ∧ s.appendLife.flashCfg = s.flashCfg ∧ s.appendLife.host = s.host := by
  unfold State.appendLife
  extract_lets es new old s1
  split
  · exact ⟨rfl, rfl, rfl⟩
  · split <;> exact ⟨rfl, rfl, rfl⟩

theorem State.cold_lost (t : State) : t.cold.mem = [] ∧ t.cold.warps = [] ∧ t.cold.wgs = [] ∧ t.cold.jobs = [] ∧ t.cold.cache = [] ∧
    t.cold.parts = State.reset.parts ∧ t.cold.lifeNow = {} ∧ t.cold.off = false ∧ t.cold.devEvt = 0 := ⟨rfl, rfl, rfl, rfl, rfl, rfl, rfl, rfl, rfl⟩

theorem State.cold_kept (t : State) : t.cold.flashFw = t.flashFw ∧ t.cold.flashCfg = t.flashCfg ∧ t.cold.life = t.life ∧
    t.cold.host = t.host ∧ t.cold.fwRollback = t.fwRollback ∧ t.cold.cfgRollback = t.cfgRollback := ⟨rfl, rfl, rfl, rfl, rfl, rfl⟩

theorem exec_powerLoss_off : ∃ t, Goes .powerLoss s t ∧ t.off = true ∧ t.mem = [] ∧ t.warps = [] ∧ t.wgs = [] ∧ t.cache = [] ∧
    t.parts = State.reset.parts ∧ t.flashFw = s.flashFw ∧ t.flashCfg = s.flashCfg ∧
    t.life = (if s.args.flag then s.appendLife.life else s.life) ∧ t.lifeNow = {} ∧ t.host = s.host := by
  obtain ⟨hfw, hcfg, hhost⟩ := State.appendLife_world s
  refine ⟨{ (if s.args.flag then s.appendLife else s).cold with off := true }, exec_powerLoss s, rfl, ?_⟩
  generalize hu : (if s.args.flag then s.appendLife else s) = u
  obtain ⟨hmem, hwarps, hwgs, -, hcache, hparts, hnow, -⟩ := State.cold_lost u
  obtain ⟨hfw', hcfg', hlife', hhost', -⟩ := State.cold_kept u
  have hkept : u.flashFw = s.flashFw ∧ u.flashCfg = s.flashCfg ∧ u.life = (if s.args.flag then s.appendLife.life else s.life) ∧
      u.host = s.host := by
    subst hu
    split
    · exact ⟨hfw, hcfg, rfl, hhost⟩
    · exact ⟨rfl, rfl, rfl, rfl⟩
  obtain ⟨kfw, kcfg, klife, khost⟩ := hkept
  exact ⟨hmem, hwarps, hwgs, hcache, hparts, hfw'.trans kfw, hcfg'.trans kcfg, hlife'.trans klife, hnow, hhost'.trans khost⟩

/-! ## The rows -/

theorem exec_ps3EntryComplete_enters (hp : s.pkgState = 1) : Goes .ps3EntryComplete s { s.gateDies with pkgState := 2 } := by
  simp only [Goes, exec_ps3EntryComplete, execPs3EntryComplete, hp, if_true]

theorem State.gateDies_lost (s : State) : s.gateDies.cache = [] ∧ s.gateDies.latch = [] ∧ s.gateDies.tlb = [] ∧ s.gateDies.walks = [] :=
  ⟨rfl, rfl, rfl, rfl⟩

theorem sleepRows : SleepRows := by
  intro s
  refine ⟨fun h => ?_, fun hs hq h hp => ?_, ?_, fun hp => ?_, fun hp => ?_, exec_powerLoss_off⟩
  · simp only [Goes, exec_psReqPs3, execPsReqPs3, State.askPs3_waits h]
  · simp only [Goes, exec_psReqPs3, execPsReqPs3, State.askPs3_last hs hq h hp]
  · simp only [Goes, exec_psReqNone, execPsReqNone, State.dropPs3]
  · obtain ⟨hcache, hlatch, htlb, hwalks⟩ := State.gateDies_lost s
    refine ⟨{ s.gateDies with pkgState := 2 }, exec_ps3EntryComplete_enters hp, rfl, ?_⟩
    dsimp only
    exact ⟨hcache, hlatch, htlb, hwalks, State.gateDies_held⟩
  · simp only [Goes, exec_ps3WakeComplete, execPs3WakeComplete, hp, if_true]

end Sys2Proof.Machine
end

section
/-! SUPPORT. The boot of a device (R63, R64): where it ends, what it sets, and what it leaves. -/
namespace Sys2Proof.Machine

/-- `t` is `s` after a boot: what the boot may write, the stages and causes it ends with, and what holds at stage 5. -/
structure Booted (s t : State) : Prop where
  rest : t = { s with
    bootStage := t.bootStage, bootErr := t.bootErr, devEvt := t.devEvt, irqs := t.irqs, fwVersion := t.fwVersion
    fwRollback := t.fwRollback, cfgVersion := t.cfgVersion, cfgRollback := t.cfgRollback, capMax := t.capMax, pwrCap := t.pwrCap
    dieOn := t.dieOn, clkMax := t.clkMax, clk := t.clk, cxlPorts := t.cxlPorts, planes := t.planes }
  event : t.devEvt = s.devEvt ∨ t.devEvt = s.devEvt ||| 64
  ends : (t.bootStage = 5 ∧ t.bootErr = 0) ∨ (t.bootStage = 0 ∧ (t.bootErr = 1 ∨ t.bootErr = 2)) ∨
    (t.bootStage = 1 ∧ (t.bootErr = 3 ∨ t.bootErr = 4)) ∨ (t.bootStage = 3 ∧ (t.bootErr = 5 ∨ t.bootErr = 6))
  configured : t.bootStage = 5 → t.dieOn = Config.imageDies s.flashCfg ∧
    t.capMax = wattsIn 800 3300 (Config.imageWatts s.flashCfg) ∧
    ∀ d, d < 4 → t.fullClock d = wattsIn 800 1700 (Config.imageClock s.flashCfg d) ∧ t.clock d = t.fullClock d
  firmware : t.bootErr = 1 ↔ Config.imageGood false s.flashFw = false
  fwRises : s.fwRollback ≤ t.fwRollback
  cfgRises : s.cfgRollback ≤ t.cfgRollback

theorem Booted.unchanged {s t : State} (h : Booted s t) : t.off = s.off ∧ t.mem = s.mem ∧ t.warps = s.warps ∧ t.wgs = s.wgs ∧
    t.jobs = s.jobs ∧ t.cache = s.cache ∧ t.parts = s.parts ∧ t.life = s.life ∧ t.lifeNow = s.lifeNow ∧ t.flashFw = s.flashFw ∧
    t.flashCfg = s.flashCfg := by
  rw [h.rest]
  exact ⟨rfl, rfl, rfl, rfl, rfl, rfl, rfl, rfl, rfl, rfl, rfl⟩

theorem le_maxVersion (a b : BitVec 32) : a ≤ maxVersion a b := by
  unfold maxVersion
  split <;> bv_omega

theorem State.fullClock_configure (s : State) (cfg : List Byte) {d : Nat} (h : d < 4) :
    (s.configure cfg).fullClock d = wattsIn 800 1700 (Config.imageClock cfg d) ∧ (s.configure cfg).clock d = (s.configure cfg).fullClock d := by
  simp [State.fullClock, State.clock, State.configure, h]

/-- A boot that stops before stage 5 for one of the causes of its stage, with what the stages before have set. -/
theorem State.bootFails_booted {s t : State} {done : BitVec 3} {err : BitVec 8}
    (hrest : t = { s with
      bootStage := t.bootStage, bootErr := t.bootErr, fwVersion := t.fwVersion, fwRollback := t.fwRollback, cfgVersion := t.cfgVersion
      cfgRollback := t.cfgRollback, capMax := t.capMax, pwrCap := t.pwrCap, dieOn := t.dieOn, clkMax := t.clkMax, clk := t.clk
      cxlPorts := t.cxlPorts, planes := t.planes })
    (hends : (done = 0 ∧ (err = 1 ∨ err = 2)) ∨ (done = 1 ∧ (err = 3 ∨ err = 4)) ∨ (done = 3 ∧ (err = 5 ∨ err = 6)))
    (hfw : err = 1 ↔ Config.imageGood false s.flashFw = false) (h1 : s.fwRollback ≤ t.fwRollback) (h2 : s.cfgRollback ≤ t.cfgRollback) :
    Booted s (t.bootFails done err) where
  rest := by rw [State.bootFails, hrest]; rfl
  event := .inr (by rw [hrest]; rfl)
  ends := .inr hends
  configured h := by
    obtain ⟨rfl, -⟩ | ⟨rfl, -⟩ | ⟨rfl, -⟩ := hends <;> cases h
  firmware := hfw
  fwRises := h1
  cfgRises := h2

theorem State.boot_booted (s : State) : Booted s s.boot := by
  unfold State.boot
  extract_lets fw cfg fv s1 cv src s2
  have hfw : s.fwRollback ≤ s1.fwRollback := le_maxVersion _ _
  have hcfg : s.cfgRollback ≤ s2.cfgRollback := le_maxVersion s.cfgRollback cv
  split
  · next h => exact State.bootFails_booted rfl (by simp) (by simpa using h) (BitVec.le_refl _) (BitVec.le_refl _)
  next hgood =>
  have hfirm {e : BitVec 8} (he : e ≠ 1) : e = 1 ↔ Config.imageGood false s.flashFw = false := iff_of_false he hgood
  split
  · exact State.bootFails_booted rfl (by simp) (hfirm (by decide)) (BitVec.le_refl _) (BitVec.le_refl _)
  split
  · exact State.bootFails_booted rfl (by simp) (hfirm (by decide)) hfw (BitVec.le_refl _)
  split
  · exact State.bootFails_booted rfl (by simp) (hfirm (by decide)) hfw (BitVec.le_refl _)
  split
  · exact State.bootFails_booted rfl (by simp) (hfirm (by decide)) hfw hcfg
  · exact State.bootFails_booted rfl (by simp) (hfirm (by decide)) hfw hcfg
  · exact ⟨rfl, .inl rfl, .inl ⟨rfl, rfl⟩, fun _ => ⟨rfl, rfl, fun d hd => State.fullClock_configure s1 cfg hd⟩, hfirm (e := 0) (by decide), hfw, hcfg⟩

/-! ## The row -/

/-- What a reset boots: the device with nothing but what outlives the reset. Of a package that is Off the pending counts are lost. -/
def State.resetTo (s : State) : State :=
  { s.cold with lifeNow := if s.off then {} else { s.lifeNow with thermalHours := s.thermalTime } }

theorem exec_deviceReset_boots (s : State) : Goes .deviceReset s s.resetTo.boot := by
  cases hoff : s.off <;> simp only [Goes, exec_deviceReset, execDeviceReset, State.deviceReset, State.resetTo, hoff] <;> rfl

theorem bootRows : BootRows := by
  intro s
  refine ⟨s.resetTo.boot, exec_deviceReset_boots s, ?_⟩
  have hb := State.boot_booted s.resetTo
  obtain ⟨hoff, hmem, hwarps, hwgs, hjobs, hcache, hparts, hlife, hnow, hfw, hcfg⟩ := hb.unchanged
  have hevt : s.resetTo.boot.devEvt.toNat % 64 = 0 := by
    have h0 : s.resetTo.devEvt = 0 := rfl
    obtain h | h := hb.event <;> rw [h, h0] <;> decide
  exact ⟨hoff, hmem, hwarps, hwgs, hjobs, hcache, hparts, hevt, hlife, hnow, hfw, hcfg, hb.ends, hb.configured, hb.firmware, hb.fwRises,
    hb.cfgRises⟩

end Sys2Proof.Machine

/-- Settles O29 from the rows of the sleep states and the row of a reset. -/
theorem resetEvents : Obligations.ResetEvents := ⟨Sys2Proof.Machine.sleepRows, Sys2Proof.Machine.bootRows⟩
end

section
/-! SUPPORT. Memory errors, far sets, requests that are not answered, and lines that leave caches (R17, R45, R148, R176, R188). -/
namespace Sys2Proof.Machine

variable {s : State}

/-! ## Memory errors (R17, R221) -/

theorem exec_memoryErrorCorrected_sram (hf : s.args.flag = true) :
    Goes .memoryErrorCorrected s (s.noteEcc false (64 + s.args.i)) := by
  simp only [Goes, exec_memoryErrorCorrected, execMemoryErrorCorrected, hf, if_true]

theorem exec_memoryErrorCorrected_package (hf : s.args.flag = false) :
    Goes .memoryErrorCorrected s { s.noteEcc false (s.args.i % 64) with
      jobs := s.jobs.map fun j => if j.touches s.args.addr then { j with status := j.status ||| 4 } else j } := by
  simp only [Goes, exec_memoryErrorCorrected, execMemoryErrorCorrected, hf, Bool.false_eq_true, if_false]
  rfl

theorem exec_memoryErrorUncorrectable_poisons : ∃ t, Goes .memoryErrorUncorrectable s t ∧ t.poison.contains s.args.addr = true ∧
    t.devEvt.getLsbD 4 = true ∧ t.mem = s.mem := by
  refine ⟨_, exec_memoryErrorUncorrectable s, ?_, ?_, rfl⟩
  · dsimp only
    split
    · assumption
    · simp
  · show (s.devEvt ||| (1#64 <<< 4)).getLsbD 4 = true
    rw [BitVec.getLsbD_or, Bool.or_eq_true]
    exact .inr (by decide)

/-! ## Far sets (R45) -/

theorem State.writeSet_enables {j v : Nat} (hn : (cxlSetOf v).en = true) (ho : (s.cxlSets.getD j {}).en = false)
    (ha : s.setAllowed j (cxlSetOf v) = true) : s.writeSet j v = { s with cxlSets := modifyAt (fun _ => cxlSetOf v) s.cxlSets j } := by
  have hne : cxlSetOf v ≠ s.cxlSets.getD j {} := fun h => by rw [h, ho] at hn; cases hn
  simp only [State.writeSet, if_neg hne, ho, Bool.false_eq_true, false_and, if_false, ha, Bool.true_eq_false, and_false]

theorem State.writeSet_disables {j v : Nat} (hn : (cxlSetOf v).en = false) (ho : (s.cxlSets.getD j {}).en = true)
    (hm : s.setMapped (s.cxlSets.getD j {}) = false) :
    s.writeSet j v = { s with cxlSets := modifyAt (fun _ => cxlSetOf v) s.cxlSets j } := by
  have hne : cxlSetOf v ≠ s.cxlSets.getD j {} := fun h => by rw [h, ho] at hn; cases hn
  simp only [State.writeSet, if_neg hne, hm, Bool.false_eq_true, and_false, if_false, hn, false_and]

theorem State.writeSet_refused {j v : Nat} (hn : (cxlSetOf v).en = false) (ho : (s.cxlSets.getD j {}).en = true)
    (hm : s.setMapped (s.cxlSets.getD j {}) = true) : s.writeSet j v = s.raiseEvt 7 := by
  have hne : cxlSetOf v ≠ s.cxlSets.getD j {} := fun h => by rw [h, ho] at hn; cases hn
  simp only [State.writeSet, if_neg hne, ho, hm, and_self, if_true]

theorem exec_cxlpSetEnable_writes (hi : s.args.i < 8) (hn : (cxlSetOf s.args.val.toNat).en = true) :
    Goes .cxlpSetEnable s (s.writeSet s.args.i s.args.val.toNat) := by
  simp only [Goes, exec_cxlpSetEnable, execCxlpSetEnable, if_pos (And.intro hi hn)]

theorem exec_cxlpSetDisable_writes (hi : s.args.i < 8) (ho : (s.cxlSets.getD s.args.i {}).en = true) :
    Goes .cxlpSetDisable s (s.writeSet s.args.i s.args.val.toNat) := by
  simp only [Goes, exec_cxlpSetDisable, execCxlpSetDisable, if_pos (And.intro hi ho)]

/-! ## Silent expanders and hosts (R19, R148) -/

theorem exec_cxlExpanderTimeout_up (h : (s.cxlPorts.getD s.args.i {}).state = 2) : Goes .cxlExpanderTimeout s
    ({ s with cxlPorts := modifyAt (fun x => { x with state := 3 }) s.cxlPorts s.args.i }.raiseEvt 2) := by
  simp only [Goes, exec_cxlExpanderTimeout, execCxlExpanderTimeout, if_pos h]

theorem exec_hostCompletionTimeout_fails {r : ExtReq} (hr : (s.exts.find? fun r => r.tag == s.args.i) = some r) (hp : r.peer = none)
    (ht : s.args.flag = true ∨ r.deadline ≤ s.cycle) : Goes .hostCompletionTimeout s (s.extFail r .xlate 3 0) := by
  have h : r.peer.isNone = true ∧ (s.args.flag = true ∨ r.deadline ≤ s.cycle) := ⟨by rw [hp]; rfl, ht⟩
  simp only [Goes, exec_hostCompletionTimeout, execHostCompletionTimeout, hr, if_pos h]

/-! ## Bytes that go home (R188) -/

theorem Cells.byte_setBytes_one {m : Cells} (hm : Memory.wf m = true) (a : Nat) (b : Byte) (k : Nat) :
    (m.setBytes a [b]).byte k = if k = a then b else m.byte k := by
  rw [Cells.byte_setBytes hm]
  by_cases h : k = a
  · subst h; simp
  · rw [if_neg h, if_neg (by simp; omega)]

/-- Held bytes brought home leave the memory in its form; where they agree on a byte it stands there, and any other is as it was. -/
theorem State.bringHome_mem (hs : List HeldByte) (s : State) (hw : Memory.wf s.mem = true) :
    Memory.wf (s.bringHome hs).mem = true ∧
    ∀ a b, (∀ x ∈ hs, x.addr = a → x.byte = b) → ((∃ x ∈ hs, x.addr = a) ∨ s.mem.byte a = b) → (s.bringHome hs).mem.byte a = b := by
  induction hs generalizing s with
  | nil => exact ⟨hw, fun a b _ h => h.resolve_left (by simp)⟩
  | cons h hs ih =>
    obtain ⟨hw', hbyte⟩ := ih ((s.writeHome h.addr [h.byte]).nudge (.mem h.addr) 1) (Cells.setBytes_wf hw h.addr [h.byte])
    refine ⟨hw', fun a b hall hsome => hbyte a b (fun x hx => hall x (List.mem_cons_of_mem h hx)) ?_⟩
    -- a later byte for the place, or what the place holds once this one is home
    rw [or_iff_not_imp_left]
    intro hlater
    have hnow : (s.mem.setBytes h.addr [h.byte]).byte a = b := by
      rw [Cells.byte_setBytes_one hw]
      split
      · next e => exact hall h List.mem_cons_self e.symm
      · next e =>
        obtain ⟨x, hx, hxa⟩ | hb := hsome
        · obtain rfl | hx := List.mem_cons.mp hx
          · exact absurd hxa.symm e
          · exact absurd ⟨x, hx, hxa⟩ hlater
        · exact hb
    exact hnow

/-- The bytes of a line that a quad's unit holds. -/
def State.heldLine (s : State) (q k : Nat) : List HeldByte := s.held.filter fun h => h.quad == q && h.addr / 32 == k

theorem State.mem_heldLine {q k : Nat} {h : HeldByte} : h ∈ s.heldLine q k ↔ h ∈ s.held ∧ h.quad = q ∧ h.addr / 32 = k := by
  simp [State.heldLine]

theorem exec_quadAtomicWriteback_line : Goes .quadAtomicWriteback s
    (State.bringHome { s with held := s.held.filter fun h => !(h.quad == s.args.i && h.addr / 32 == s.args.addr) }
      (s.heldLine s.args.i s.args.addr)) := exec_quadAtomicWriteback s

end Sys2Proof.Machine

open Sys2Proof.Machine

/-- Settles O32: each event's condition picks the branch that its clause tells of; the line of an atomic unit goes home byte by byte. -/
theorem memoryEvents : Obligations.MemoryEvents := by
  intro s
  refine ⟨exec_memoryErrorCorrected_sram, exec_memoryErrorCorrected_package, exec_memoryErrorUncorrectable_poisons,
    fun hi _ hn ho ha => ?_, fun hi hn ho hm => ?_, fun hi hn ho hm => ?_, exec_cxlExpanderTimeout_up,
    fun r => exec_hostCompletionTimeout_fails, exec_rowCacheEviction s,
    _, exec_quadAtomicWriteback_line, State.bringHome_held _ _, fun hw => ?_⟩
  · exact State.writeSet_enables hn ho ha ▸ exec_cxlpSetEnable_writes hi hn
  · exact State.writeSet_disables hn ho hm ▸ exec_cxlpSetDisable_writes hi ho
  · exact State.writeSet_refused hn ho hm ▸ exec_cxlpSetDisable_writes hi ho
  · obtain ⟨hwf, hbyte⟩ := State.bringHome_mem (s.heldLine s.args.i s.args.addr)
      { s with held := s.held.filter fun h => !(h.quad == s.args.i && h.addr / 32 == s.args.addr) } hw
    refine ⟨hwf, fun h hh hq hk hone => hbyte h.addr h.byte (fun x hx => ?_) (.inl ⟨h, State.mem_heldLine.mpr ⟨hh, hq, hk⟩, rfl⟩),
      fun a ha => hbyte a _ (fun x hx => ?_) (.inr rfl)⟩
    · obtain ⟨hx, hxq, -⟩ := State.mem_heldLine.mp hx
      exact hone x hx hxq
    · obtain ⟨hx, hxq, hxk⟩ := State.mem_heldLine.mp hx
      exact fun hxa => absurd hxa (ha x hx hxq hxk)
end

section
/-! SUPPORT. Peer sessions: opening, closing, and the session table (R28, R29, R32). -/
namespace Sys2Proof.Machine

variable {s : State} {p : BitVec 2} {i : Nat}

theorem State.sessions_modSession_wf (f : Session → Session) (hw : Sparse.wf {} (s.part p).sessions = true) :
    Sparse.wf {} ((s.modSession p i f).part p).sessions = true := by
  rw [State.modSession, State.part_modPart]
  split
  · exact Sparse.wf_set hw _ _
  · exact hw

/-- A session entry reads back as it was written, where its partition has a table. -/
theorem State.session_modSession (f : Session → Session) (hw : Sparse.wf {} (s.part p).sessions = true) :
    ((s.modSession p i f).part p).session i =
      if p.toNat < s.parts.length then f ((s.part p).session i) else (s.part p).session i := by
  rw [State.modSession, State.part_modPart]
  by_cases h : p.toNat < s.parts.length
  · rw [if_pos ⟨rfl, h⟩, if_pos h]
    exact (Sparse.get_set hw i _ i).trans (if_pos rfl)
  · rw [if_neg (fun e => h e.2), if_neg h]

theorem State.part_missing (h : ¬ p.toNat < s.parts.length) : s.part p = {} := by
  simp [State.part, List.getD_eq_getElem?_getD, List.getElem?_eq_none (Nat.le_of_not_lt h)]

theorem exec_sessionOpen_entry (hi : s.args.i < 256) : Goes .sessionOpen s (s.openSession s.args.p s.args.i) := by
  simp only [Goes, exec_sessionOpen, execSessionOpen, if_pos hi]

theorem exec_sessionClose_entry (hi : s.args.i < 256) : Goes .sessionClose s (s.closeSession s.args.p s.args.i) := by
  simp only [Goes, exec_sessionClose, execSessionClose, if_pos hi]

theorem State.openSession_again (h : ((s.part p).session i).state = 1 ∨ ((s.part p).session i).state = 2) :
    s.openSession p i = s.modSession p i fun x => { x with open_ := true } := if_pos h

theorem State.openSession_new (h1 : ((s.part p).session i).state ≠ 1) (h2 : ((s.part p).session i).state ≠ 2) :
    s.openSession p i =
      let e := (s.part p).session i
      let asked := s.modSession p i fun x => { x with state := 1, open_ := true }
      match s.plane (BitVec.ofNat 8 i) 0 with
      | some pl => asked.sendMsg pl (BitVec.ofNat 8 i) 2 e.gen (.openSession e.part e.gen false)
      | none => asked.peerLost p (BitVec.ofNat 8 i) :=
  if_neg (not_or.mpr ⟨h1, h2⟩)

theorem State.closeSession_shut (h1 : ((s.part p).session i).state ≠ 1) (h2 : ((s.part p).session i).state ≠ 2) :
    s.closeSession p i = s.modSession p i fun x => { x with state := 0, open_ := false } :=
  if_neg (not_or.mpr ⟨h1, h2⟩)

theorem State.closeSession_open (h : ((s.part p).session i).state = 1 ∨ ((s.part p).session i).state = 2) :
    s.closeSession p i =
      let e := (s.part p).session i
      let closed := s.modSession p i fun x => { x with state := 0, open_ := false }
      match s.plane (BitVec.ofNat 8 i) 0 with
      | some pl => closed.sendMsg pl (BitVec.ofNat 8 i) 2 e.gen (.closeSession e.part)
      | none => closed :=
  if_pos h

/-- Closing tells the peer, and writes nothing but the entry in the partitions. -/
theorem State.closeSession_parts : (s.closeSession p i).parts = (s.modSession p i fun x => { x with state := 0, open_ := false }).parts := by
  by_cases h : ((s.part p).session i).state = 1 ∨ ((s.part p).session i).state = 2
  · rw [State.closeSession_open h]
    dsimp only
    split <;> rfl
  · obtain ⟨h1, h2⟩ := not_or.mp h
    rw [State.closeSession_shut h1 h2]

theorem State.session_closed (hw : Sparse.wf {} (s.part p).sessions = true) :
    let e := ((s.modSession p i fun x => { x with state := 0, open_ := false }).part p).session i
    e.state = 0 ∧ e.gen = ((s.part p).session i).gen := by
  intro e
  have he : e = _ := State.session_modSession _ hw
  rw [he]
  split
  · exact ⟨rfl, rfl⟩
  · next h => exact ⟨by rw [State.part_missing h]; rfl, rfl⟩

theorem State.plane_modSession (f : Session → Session) (dev : BitVec 8) (a : Nat) : (s.modSession p i f).plane dev a = s.plane dev a := rfl

theorem sessionRows : SessionRows := by
  intro s i p e dev asked closed hi
  have hopen := exec_sessionOpen_entry hi
  have hclose := exec_sessionClose_entry hi
  refine ⟨fun h => ?_, fun h1 h2 => ⟨fun pl hpl => ?_, fun hpl => ?_⟩, fun h1 h2 => ?_, fun h => ⟨fun pl hpl => ?_, fun hpl => ?_⟩,
    ⟨_, hclose, State.closeSession_parts, fun hw => ?_⟩, fun f hw => State.sessions_modSession_wf f hw⟩
  · rwa [State.openSession_again h] at hopen
  · have hpl : s.plane dev 0 = some pl := hpl
    rwa [State.openSession_new h1 h2, hpl] at hopen
  · have hpl : s.plane dev 0 = none := hpl
    rwa [State.openSession_new h1 h2, hpl] at hopen
  · rwa [State.closeSession_shut h1 h2] at hclose
  · rwa [State.closeSession_open h, hpl] at hclose
  · rwa [State.closeSession_open h, hpl] at hclose
  · have hpart : (s.closeSession s.args.p s.args.i).part p = closed.part p := by
      unfold State.part
      rw [State.closeSession_parts]
    rw [hpart]
    exact State.session_closed hw

end Sys2Proof.Machine
end

section
/-! SUPPORT. Flits at a port that is up (R23, R25), and the messages of peers (R24, R30, R111, R182). -/
namespace Sys2Proof.Machine

/-! ## Flits (R23, R25) -/

section
variable {s : State} {f : Flit}

/-- What an enabled port that is up does with a flit. -/
theorem exec_flitReceive_up (hf : s.args.flit = some f) (hu : (s.port s.args.i).state = 2) (he : (s.port s.args.i).en = true) :
    Goes .flitReceive s (
      if flitSound f = false then s.sendMsg s.args.i f.src 2 0 (.nak (s.port s.args.i).rxSeq)
      else if f.seq ≠ (s.port s.args.i).rxSeq then
        if (f.seq - (s.port s.args.i).rxSeq).toNat < 2 ^ 31 then s.sendMsg s.args.i f.src 2 0 (.nak (s.port s.args.i).rxSeq)
        else s.takeAck s.args.i f.ack
      else s.takeFlit s.args.i f) := by
  have h : ¬ ((s.port s.args.i).state ≠ 2 ∨ (s.port s.args.i).en = false) := by simp [hu, he]
  simp only [Goes, exec_flitReceive, execFlitReceive, hf, if_neg h]
  split
  · rfl
  · split <;> rfl

theorem State.takeFlit_other {i : Nat} (h : f.type = 0 ∨ 4 < f.type.toNat) :
    s.takeFlit i f = s.modPort i fun x => { x with rxSeq := x.rxSeq + 1 } := if_pos h

theorem State.takeFlit_typed {i : Nat} (h : ¬ (f.type = 0 ∨ 4 < f.type.toNat)) :
    s.takeFlit i f =
      let u := f.msgs.foldl (fun t m => t.deliverMsg i f m)
        (((s.modPort i fun x => { x with rxSeq := x.rxSeq + 1 }).takeAck i f.ack).takeCredit i f.credit)
      if f.type = 3 then u else u.oweCredit i (f.vc.toNat % 16) := if_neg h

theorem flitRows : FlitRows := by
  intro s f i x hf hu he refused
  have h := exec_flitReceive_up hf hu he
  refine ⟨fun hs => ?_, fun hs hn hlt => ?_, fun hs hge => ?_, fun hs hq => ⟨fun ht => ?_, fun ht => ?_, fun ht => ?_⟩⟩
  · rwa [if_pos hs] at h
  · rwa [if_neg (by simp [hs]), if_pos hn, if_pos hlt] at h
  · have hn : f.seq ≠ (s.port s.args.i).rxSeq := fun e => by
      have h0 : (f.seq - x.rxSeq).toNat = 0 := by rw [e]; simp [x, i]
      omega
    rwa [if_neg (by simp [hs]), if_pos hn, if_neg (Nat.not_lt.mpr hge)] at h
  · rw [if_neg (by simp [hs]), if_neg (not_not_intro hq), State.takeFlit_typed (by simp [ht])] at h
    rwa [if_pos ht] at h
  · have h3 : ¬ (f.type = 0 ∨ 4 < f.type.toNat) ∧ f.type ≠ 3 := by
      obtain e | e | e := ht <;> simp [e]
    rw [if_neg (by simp [hs]), if_neg (not_not_intro hq), State.takeFlit_typed h3.1] at h
    rwa [if_neg h3.2] at h
  · rwa [if_neg (by simp [hs]), if_neg (not_not_intro hq), State.takeFlit_other ht] at h

end

/-! ## Requests of peers (R24, R30, R182) -/

section
variable {s : State} {i : Nat} {f : Flit} {tag : Nat} {p : BitVec 2} {c : BitVec 6} {addr : BitVec 52} {op : PeerOp} {x : Inbound}

theorem State.accepts_iff {q : BitVec 2} {src : BitVec 8} {gen : BitVec 16} :
    s.accepts q src gen (p, c) = true ↔
      let e := (s.part q).session src.toNat
      e.state = 2 ∧ e.gen = gen ∧ e.part = p ∧ e.ctx = c := by
  simp only [State.accepts, Bool.and_eq_true, beq_iff_eq]
  constructor
  · rintro ⟨⟨⟨hg, hs⟩, hp⟩, hc⟩
    exact ⟨hs, hg, hp.symm, hc.symm⟩
  · rintro ⟨hs, hg, hp, hc⟩
    exact ⟨⟨⟨hg, hs⟩, hp.symm⟩, hc.symm⟩

theorem State.deliverMsg_request (hf : f.type = 1) : s.deliverMsg i f (.request tag p c addr op) = s.peerAsked i f tag p c addr op :=
  if_pos hf

theorem State.deliverMsg_response {v : BitVec 8} {lead : Nat} {d : List Byte} (hf : f.type = 2) :
    s.deliverMsg i f (.response tag p c v lead d) = s.peerAnswered i f tag p c v d :=
  if_pos hf

theorem State.peerAsked_refused (h : s.accepts p f.src f.gen (p, c) = false) : s.peerAsked i f tag p c addr op = s.drop i := if_pos h

/-- The request that a message makes. -/
def Inbound.asked (i : Nat) (f : Flit) (tag : Nat) (p : BitVec 2) (c : BitVec 6) (addr : BitVec 52) (op : PeerOp) : Inbound :=
  { port := i, dev := f.src, gen := f.gen, tag := tag, part := p, ctx := c, addr := addr, op := op }

theorem State.peerAsked_waits (h : s.accepts p f.src f.gen (p, c) = true)
    (hw : 1 < (Inbound.asked i f tag p c addr op).parts ∨ s.mayServe (Inbound.asked i f tag p c addr op) s.inbox = false) :
    s.peerAsked i f tag p c addr op = { s with inbox := s.inbox ++ [Inbound.asked i f tag p c addr op] } := by
  refine (if_neg (by simp [h])).trans (if_neg fun hn => ?_)
  obtain hw | hw := hw
  · exact absurd hn.1 (Nat.not_le.mpr hw)
  · exact Bool.eq_false_iff.mp hw hn.2

/-- What a request remembers of its part `k`. -/
def Inbound.heard (x : Inbound) (k : Nat) : Except MErr (List Byte) → Inbound
  | .ok d => { x with did := x.did ++ [(k, d)] }
  | .error e => { x with bad := x.bad ++ [(k, e.status)] }

theorem State.serveOne_heard {t : State} {k : Nat} {r : Except MErr (List Byte)} (h : s.servePart x k = (t, r)) :
    s.serveOne x k = (t, x.heard k r) := by
  cases r <;> simp only [State.serveOne, h, Inbound.heard]

/-- The answer to a request of one part. -/
def Inbound.answer (x : Inbound) : Except MErr (List Byte) → PeerMsg
  | .ok d => .response x.tag x.part x.ctx 0 (x.addr.toNat % 32) d
  | .error e => .response x.tag x.part x.ctx e.status 0 []

/-- The answer to a request of one sector goes out by the port that the request came by. -/
theorem State.answerPeer_whole (hp : x.parts = 1) (hd : x.did = []) (hb : x.bad = []) (ha : (s.port x.port).alive = true)
    (r : Except MErr (List Byte)) :
    s.answerPeer (x.heard 0 r) = s.sendMsg x.port x.dev 1 x.gen (x.answer r) := by
  have hparts : (x.heard 0 r).parts = 1 := by cases r <;> exact hp
  have hport : (x.heard 0 r).port = x.port := by cases r <;> rfl
  unfold State.answerPeer
  rw [hparts, hport, if_pos ha]
  cases r with
  | ok d => simp [Inbound.heard, Inbound.answer, hd, hb]
  | error e => simp [Inbound.heard, Inbound.answer, hb]

/-- A request of one sector that nothing stands before is performed and answered at once. -/
theorem State.peerAsked_answered {t : State} {r : Except MErr (List Byte)} (ha : s.accepts p f.src f.gen (p, c) = true)
    (hp : (Inbound.asked i f tag p c addr op).parts = 1) (hm : s.mayServe (Inbound.asked i f tag p c addr op) s.inbox = true)
    (hs : s.servePart (Inbound.asked i f tag p c addr op) 0 = (t, r)) (hal : (t.port i).alive = true) :
    s.peerAsked i f tag p c addr op = t.sendMsg i f.src 1 f.gen ((Inbound.asked i f tag p c addr op).answer r) := by
  have hask : s.peerAsked i f tag p c addr op =
      (s.serveOne (Inbound.asked i f tag p c addr op) 0).1.answerPeer (s.serveOne (Inbound.asked i f tag p c addr op) 0).2 :=
    (if_neg (by simp [ha])).trans (if_pos ⟨Nat.le_of_eq hp, hm⟩)
  rw [hask, State.serveOne_heard hs]
  exact State.answerPeer_whole hp rfl rfl hal r

theorem exec_flitReceive_step (hf : s.args.flit = none) (hg : s.args.flag = true) : Goes .flitReceive s (s.serveStep s.args.i) := by
  simp only [Goes, exec_flitReceive, execFlitReceive, hf, hg, if_true]

theorem getD_mod_mem {α : Type} {xs : List α} (h : xs ≠ []) (n : Nat) (d : α) : xs.getD (n % xs.length) d ∈ xs := by
  have hlt : n % xs.length < xs.length := Nat.mod_lt n (List.length_pos_of_ne_nil h)
  rw [List.getD_eq_getElem xs d hlt]
  exact List.getElem_mem hlt

/-- One part of a request that waits, and with the last one the answer. -/
theorem State.serveStep_part {j : Nat} (hx : s.inbox[j]? = some x) (hm : s.mayServe x (s.inbox.take j) = true) (hl : x.left ≠ []) :
    ∃ n, n ∈ x.left ∧ ∀ t r, s.servePart x n = (t, r) →
      s.serveStep j = if (x.heard n r).left = [] then { t with inbox := t.inbox.eraseIdx j }.answerPeer (x.heard n r)
        else { t with inbox := modifyAt (fun _ => x.heard n r) t.inbox j } := by
  refine ⟨_, getD_mod_mem hl (Config.pick s.free 27 j x.left.length) 0, fun t r h => ?_⟩
  simp only [State.serveStep, hx, hm, Bool.true_eq_false, if_false, State.serveOne_heard h, List.isEmpty_iff]

/-! What a part does (R24), and what waits (R111). -/

theorem State.servePart_read {t : State} {k n o m : Nat} {pl : Place} (hop : x.op = .read n) (hk : (partsOf x.ptr n)[k]? = some (o, m))
    (h : s.place { part := x.part, ctx := x.ctx } .load x.ptr o m n = (t, .ok pl)) : s.servePart x k = (t, .ok (t.readPlace 32 pl m)) := by
  simp only [State.servePart, hop, hk, h]
  rfl

theorem State.servePart_write {t : State} {k : Nat} {masks : List (BitVec 32)} {d : List Byte} {ps : List (Place × Nat × Nat)}
    (hop : x.op = .write masks d)
    (h : State.runPlaces { part := x.part, ctx := x.ctx } (x.ptr / 32 * 32 + 32 * k) (maskRuns (masks.getD k 0)) s = (t, .ok ps)) :
    s.servePart x k = (ps.foldl (fun t y => t.writePlace y.1 ((((d.drop (32 * k)).take 32).drop y.2.1).take y.2.2)) t, .ok []) := by
  simp only [State.servePart, hop, State.writeMasked, h]

theorem State.servePart_write_fails {t : State} {k : Nat} {masks : List (BitVec 32)} {d : List Byte} {e : MErr} (hop : x.op = .write masks d)
    (h : State.runPlaces { part := x.part, ctx := x.ctx } (x.ptr / 32 * 32 + 32 * k) (maskRuns (masks.getD k 0)) s = (t, .error e)) :
    s.servePart x k = (t, .error e) := by
  simp only [State.servePart, hop, State.writeMasked, h]

theorem State.mayServe_exchanging {fn k arg : Nat} {n : Option (BitVec 6)} {before : List Inbound} (hop : x.op = .barrier fn k arg)
    (hs : (s.part x.part).switch = .exchanging n) (hc : (s.part x.part).resident = some x.ctx ∨ n = some x.ctx) :
    s.mayServe x before = false := by
  have h : s.inExchange x = true := by
    simpa only [State.inExchange, hop, hs, Bool.or_eq_true, beq_iff_eq] using hc
  rw [State.mayServe, h, Bool.not_true, Bool.and_false]

/-! ## Responses (R30) -/

theorem State.peerAnswered_dropped {r : ExtReq} {v : BitVec 8} {d : List Byte}
    (hr : (s.exts.find? fun r => r.tag == tag && r.peer == some f.src) = some r) (ha : s.accepts r.part f.src f.gen (p, c) = false) :
    s.peerAnswered i f tag p c v d = s.drop i := by
  simp only [State.peerAnswered, hr, ha, if_true]

theorem State.peerAnswered_good {r : ExtReq} {d : List Byte}
    (hr : (s.exts.find? fun r => r.tag == tag && r.peer == some f.src) = some r) (ha : s.accepts r.part f.src f.gen (p, c) = true) :
    s.peerAnswered i f tag p c 0 d = s.extAnswer r d := by
  simp only [State.peerAnswered, hr, ha, Bool.true_eq_false, if_false, if_true]

end

/-- Requests and responses whose session is not open are dropped; one within a sector is answered at once; the others wait. -/
theorem messageRows : MessageRows := by
  intro s i f tag p c open_ _
  have haccept : ∀ q, open_ q ↔ s.accepts q f.src f.gen (p, c) = true := fun q => State.accepts_iff.symm
  refine ⟨fun addr op hf ho => ?_, fun addr op hf ho => ?_, fun x k hf hg hx hm hl => ?_, fun x k t => ?_,
    fun x fn k arg n before => State.mayServe_exchanging, fun r v lead d hf hr => ⟨fun ho => ?_, fun ho hv => ?_⟩⟩
  · rw [haccept, Bool.not_eq_true] at ho
    rw [State.deliverMsg_request hf, State.peerAsked_refused ho]
    rfl
  · rw [haccept] at ho
    rw [State.deliverMsg_request hf]
    refine ⟨fun hp hm => ?_, fun hw => State.peerAsked_waits ho hw⟩
    exact ⟨fun t d hs ha => State.peerAsked_answered ho hp hm hs ha, fun t e hs ha => State.peerAsked_answered ho hp hm hs ha⟩
  · obtain ⟨n, hn, hstep⟩ := State.serveStep_part hx hm (by rw [hl]; exact List.cons_ne_nil _ _)
    refine ⟨n, hn, fun t r h => ?_⟩
    have hgo := exec_flitReceive_step hf hg
    rw [hstep t r h] at hgo
    cases r <;> exact hgo
  · exact ⟨fun n o m pl => State.servePart_read, fun masks d hop => ⟨fun ps => State.servePart_write hop, fun e => State.servePart_write_fails hop⟩⟩
  · rw [haccept, Bool.not_eq_true] at ho
    rw [State.deliverMsg_response hf, State.peerAnswered_dropped hr ho]
    rfl
  · subst hv
    rw [State.deliverMsg_response hf, State.peerAnswered_good hr ((haccept r.part).mp ho)]

end Sys2Proof.Machine
end

section
/-! SUPPORT. Ports that retrain, go down and come up (R25, R26, R44), and peers that do not answer (R32). -/
namespace Sys2Proof.Machine

variable {s : State}

/-! ## A port that sends stays in its state (R25) -/

theorem Port.pump_state (n : Nat) (x : Port) : (Port.pump n x).state = x.state := by
  induction n generalizing x with
  | zero => rfl
  | succ n ih =>
    unfold Port.pump
    split
    · rfl
    · split
      · exact ih _
      · rfl

theorem State.port_modPort {i : Nat} (f : Port → Port) (h : i < s.ports.length) : (s.modPort i f).port i = f (s.port i) := by
  unfold State.port State.modPort
  rw [modifyAt_getD, if_pos ⟨rfl, h⟩]

theorem State.pump_portState {i : Nat} (h : i < s.ports.length) :
    ((s.pump i).port i).state = (s.port i).state ∧ (s.pump i).ports.length = s.ports.length := by
  refine ⟨?_, modifyAt_length _ _ _⟩
  rw [State.pump, State.port_modPort _ h]
  exact Port.pump_state _ _

theorem State.sendCredits_portState {i : Nat} (h : i < s.ports.length) :
    ((s.sendCredits i).port i).state = (s.port i).state ∧ (s.sendCredits i).ports.length = s.ports.length := by
  unfold State.sendCredits
  extract_lets x f
  split
  · have hlen : (s.modPort i fun x => { x with waiting := x.waiting ++ [f] }).ports.length = s.ports.length := modifyAt_length _ _ _
    obtain ⟨hst, hl⟩ := State.pump_portState (s := s.modPort i fun x => { x with waiting := x.waiting ++ [f] }) (hlen.symm ▸ h)
    rw [hst, hl, State.port_modPort _ h]
    exact ⟨rfl, hlen⟩
  · exact ⟨rfl, rfl⟩

/-! ## The rows -/

theorem exec_linkRetrainComplete_stay (hf : s.args.flag = false) : Goes .linkRetrainComplete s
    (if (s.port s.args.i).state = 3 then ((s.modPort s.args.i fun x => { x with state := 2 }).pump s.args.i).raiseEvt 3 else s) := by
  simp only [Goes, exec_linkRetrainComplete, execLinkRetrainComplete, hf, Bool.false_eq_true, if_false]

theorem exec_linkRetrainComplete_counted (hf : s.args.flag = true) : Goes .linkRetrainComplete s
    (if s.args.i < 8 then s.noteRetrain (32 + s.args.i) else if s.args.i = 8 then s.noteRetrain 64 else s) := by
  simp only [Goes, exec_linkRetrainComplete, execLinkRetrainComplete, hf, if_true]

theorem exec_stayPortDown_near (hf : s.args.flag = false) : Goes .stayPortDown s
    (if (s.port s.args.i).en = true ∧ ((s.port s.args.i).state = 2 ∨ (s.port s.args.i).state = 3) then s.portDown s.args.i 1 else s) := by
  simp only [Goes, exec_stayPortDown, execStayPortDown, hf, Bool.false_eq_true, if_false]

theorem exec_stayPortDown_far (hf : s.args.flag = true) : Goes .stayPortDown s (s.farPortDown s.args.i (BitVec.ofNat 8 s.args.val.toNat)) := by
  simp only [Goes, exec_stayPortDown, execStayPortDown, hf, if_true]

/-- A port that has trained is up, with credits to grant. -/
def State.portUp (s : State) (i : Nat) : State :=
  s.modPort i fun x => { x with state := 2, owed := (List.range 3).map fun v => Config.portCredits v % 1024 }

theorem exec_stayPortTrained_near (hf : s.args.flag = false) : Goes .stayPortTrained s
    (if (s.port s.args.i).en = true ∧ (s.port s.args.i).state = 1 then ((s.portUp s.args.i).sendCredits s.args.i).pump s.args.i else s) := by
  simp only [Goes, exec_stayPortTrained, execStayPortTrained, hf, Bool.false_eq_true, if_false]
  rfl

theorem State.portUp_sends {i : Nat} (h : i < s.ports.length) : ((((s.portUp i).sendCredits i).pump i).port i).state = 2 := by
  have hlen : (s.portUp i).ports.length = s.ports.length := modifyAt_length _ _ _
  obtain ⟨hst, hl⟩ := State.sendCredits_portState (s := s.portUp i) (hlen.symm ▸ h)
  rw [(State.pump_portState (by rw [hl, hlen]; exact h)).1, hst, State.portUp, State.port_modPort _ h]

theorem exec_peerRingTimeout_of {r : ExtReq} {dev : BitVec 8} (hr : (s.exts.find? fun r => r.tag == s.args.i) = some r)
    (hp : r.peer = some dev) : Goes .peerRingTimeout s (if r.deadline ≤ s.cycle then s.peerLost r.part dev else s) := by
  simp only [Goes, exec_peerRingTimeout, execPeerRingTimeout, hr, hp]

theorem portRows : PortRows := by
  intro s i x far
  refine ⟨fun hf h3 => ?_, fun hf h3 => ?_, fun hf hi => ?_, fun hf hi => ?_, fun hf he h => ?_, fun hf h => ?_, exec_stayPortDown_far,
    fun hf he h1 => ⟨_, exec_stayPortTrained_near hf, fun hi => ?_⟩, fun hf h => ?_, fun hf => ?_,
    fun r dev hr hp => ⟨fun ht => ?_, fun ht => ?_⟩⟩
  · have h := exec_linkRetrainComplete_stay hf
    rwa [if_pos h3] at h
  · have h := exec_linkRetrainComplete_stay hf
    rwa [if_neg h3] at h
  · have h := exec_linkRetrainComplete_counted hf
    rwa [if_pos hi] at h
  · have h := exec_linkRetrainComplete_counted hf
    rwa [if_neg (by omega), if_pos hi] at h
  · have hgo := exec_stayPortDown_near hf
    rwa [if_pos ⟨he, h⟩] at hgo
  · have hgo := exec_stayPortDown_near hf
    have hn : ¬ (x.en = true ∧ (x.state = 2 ∨ x.state = 3)) := by
      rintro ⟨he, hs⟩
      obtain h | h | h := h
      · rw [he] at h; cases h
      · rw [h] at hs; revert hs; decide
      · rw [h] at hs; revert hs; decide
    rwa [if_neg hn] at hgo
  · rw [if_pos ⟨he, h1⟩]
    exact State.portUp_sends hi
  · have hgo := exec_stayPortTrained_near hf
    have hn : ¬ (x.en = true ∧ x.state = 1) := by
      rintro ⟨he, hs⟩
      obtain h | h := h
      · rw [he] at h; cases h
      · exact h hs
    rwa [if_neg hn] at hgo
  · simp only [Goes, exec_stayPortTrained, execStayPortTrained, hf, if_true]
    rfl
  · have h := exec_peerRingTimeout_of hr hp
    rwa [if_pos ht] at h
  · have h := exec_peerRingTimeout_of hr hp
    rwa [if_neg (Nat.not_le.mpr ht)] at h

end Sys2Proof.Machine

/-- Settles O33 from its four groups of rows. -/
theorem linkEvents : Obligations.LinkEvents :=
  ⟨Sys2Proof.Machine.sessionRows, Sys2Proof.Machine.flitRows, Sys2Proof.Machine.messageRows, Sys2Proof.Machine.portRows⟩
end

section
/-! SUPPORT. Entries of sparse maps and of contexts read back, with no assumption on the map's form: an entry that is not the default is found
where it was put, and stays found whatever is written beside it. -/
namespace Sys2Proof.Machine

section
variable {α : Type} {d : α}

theorem Sparse.get_put_same (m : Sparse α) (k : Nat) (v : α) : Sparse.get d (Sparse.put k v m) k = v := by
  induction m with
  | nil => simp [Sparse.put, Sparse.get]
  | cons e m ih =>
    obtain ⟨k', v'⟩ := e
    unfold Sparse.put
    split
    · simp [Sparse.get]
    · next hne =>
      split
      · simp [Sparse.get]
      · next hge => rw [Sparse.get, if_neg hne, if_neg hge, ih]

/-- Where entry `a` is found, writing another entry leaves it. -/
theorem Sparse.get_put_found {m : Sparse α} {a k : Nat} (v : α) (h : Sparse.get d m a ≠ d) (hne : a ≠ k) :
    Sparse.get d (Sparse.put k v m) a = Sparse.get d m a := by
  induction m with
  | nil => exact absurd rfl h
  | cons e m ih =>
    obtain ⟨k', v'⟩ := e
    unfold Sparse.get at h
    unfold Sparse.put
    split
    · next hk => subst hk; simp only [Sparse.get, if_neg hne.symm]
    · split
      · next hlt =>
        by_cases ha : a < k
        · exact absurd (by rw [if_neg (by omega), if_pos (by omega)]) h
        · rw [Sparse.get, if_neg hne.symm, if_neg ha]
      · simp only [Sparse.get]
        by_cases hk : k' = a
        · rw [if_pos hk, if_pos hk]
        · by_cases ha : a < k'
          · rw [if_neg hk, if_neg hk, if_pos ha, if_pos ha]
          · rw [if_neg hk, if_neg ha] at h
            rw [if_neg hk, if_neg hk, if_neg ha, if_neg ha, ih h]

theorem Sparse.get_del_found {m : Sparse α} {a k : Nat} (h : Sparse.get d m a ≠ d) (hne : a ≠ k) :
    Sparse.get d (Sparse.del k m) a = Sparse.get d m a := by
  induction m with
  | nil => rfl
  | cons e m ih =>
    obtain ⟨k', v'⟩ := e
    unfold Sparse.get at h
    unfold Sparse.del
    by_cases hk : k' = k
    · subst hk
      rw [if_neg hne.symm] at h
      by_cases ha : a < k'
      · exact absurd (if_pos ha) h
      · rw [if_pos rfl, Sparse.get, if_neg hne.symm, if_neg ha]
    · rw [if_neg hk]
      split
      · rfl
      · simp only [Sparse.get]
        by_cases hk : k' = a
        · rw [if_pos hk, if_pos hk]
        · by_cases ha : a < k'
          · rw [if_neg hk, if_neg hk, if_pos ha, if_pos ha]
          · rw [if_neg hk, if_neg ha] at h
            rw [if_neg hk, if_neg hk, if_neg ha, if_neg ha, ih h]

section
variable [DecidableEq α]

theorem Sparse.get_set_same {v : α} (m : Sparse α) (k : Nat) (hv : v ≠ d) : Sparse.get d (Sparse.set d m k v) k = v := by
  rw [Sparse.set, if_neg hv, Sparse.get_put_same]

theorem Sparse.get_set_found {m : Sparse α} {a k : Nat} (v : α) (h : Sparse.get d m a ≠ d) (hne : a ≠ k) :
    Sparse.get d (Sparse.set d m k v) a = Sparse.get d m a := by
  unfold Sparse.set
  split
  · exact Sparse.get_del_found h hne
  · exact Sparse.get_put_found v h hne

end
end

/-! ## Contexts -/

section
variable {s t : State} {p : BitVec 2} {c : BitVec 6}

theorem State.part_modPart_same (h : p.toNat < s.parts.length) (f : Part → Part) : (s.modPart p f).part p = f (s.part p) := by
  rw [State.part_modPart, if_pos ⟨rfl, h⟩]

@[simp] theorem State.modPart_length (f : Part → Part) : (s.modPart p f).parts.length = s.parts.length := modifyAt_length _ _ _

@[simp] theorem State.modCtx_length (f : Ctx → Ctx) : (s.modCtx p c f).parts.length = s.parts.length := modifyAt_length _ _ _

/-- An entry whose state is not free is listed. -/
theorem Ctx.ne_default {x : Ctx} (h : x.state ≠ .free) : x ≠ {} := fun e => h (by rw [e])

theorem Ctx.killed_ne_default {x : Ctx} (h : x.state = .killed) : x ≠ {} := Ctx.ne_default (by rw [h]; decide)

theorem State.ctx_modCtx_same (h : p.toNat < s.parts.length) {f : Ctx → Ctx} (hf : (f (s.ctx p c)).state ≠ .free) :
    (s.modCtx p c f).ctx p c = f (s.ctx p c) := by
  unfold State.ctx State.modCtx
  rw [State.part_modPart_same h]
  exact Sparse.get_set_same _ _ (Ctx.ne_default hf)

theorem State.ctx_of_part {q : BitVec 2} (h : t.part p = s.part q) (c : BitVec 6) : t.ctx p c = s.ctx q c := by
  unfold State.ctx
  rw [h]

theorem State.ctx_modPart {q : BitVec 2} {f : Part → Part} (hf : ∀ x, (f x).ctxs = x.ctxs) (c : BitVec 6) :
    (s.modPart p f).ctx q c = s.ctx q c := by
  unfold State.ctx Part.ctx
  rw [State.part_modPart]
  split
  · rw [hf]
  · rfl

end

/-! ## Killed contexts stay killed -/

/-- Every context that is killed in `s` is killed in `t`. -/
def KeepsKilled (s t : State) : Prop := ∀ p c, (s.ctx p c).state = .killed → (t.ctx p c).state = .killed

section
variable {s t u : State}

theorem KeepsKilled.refl (s : State) : KeepsKilled s s := fun _ _ h => h

theorem KeepsKilled.trans (h : KeepsKilled s t) (k : KeepsKilled t u) : KeepsKilled s u := fun p c hc => k p c (h p c hc)

theorem KeepsKilled.of_parts (h : t.parts = s.parts) : KeepsKilled s t := fun p c hc => by
  rwa [State.ctx_of_part (show t.part p = s.part p by unfold State.part; rw [h])]

theorem KeepsKilled.foldl {α : Type} {f : State → α → State} (hf : ∀ t x, KeepsKilled t (f t x)) (xs : List α) (s : State) :
    KeepsKilled s (xs.foldl f s) := by
  induction xs generalizing s with
  | nil => exact .refl s
  | cons x xs ih => exact (hf s x).trans (ih _)

theorem State.modPart_keepsKilled (s : State) (p : BitVec 2) {f : Part → Part} (hf : ∀ x, (f x).ctxs = x.ctxs) :
    KeepsKilled s (s.modPart p f) := fun q c hc => by rwa [State.ctx_modPart hf]

theorem State.modCtx_keepsKilled (s : State) (p : BitVec 2) (c : BitVec 6) {f : Ctx → Ctx}
    (hf : ∀ x : Ctx, x.state = .killed → (f x).state = .killed) : KeepsKilled s (s.modCtx p c f) := by
  intro q k hk
  unfold State.ctx State.modCtx
  rw [State.part_modPart]
  split
  · next h =>
    obtain ⟨rfl, -⟩ := h
    unfold Part.ctx Part.setCtx
    by_cases e : k = c
    · subst e
      have hv := hf _ hk
      exact (congrArg Ctx.state (Sparse.get_set_same _ _ (Ctx.killed_ne_default hv))).trans hv
    · have hk' : k.toNat ≠ c.toNat := fun h => e (BitVec.eq_of_toNat_eq h)
      exact (congrArg Ctx.state (Sparse.get_set_found _ (Ctx.killed_ne_default hk) hk')).trans hk
  · exact hk

/-! What a discarded context's operations and requests do (R113, R168, R344): nothing of it writes the state of a context. -/

theorem State.setBar_keepsKilled (s : State) (b : BarAt) (v : Barrier) : KeepsKilled s (s.setBar b v) := by
  cases b with
  | core wg i => exact .of_parts rfl
  | net p c i sc => exact State.modCtx_keepsKilled s p c fun _ h => h
  | pod p dev i => exact .refl s

theorem State.acquire_parts (s : State) (core scope : Nat) : (s.acquire core scope).parts = s.parts := by
  unfold State.acquire
  split <;> rfl

theorem State.observe_keepsKilled (s : State) (core : Nat) (b : BarAt) (ph : Nat) : KeepsKilled s (s.observe core b ph) := by
  unfold State.observe
  extract_lets x s1
  have h : KeepsKilled s s1 := State.setBar_keepsKilled s b _
  split
  · exact h.trans (.of_parts rfl)
  · exact h.trans (.of_parts (State.acquire_parts _ _ _))

theorem State.resume_parts (s : State) (id : SplitId) (f : Split → Split) : (s.resume id f).parts = s.parts := by
  unfold State.resume
  dsimp only
  split
  · split
    · split <;> rfl
    · rfl
  · rfl

theorem State.releaseParked_keepsKilled (s : State) (b : BarAt) (seen : Bool) : KeepsKilled s (s.releaseParked b seen) := by
  refine .foldl (fun t x => ?_) _ s
  dsimp only
  split
  · exact (State.observe_keepsKilled t _ b _).trans (.of_parts (State.resume_parts _ _ _))
  · exact .of_parts (State.resume_parts _ _ _)

theorem State.testBar_keepsKilled (s : State) (b : BarAt) : KeepsKilled s (s.testBar b) := by
  unfold State.testBar
  dsimp only
  split
  · exact (State.setBar_keepsKilled s b _).trans (State.releaseParked_keepsKilled _ b true)
  · exact .refl s

theorem State.deliver_keepsKilled (s : State) (b : BarAt) (n : Nat) (status : BitVec 32) (row : Bool) :
    KeepsKilled s (s.deliver b n status row) :=
  (State.setBar_keepsKilled s b _).trans (State.testBar_keepsKilled _ b)

theorem State.peerRequest_parts (s : State) (part : BitVec 2) (dev : BitVec 8) (addr : Nat) (op : PeerOp) (r : ExtReq) :
    ((s.peerRequest part dev addr op r).getD s).parts = s.parts := by
  unfold State.peerRequest
  split <;> rfl

theorem State.completeJob_keepsKilled (s : State) (j : Job) : KeepsKilled s (s.completeJob j) := by
  have hdrop : KeepsKilled s (s.dropJob j.id) := .of_parts rfl
  refine hdrop.trans ?_
  unfold State.completeJob
  dsimp only
  split
  · exact .refl _
  · split
    · exact .refl _
    · exact .of_parts (State.peerRequest_parts _ _ _ _ _ _)
    · exact State.deliver_keepsKilled _ _ _ _ _

/-! ## Table requests write memory alone (R168) -/

theorem TRes.andThen_parts {α β : Type} {x : TRes α} {f : State → α → TRes β} (hx : x.1.parts = s.parts)
    (hf : ∀ t a, (f t a).1.parts = t.parts) : (x.andThen f).1.parts = s.parts := by
  unfold TRes.andThen
  split
  · exact (hf _ _).trans hx
  · exact hx

theorem State.hwKey_parts (s : State) (ag : Agent) (soft : Bool) (p : Nat) : (s.hwKey ag soft p).1.parts = s.parts := by
  have h := (State.translate_mapped s ag (p % 2 ^ 57)).parts
  unfold State.hwKey
  split
  · rfl
  · next e => rw [e] at h; exact h
  · next e =>
    rw [e] at h
    dsimp only
    split
    · exact h
    · split <;> exact h

theorem State.homeWrite_parts (s : State) (key : Nat) (data : List Byte) : (s.homeWrite key data).parts = s.parts :=
  List.foldlRecOn (motive := fun t : State => t.parts = s.parts) _ _ rfl fun _ ht _ _ => ht

theorem State.idxWrite_parts (s : State) (ag : Agent) (p : Nat) (data : List Byte) : (s.idxWrite ag p data).1.parts = s.parts :=
  TRes.andThen_parts (State.hwKey_parts s ag false p) fun t key => State.homeWrite_parts t key data

theorem State.readDesc_parts (s : State) (ag : Agent) (ptr : Nat) : (s.readDesc ag ptr).1.parts = s.parts := by
  refine TRes.andThen_parts (TRes.andThen_parts (State.hwKey_parts s ag true ptr) fun t key => ?_) fun _ _ => rfl
  split <;> rfl

theorem State.restoreNodes_parts (ag : Agent) (d : TDesc) (xs : List (Nat × Nat)) (s : State) :
    (State.restoreNodes ag d xs s).parts = s.parts := by
  induction xs generalizing s with
  | nil => rfl
  | cons x xs ih => exact (ih _).trans (State.idxWrite_parts _ _ _ _)

theorem State.undoWork_parts (s : State) (ag : Agent) (r : TableReq) : (s.undoWork ag r).parts = s.parts := by
  unfold State.undoWork
  split
  · rfl
  next w _ =>
  have hd := State.readDesc_parts s ag (tbPtr r.binding)
  split
  · next d e =>
    rw [e] at hd
    have hr := State.restoreNodes_parts ag d w.nodes
    dsimp only
    split
    · exact (State.idxWrite_parts _ _ _ _).trans ((hr _).trans hd)
    · exact (hr _).trans hd
  · next e => rw [e] at hd; exact hd

theorem State.dropReqs_parts (s : State) (f : TableReq → Bool) : (s.dropReqs f).parts = s.parts :=
  List.foldlRecOn (motive := fun t : State => t.parts = s.parts) _ _ rfl fun t ht r _ => (State.undoWork_parts t _ r).trans ht

/-! ## A context is discarded and killed (R61, R113) -/

theorem State.cancelJobs_keepsKilled (s : State) (f : Job → Bool) : KeepsKilled s (s.cancelJobs f) :=
  .foldl (fun t _ => State.completeJob_keepsKilled t _) _ s

theorem State.dropStale_parts (s : State) : s.dropStale.parts = s.parts := by
  unfold State.dropStale
  split <;> rfl

theorem State.dropLaunch_keepsKilled (s : State) (id : Nat) : KeepsKilled s (s.dropLaunch id) := .of_parts rfl

theorem State.discardCtx_keepsKilled (s : State) (p : BitVec 2) (c : BitVec 6) : KeepsKilled s (s.discardCtx p c) := by
  unfold State.discardCtx
  extract_lets s1 mine warp ls s2 s3 s4
  have h1 : KeepsKilled s s1 := (State.cancelJobs_keepsKilled s _).trans (.of_parts (State.dropReqs_parts _ _))
  clear_value s1
  have h2 : KeepsKilled s s2 := h1.trans (.of_parts rfl)
  clear_value s2
  have h3 : KeepsKilled s s3 :=
    h2.trans (.foldl (fun t (l : Launch) => State.dropLaunch_keepsKilled t l.id) ls s2)
  clear_value s3
  have h4 : KeepsKilled s s4 := h3.trans (State.modCtx_keepsKilled s3 p c (by exact fun _ h => h))
  clear_value s4
  have h5 := h4.trans (State.modPart_keepsKilled s4 p (f := fun x => { x with save := Sparse.set [] x.save c.toNat [] }) fun _ => rfl)
  exact h5.trans (.of_parts (State.dropStale_parts _))

theorem State.modQueue_keepsKilled (s : State) (p : BitVec 2) (q : BitVec 6) (f : Queue → Queue) : KeepsKilled s (s.modQueue p q f) :=
  State.modPart_keepsKilled s p (f := fun x => { x with queues := Sparse.set {} x.queues q.toNat (f (x.queue q)) }) fun _ => rfl

theorem State.stopFetching_keepsKilled (s : State) (p : BitVec 2) (c : BitVec 6) : KeepsKilled s (s.stopFetching p c) := by
  refine .foldl (fun t e => ?_) _ s
  split
  · exact (State.modQueue_keepsKilled t p (BitVec.ofNat 6 e.1) fun x => { x with fetch := .idle }).trans (.of_parts rfl)
  · exact .refl t

theorem State.killCtx_killed {s : State} {p : BitVec 2} {c : BitVec 6} (h : (s.ctx p c).state ≠ .killed) (hp : p.toNat < s.parts.length) :
    ((s.killCtx p c).ctx p c).state = .killed := by
  unfold State.killCtx
  rw [if_neg h]
  extract_lets s1 s2 s3
  have h1 : (s1.ctx p c).state = .killed := congrArg Ctx.state (State.ctx_modCtx_same hp (by simp))
  have h3 : (s3.ctx p c).state = .killed := State.stopFetching_keepsKilled s1 p c p c h1
  split
  · refine State.modPart_keepsKilled s3 p ?_ p c h3
    exact fun _ => rfl
  · exact State.discardCtx_keepsKilled s3 p c p c h3

end
end Sys2Proof.Machine
end

section
/-! SUPPORT. Switches of contexts (R108 to R111, R138), and the life of a context (R61, R68, R217). -/
namespace Sys2Proof.Machine

section
variable {s : State} {p : BitVec 2} {c : BitVec 6}

/-! ## Halting (R109, R110, R113) -/

theorem exec_contextSliceExpiry_due {n : BitVec 6} (h : s.sliceDue s.args.p = some n) :
    Goes .contextSliceExpiry s (s.modPart s.args.p fun y => { y with switch := .halting (some n) }) := by
  simp only [Goes, exec_contextSliceExpiry, execContextSliceExpiry, h]

theorem exec_contextPreempt_due {n : BitVec 6} (h : s.preemptDue s.args.p = some n) :
    Goes .contextPreempt s (s.modPart s.args.p fun y =>
      { y with switch := if y.resident.isNone then .exchanging (some n) else .halting (some n) }) := by
  simp only [Goes, exec_contextPreempt, execContextPreempt, h]

/-- What the end of a halt comes to. -/
theorem exec_haltComplete_halted {n : Option (BitVec 6)} (hs : (s.part s.args.p).switch = .halting n)
    (hr : (s.part s.args.p).resident = some c) (hd : s.haltDone s.args.p c = true) :
    Goes .haltComplete s (
      if (s.ctx s.args.p c).state = .killed then (s.discardCtx s.args.p c).modPart s.args.p fun y => { y with resident := none, switch := .none }
      else if (s.part s.args.p).staged = false ∨ (s.part s.args.p).writeback.isSome then s
      else (s.settleHalt s.args.p c).modPart s.args.p fun y => { y with switch := .exchanging n }) := by
  simp only [Goes, exec_haltComplete, execHaltComplete, hs, hr, hd, Bool.true_eq_false, if_false]
  split
  · rfl
  · split <;> rfl

/-! ## The exchange (R36, R107, R110, R138) -/

theorem getLsbD_foldl_or {α : Type} {n : Nat} (f : α → BitVec n) (xs : List α) (m : BitVec n) (d : Nat) :
    (xs.foldl (fun m x => m ||| f x) m).getLsbD d = (m.getLsbD d || xs.any fun x => (f x).getLsbD d) := by
  induction xs generalizing m with
  | nil => simp
  | cons x xs ih => rw [List.foldl_cons, ih, BitVec.getLsbD_or, List.any_cons, Bool.or_assoc]

/-- A die without the dies of a context's workgroups is on none that one of them is on. -/
theorem State.diesWith_cleared (s : State) (m : BitVec 4) {g : Workgroup} (hg : g ∈ s.wgs) (hp : g.part = p) (hc : g.ctx = c) :
    (m &&& ~~~(s.diesWith p c)).getLsbD (dieOf g.core) = false := by
  rw [BitVec.getLsbD_and, BitVec.getLsbD_not]
  by_cases hd : dieOf g.core < 4
  · have hmem : g ∈ s.wgs.filter fun g => g.part == p && g.ctx == c := by simp [hg, hp, hc]
    have hbit : (1#4 <<< dieOf g.core).getLsbD (dieOf g.core) = true := by simp [hd]
    have h : (s.diesWith p c).getLsbD (dieOf g.core) = true := by
      rw [State.diesWith, getLsbD_foldl_or, Bool.or_eq_true, List.any_eq_true]
      exact .inr ⟨g, hmem, hbit⟩
    simp [h]
  · simp [hd]

/-- The image of context `c` is on the cores, and what is parked in it has not gone on yet: the steps of an exchange that bring it in. -/
def State.takeIn (s : State) (p : BitVec 2) (c : BitVec 6) : State :=
  let t := ((s.resumeCtx p c).resetMap p c).modPart p fun y =>
    { y with resident := some c, lastIn := some c, residentAt := s.cycle, switch := .none }
  let u := t.modCtx p c fun k => { k with state := .resident, everResident := true }
  { u with ps2 := u.ps2 &&& ~~~(u.diesWith p c) }

theorem State.resetMap_length (s : State) (p : BitVec 2) (c : BitVec 6) : (s.resetMap p c).parts.length = s.parts.length := by
  unfold State.resetMap
  split
  · split
    · rfl
    · exact State.modCtx_length _
  · rfl

theorem State.takeIn_resident (hp : p.toNat < s.parts.length) : ((s.takeIn p c).part p).resident = some c ∧
    ((s.takeIn p c).part p).switch = .none ∧ ((s.takeIn p c).part p).residentAt = s.cycle ∧ ((s.takeIn p c).ctx p c).state = .resident := by
  unfold State.takeIn
  extract_lets t u
  have hlen : p.toNat < ((s.resumeCtx p c).resetMap p c).parts.length := (State.resetMap_length _ p c).symm ▸ hp
  have htlen : p.toNat < t.parts.length := (State.modPart_length _).symm ▸ hlen
  have hu : u.part p = (t.part p).setCtx c { (t.part p).ctx c with state := .resident, everResident := true } :=
    State.part_modPart_same htlen _
  have ht : t.part p = { ((s.resumeCtx p c).resetMap p c).part p with
      resident := some c, lastIn := some c, residentAt := s.cycle, switch := .none } := State.part_modPart_same hlen _
  have hc : (u.ctx p c).state = .resident := congrArg Ctx.state (State.ctx_modCtx_same htlen (by simp))
  clear_value u t
  refine ⟨?_, ?_, ?_, hc⟩
  · exact (congrArg Part.resident hu).trans (congrArg Part.resident ht)
  · exact (congrArg Part.switch hu).trans (congrArg Part.switch ht)
  · exact (congrArg Part.residentAt hu).trans (congrArg Part.residentAt ht)

theorem State.takeIn_wakesDies (s : State) (p : BitVec 2) (c : BitVec 6) :
    ∀ g ∈ (s.takeIn p c).wgs, g.part = p → g.ctx = c → (s.takeIn p c).ps2.getLsbD (dieOf g.core) = false :=
  fun _ hg hp hc => State.diesWith_cleared _ _ hg hp hc

/-- An exchange with nobody going out brings a free context in that is valid and has no fault to enter. -/
theorem exec_exchangeComplete_in (hs : (s.part s.args.p).switch = .exchanging (some c)) (hr : (s.part s.args.p).resident = none)
    (hv : (s.ctx s.args.p c).valid = true) (hf : (s.ctx s.args.p c).state = .free) (hn : (s.ctx s.args.p c).raised = none)
    (hk : s.pkgState = 0) :
    let t := (s.modPart s.args.p fun y => { y with staged := false }).takeIn s.args.p c
    Goes .exchangeComplete s ((t.warps.filter fun w => t.wgOf s.args.p c w.wg).foldl (fun u w => u.unpark w.id) t) := by
  intro t
  have hctx : (s.modPart s.args.p fun y => { y with staged := false }).ctx s.args.p c = s.ctx s.args.p c := by
    rw [State.ctx_modPart ?_ c]
    exact fun _ => rfl
  have hin : (some c).filter (fun c => ((s.modPart s.args.p fun y => { y with staged := false }).ctx s.args.p c).valid &&
      (((s.modPart s.args.p fun y => { y with staged := false }).ctx s.args.p c).state == .free ||
        ((s.modPart s.args.p fun y => { y with staged := false }).ctx s.args.p c).state == .swapped) &&
      ((s.modPart s.args.p fun y => { y with staged := false }).ctx s.args.p c).raised.isNone) = some c := by
    simp [hctx, hv, hf, hn]
  simp only [Goes, exec_exchangeComplete, execExchangeComplete, hs, hk, ne_eq, not_true_eq_false, if_false, hr, hin]
  rfl

theorem exec_exchangeComplete_asleep {n : Option (BitVec 6)} (hs : (s.part s.args.p).switch = .exchanging n) (hk : s.pkgState ≠ 0) :
    Goes .exchangeComplete s s := by
  simp only [Goes, exec_exchangeComplete, execExchangeComplete, hs, if_pos hk]

/-- The resident context goes out, and is to be written back. -/
def State.sendOut (s : State) (p : BitVec 2) (c : BitVec 6) : State :=
  ((s.modCtx p c fun k => { k with state := .swapped, lastResident := s.cycle }).modPart p fun y =>
    { y with writeback := some c, staged := false }).modPart p fun y => { y with resident := none, switch := .none }

theorem exec_exchangeComplete_out (hs : (s.part s.args.p).switch = .exchanging none) (hr : (s.part s.args.p).resident = some c)
    (hc : (s.ctx s.args.p c).state = .resident) (hk : s.pkgState = 0) : Goes .exchangeComplete s (s.sendOut s.args.p c) := by
  have hkill : ¬ (s.ctx s.args.p c).state = .killed := by rw [hc]; decide
  simp only [Goes, exec_exchangeComplete, execExchangeComplete, hs, hk, ne_eq, not_true_eq_false, if_false, hr, if_neg hkill,
    Option.filter_none]
  rfl

theorem State.sendOut_swapped (hp : p.toNat < s.parts.length) : ((s.sendOut p c).part p).resident = none ∧
    ((s.sendOut p c).part p).switch = .none ∧ ((s.sendOut p c).part p).writeback = some c ∧ ((s.sendOut p c).ctx p c).state = .swapped := by
  unfold State.sendOut
  rw [State.part_modPart_same (by simpa using hp), State.part_modPart_same (by simpa using hp)]
  refine ⟨rfl, rfl, rfl, ?_⟩
  have hctx : ((s.modCtx p c fun k => { k with state := .swapped, lastResident := s.cycle }).ctx p c).state = .swapped :=
    congrArg Ctx.state (State.ctx_modCtx_same hp (by simp))
  rwa [State.ctx_modPart ?_ c, State.ctx_modPart ?_ c]
  all_goals exact fun _ => rfl

/-- A context entry reads back as it was written, in a table in its one form, and no other changes. -/
theorem State.ctx_modCtx (hp : p.toNat < s.parts.length) (hw : Sparse.wf {} (s.part p).ctxs = true) (f : Ctx → Ctx) (k : BitVec 6) :
    (s.modCtx p c f).ctx p k = if k = c then f (s.ctx p c) else s.ctx p k := by
  unfold State.ctx State.modCtx
  rw [State.part_modPart_same hp]
  refine (Sparse.get_set hw _ _ _).trans ?_
  by_cases h : k = c
  · rw [if_pos h, if_pos (by rw [h])]
  · rw [if_neg h, if_neg fun e => h (BitVec.eq_of_toNat_eq e)]
    rfl

theorem State.resetMap_before {o : BitVec 6} (hl : (s.part p).lastIn = some o) (hne : o ≠ c) :
    s.resetMap p c = s.modCtx p o fun x => { x with slotMap := 0x84 } := by
  simp only [State.resetMap, hl, if_neg hne]

/-! ## Write-back and staging (R110) -/

theorem exec_writebackComplete_saves (hw : (s.part s.args.p).writeback = some c) (hc : (s.ctx s.args.p c).state ≠ .killed) :
    Goes .writebackComplete s (s.modPart s.args.p fun y => { y with
      writeback := none, save := Sparse.set [] y.save c.toNat (Cells.setBytes [] 0 (s.image s.args.p c)) }) := by
  have h : ((s.ctx s.args.p c).state == CtxState.killed) = false := beq_eq_false_iff_ne.mpr hc
  simp only [Goes, exec_writebackComplete, execWritebackComplete, hw, h, Bool.false_eq_true, if_false]

theorem switchRows : SwitchRows := by
  intro s
  refine ⟨fun n => exec_contextSliceExpiry_due, fun n => exec_contextPreempt_due, fun n c hs hr hd hc hst hw => ?_,
    fun n c hs hr hd hc => ?_, fun c hs hr hv hf hn hp hk => ?_, fun o c hp hw hl hne => ?_, fun n => exec_exchangeComplete_asleep,
    fun c hs hr hc hp hk => ?_, fun c => exec_writebackComplete_saves, fun _ => exec_stagingComplete s⟩
  · have h := exec_haltComplete_halted hs hr hd
    rwa [if_neg hc, if_neg (by simp [hst, hw])] at h
  · have h := exec_haltComplete_halted hs hr hd
    rwa [if_pos hc] at h
  · obtain ⟨hres, hsw, hat, hst⟩ := State.takeIn_resident (s := s.modPart s.args.p fun y => { y with staged := false }) (c := c)
      (State.modPart_length _ ▸ hp)
    exact ⟨_, hres, hsw, hat, hst, State.takeIn_wakesDies _ _ c, exec_exchangeComplete_in hs hr hv hf hn hk⟩
  · rw [State.resetMap_before hl hne]
    refine ⟨?_, fun k hk => ?_⟩
    · rw [State.ctx_modCtx hp hw, if_pos rfl]
    · rw [State.ctx_modCtx hp hw, if_neg hk]
  · obtain ⟨hres, hsw, hwb, hst⟩ := State.sendOut_swapped (c := c) hp
    exact ⟨_, exec_exchangeComplete_out hs hr hc hk, hres, hsw, hwb, hst⟩

/-! ## The life of a context (R61, R68, R217) -/

theorem exec_contextFree_killed (hk : (s.ctx s.args.p s.args.c).state = .killed) (hv : (s.ctx s.args.p s.args.c).valid = false)
    (hz : (s.ctx s.args.p s.args.c).zeroed = true) :
    Goes .contextFree s ((s.disown fun p c => p == s.args.p && c == s.args.c).modCtx s.args.p s.args.c fun x =>
      { x with state := .free, zeroed := false, serials := 0, everResident := false }) := by
  simp only [Goes, exec_contextFree, execContextFree, if_pos (And.intro hk (And.intro hv hz))]

theorem State.disown_ctx (s : State) (p : BitVec 2) (c : BitVec 6) : (s.disown fun q k => q == p && k == c) =
    { s with owners := s.owners.map fun o => if o.part = p ∧ o.ctx = c then { o with gone := true } else o } := by
  unfold State.disown
  congr 1
  refine List.map_congr_left fun o _ => ?_
  simp only [Bool.and_eq_true, beq_iff_eq]

theorem State.awaitsHost_of (hp : (s.ctx p c).summary.pending = true) (hf : (s.ctx p c).state = .faulted) : s.awaitsHost p c = true := by
  simp [State.awaitsHost, hp, hf]

theorem exec_contextResume_faulted (hp : (s.ctx s.args.p s.args.c).summary.pending = true) (hf : (s.ctx s.args.p s.args.c).state = .faulted) :
    Goes .contextResume s (s.resumeFaulted s.args.p s.args.c) := by
  simp only [Goes, exec_contextResume, execContextResume, State.awaitsHost_of hp hf, if_true]

theorem exec_workgroupEnd_named {g : Workgroup} (hp : (s.ctx s.args.p s.args.c).summary.pending = true)
    (hf : (s.ctx s.args.p s.args.c).state = .faulted) (hn : (s.ctx s.args.p s.args.c).summary.noWorkgroup = false)
    (hg : s.wg? (s.ctx s.args.p s.args.c).summary.wg = some g) :
    Goes .workgroupEnd s ((s.endWg g).resumeFaulted s.args.p s.args.c) := by
  simp only [Goes, exec_workgroupEnd, execWorkgroupEnd, State.awaitsHost_of hp hf, Bool.true_eq_false, if_false, hn, Bool.false_eq_true, hg]

theorem lifeRows : LifeRows := by
  intro s p c k
  refine ⟨exec_expertDisable s, fun hk => ?_, fun hk hp => ⟨_, exec_contextKill s, State.killCtx_killed hk hp⟩, fun hk hv hz => ?_,
    exec_contextResume_faulted, fun g => exec_workgroupEnd_named⟩
  · exact (exec_contextKill s).trans (congrArg Host.Outcome.next (if_pos hk))
  · have h := exec_contextFree_killed hk hv hz
    rwa [State.disown_ctx] at h

end
end Sys2Proof.Machine

/-- Settles O40 from the rows of a switch and those of a context's life. -/
theorem contextEvents : Obligations.ContextEvents := ⟨Sys2Proof.Machine.switchRows, Sys2Proof.Machine.lifeRows⟩
end

section
/-! SUPPORT. The state after boot stage 5, part by part (R39, R44, R58, R59, R69, R108, R219). -/
namespace Sys2Proof.Machine

theorem State.reset_part (p : BitVec 2) : State.reset.part p = {} := by
  revert p
  decide +kernel

theorem State.reset_ctx (p : BitVec 2) (c : BitVec 6) : State.reset.ctx p c = {} := by
  rw [State.ctx, State.reset_part]
  rfl

theorem State.reset_candidates : State.reset.candidates = [] := by decide +kernel

end Sys2Proof.Machine

open Sys2Proof.Machine

/-- Settles O46: every partition and every context stands at its defaults, and nothing is due. -/
theorem resetState : Obligations.ResetState := by
  refine ⟨State.reset_formed, fun _ => ⟨rfl, rfl⟩, rfl, rfl, rfl, rfl, rfl, rfl, rfl, rfl, rfl, rfl, State.reset_candidates, rfl, rfl, rfl,
    fun p => ?_, fun p c => ?_⟩
  · rw [State.reset_part]
    exact ⟨rfl, rfl, rfl, rfl, rfl, rfl, rfl, rfl, rfl⟩
  · rw [State.reset_ctx]
    exact ⟨rfl, rfl, rfl, rfl, rfl⟩
end

section
/-! SUPPORT. Creating and deleting a partition (R58, R426). -/
namespace Sys2Proof.Machine

section
variable {s : State} {p : BitVec 2} {v : BitVec 4}

theorem exec_partitionCreate_asked (hk : s.pkgState = 0) (hs : (s.part s.args.p).state = 0) (hv : BitVec.ofNat 4 s.args.val.toNat ≠ 0) :
    Goes .partitionCreate s (s.writeDies s.args.p (BitVec.ofNat 4 s.args.val.toNat)) := by
  simp only [Goes, exec_partitionCreate, execPartitionCreate, State.wakeFor_awake hk, if_pos (And.intro hs hv)]

theorem exec_partitionDelete_asked (hk : s.pkgState = 0) (hs : (s.part s.args.p).state = 2) :
    Goes .partitionDelete s (s.writeDies s.args.p 0) := by
  simp only [Goes, exec_partitionDelete, execPartitionDelete, State.wakeFor_awake hk, if_pos hs]

/-- A deleted partition is refused dies that another one has, and dies that are not enabled. -/
theorem State.diesRefused_deleted (hs : (s.part p).state = 0) :
    s.diesRefused p v = true ↔ v &&& s.diesTaken p ≠ 0 ∨ v &&& ~~~s.dieOn ≠ 0 := by
  simp [State.diesRefused, hs]

theorem State.diesRefused_live (hs : (s.part p).state = 2) : s.diesRefused p 0 = false := by
  simp [State.diesRefused, hs]

theorem State.writeDies_refused (hr : s.diesRefused p v = true) : s.writeDies p v = s.raiseEvt 7 := if_pos hr

theorem State.writeDies_create (hr : s.diesRefused p v = false) (hs : (s.part p).state = 0) (hv : v ≠ 0) :
    s.writeDies p v =
      { s.modPart p fun x => { x.cleared with state := 2, dies := v, secret := s.draws } with draws := s.draws + 1 } := by
  simp only [State.writeDies, hr, Bool.false_eq_true, if_false, hs, if_true, if_neg hv]

theorem State.writeDies_delete (hs : (s.part p).state = 2) (hd : (s.part p).dies ≠ 0) :
    s.writeDies p 0 = (((s.killAll p none).stopQueues p).closeSessions p).modPart p fun x =>
      { x.cleared with state := 3, dies := 0, save := x.save } := by
  have h0 : (s.part p).state ≠ 0 := by rw [hs]; decide
  simp only [State.writeDies, State.diesRefused_live hs, Bool.false_eq_true, if_false, if_neg h0, if_neg (Ne.symm hd)]

theorem exec_partitionDeleteComplete_deleting (hs : (s.part s.args.p).state = 3) :
    Goes .partitionDeleteComplete s
      ((s.disown fun p _ => p == s.args.p).modPart s.args.p fun x => { x with state := 0, save := [] }) := by
  simp only [Goes, exec_partitionDeleteComplete, execPartitionDeleteComplete, if_pos hs]

theorem exec_partitionDeleteComplete_else (hs : (s.part s.args.p).state ≠ 3) : Goes .partitionDeleteComplete s s := by
  simp only [Goes, exec_partitionDeleteComplete, execPartitionDeleteComplete, if_neg hs]

end
end Sys2Proof.Machine

open Sys2Proof.Machine

/-- Settles O42, event by event. -/
theorem partitionEvents : Obligations.PartitionEvents := by
  intro s
  refine ⟨fun hk hs hv ht hon => ?_, fun hk hs hv hbad => ?_, fun hk hs hd => ?_, ?_⟩
  · have hr : s.diesRefused s.args.p (BitVec.ofNat 4 s.args.val.toNat) = false :=
      Bool.eq_false_iff.mpr fun h => ((State.diesRefused_deleted hs).mp h).elim (· ht) (· hon)
    exact State.writeDies_create hr hs hv ▸ exec_partitionCreate_asked hk hs hv
  · exact State.writeDies_refused ((State.diesRefused_deleted hs).mpr hbad) ▸ exec_partitionCreate_asked hk hs hv
  · exact State.writeDies_delete hs hd ▸ exec_partitionDelete_asked hk hs
  · by_cases hs : (s.part s.args.p).state = 3
    · refine ⟨_, exec_partitionDeleteComplete_deleting hs, fun _ hp => ?_, fun h => absurd hs h⟩
      rw [State.part_modPart_same (s := s.disown _) hp]
      exact ⟨rfl, rfl⟩
    · exact ⟨s, exec_partitionDeleteComplete_else hs, fun h => absurd h hs, fun _ => rfl⟩
end

section
/-! SUPPORT. Command queues that are enabled, resumed, disabled and notified (R49 to R51, R55). -/
namespace Sys2Proof.Machine

section
variable {s : State} {p : BitVec 2} {q : BitVec 6}

/-! ## The queue table -/

theorem Queue.ne_default {x : Queue} (h : x.en = true) : x ≠ {} := fun e => by simp [e] at h

/-- A queue that is enabled belongs to a partition that there is. -/
theorem State.part_of_enabled (h : ((s.part p).queue q).en = true) : p.toNat < s.parts.length := by
  by_contra hp
  rw [State.part_missing hp] at h
  cases h

/-- A queue that an update leaves enabled reads back as updated. -/
theorem State.queue_modQueue_enabled (hp : p.toNat < s.parts.length) {f : Queue → Queue} (hf : (f ((s.part p).queue q)).en = true) :
    ((s.modQueue p q f).part p).queue q = f ((s.part p).queue q) := by
  rw [State.modQueue, State.part_modPart_same hp]
  exact Sparse.get_set_same _ _ (Queue.ne_default hf)

theorem State.queue_modQueue (hp : p.toNat < s.parts.length) (hw : Sparse.wf {} (s.part p).queues = true) (f : Queue → Queue) :
    ((s.modQueue p q f).part p).queue q = f ((s.part p).queue q) := by
  rw [State.modQueue, State.part_modPart_same hp]
  exact (Sparse.get_set hw _ _ _).trans (if_pos rfl)

theorem State.modQueue_missing (hp : ¬ p.toNat < s.parts.length) (f : Queue → Queue) : (s.modQueue p q f).part p = s.part p := by
  rw [State.modQueue, State.part_modPart, if_neg fun h => hp h.2]

theorem State.queues_modQueue_wf (f : Queue → Queue) (hw : Sparse.wf {} (s.part p).queues = true) :
    Sparse.wf {} ((s.modQueue p q f).part p).queues = true := by
  by_cases hp : p.toNat < s.parts.length
  · rw [State.modQueue, State.part_modPart_same hp]
    exact Sparse.wf_set hw _ _
  · rwa [State.modQueue_missing hp]

theorem State.modQueue_congr {f g : Queue → Queue} (h : f ((s.part p).queue q) = g ((s.part p).queue q)) :
    s.modQueue p q f = s.modQueue p q g :=
  State.modPart_congr (by rw [h])

/-! ## Overruns (R51) -/

theorem State.checkOverrun_disabled (h : ((s.part p).queue q).en = false) : s.checkOverrun p q = s :=
  if_neg fun hx => by simp [h] at hx

theorem State.checkOverrun_fits (h : ((s.part p).queue q).left ≤ 2 ^ ((s.part p).queue q).log) : s.checkOverrun p q = s :=
  if_neg fun hx => Nat.not_lt.mpr h hx.2.2

theorem State.checkOverrun_over (he : ((s.part p).queue q).en = true) (hh : ((s.part p).queue q).halted = false)
    (h : 2 ^ ((s.part p).queue q).log < ((s.part p).queue q).left) :
    s.checkOverrun p q = s.stopQueue p q 1 ((s.part p).queue q).seq :=
  if_pos ⟨he, hh, h⟩

/-! ## HQ_CFG (R49, R55) -/

/-- A write that leaves an idle queue idle drops none of its requests. -/
theorem State.writeQueueCfg_idle {v : Nat} (h : ((s.part p).queue q).fetch = (((s.modQueue p q (·.writeCfg v)).part p).queue q).fetch) :
    s.writeQueueCfg p q v = (s.modQueue p q (·.writeCfg v)).checkOverrun p q := by
  simp only [State.writeQueueCfg, if_pos h]

/-- What EN from 0 to 1 makes of a queue. -/
def Queue.enabled (x : Queue) (v : Nat) : Queue :=
  { x with irqEvery := BitVec.ofNat 8 (v / 2 ^ 16), ctx := BitVec.ofNat 6 (v / 2 ^ 10), priMax := BitVec.ofNat 3 (v / 2 ^ 7)
           logSize := BitVec.ofNat 5 (v / 2), en := true, head := 0, tail := 0, halted := false, irqCount := 0, fetch := .idle }

theorem Queue.left_enabled (x : Queue) (v : Nat) : (x.enabled v).left = 0 := by simp [Queue.left, Queue.enabled]

theorem Queue.writeCfg_enable {x : Queue} {v : Nat} (he : x.en = false) (hv : v.testBit 0 = true) : x.writeCfg v = x.enabled v := by
  simp only [Queue.writeCfg, he, hv, Queue.configure, ofNat_bits, Queue.enabled, Nat.pow_one]

theorem Queue.writeCfg_resume {x : Queue} (he : x.en = true) (hh : x.halted = true) :
    x.writeCfg 1 = { x with halted := false, fetch := .idle } := by
  simp [Queue.writeCfg, he, hh]

theorem Queue.writeCfg_disable {x : Queue} (he : x.en = true) : x.writeCfg 0 = { x with en := false, tail := 0, fetch := .idle } := by
  simp [Queue.writeCfg, he]

/-- An enabled queue starts empty, and so within its ring. -/
theorem State.writeQueueCfg_enable {v : Nat} (he : ((s.part p).queue q).en = false) (hf : ((s.part p).queue q).fetch = .idle)
    (hv : v.testBit 0 = true) : s.writeQueueCfg p q v = s.modQueue p q (·.enabled v) := by
  have hcfg := Queue.writeCfg_enable he hv
  by_cases hp : p.toNat < s.parts.length
  · have hx : ((s.modQueue p q (·.writeCfg v)).part p).queue q = ((s.part p).queue q).enabled v := by
      rw [State.queue_modQueue_enabled hp] <;> simp only [hcfg, Queue.enabled]
    rw [State.writeQueueCfg_idle (by rw [hx, hf]; rfl), State.checkOverrun_fits (by rw [hx, Queue.left_enabled]; exact Nat.zero_le _)]
    exact State.modQueue_congr hcfg
  · have hx := State.modQueue_missing (q := q) hp (·.writeCfg v)
    rw [State.writeQueueCfg_idle (by rw [hx]), State.checkOverrun_disabled (by rw [hx, he])]
    exact State.modQueue_congr hcfg

theorem State.writeQueueCfg_resume (he : ((s.part p).queue q).en = true) (hh : ((s.part p).queue q).halted = true)
    (hf : ((s.part p).queue q).fetch = .idle) :
    s.writeQueueCfg p q 1 = (s.modQueue p q fun y => { y with halted := false, fetch := .idle }).checkOverrun p q := by
  have hcfg := Queue.writeCfg_resume he hh
  have hx := State.queue_modQueue_enabled (State.part_of_enabled he) (q := q) (f := (·.writeCfg 1)) (by simp only [hcfg, he])
  rw [State.writeQueueCfg_idle (by rw [hx, hcfg, hf])]
  rw [State.modQueue_congr (g := fun y => { y with halted := false, fetch := .idle }) hcfg]

theorem State.writeQueueCfg_disable (he : ((s.part p).queue q).en = true) (hf : ((s.part p).queue q).fetch = .idle)
    (hw : Sparse.wf {} (s.part p).queues = true) :
    s.writeQueueCfg p q 0 = s.modQueue p q fun y => { y with en := false, tail := 0, fetch := .idle } := by
  have hcfg := Queue.writeCfg_disable he
  have hx := State.queue_modQueue (q := q) (State.part_of_enabled he) hw (·.writeCfg 0)
  rw [hcfg] at hx
  rw [State.writeQueueCfg_idle (by rw [hx, hf]), State.checkOverrun_disabled (by rw [hx])]
  exact State.modQueue_congr hcfg

/-! ## The overrun of a resumed queue and of a notified one (R51) -/

/-- A queue that an update leaves enabled and running stops with error 1 where more records are left than its ring holds. -/
theorem State.checkOverrun_modQueue {f : Queue → Queue} (he : ((s.part p).queue q).en = true)
    (hf : (f ((s.part p).queue q)).en = true) (hh : (f ((s.part p).queue q)).halted = false) :
    let y := f ((s.part p).queue q)
    (s.modQueue p q f).checkOverrun p q =
      if y.left ≤ 2 ^ y.log then s.modQueue p q f else (s.modQueue p q f).stopQueue p q 1 y.seq := by
  have hx := State.queue_modQueue_enabled (State.part_of_enabled he) hf
  dsimp only
  split
  · next h => exact State.checkOverrun_fits (by rwa [hx])
  · next h =>
    rw [State.checkOverrun_over (by rw [hx, hf]) (by rw [hx, hh]) (by rw [hx]; exact Nat.lt_of_not_le h), hx]

/-! ## The rows -/

theorem exec_queueEnable_asked (he : ((s.part s.args.p).queue s.args.q).en = false) (hv : s.args.val.toNat.testBit 0 = true) :
    Goes .queueEnable s (s.writeQueueCfg s.args.p s.args.q s.args.val.toNat) := by
  simp only [Goes, exec_queueEnable, execQueueEnable, if_pos (And.intro he hv)]

theorem exec_queueResume_enabled (he : ((s.part s.args.p).queue s.args.q).en = true) :
    Goes .queueResume s (s.writeQueueCfg s.args.p s.args.q 1) := by
  simp only [Goes, exec_queueResume, execQueueResume, if_pos he]

theorem exec_queueDisable_enabled (he : ((s.part s.args.p).queue s.args.q).en = true) :
    Goes .queueDisable s (s.writeQueueCfg s.args.p s.args.q 0) := by
  simp only [Goes, exec_queueDisable, execQueueDisable, if_pos he]

/-- The dies of a partition that are woken for it (R36). -/
def State.wakeDies (s : State) (p : BitVec 2) : State := { s with ps2 := s.ps2 &&& ~~~(s.part p).dies }

theorem exec_queueNotify_tail (hr : s.args.flag = false) (hk : s.pkgState = 0) (ha : s.args.addr = 0) :
    Goes .queueNotify s ((s.wakeDies s.args.p).notify s.args.p s.args.q (BitVec.ofNat 32 s.args.val.toNat)) := by
  simp only [Goes, exec_queueNotify, execQueueNotify, hr, Bool.false_eq_true, if_false, State.wakeFor_awake hk, if_pos ha, State.wakeDies]

theorem State.notify_disabled (he : ((s.part p).queue q).en = false) (v : BitVec 32) : s.notify p q v = s := if_pos he

theorem State.notify_running (he : ((s.part p).queue q).en = true) (hh : ((s.part p).queue q).halted = false) (v : BitVec 32) :
    let t := s.modQueue p q fun y => { y with tail := v }
    s.notify p q v = if (v - ((s.part p).queue q).head).toNat ≤ 2 ^ ((s.part p).queue q).log then t
      else t.stopQueue p q 1 (((s.part p).queue q).head + 1) := by
  rw [State.notify, if_neg (by rw [he]; decide)]
  exact State.checkOverrun_modQueue he he hh

end
end Sys2Proof.Machine

open Sys2Proof.Machine

/-- Settles O34, row by row: HQ_CFG, HQ_STATUS, the notify page, and the form of the queue table. -/
theorem queueEvents : Obligations.QueueEvents := by
  intro s
  refine ⟨fun he hv hf => ?_, fun he hh hf => ?_, fun he hf hw => ?_, rfl,
    fun hr hk ha => ⟨fun he => ?_, fun he hh hl => ?_, fun he hh hl => ?_⟩, fun f => State.queues_modQueue_wf f⟩
  · exact State.writeQueueCfg_enable he hf hv ▸ exec_queueEnable_asked he hv
  · have h := exec_queueResume_enabled he
    rwa [State.writeQueueCfg_resume he hh hf, State.checkOverrun_modQueue he he rfl] at h
  · exact State.writeQueueCfg_disable he hf hw ▸ exec_queueDisable_enabled he
  · exact (exec_queueNotify_tail hr hk ha).trans (congrArg Host.Outcome.next (State.notify_disabled (s := s.wakeDies s.args.p) he _))
  · exact (exec_queueNotify_tail hr hk ha).trans
      (congrArg Host.Outcome.next ((State.notify_running (s := s.wakeDies s.args.p) he hh _).trans (if_pos hl)))
  · exact (exec_queueNotify_tail hr hk ha).trans
      (congrArg Host.Outcome.next ((State.notify_running (s := s.wakeDies s.args.p) he hh _).trans (if_neg (Nat.not_le.mpr hl))))
end

section
/-! SUPPORT. Images of firmware and configuration, the attestation report, and the lifetime record (R42, R65, R66). -/
namespace Sys2Proof.Machine

section
variable {s : State}

/-! ## Loads (R42) -/

theorem State.startLoad_busy (h : allParts.any (fun p => (s.part p).resident.isSome) ≠ false) (kind : Bool) :
    s.startLoad kind = s.raiseEvt 7 := if_pos (Bool.of_not_eq_false h)

theorem State.startLoad_idle (h : allParts.any (fun p => (s.part p).resident.isSome) = false) (kind : Bool) :
    s.startLoad kind = if s.fwGo then s else { s with fwGo := true, fwKind := kind } :=
  if_neg (Bool.eq_false_iff.mp h)

theorem State.loadImage_length (h : s.fwLen.toNat < 4096 ∨ 2 ^ 25 < s.fwLen.toNat) : s.loadImage = .error 3 := if_pos h

/-- The image that DEV_FWLOAD names, and the version that it may not be below. -/
def State.fwImage (s : State) : List Byte := s.host.bytes (s.fwPtr.toNat % 2 ^ 57) s.fwLen.toNat
def State.versionFloor (s : State) : BitVec 32 := if s.fwKind then s.cfgRollback else s.fwRollback

section
variable (hl : 4096 ≤ s.fwLen.toNat) (hu : s.fwLen.toNat ≤ 2 ^ 25)
include hl hu

theorem State.loadImage_unread (h : hostPtr s.fwPtr.toNat = false ∨ s.fwPtr.toNat % 4096 ≠ 0 ∨
    s.hostSilent (s.fwPtr.toNat % 2 ^ 57) s.fwLen.toNat = true) : s.loadImage = .error 4 := by
  exact (if_neg (by omega)).trans (if_pos h)

variable (hp : hostPtr s.fwPtr.toNat = true) (ha : s.fwPtr.toNat % 4096 = 0)
  (hs : s.hostSilent (s.fwPtr.toNat % 2 ^ 57) s.fwLen.toNat = false)
include hp ha hs

/-- The verdict on an image that can be read: its signature, then its version. -/
theorem State.loadImage_read : s.loadImage =
    if Config.imageGood s.fwKind s.fwImage = false then .error 1
    else if Config.imageVersion s.fwKind s.fwImage < s.versionFloor then .error 2 else .ok s.fwImage := by
  have hr : ¬ (hostPtr s.fwPtr.toNat = false ∨ s.fwPtr.toNat % 4096 ≠ 0 ∨
      s.hostSilent (s.fwPtr.toNat % 2 ^ 57) s.fwLen.toNat = true) := by rw [hp, hs]; simp [ha]
  exact (if_neg (by omega)).trans (if_neg hr)

end

/-- RESULT of a load that fails is at most 4. -/
theorem State.loadImage_error {r : BitVec 8} (h : s.loadImage = .error r) : r.toNat ≤ 4 := by
  by_cases hl : s.fwLen.toNat < 4096 ∨ 2 ^ 25 < s.fwLen.toNat
  · rw [State.loadImage_length hl] at h
    cases h
    decide
  obtain ⟨hmin, hmax⟩ := not_or.mp hl
  by_cases hr : hostPtr s.fwPtr.toNat = false ∨ s.fwPtr.toNat % 4096 ≠ 0 ∨ s.hostSilent (s.fwPtr.toNat % 2 ^ 57) s.fwLen.toNat = true
  · rw [State.loadImage_unread (Nat.le_of_not_lt hmin) (Nat.le_of_not_lt hmax) hr] at h
    cases h
    decide
  obtain ⟨hp, ha, hs⟩ := not_or.mp hr |>.imp_right not_or.mp
  rw [State.loadImage_read (Nat.le_of_not_lt hmin) (Nat.le_of_not_lt hmax) (Bool.of_not_eq_false hp) (not_not.mp ha)
    (Bool.eq_false_iff.mpr hs)] at h
  split at h
  · cases h
    decide
  · split at h <;> cases h
    decide

theorem exec_fwloadComplete_error (hg : s.fwGo = true) {r : BitVec 8} (h : s.loadImage = .error r) :
    Goes .fwloadComplete s { s with fwGo := false, fwResult := r } := by
  simp only [Goes, exec_fwloadComplete, execFwloadComplete, hg, Bool.true_eq_false, if_false, h]

theorem exec_fwloadComplete_ok (hg : s.fwGo = true) {img : List Byte} (h : s.loadImage = .ok img) :
    Goes .fwloadComplete s { s with
      fwGo := false, fwResult := 0
      flashFw := if s.fwKind then s.flashFw else img
      flashCfg := if s.fwKind then img else s.flashCfg } := by
  cases hk : s.fwKind <;>
    simp only [Goes, exec_fwloadComplete, execFwloadComplete, hg, Bool.true_eq_false, if_false, h, hk, if_true, Bool.false_eq_true]

/-- However a load ends, it ends with a result of 0 to 4, and only result 0 writes the flash. -/
theorem exec_fwloadComplete_ends (hg : s.fwGo = true) : ∃ t, Goes .fwloadComplete s t ∧ t.fwGo = false ∧ t.fwResult.toNat ≤ 4 ∧
    t.fwRollback = s.fwRollback ∧ t.cfgRollback = s.cfgRollback ∧
    (t.fwResult ≠ 0 → t.flashFw = s.flashFw ∧ t.flashCfg = s.flashCfg) := by
  cases h : s.loadImage with
  | error r => exact ⟨_, exec_fwloadComplete_error hg h, rfl, State.loadImage_error h, rfl, rfl, fun _ => ⟨rfl, rfl⟩⟩
  | ok img => exact ⟨_, exec_fwloadComplete_ok hg h, rfl, Nat.zero_le _, rfl, rfl, fun hr => absurd rfl hr⟩

/-! ## Attestation (R65) -/

/-- The report that stands in DEV_ATTEST: body and signature, as far as it holds them. -/
def State.report (s : State) : List Byte := (s.reportBody ++ Config.signature s.reportBody).take 0x800

theorem State.report_length_le (s : State) : s.report.length ≤ 0x800 := List.length_take_le _ _

/-- A report begins with the nonce. -/
theorem State.report_nonce (s : State) : s.report.take 64 = leBytes 64 s.attNonce.toNat := by
  simp only [State.report, State.reportBody, List.take_take, List.append_assoc]
  exact List.take_left' (leBytes_length _ _)

theorem exec_attestComplete_asked (hg : s.attGo = true) :
    Goes .attestComplete s { s with attGo := false, attLen := BitVec.ofNat 16 s.report.length, attReport := s.report } := by
  simp only [Goes, exec_attestComplete, execAttestComplete, hg, Bool.true_eq_false, if_false, State.report]

/-! ## The lifetime record (R66) -/

/-- Blocks of enough fuel hold the entries in order. -/
theorem lifeBlocks_entries {n : Nat} {es : List LifeEntry} (h : es.length ≤ n) (seq : Nat) :
    (lifeBlocks n seq es).flatMap (·.entries) = es := by
  induction n generalizing seq es with
  | zero => rw [List.length_eq_zero_iff.mp (Nat.le_zero.mp h)]; rfl
  | succ n ih =>
    rw [lifeBlocks]
    split
    · next he => rw [List.isEmpty_iff.mp he]; rfl
    · next he =>
      have hlen : (es.drop 60).length ≤ n := by
        have := List.length_pos_iff.mpr fun e => he (List.isEmpty_iff.mpr e)
        rw [List.length_drop]
        omega
      rw [List.flatMap_cons, ih hlen, signedBlock, List.take_append_drop]

theorem lifeBlocks_seq (n seq : Nat) (es : List LifeEntry) :
    (lifeBlocks n seq es).map (·.seq) = List.range' seq (lifeBlocks n seq es).length := by
  induction n generalizing seq es with
  | zero => rfl
  | succ n ih =>
    rw [lifeBlocks]
    split
    · rfl
    · rw [List.map_cons, ih, List.length_cons, List.range'_succ, signedBlock]

/-- Each block is a signed one of its own number alone, with at most 60 entries. -/
theorem lifeBlocks_signed {n seq : Nat} {es : List LifeEntry} {b : LifeBlock} (hb : b ∈ lifeBlocks n seq es) :
    b.entries.length ≤ 60 ∧ b = signedBlock b.seq b.seq b.seq b.entries := by
  induction n generalizing seq es with
  | zero => cases hb
  | succ n ih =>
    rw [lifeBlocks] at hb
    split at hb
    · cases hb
    · obtain rfl | hb := List.mem_cons.mp hb
      · exact ⟨List.length_take_le _ _, rfl⟩
      · exact ih hb

/-- The entries that an append writes, their blocks, and the log that they follow. -/
def State.lifeEntries (s : State) : List LifeEntry :=
  { s.lifeNow with thermalHours := s.thermalTime }.entries s.fwRollback.toNat s.cfgRollback.toNat
def State.lifeNew (s : State) : List LifeBlock := lifeBlocks s.lifeEntries.length (s.lifeSeq + 1) s.lifeEntries
def State.lifeOld (s : State) : List LifeBlock := if s.lifeCap < s.life.length + s.lifeNew.length then mergeLife s.life else s.life

theorem State.appendLife_full (h : s.lifeCap < s.lifeOld.length + s.lifeNew.length) : s.appendLife = s := if_pos h

/-- The log after an append. -/
def State.lifeAppended (s : State) : State :=
  { s with life := s.lifeOld ++ s.lifeNew, lifeNow := {}, lifeSeq := s.lifeSeq + s.lifeNew.length, lifeAt := s.cycle }

theorem State.appendLife_fits (h : s.lifeOld.length + s.lifeNew.length ≤ s.lifeCap) : s.appendLife =
    if 10 * s.life.length < 9 * s.lifeCap ∧ 9 * s.lifeCap ≤ 10 * s.lifeAppended.life.length then s.lifeAppended.raiseEvt 8
    else s.lifeAppended := if_neg (Nat.not_lt.mpr h)

/-- A cause bit that is raised reads 1. -/
theorem State.raiseEvt_set (s : State) {b : Nat} (h : b < 64) : (s.raiseEvt b).devEvt.getLsbD b = true := by
  simp [State.raiseEvt, h]

theorem exec_lifetimeAppend_fits (h : s.lifeOld.length + s.lifeNew.length ≤ s.lifeCap) :
    ∃ t, Goes .lifetimeAppend s t ∧ t.life = s.lifeOld ++ s.lifeNew ∧ t.lifeNow = {} ∧ t.lifeAt = s.cycle ∧
      t.lifeSeq = s.lifeSeq + s.lifeNew.length ∧
      (10 * s.life.length < 9 * s.lifeCap → 9 * s.lifeCap ≤ 10 * t.life.length → t.devEvt.getLsbD 8 = true) := by
  refine ⟨s.appendLife, rfl, ?_⟩
  rw [State.appendLife_fits h]
  split
  · exact ⟨rfl, rfl, rfl, rfl, fun _ _ => State.raiseEvt_set _ (by decide)⟩
  · next hn => exact ⟨rfl, rfl, rfl, rfl, fun h1 h2 => absurd ⟨h1, h2⟩ hn⟩

theorem exec_lifetimeAppend_full (h : s.lifeCap < s.lifeOld.length + s.lifeNew.length) : Goes .lifetimeAppend s s :=
  congrArg Host.Outcome.next (State.appendLife_full h)

end
end Sys2Proof.Machine

open Sys2Proof.Machine

/-- Settles O31: loads, attestation, appends. -/
theorem firmwareEvents : Obligations.FirmwareEvents := by
  intro s idle
  refine ⟨fun hg hi => ?_, fun hg hi => ?_, fun hg hi => ⟨?_, ?_⟩, fun hi => ⟨?_, ?_⟩, fun hg hl => ?_, exec_fwloadComplete_ends,
    fun hg hl hu => ⟨fun hr => ?_, fun hp ha hs => ⟨fun hb => ?_, fun hb hv => ?_, fun hb hv => ?_⟩⟩, rfl, fun hg => ?_,
    exec_lifetimeAppend_fits, exec_lifetimeAppend_full, lifeBlocks_entries le_rfl _, ?_, fun b hb => ?_⟩
  · exact congrArg Host.Outcome.next ((State.startLoad_idle hi false).trans (if_neg (ne_true_of_eq_false hg)))
  · exact congrArg Host.Outcome.next ((State.startLoad_idle hi true).trans (if_neg (ne_true_of_eq_false hg)))
  · exact congrArg Host.Outcome.next ((State.startLoad_idle hi false).trans (if_pos hg))
  · exact congrArg Host.Outcome.next ((State.startLoad_idle hi true).trans (if_pos hg))
  · exact congrArg Host.Outcome.next (State.startLoad_busy hi false)
  · exact congrArg Host.Outcome.next (State.startLoad_busy hi true)
  · exact exec_fwloadComplete_error hg (State.loadImage_length hl)
  · exact exec_fwloadComplete_error hg (State.loadImage_unread hl hu hr)
  · exact exec_fwloadComplete_error hg ((State.loadImage_read hl hu hp ha hs).trans (if_pos hb))
  · exact exec_fwloadComplete_error hg ((State.loadImage_read hl hu hp ha hs).trans ((if_neg (ne_false_of_eq_true hb)).trans (if_pos hv)))
  · exact exec_fwloadComplete_ok hg ((State.loadImage_read hl hu hp ha hs).trans
      ((if_neg (ne_false_of_eq_true hb)).trans (if_neg (BitVec.not_lt.mpr hv))))
  · refine ⟨_, exec_attestComplete_asked hg, rfl, s.report_length_le, ?_, s.report_nonce⟩
    exact toNat_ofNat_of_lt (Nat.lt_of_le_of_lt s.report_length_le (by decide))
  · exact (lifeBlocks_seq _ _ _).trans List.range'_eq_map_range
  · obtain ⟨hlen, hsigned⟩ := lifeBlocks_signed hb
    exact ⟨hlen, by rw [hsigned]; rfl, by rw [hsigned]; rfl, by rw [hsigned]; rfl⟩
end

section
/-! SUPPORT. Launch records: the launch that a record becomes (R51, R70), its signal (R54, R428), and the refusals (R85). -/
namespace Sys2Proof.Machine

section
variable {s : State} {p : BitVec 2} {q : BitVec 6}

/-! ## The start (R51, R70) -/

/-- Does the record that a queue consumes reach IRQ_EVERY (R51)? -/
def Queue.fires (x : Queue) : Bool := x.irqEvery != 0xFF && decide (x.irqEvery.toNat < x.irqCount + 1)

/-- A queue behind its next record. -/
def Queue.consumed (x : Queue) : Queue :=
  { x with head := x.head + 1, fetch := .idle, irqCount := if x.fires then 0 else x.irqCount + 1 }

theorem State.consume_parts (s : State) (p : BitVec 2) (q : BitVec 6) : (s.consume p q).parts = (s.modQueue p q Queue.consumed).parts := by
  have hq : s.modQueue p q (fun y => { y with
      head := y.head + 1, fetch := .idle, irqCount := if ((s.part p).queue q).fires then 0 else y.irqCount + 1 }) =
      s.modQueue p q Queue.consumed := State.modQueue_congr rfl
  rw [← hq]
  exact (apply_ite State.parts _ _ _).trans ((ite_self _).trans ((apply_ite State.parts _ _ _).trans (ite_self _)))

/-- Of a queue table in its one form a queue that consumes a record keeps its context. -/
theorem State.consume_ctx (hw : Sparse.wf {} (s.part p).queues = true) :
    (((s.consume p q).part p).queue q).ctx = ((s.part p).queue q).ctx := by
  have hpart : (s.consume p q).part p = (s.modQueue p q Queue.consumed).part p := by rw [State.part, State.consume_parts, State.part]
  rw [hpart]
  by_cases hp : p.toNat < s.parts.length
  · rw [State.queue_modQueue hp hw, Queue.consumed]
  · rw [State.modQueue_missing hp]

theorem State.consume_cycle (s : State) (p : BitVec 2) (q : BitVec 6) : (s.consume p q).cycle = s.cycle :=
  (apply_ite State.cycle _ _ _).trans ((ite_self _).trans ((apply_ite State.cycle _ _ _).trans (ite_self _)))

/-- The state in which a record becomes a launch: an acquire where it has waited (R76), and the record consumed (R51). -/
def State.starting (s : State) (p : BitVec 2) (q : BitVec 6) (r : LaunchRec) : State :=
  (if r.waits.any (fun w => w.1 != 0) then s.dropCaches p else s).consume p q

/-- Of a queue table in its one form the launch has the context that the queue names. -/
theorem State.newLaunch_starting (hw : Sparse.wf {} (s.part p).queues = true) (r : LaunchRec) :
    (s.starting p q r).newLaunch p q r =
      { id := (s.starting p q r).nextId, part := p, ctx := ((s.part p).queue q).ctx, queue := some q, record := r, prio := r.prio
        started := s.cycle, starve := s.cycle } := by
  have hctx : (((s.starting p q r).part p).queue q).ctx = ((s.part p).queue q).ctx := by
    rw [State.starting]
    split
    · exact State.consume_ctx (s := s.dropCaches p) hw
    · exact State.consume_ctx hw
  have hcycle : (s.starting p q r).cycle = s.cycle := by
    rw [State.starting, State.consume_cycle]
    split <;> rfl
  rw [State.newLaunch, hctx, hcycle]

theorem exec_recordStart_kernel {r : LaunchRec} (hr : s.startable s.args.p s.args.q = some r) (hk : r.kind ≠ 1) :
    let t := s.starting s.args.p s.args.q r
    Goes .recordStart s { t with nextId := t.nextId + 1, launches := t.launches ++ [t.newLaunch s.args.p s.args.q r] } := by
  simp only [Goes, exec_recordStart, execRecordStart, hr, if_neg hk, State.starting]

/-- The start of a record that is no copy, as `RecordRows` states it, where the queue table is in its one form. -/
theorem exec_recordStart_of_form {r : LaunchRec} (hw : Sparse.wf {} (s.part s.args.p).queues = true)
    (hr : s.startable s.args.p s.args.q = some r) (hk : r.kind ≠ 1) :
    let t := s.starting s.args.p s.args.q r
    Goes .recordStart s { t with nextId := t.nextId + 1, launches := t.launches ++
      [{ id := t.nextId, part := s.args.p, ctx := ((s.part s.args.p).queue s.args.q).ctx, queue := some s.args.q, record := r, prio := r.prio
         started := s.cycle, starve := s.cycle }] } :=
  (exec_recordStart_kernel hr hk).trans (by rw [State.newLaunch_starting hw])

/-! ## The signal (R54, R428) -/

theorem State.signalAdd_fails {l : Launch} {u : State} {e : MErr}
    (h : s.places (mastAgent l.part l.ctx) .atomic l.record.signal.1.toNat 8 = (u, .error e)) : s.signalAdd l = u.signalFailed l.id := by
  simp only [State.signalAdd, h]

/-- The word of a signal in the device's memory takes the increment at once. -/
theorem State.signalAdd_memory {l : Launch} {u : State} {key : Nat}
    (h : s.places (mastAgent l.part l.ctx) .atomic l.record.signal.1.toNat 8 = (u, .ok [(.mem key, 8)])) :
    s.signalAdd l = ((u.writeHome key (leBytes 8 (leNat (u.readPlace 32 (.mem key) 8) + l.record.signal.2.toNat))).nudge (.mem key) 8).dropLaunch
      l.id := by
  have hin : ¬ ((peerOf [(Place.mem key, 8)]).isSome = true ∨ u.silent [(.mem key, 8)] = true) := by simp [peerOf, State.silent]
  have htake : ∀ n, (leBytes 8 n).take 8 = leBytes 8 n := fun n => List.take_of_length_le (leBytes_length 8 n).le
  simp only [State.signalAdd, h, if_neg hin, List.flatMap_cons, List.flatMap_nil, List.append_nil, List.foldl_cons, List.foldl_nil,
    State.writeParts, State.writePlace, htake]

theorem State.signalFailed_queue {l : Launch} {k : BitVec 6} (hl : s.launch? l.id = some l) (hq : l.queue = some k) :
    s.signalFailed l.id = (s.dropLaunch l.id).failQueue l.part k l.ctx 8 l.record.seq 0 := by
  simp only [State.signalFailed, hl, hq]

/-- The signal of a record that is done: applied where there is one, its context lives, and its copy has met no error and was not
cancelled. -/
theorem exec_recordSignal_applied {l : Launch} {k : BitVec 6} (hl : s.launch? s.args.i = some l) (hq : l.queue = some k)
    (hd : s.workDone l = true) (hx : (s.exts.any fun r => r.use == 9 && r.job == l.id) = false) (hs : l.record.signal.1 ≠ 0)
    (hk : (s.ctx l.part l.ctx).state ≠ .killed) (hc : l.copyStatus.getLsbD 9 = false)
    (hb : l.record.kind ≠ 1 ∨ l.copyStatus &&& 0x42B = 0) :
    Goes .recordSignal s ((s.writeBacks l.part).signalAdd l) := by
  have hgo : ¬ (s.workDone l = false ∨ (s.exts.any fun r => r.use == 9 && r.job == l.id) = true) := by rw [hd, hx]; simp
  have hok : ¬ (l.record.kind = 1 ∧ l.copyStatus &&& stopBits ≠ 0) := fun h => hb.elim (· h.1) h.2
  have hlive : ¬ ((s.ctx l.part l.ctx).state = .killed ∨ l.copyStatus.getLsbD 9 = true) := by rw [hc]; simp [hk]
  simp only [Goes, exec_recordSignal, execRecordSignal, hl, hq, if_neg hgo, if_neg hok, if_neg hlive, if_neg hs]

theorem signalRows : SignalRows := by
  intro s l
  exact ⟨fun _ => exec_recordSignal_applied, fun _ _ => State.signalAdd_fails, fun _ _ => State.signalAdd_memory,
    fun _ => State.signalFailed_queue⟩

/-! ## The refusals (R85) -/

theorem exec_recordPayloadReturn_refused {t : State} {bs : List Byte} {code : Nat}
    (hf : ((s.part s.args.p).queue s.args.q).fetch = .payload)
    (hr : s.mastRead ((s.part s.args.p).queue s.args.q).ctx (((s.part s.args.p).queue s.args.q).slot + 4) 252 (ringReq s.args.p s.args.q) =
      (t, .bytes bs)) :
    let x := (s.part s.args.p).queue s.args.q
    let raw := leBytes 4 x.seq.toNat ++ bs
    let r := recordOf raw
    let dies := (s.part s.args.p).dies.toNat
    recordOk raw x.priMax.toNat dies (s.ctx s.args.p x.ctx).expertEn = true →
    refusalOf r (diesOf (if r.dieMask = 0 then dies else r.dieMask.toNat &&& dies)).length = some code →
    Goes .recordPayloadReturn s (t.failQueue s.args.p s.args.q x.ctx code x.seq 0) := by
  intro x raw r dies hok hcode
  have hfetch : ¬ x.fetch ≠ .payload := not_not.mpr hf
  simp only [Goes, exec_recordPayloadReturn, execRecordPayloadReturn]
  rw [if_neg hfetch, hr]
  dsimp only
  rw [if_neg (ne_false_of_eq_true hok), hcode]

/-- The cause of a kernel's refusal, in the order in which the causes are looked at. -/
theorem refusalOf_kernel {r : LaunchRec} (hk : r.kind = 0) (n : Nat) : refusalOf r n =
    if r.tmpl.fits = false then some 3
    else if r.coopDie = true ∧ diesHold r.tmpl n (r.gx * r.gy * r.gz) = false then some 4
    else if r.coopQuad = true ∧ quadAccs < 4 * r.tmpl.accDemand then some 5 else none := if_neg (not_not.mpr hk)

/-- A kernel is refused with code 3 where it does not fit, with code 4 where it fits and its dies do not hold it, and with code 5 where
neither holds and its group's accumulators exceed a quad. -/
theorem refusalOf_kernel_iff {r : LaunchRec} (hk : r.kind = 0) (n : Nat) :
    (refusalOf r n = some 3 ↔ r.tmpl.fits = false) ∧
    (refusalOf r n = some 4 ↔ r.tmpl.fits = true ∧ r.coopDie = true ∧ diesHold r.tmpl n (r.gx * r.gy * r.gz) = false) ∧
    (refusalOf r n = some 5 ↔ r.tmpl.fits = true ∧ ¬ (r.coopDie = true ∧ diesHold r.tmpl n (r.gx * r.gy * r.gz) = false) ∧
      r.coopQuad = true ∧ quadAccs < 4 * r.tmpl.accDemand) := by
  rw [refusalOf_kernel hk]
  cases hf : r.tmpl.fits
  · simp
  by_cases hd : r.coopDie = true ∧ diesHold r.tmpl n (r.gx * r.gy * r.gz) = false
  · simp [hd]
  by_cases hq : r.coopQuad = true ∧ quadAccs < 4 * r.tmpl.accDemand
  · simp [hd, hq]
  · simp only [Bool.true_eq_false, if_false, hd, hq]
    simp

theorem refusalRows : RefusalRows := by
  refine fun s => ⟨fun t bs code => exec_recordPayloadReturn_refused, fun r n hk => ?_⟩
  obtain ⟨h3, h4, h5⟩ := refusalOf_kernel_iff hk n
  refine ⟨h3, h4, fun hd => h5.trans ?_⟩
  simp [hd, quadAccs]

end

/-! ## A queue table that lists a queue twice -/

/-- Queue 0 is listed twice, which no write of a queue brings about: the first entry holds a record that may start, and becomes the default
entry once the record is consumed, since HEAD wraps to 0 and the count of IRQ_EVERY returns to 0. It is then taken out of the list, and
queue 0 reads as the second entry, of context 1. -/
def twiceListed : State :=
  { State.reset with parts := [{ state := 2, resident := some 0, queues :=
      [(0, { head := 0xFFFFFFFF, fetch := .waiting {} [] 0 }), (0, { ctx := 1 })] }] }

theorem twiceListed_startable : twiceListed.startable 0 0 = some {} := by decide +kernel

/-- The launch's context is 1, where the queue whose record it was named context 0. -/
theorem twiceListed_starts :
    ((twiceListed.part 0).queue 0).ctx = 0 ∧ ((twiceListed.starting 0 0 {}).newLaunch 0 0 {}).ctx = 1 := by decide +kernel

end Sys2Proof.Machine

open Sys2Proof.Machine

/-- Refutes O35: its clause on the start of a record takes the launch's context from the queue as it was before the record is consumed, and
the model from the queue behind it. The two differ where the queue table is not in its one form (`twiceListed`), which O35 does not ask for;
where it is in that form they agree (`exec_recordStart_of_form`). Of the other three parts `signalRows` and `refusalRows` hold as they
stand; `CopyStarts` takes the context in the same way. -/
theorem not_recordEvents : ¬ Obligations.RecordEvents := by
  rintro ⟨hrows, -⟩
  obtain ⟨-, -, -, -, -, -, hstart, -⟩ := hrows twiceListed
  have hkind : ({} : LaunchRec).kind ≠ 1 := by decide
  have hstated := hstart {} twiceListed_startable hkind
  have hmodel := exec_recordStart_kernel twiceListed_startable hkind
  obtain ⟨hqueue, hlaunch⟩ := twiceListed_starts
  have hlast := List.append_cancel_left (congrArg State.launches (Host.Outcome.next.inj (hstated.symm.trans hmodel)))
  have hctx := congrArg Launch.ctx (List.cons.inj hlast).1
  exact absurd (hqueue.symm.trans (hctx.trans hlaunch)) (by decide)
end

section
/-! SUPPORT. The return from a WARP handler (R103, R209, R216, R427). -/
namespace Sys2Proof.Machine

variable {s : State}

/-! ## Splits that keep their lanes, and warps that hold no fault -/

/-- A split that has lanes neither resumes a deferral nor becomes free (R103). -/
theorem State.emptied_lanes {id : SplitId} (h : ∀ w p, s.warp? id.warp = some w → w.split id.split = some p → p.mask ≠ 0) :
    s.emptied id = s := by
  unfold State.emptied
  cases hw : s.warp? id.warp with
  | none => rfl
  | some w =>
    rw [Option.bind_some]
    cases hp : w.split id.split with
    | none => rfl
    | some p => exact if_pos (h w p hw hp)

theorem State.foldl_emptied_lanes {wid : Nat} {w : Warp} (hw : s.warp? wid = some w) (h : ∀ n p, w.split n = some p → p.mask ≠ 0)
    (ns : List Nat) : ns.foldl (fun t n => t.emptied ⟨wid, n⟩) s = s := by
  have h1 (n : Nat) : s.emptied ⟨wid, n⟩ = s := State.emptied_lanes fun v p hv hp => by
    obtain rfl : w = v := Option.some.inj (hw.symm.trans hv)
    exact h n p hp
  induction ns with
  | nil => rfl
  | cons n ns ih => rw [List.foldl_cons, h1, ih]

/-- A warp that holds no fault raises none (R427). -/
theorem State.raiseHeld_none {wid : Nat} {w : Warp} (hw : s.warp? wid = some w) (hh : w.held = [])
    (ht : ∀ n p, w.split n = some p → p.trap = none) :
    s.raiseHeld wid = s.modWarp wid fun x => { x with held := x.held.filter fun r => (w.split r.split.toNat).isSome } := by
  have hby (n : Nat) : w.heldBy n = none := by
    unfold Warp.heldBy
    cases hp : w.split n with
    | none => rfl
    | some p => simp [ht n p hp, hh]
  have hnone : (List.range 4).find? (fun n => (w.heldBy n).isSome) = none := List.find?_eq_none.mpr fun n _ => by simp [hby]
  simp only [State.raiseHeld, hw, hnone]

/-! ## What RETT does with the frame of its warp (R216) -/

section
variable {id : SplitId} {pc : Word} {word : IWord} {w : Warp} {g : Workgroup} {h : Handler} {s1 : State} {fr : List Byte}
  (hw : (s.drain id.warp 0xFFFFFFFF).warp? id.warp = some w) (hg : (s.drain id.warp 0xFFFFFFFF).wg? w.wg = some g)
  (hh : w.handler = some h) (hr : h.rung = 1)
  (hread : (s.drain id.warp 0xFFFFFFFF).readDirect (w.agent g 0 none)
    (frameAddr ((s.drain id.warp 0xFFFFFFFF).vecBase g) w.core w.slot 1) 256 = (s1, .ok fr))

/-- The warp with its stopped splits as the frame says, ready from cycle `now` on. -/
def Warp.returned (fr : List Byte) (now : Nat) (y : Warp) : Warp := match y.handler with
  | some k => { y with
      splits := (reloadAll (k.stopped y) fr).map (Option.map fun p => { p with wait := .ready, since := now, hints := [] })
      handler := none }
  | none => y

theorem Warp.returned_id (fr : List Byte) (now : Nat) (y : Warp) : (y.returned fr now).id = y.id := by
  unfold Warp.returned
  split <;> rfl

include hw hg hh hr hread

theorem State.returnFrom_bad {cause : Nat} (hc : rettCause (h.stopped w) fr = some cause) :
    s.returnFrom id pc word = s1.takeFault id pc
      { code := .illegalOp, first := h.rung + 1, fmask := (w.split id.split).elim 0 (·.mask), counter := pc,
        detail := BitVec.ofNat 64 (word.toNat + 2 ^ 32 * cause) } := by
  simp only [State.returnFrom, hw, hg, hh, hr, if_true, State.readFrames, hread, List.reverse_cons, List.reverse_nil, List.nil_append,
    List.findSome?_cons, hc]

theorem State.returnFrom_good (hid : w.id = id.warp) (hc : rettCause (h.stopped w) fr = none) :
    s.returnFrom id pc word = ((List.range 4).foldl (fun t n => t.emptied ⟨id.warp, n⟩)
      (s1.modWarp id.warp (Warp.returned fr ((s.drain id.warp 0xFFFFFFFF).cycle + 1)))).raiseHeld id.warp := by
  simp only [State.returnFrom, hw, hg, hh, hr, if_true, State.readFrames, hread, List.reverse_cons, List.reverse_nil, List.nil_append,
    List.findSome?_cons, List.findSome?_nil, hc, List.foldl_cons, List.foldl_nil, hid, OfNat.one_ne_ofNat, if_false]
  rfl

/-- A frame in order whose splits all have lanes: with no fault held nothing but the warp of the handler changes. -/
theorem State.returnFrom_lanes (hid : w.id = id.warp) (hc : rettCause (h.stopped w) fr = none) (hheld : w.held = [])
    (hp : ∀ p, some p ∈ reloadAll (h.stopped w) fr → p.mask ≠ 0 ∧ p.trap = none) :
    (∀ k, k ≠ id.warp → (s.returnFrom id pc word).warp? k = s1.warp? k) ∧ (s.returnFrom id pc word).mem = s1.mem ∧
      (s.returnFrom id pc word).warp? id.warp = some (w.returned fr ((s.drain id.warp 0xFFFFFFFF).cycle + 1)) := by
  generalize hnow : (s.drain id.warp 0xFFFFFFFF).cycle + 1 = now
  have hw1 : s1.warp? id.warp = some w := by
    have hm := State.readDirect_mapped (s.drain id.warp 0xFFFFFFFF) (w.agent g 0 none)
      (frameAddr ((s.drain id.warp 0xFFFFFFFF).vecBase g) w.core w.slot 1) 256
    rw [hread] at hm
    rw [hm.warp?, hw]
  have hback := State.warp?_modWarp_self hw1 (Warp.returned fr now) (Warp.returned_id fr now)
  have hheld' : (w.returned fr now).held = [] := by simp only [Warp.returned, hh, hheld]
  have hsplit (n : Nat) (q : Split) (hq : (w.returned fr now).split n = some q) : q.mask ≠ 0 ∧ q.trap = none := by
    simp only [Warp.returned, hh, Warp.split, List.getD_eq_getElem?_getD, List.getElem?_map, Option.getD_eq_iff, Option.map_eq_some_iff,
      reduceCtorEq, and_false, or_false] at hq
    obtain ⟨o, ho, he⟩ := hq
    obtain ⟨p, rfl, rfl⟩ := he
    exact hp p (List.mem_of_getElem? ho)
  rw [State.returnFrom_good hw hg hh hr hread hid hc, hnow, State.foldl_emptied_lanes hback fun n p hn => (hsplit n p hn).1,
    State.raiseHeld_none hback hheld' fun n p hn => (hsplit n p hn).2]
  refine ⟨fun k hk => ?_, rfl, ?_⟩
  · rw [State.warp?_modWarp_ne _ hk, State.warp?_modWarp_ne _ hk]
    · exact Warp.returned_id fr now
    · exact fun _ => rfl
  · rw [State.warp?_modWarp_self hback]
    · rw [hheld', List.filter_nil, ← hheld']
    · exact fun _ => rfl

end
end Sys2Proof.Machine

open Sys2Proof.Machine

/-- Settles O53: of a frame that is out of order RETT makes a fault; of one in order the splits, which stand where it says, and with lanes
in every split and no fault held there is nothing to resume and nothing to raise. -/
theorem returnFromHandler : Obligations.ReturnFromHandler := by
  intro s id pc word w g h s1 fr hw hg hh hr hid hread
  refine ⟨fun cause hc => State.returnFrom_bad hw hg hh hr hread hc, fun hc => State.returnFrom_good hw hg hh hr hread hid hc,
    fun hc hheld hp => ?_⟩
  obtain ⟨hother, hmem, hself⟩ := State.returnFrom_lanes (pc := pc) (word := word) hw hg hh hr hread hid hc hheld hp
  refine ⟨hother, hmem, hself.trans ?_⟩
  simp only [Warp.returned, hh]
end

section
/-! SUPPORT. The stores ST, STS and STC (R106, R210, R327, R330 to R332). -/
namespace Sys2Proof.Machine

variable {s t : State} {c : Issue} {sw : Bool} {g w : BitVec 3} {d a : BitVec 7}

/-! ## ST and STS (R327, R332) -/

theorem exec_st_begins {x : BitVec 1}
    (h : (loadForm (memWidthOk w x) g d a (2 * memBytes w x) [2, 5, 7] [0, 2] true).begins s (.st sw g w d a x) sw = some (c, t)) :
    exec (.st sw g w d a x) s = .next ((storeRun t c (loadForm (memWidthOk w x) g d a (2 * memBytes w x) [2, 5, 7] [0, 2] true)
      d a (memBytes w x) (2 * memBytes w x)).complete c) := by
  rw [exec_st, execSt]
  exact State.issueWith_run h rfl rfl

theorem exec_sts_begins {x : BitVec 1}
    (h : (loadForm true g d a (spillCount w x) [2, 7] [] true).begins s (.sts sw g w d a x) sw = some (c, t)) :
    exec (.sts sw g w d a x) s = .next ((storeRun t c (loadForm true g d a (spillCount w x) [2, 7] [] true)
      d a ((spillCount w x + 1) / 2) (spillCount w x)).complete c) := by
  rw [exec_sts, execSts]
  exact State.issueWith_run h rfl rfl

/-! ## STC (R330, R331) -/

/-- An STC under way: as it begins, or begins again behind a halt, else where it stands. -/
def State.stcRun (t : State) (c : Issue) (u : Uses) (d a : BitVec 7) (n : Nat) : StoreRun := match c.p.stc with
  | some r => if r.halted then t.stcStart u c d a n else r
  | none => t.stcStart u c d a n

/-- The issuing split behind the next `m` lanes of its STC: complete, or to go on with the lanes that are left. -/
def State.stcAfter (t : State) (c : Issue) (run : StoreRun) (m : Nat) : State :=
  if run.todo.length ≤ m then (t.stcStores c run m).complete c
  else ((t.stcStores c run m).waitAt c .ready).modSplit c.id fun p =>
    { p with stc := some { run with todo := run.todo.drop m, done := run.done ||| maskOf ((run.todo.take m).map (·.1)) } }

/-- A step of an STC stores at least one lane: how many is a free value. -/
theorem exec_stc_begins (h : (stcForm s sw g w d a).begins s (.stc sw g w d a) sw = some (c, t)) :
    ∃ m, 1 ≤ m ∧ exec (.stc sw g w d a) s = .next (t.stcAfter c (t.stcRun c (stcForm s sw g w d a) d a (memBytes w 0)) m) := by
  let left := (t.stcRun c (stcForm s sw g w d a) d a (memBytes w 0)).todo.length
  refine ⟨Config.pick t.free 19 c.id.split left % left + 1, Nat.le_add_left _ _, ?_⟩
  rw [exec_stc, execStc]
  exact State.issueWith_run h rfl rfl

/-! ## A halt between two lanes of an STC (R106) -/

theorem Split.stopStc_running {p : Split} {r : StoreRun} (h : p.stc = some r) (hr : r.halted = false) :
    p.stopStc = { p with
      stc := some { r with todo := [], halted := true }
      prog := r.done.zeroExtend 64, progValid := true, progPc := p.pc - BitVec.ofNat 64 (4 * p.hints.length) } := by
  simp only [Split.stopStc, h, hr, Bool.false_eq_true, if_false]

theorem Split.midway_running {p : Split} {r : StoreRun} (h : p.stc = some r) (hr : r.halted = false) : p.midway = true := by
  simp [Split.midway, h, hr]

theorem Split.midway_stopStc {p : Split} {r : StoreRun} (h : p.stc = some r) (hr : r.halted = false) :
    p.stopStc.midway = p.walk.isSome := by
  simp [Split.midway, Split.stopStc_running h hr]

end Sys2Proof.Machine

open Sys2Proof.Machine

/-- Settles O10: ST and STS store lane by lane and complete, STC stores the next of its lanes, and a halt leaves what it has done. -/
theorem storesComplete : Obligations.StoresComplete := by
  refine ⟨fun s c t sw g w d a x => exec_st_begins, fun s c t sw g w d a x => exec_sts_begins,
    fun s c t sw g w d a h => ?_, fun p r h hr => ?_⟩
  · obtain ⟨m, hm, hexec⟩ := exec_stc_begins h
    exact ⟨m, hm, hexec⟩
  · refine ⟨Split.midway_running h hr, Split.midway_stopStc h hr, ?_⟩
    rw [Split.stopStc_running h hr]
    exact ⟨rfl, rfl, rfl, rfl⟩
end

section
/-! SUPPORT. Splits that part and meet: branches, forks, EXIT, YIELD, JOINW (R101 to R103, R279 to R282). -/
namespace Sys2Proof.Machine

/-! ## Targets and chosen lanes (R267, R279) -/

theorem sext_toNat {n : Nat} (o : BitVec n) : sext o.toNat n = o.toInt := by
  rw [BitVec.toInt_eq_toNat_cond]
  simp only [sext, Nat.mod_eq_of_lt o.isLt]
  obtain rfl | hn := Nat.eq_zero_or_pos n
  · have h0 := o.isLt
    simp only [Nat.pow_zero] at h0 ⊢
    rw [if_neg (by omega), if_pos (by omega)]
  · have hp := two_pow_pred hn
    by_cases h : 2 ^ (n - 1) ≤ o.toNat
    · rw [if_pos h, if_neg (by omega), Nat.cast_pow, Nat.cast_ofNat]
    · rw [if_neg h, if_pos (by omega)]

theorem Issue.target_eq_branchTo (c : Issue) {n : Nat} (o : BitVec n) : c.target o = branchTo c n o := by
  have h : BitVec.signExtend 64 o = BitVec.ofInt 64 o.toInt := rfl
  rw [Issue.target, branchTo, sext_toNat, h, BitVec.ofInt_mul]
  rfl

theorem Issue.guarded_eq_chosen (c : Issue) (g : BitVec 3) (n : BitVec 1) : c.guarded g n = c.chosen g n := by
  have hx (a b : Bool) : (a != b) = (a ^^ b) := by cases a <;> cases b <;> rfl
  rw [Issue.guarded, Issue.chosen, lanesOf, List.filter_filter]
  simp only [Issue.predIs, hx, Bool.and_comm]

section
variable {s t : State} {c : Issue} {sw : Bool}

/-! ## CBR and EXIT (R279, R282) -/

theorem exec_cbr_begins {g : BitVec 3} {n : BitVec 1} {o : BitVec 18}
    (h : Uses.begins { allUregs := true, preds := [g.toNat] } s (.cbr sw g n o) sw = some (c, t)) :
    exec (.cbr sw g n o) s = .next (if c.chosen g n = c.p.mask then t.goTo c (branchTo c 18 o)
      else if c.chosen g n = 0 then t.complete c else t.fork c (c.chosen g n) (branchTo c 18 o)) := by
  rw [exec_cbr, execCbr]
  exact State.issueWith_run h rfl (by simp only [Issue.guarded_eq_chosen, Issue.target_eq_branchTo])

theorem exec_exit_begins {g : BitVec 3} {n : BitVec 1} (h : Uses.begins { preds := [g.toNat] } s (.exit sw g n) sw = some (c, t))
    (hh : ∀ d, s.issue? sw = some d → d.w.inHandler d.id.split = false) :
    exec (.exit sw g n) s =
      .next (((t.modSplit c.id fun p => { p with mask := p.mask &&& ~~~c.chosen g n }).stepTo c (c.pc + 4)).emptied c.id) := by
  rw [exec_exit, execExit]
  refine State.issueWith_run h ?_ (by rw [Issue.guarded_eq_chosen])
  cases hi : s.issue? sw with
  | none => rfl
  | some d => simp only [hh d hi, Bool.not_false]

/-- In a handler split EXIT does not pass its first check (R272, R282). -/
theorem exec_exit_inHandler {g : BitVec 3} {n : BitVec 1} (hi : s.issue? sw = some c) (hh : c.w.inHandler c.id.split = true) :
    exec (.exit sw g n) s = .next (s.faultAt c .illegalOp c.p.mask 0 (encodeWord (.exit sw g n)).toNat) := by
  simp only [exec_exit, execExit, State.issueWith, hi, Uses.check, hh, Bool.not_true, if_true]

/-! ## YIELD and JOINW (R280, R281) -/

theorem exec_yield_begins {o : BitVec 18} (h : Uses.begins {} s (.yield sw o) sw = some (c, t)) :
    exec (.yield sw o) s = .next (
      if c.w.inHandler c.id.split = true ∨ t.readyPeers c = [] then t.goTo c (branchTo c 18 o)
      else (t.stepTo c (branchTo c 18 o)).modSplit c.id fun p => { p with wait := .yield (t.cycle + 64) (t.readyPeers c), sw := sw }) := by
  rw [exec_yield, execYield]
  exact State.issueWith_run h rfl (by simp only [List.isEmpty_iff, Issue.target_eq_branchTo])

theorem exec_joinw_begins {o : BitVec 18} (h : Uses.begins {} s (.joinw sw o) sw = some (c, t)) :
    exec (.joinw sw o) s = .next (
      if c.w.valid.length ≤ 1 ∨ c.w.inHandler c.id.split = true then t.goTo c (branchTo c 18 o)
      else (t.waitAt c (.joinw (branchTo c 18 o))).joinCheck c.id.warp) := by
  rw [exec_joinw, execJoinw]
  exact State.issueWith_run h rfl (by simp only [Issue.target_eq_branchTo])

end

/-! ## Forks (R102) -/

/-- Where nothing is parked, a completed instruction changes its split and no other. -/
theorem State.complete_eq_modSplit {s : State} {c : Issue} (hsw : c.sw = false) : s.complete c = s.modSplit c.id fun p =>
    { p with pc := c.pc + 4, hints := [], progValid := false, seen := none, asked := false, walk := none, stc := none, count := p.count + 1,
             since := s.cycle + 1, lifted := false, wait := .ready } := by
  simp only [State.complete, State.goTo, State.stepTo, hsw, Bool.false_eq_true, if_false]

theorem State.splitOf_modSplit (s : State) (id k : SplitId) (f : Split → Split) :
    (s.modSplit id f).splitOf k = if k = id then (s.splitOf k).map f else s.splitOf k := by
  obtain ⟨i, n⟩ := id
  obtain ⟨j, m⟩ := k
  rw [State.modSplit, State.splitOf_modWarp s i (fun w => w.modSplit n f) (fun _ => rfl), State.splitOf]
  cases s.warp? j with
  | none => simp
  | some w => by_cases hj : j = i <;> simp [hj, Warp.split_modSplit]

theorem Warp.split_setSplit (w : Warp) (n k : Nat) (v : Option Split) (hn : n < w.splits.length) :
    (w.setSplit n v).split k = if k = n then v else w.split k := by
  unfold Warp.split Warp.setSplit
  rw [modifyAt_getD]
  by_cases hk : k = n <;> simp [hk, hn]

/-- The free split of the lowest number. -/
theorem Warp.freeSplit_lowest {w : Warp} {k : Nat} (hk : k < 4) (hfree : w.split k = none) (hlow : ∀ j, j < k → w.split j ≠ none) :
    w.freeSplit = some k := by
  refine List.find?_range_eq_some.mpr ⟨by simp [hfree], List.mem_range.mpr hk, fun j hj => ?_⟩
  simpa [Option.isSome_iff_ne_none] using hlow j hj

theorem Warp.freeSplit_none {w : Warp} (h : ∀ j, j < 4 → w.split j ≠ none) : w.freeSplit = none := by
  refine List.find?_eq_none.mpr fun j hj => ?_
  simpa [Option.isSome_iff_ne_none] using h j (List.mem_range.mp hj)

section
variable {t : State} {c : Issue} {taken : BitVec 32} {target : Word}

/-- The split that takes a branch, as a copy of the one that forks. -/
def Split.forked (p : Split) (taken : BitVec 32) (target : Word) (now : Nat) : Split :=
  { p with
    pc := target, mask := taken, defer := [], progValid := false, hints := [], wait := .ready, out := none, walk := none, stc := none
    since := now, lifted := false }

/-- A warp whose split `n` forks: split `k` takes the branch, and the lanes that are left go on. -/
def Warp.forked (w : Warp) (n k : Nat) (q : Split) (rest : BitVec 32) : Warp :=
  ((w.setSplit k (some q)).modSplit n fun p => { p with mask := rest }).copyBinds n k

theorem Warp.split_forked (w : Warp) {n k : Nat} (q : Split) (rest : BitVec 32) (hk : k < w.splits.length) (hne : n ≠ k) (j : Nat) :
    (w.forked n k q rest).split j =
      if j = n then (w.split n).map fun p => { p with mask := rest } else if j = k then some q else w.split j := by
  show ((w.setSplit k (some q)).modSplit n fun p => { p with mask := rest }).split j = _
  rw [Warp.split_modSplit, Warp.split_setSplit w k j _ hk]
  by_cases hj : j = n
  · simp [hj, hne]
  · simp [hj]

theorem State.fork_free {k : Nat} (hh : c.w.inHandler c.id.split = false) (hk : c.w.freeSplit = some k) :
    t.fork c taken target = ((t.modWarp c.id.warp fun w =>
      w.forked c.id.split k (c.p.forked taken target (t.cycle + 1)) (c.p.mask &&& ~~~taken)).dropLatch
        fun e => e.warp == c.id.warp).complete c := by
  simp only [State.fork, hh, Bool.false_eq_true, if_false, hk]
  rfl

/-- In a handler split, or with four valid splits, the lanes that take the branch are deferred. -/
theorem State.fork_deferred (h : c.w.inHandler c.id.split = true ∨ ∀ j, j < 4 → c.w.split j ≠ none) (hd : c.p.defer.length < 8) :
    t.fork c taken target = ((t.modSplit c.id fun p =>
      { p with mask := c.p.mask &&& ~~~taken, defer := (taken, target) :: p.defer }).dropLatch
        fun e => e.warp == c.id.warp).complete c := by
  have hnone : (if c.w.inHandler c.id.split then none else c.w.freeSplit) = none := by
    rcases h with h | h
    · rw [h, if_pos rfl]
    · rw [Warp.freeSplit_none h, ite_self]
  simp only [State.fork, hnone, if_neg (Nat.not_le.mpr hd)]

theorem State.fork_full (h : c.w.inHandler c.id.split = true ∨ ∀ j, j < 4 → c.w.split j ≠ none) (hd : 8 ≤ c.p.defer.length) :
    t.fork c taken target = t.faultAt c .resource c.p.mask 0 0 := by
  have hnone : (if c.w.inHandler c.id.split then none else c.w.freeSplit) = none := by
    rcases h with h | h
    · rw [h, if_pos rfl]
    · rw [Warp.freeSplit_none h, ite_self]
  simp only [State.fork, hnone, if_pos hd]

/-- Behind a fork the latch holds no operand of the warp (R120). -/
theorem State.fork_latch (hd : c.p.defer.length < 8) (hsw : c.sw = false) :
    ∀ e ∈ (t.fork c taken target).latch, e.warp ≠ c.id.warp := by
  have hdrop (s : State) : ∀ e ∈ ((s.dropLatch fun e => e.warp == c.id.warp).complete c).latch, e.warp ≠ c.id.warp := by
    intro e he
    rw [State.complete_eq_modSplit hsw] at he
    obtain ⟨-, hne⟩ := List.mem_filter.mp (he : e ∈ s.latch.filter fun e => !(e.warp == c.id.warp))
    simpa using hne
  unfold State.fork
  dsimp only
  split
  · rw [if_neg (Nat.not_le.mpr hd)]
    exact hdrop _
  · exact hdrop _

end

section
variable {t : State} {c : Issue} {taken : BitVec 32} {target : Word}
  (hw : t.warp? c.id.warp = some c.w) (hp : c.w.split c.id.split = some c.p)
include hw hp

/-- The splits of the warp behind a fork into split `k`. -/
theorem State.fork_free_splitOf {k : Nat} (hh : c.w.inHandler c.id.split = false) (hfree : c.w.split k = none)
    (hk : c.w.freeSplit = some k)
    (hkl : k < c.w.splits.length) (hsw : c.sw = false) (j : Nat) :
    (t.fork c taken target).splitOf ⟨c.id.warp, j⟩ =
      if j = c.id.split then some { c.p with
        mask := c.p.mask &&& ~~~taken, pc := c.pc + 4, hints := [], progValid := false, seen := none, asked := false, walk := none, stc := none
        count := c.p.count + 1, since := t.cycle + 1, lifted := false, wait := .ready }
      else if j = k then some (c.p.forked taken target (t.cycle + 1)) else t.splitOf ⟨c.id.warp, j⟩ := by
  have hne : c.id.split ≠ k := fun e => by rw [← e, hp] at hfree; cases hfree
  have hwarp := State.warp?_modWarp_self hw
    (fun w => w.forked c.id.split k (c.p.forked taken target (t.cycle + 1)) (c.p.mask &&& ~~~taken)) fun _ => rfl
  have hsplit := Warp.split_forked c.w (c.p.forked taken target (t.cycle + 1)) (c.p.mask &&& ~~~taken) hkl hne j
  rw [State.fork_free hh hk, State.complete_eq_modSplit hsw, State.splitOf_modSplit]
  rw [State.splitOf_of (State.warp?_dropLatch _ _ _ ▸ hwarp), hsplit, State.splitOf_of hw]
  by_cases hj : j = c.id.split
  · simp [hj, hp]
  · have : (⟨c.id.warp, j⟩ : SplitId) ≠ c.id := fun e => hj (congrArg SplitId.split e)
    simp [hj, this]

/-- The splits of the warp behind a deferral. -/
theorem State.fork_deferred_splitOf (h : c.w.inHandler c.id.split = true ∨ ∀ j, j < 4 → c.w.split j ≠ none)
    (hd : c.p.defer.length < 8)
    (hsw : c.sw = false) (j : Nat) :
    (t.fork c taken target).splitOf ⟨c.id.warp, j⟩ =
      if j = c.id.split then some { c.p with
        mask := c.p.mask &&& ~~~taken, defer := (taken, target) :: c.p.defer, pc := c.pc + 4, hints := [], progValid := false, seen := none
        asked := false, walk := none, stc := none, count := c.p.count + 1, since := t.cycle + 1, lifted := false, wait := .ready }
      else t.splitOf ⟨c.id.warp, j⟩ := by
  rw [State.fork_deferred h hd, State.complete_eq_modSplit hsw, State.splitOf_modSplit]
  show (if _ then Option.map _ ((t.modSplit c.id _).splitOf ⟨c.id.warp, j⟩) else (t.modSplit c.id _).splitOf ⟨c.id.warp, j⟩) = _
  rw [State.splitOf_modSplit, State.splitOf_of hw]
  by_cases hj : j = c.id.split
  · simp [hj, hp]
  · have : (⟨c.id.warp, j⟩ : SplitId) ≠ c.id := fun e => hj (congrArg SplitId.split e)
    simp [hj, this]

end

theorem forks : Forks := by
  intro t c taken target hw hp hlen
  refine ⟨fun k hh hfree hk hlow hsw => ?_, fun h => ⟨fun hd hsw => ?_, State.fork_full h⟩, State.fork_latch⟩
  · have hsplit := State.fork_free_splitOf (taken := taken) (target := target) hw hp hh hfree
      (Warp.freeSplit_lowest hk hfree hlow) (by omega) hsw
    have hne : k ≠ c.id.split := fun e => by rw [e, hp] at hfree; cases hfree
    refine ⟨⟨_, (hsplit k).trans ((if_neg hne).trans (if_pos rfl)), rfl, rfl, rfl, rfl, rfl, rfl, rfl, rfl, rfl, rfl⟩,
      ⟨_, (hsplit c.id.split).trans (if_pos rfl), rfl, rfl, rfl, rfl⟩, fun j hj hj' => ?_⟩
    rw [hsplit, if_neg hj', if_neg hj]
  · have hsplit := State.fork_deferred_splitOf (taken := taken) (target := target) hw hp h hd hsw
    exact ⟨⟨_, (hsplit c.id.split).trans (if_pos rfl), rfl, rfl, rfl, rfl⟩, fun j hj => (hsplit j).trans (if_neg hj)⟩

end Sys2Proof.Machine

open Sys2Proof.Machine

/-- Settles O17: each instruction's own effect, and `forks` for what a branch that parts a split does. -/
theorem divergenceCompletes : Obligations.DivergenceCompletes := by
  refine ⟨fun s c t sw g n o h => ?_, fun s c t sw g n => exec_exit_begins, fun s c sw g n => exec_exit_inHandler, forks,
    fun s c t sw o => exec_yield_begins, fun s c t sw o => exec_joinw_begins⟩
  have hexec := exec_cbr_begins h
  refine ⟨fun hall => ?_, fun hall hnone => ?_, fun hall hnone => ?_⟩
  · rwa [if_pos hall] at hexec
  · rwa [if_neg hall, if_pos hnone] at hexec
  · rwa [if_neg hall, if_neg hnone] at hexec
end

section
/-! SUPPORT. Table lookups, cursors and counts (R106, R169, R365, R366, R369 to R371). -/
namespace Sys2Proof.Machine

/-! ## What an issue leaves of the free value (R256) -/

theorem State.bindAt_free (s : State) (wid k : Nat) : (s.bindAt wid k).free = s.free := by
  unfold State.bindAt
  split
  · rfl
  · split
    · split
      · exact ((State.acquireFor_mapped _ _).trans (State.loadBytes_mapped _ _)).free
      · rfl
    · rfl

theorem State.foldl_free {α : Type} {f : State → α → State} (hf : ∀ t x, (f t x).free = t.free) (xs : List α) (s : State) :
    (xs.foldl f s).free = s.free := by
  induction xs generalizing s with
  | nil => rfl
  | cons x xs ih => rw [List.foldl_cons, ih, hf]

theorem State.bindSources_free (s : State) (u : Uses) (c : Issue) : (s.bindSources u c).free = s.free := by
  unfold State.bindSources
  split
  · rfl
  · refine State.foldl_free (fun t k => ?_) _ s
    split
    · split
      · split
        · exact State.bindAt_free _ _ _
        · rfl
      · rfl
    · rfl

/-- The effect of an instruction begins with the free value of its issue. -/
theorem Uses.begins_free {u : Uses} {s t : State} {i : Instr} {sw : Bool} {c : Issue} (h : u.begins s i sw = some (c, t)) :
    t.free = s.free := by
  unfold Uses.begins at h
  split at h
  · cases h
  · next d _ =>
    split at h
    · cases h
    · obtain ⟨w, -, he⟩ := Option.map_eq_some_iff.mp h
      obtain ⟨-, rfl⟩ := Prod.mk.inj he
      exact State.bindSources_free s u d

/-! ## Lookups (R365, R366) and cursors (R369) -/

/-- A run none of whose lanes waits or faults completes its instruction (R206). -/
theorem LaneRun.finish_clean {r : LaneRun} (h : r.clean) (c : Issue) : r.finish c = r.st.complete c := by
  obtain ⟨hw, hf⟩ := h
  simp only [LaneRun.finish, State.awaitOutcome, hw, hf, if_true, State.outcome, firstFault, List.foldl_nil, Option.map_none]

/-- A lookup whose requests `q'` numbers by the free value of its issue runs as its effect does, which begins with the same one. -/
theorem lookupRuns_of {i : Instr} {sw : Bool} {u : Uses} {q : Issue → State → Nat → TableReq}
    (q' : State → Issue → State → Nat → TableReq)
    (hexec : ∀ s, exec i s = s.lookups1 i sw u (q' s)) (hq : ∀ s c t, t.free = s.free → q' s c t = q c t) : LookupRuns i sw u q := by
  intro s c t h r hr
  rw [hexec, State.lookups1]
  refine State.issueWith_run h rfl ?_
  rw [hq s c t (Uses.begins_free h)]
  exact LaneRun.finish_clean hr c

theorem exec_tscan_clean {s t : State} {c : Issue} {sw : Bool} {b : BitVec 3} {d k : BitVec 7}
    (h : (tableUses b [] [(d.toNat, 32)] [(k.toNat, 16)]).begins s (.tscan sw b d k) sw = some (c, t)) :
    let r := ((tableUses b [] [(d.toNat, 32)] [(k.toNat, 16)]).todo c).foldl (fun (r : LaneRun) l => r.addT c l
      ((r.st.tableCheck (c.hw (some l)) (c.p.tbind b.toNat) .ordered).andThen fun t2 x =>
        let key := t.src c 0 l k.toNat 16
        (t2, .ok [(c.dst l d.toNat 32, key + tbHandle (c.p.tbind b.toNat) * 2 ^ 64 + x.stripeOf key * 2 ^ 96)]))) { st := t }
    r.clean → exec (.tscan sw b d k) s = .next (r.st.complete c) := by
  intro r hr
  rw [exec_tscan, execTscan]
  exact State.issueWith_run h rfl (LaneRun.finish_clean hr c)

/-! ## Counts (R371) -/

section
variable {s t : State} {c : Issue} {sw : Bool} {b : BitVec 3} {d k : BitVec 7}

/-- Operands of TCNT. -/
def tcntUses (b : BitVec 3) (d k : BitVec 7) : Uses := { tableUses b [0, 1] [(d.toNat, 16)] [(k.toNat, 32)] with keyProg := true }

/-- The lanes of a TCNT: those that execute. -/
def Issue.countLanes (c : Issue) (b : BitVec 3) (d k : BitVec 7) : List Nat := lanesOf ((tcntUses b d k).lanes c)

/-- The key behind which a TCNT begins its walk: where a halt stopped it (R106). -/
def Issue.countedTo (c : Issue) : Option Nat := if c.p.progValid = true ∧ c.p.progPc = c.start then some c.p.prog.toNat else none

/-- The ranges of a TCNT, lane by lane. -/
def State.countRanges (t : State) (c : Issue) (k : BitVec 7) (ls : List Nat) : List (Nat × Nat × Nat) :=
  ls.map fun l => (l, t.src c 0 l k.toNat 16, t.src c 0 l (k.toNat + 16) 16)

/-- The state in which a TCNT checks its handle: behind the acquire that HINT.ORD asks for, which a walk that goes on does not repeat. -/
def State.countStart (t : State) (c : Issue) : State := match sideOf c with
  | some sc => if c.countedTo = none then t.acquire c.w.core sc else t
  | none => t

theorem exec_tcnt_walking {run : CountRun} (h : (tcntUses b d k).begins s (.tcnt sw b d k) sw = some (c, t)) (hw : c.p.walk = some run) :
    exec (.tcnt sw b d k) s = .next (t.walkOn c ((tcntUses b d k).lanes c) run) := by
  rw [exec_tcnt, execTcnt]
  exact State.issueWith_run h rfl (by rw [hw]; rfl)

/-- A TCNT in some lanes, with no result on its way to counts that it takes up again, begins its walk once its handle is found good. -/
theorem exec_tcnt_begins {t2 : State} {x : TDesc} (h : (tcntUses b d k).begins s (.tcnt sw b d k) sw = some (c, t)) (hw : c.p.walk = none)
    (hls : c.countLanes b d k ≠ [])
    (hland : c.countedTo ≠ none → ∀ l, l ∈ c.countLanes b d k →
      c.w.pending.any (fun y => y.dest.overlaps (c.dst l d.toNat 16)) = false)
    (hcheck : (t.countStart c).tableCheck (c.hw none) (c.p.tbind b.toNat) .ordered = (t2, .ok x)) :
    exec (.tcnt sw b d k) s = .next (
      if x.kind = 0 then (t2.putLater c ((t.countRanges c k (c.countLanes b d k)).map fun y =>
        (c.dst y.1 d.toNat 16, min y.2.2 (x.rowcap - 1) + 1 - y.2.1))).complete c
      else t2.walkOn c ((tcntUses b d k).lanes c)
        { bind := b.toNat, ranges := t.countRanges c k (c.countLanes b d k), above := c.countedTo, dest := c.abs d.toNat
          counts := (c.countLanes b d k).map fun l => if c.countedTo = none then 0 else t.src c 1 l d.toNat 16 }) := by
  have hempty : (c.countLanes b d k).isEmpty = false := by simpa [List.isEmpty_eq_false_iff] using hls
  have hlanding : (c.countedTo.isSome && c.w.pending.any fun y => (c.countLanes b d k).any fun l =>
      y.dest.overlaps (c.dst l d.toNat 16)) = false := by
    by_cases ha : c.countedTo = none
    · rw [ha]; rfl
    · simp only [Bool.and_eq_false_iff, List.any_eq_false] at hland ⊢
      refine .inr fun y hy hany => ?_
      obtain ⟨l, hl, ho⟩ := List.any_eq_true.mp hany
      exact hland ha l hl y hy ho
  rw [exec_tcnt, execTcnt]
  refine State.issueWith_run h rfl ?_
  simp only [hw]
  refine (if_neg (ne_true_of_eq_false hempty)).trans ((if_neg (ne_true_of_eq_false hlanding)).trans ?_)
  have hto : (if c.p.progValid = true ∧ c.p.progPc = c.start then some c.p.prog.toNat else none) = c.countedTo := rfl
  unfold State.countStart at hcheck
  rw [hto]
  cases hs : sideOf c <;> cases ha : c.countedTo <;>
    (simp only [hs, ha, Option.isSome_some, Option.isSome_none, reduceCtorEq, if_true, if_false, Bool.false_eq_true] at hcheck ⊢
     simp only [hcheck]
     rfl)

end

/-! ## A stretch of a count's walk (R106, R169, R371) -/

section
variable {s t u : State} {c : Issue} {ls : BitVec 32} {run : CountRun} {x : TDesc}

/-- The keys that a walk meets next: behind an invalid node's 64 reads the Halyard resolves them, unless a commit is under way (R169). -/
def State.countOn (t : State) (c : Issue) (run : CountRun) (x : TDesc) : TRes (List Nat) :=
  t.tcount (c.hw none) x (decide (64 ≤ run.retries) && !(t.committing c.g.part c.g.ctx (c.p.tbind run.bind))) run.ranges run.above

/-- A walk that is to go on when its split is chosen again. -/
def State.walkLater (u : State) (c : Issue) (run : CountRun) : State :=
  (u.waitAt c .ready).modSplit c.id fun p => { p with walk := some run }

/-- The counts of a walk that has met some keys more. -/
def CountRun.counted (run : CountRun) (met : List Nat) : List Nat :=
  (run.ranges.zip run.counts).map fun y => (y.2 + keysWithin met y.1.2.1 y.1.2.2) % 2 ^ 64

variable (hread : s.readDesc (c.hw none) (tbPtr (c.p.tbind run.bind)) = (t, .ok x))
include hread

theorem State.walkOn_fault {code : FaultCode} {addr detail : Nat} (h : t.countOn c run x = (u, .error (.fault code addr detail))) :
    s.walkOn c ls run = u.faultAt c code ls (BitVec.ofNat 64 addr) detail := by
  rw [State.countOn] at h
  simp only [State.walkOn, hread, TRes.andThen, h]

theorem State.walkOn_retry (h : t.countOn c run x = (u, .error .retry)) :
    s.walkOn c ls run = u.walkLater c { run with retries := run.retries + 1 } := by
  rw [State.countOn] at h
  simp only [State.walkOn, hread, TRes.andThen, h, State.walkLater]

/-- A stretch meets at least one key, where one is left: how many is a free value. -/
theorem State.walkOn_met {ks : List Nat} (h : t.countOn c run x = (u, .ok ks)) :
    ∃ m, 1 ≤ m ∧ s.walkOn c ls run =
      if ks.length ≤ m then
        (u.putLater c ((run.ranges.zip (run.counted (ks.take m))).map fun y => (.slices y.1.1 run.dest 16, y.2))).complete c
      else u.walkLater c { run with counts := run.counted (ks.take m), above := (ks.take m).getLast? } := by
  refine ⟨Config.pick s.free 24 c.id.split ks.length % ks.length + 1, Nat.le_add_left _ _, ?_⟩
  rw [State.countOn] at h
  simp only [State.walkOn, hread, TRes.andThen, h, State.walkLater, CountRun.counted]

end

/-! ## A walk that a halt stops (R106) -/

theorem Split.stopStc_none {p : Split} (h : p.stc = none) : p.stopStc = p := by simp only [Split.stopStc, h]

@[simp] theorem Warp.split_modLane (w : Warp) (l n : Nat) (f : Lane → Lane) : (w.modLane l f).split n = w.split n := rfl

theorem Warp.write1_slices_splits (w : Warp) (n l st k v : Nat) : (w.write1 n (.slices l st k) v).splits = w.splits := by
  unfold Warp.write1
  split <;> rfl

theorem Warp.foldl_splits {α : Type} {f : Warp → α → Warp} (hf : ∀ w x, (f w x).splits = w.splits) (xs : List α) (w : Warp) :
    (xs.foldl f w).splits = w.splits := by
  induction xs generalizing w with
  | nil => rfl
  | cons x xs ih => rw [List.foldl_cons, ih, hf]

/-- Slices that a warp writes leave its splits alone. -/
theorem Warp.write_slices_splits (w : Warp) (n l st k v : Nat) : (w.write n (.slices l st k) v).splits = w.splits := by
  unfold Warp.write
  split
  · exact Warp.foldl_splits (fun w i => Warp.write1_slices_splits _ _ _ _ _ _) _ w
  · rfl

/-- Slices with no result on their way are written at once. -/
theorem Warp.write_slices_clear {w : Warp} {l st k : Nat} (h : (w.pending.any fun x => x.dest.overlaps (.slices l st k)) = false)
    (n v : Nat) :
    w.write n (.slices l st k) v = w.modLane l fun x => x.put st k v := by
  have hb : (w.pending.any fun x => x.blocks n (.slices l st k)) = false := by
    simpa only [Pending.blocks, Dest.perSplit, Bool.not_false, Bool.true_or, Bool.and_true] using h
  simp only [Warp.write, hb, Bool.false_eq_true, if_false, Warp.land]

/-- The counts of a walk that stops, in its destination. -/
def Warp.putCounts (w : Warp) (n : Nat) (run : CountRun) : Warp :=
  (run.ranges.zip run.counts).foldl (fun w y => w.write n (.slices y.1.1 run.dest 16) y.2) w

theorem Warp.putCounts_splits (w : Warp) (n : Nat) (run : CountRun) : (w.putCounts n run).splits = w.splits :=
  Warp.foldl_splits (fun w _ => Warp.write_slices_splits w n _ _ _ _) _ w

section
variable {w : Warp} {n k : Nat} {p : Split} {run : CountRun}

theorem Warp.stopWalk_counts (hp : w.split n = some p) (hw : p.walk = some run) (hs : p.stc = none) (ha : run.above = some k) :
    w.stopWalk n = (((w.modSplit n Split.stopStc).modSplit n fun p => { p with walk := none }).putCounts n run).modSplit n fun p =>
      { p with prog := BitVec.ofNat 64 k, progValid := true, progPc := p.pc - BitVec.ofNat 64 (4 * p.hints.length) } := by
  have hwalk : ((w.modSplit n Split.stopStc).split n).bind (·.walk) = some run := by
    rw [Warp.split_modSplit, if_pos rfl, hp, Option.map_some, Option.bind_some, Split.stopStc_none hs, hw]
  simp only [Warp.stopWalk, hwalk, ha]
  rfl

theorem Warp.split_stopWalk (hp : w.split n = some p) (hw : p.walk = some run) (hs : p.stc = none) (ha : run.above = some k) (j : Nat) :
    (w.stopWalk n).split j = if j = n then some { p with
      walk := none, prog := BitVec.ofNat 64 k, progValid := true, progPc := p.pc - BitVec.ofNat 64 (4 * p.hints.length) } else w.split j := by
  have hsplit (x : Warp) : (x.putCounts n run).split j = x.split j := by rw [Warp.split, Warp.putCounts_splits]; rfl
  rw [Warp.stopWalk_counts hp hw hs ha, Warp.split_modSplit, hsplit, Warp.split_modSplit, Warp.split_modSplit]
  by_cases hj : j = n
  · simp [hj, hp, Split.stopStc_none hs]
  · simp [hj]

/-- The count of the one lane of a walk is in its destination. -/
theorem Warp.lane_stopWalk (hp : w.split n = some p) (hw : p.walk = some run) (hs : p.stc = none) (ha : run.above = some k)
    {l lo hi m : Nat}
    (hzip : run.ranges.zip run.counts = [((l, lo, hi), m)]) (hl : l < w.lanes.length) (hd : run.dest + 16 ≤ 1024)
    (hclear : (w.pending.any fun x => x.dest.overlaps (.slices l run.dest 16)) = false) :
    ((w.stopWalk n).lane l).get run.dest 16 = m % 2 ^ 64 := by
  have hput : ((w.modSplit n Split.stopStc).modSplit n fun p => { p with walk := none }).putCounts n run =
      ((w.modSplit n Split.stopStc).modSplit n fun p => { p with walk := none }).modLane l fun x => x.put run.dest 16 m := by
    have hclear' : (((w.modSplit n Split.stopStc).modSplit n fun p => { p with walk := none }).pending.any fun x =>
        x.dest.overlaps (.slices l run.dest 16)) = false := by rwa [Warp.modSplit_pending, Warp.modSplit_pending]
    rw [Warp.putCounts, hzip, List.foldl_cons, List.foldl_nil, Warp.write_slices_clear hclear']
  have hlane : (w.stopWalk n).lane l = (w.lane l).put run.dest 16 m := by
    rw [Warp.stopWalk_counts hp hw hs ha, hput]
    exact (Warp.lane_modLane _ l l _).trans (if_pos ⟨rfl, hl⟩)
  rw [hlane, Lane.get_put _ hd]

end

theorem tableLookups : TableLookups := by
  intro sw b d k p
  refine ⟨lookupRuns_of _ (exec_tget sw b d k p) fun s c t hf => ?_, lookupRuns_of _ (exec_tgetx sw b d k p) fun s c t hf => ?_,
    lookupRuns_of _ (exec_tref sw b d k) fun s c t hf => ?_, lookupRuns_of _ (exec_tnext sw b d k p) fun s c t hf => ?_,
    fun s c t => exec_tscan_clean,
    fun s c t t2 x h hw hls hland hcheck => ?_, fun s c t run h hw => exec_tcnt_walking h hw⟩
  · simp only [lookReq, hf]
  · simp only [lookReq, hf]
  · simp only [lookReq, hf]
  · simp only [lookReq, hf]
  · have hexec := exec_tcnt_begins h hw hls hland hcheck
    exact ⟨fun hk => by rwa [if_pos hk] at hexec, fun hk => by rwa [if_neg hk] at hexec⟩

theorem countWalks : CountWalks := by
  intro s c ls run t x hread
  exact ⟨fun u ks h => State.walkOn_met hread h, fun u h => State.walkOn_retry hread h,
    fun u code addr detail h => State.walkOn_fault hread h⟩

theorem walksStop : WalksStop := by
  intro w n p run k hp hw hs ha hn hlen
  have hsplit := Warp.split_stopWalk hp hw hs ha
  refine ⟨(hsplit n).trans (if_pos rfl), fun j hj => (hsplit j).trans (if_neg hj), fun l lo hi m hzip hl hlen hd hclear => ?_⟩
  exact Warp.lane_stopWalk hp hw hs ha hzip (by omega) hd hclear

end Sys2Proof.Machine

/-- Settles O21: lookups and cursors, the stretches of a count's walk, and the walk that a halt stops. -/
theorem tableLookupsComplete : Obligations.TableLookupsComplete :=
  ⟨Sys2Proof.Machine.tableLookups, Sys2Proof.Machine.countWalks, Sys2Proof.Machine.walksStop⟩
end

section
/-! SUPPORT. The Mast: placement, reservations, releases and bins (R80 to R87, R92). -/
namespace Sys2Proof.Machine

variable {s : State}

/-! ## Placement (R80 to R82) -/

/-- Launches that place nothing are passed over. -/
theorem State.placeFirst_append {ls : List Launch} (h : ∀ k ∈ ls, s.placeNext k = none) (ms : List Launch) :
    s.placeFirst (ls ++ ms) = s.placeFirst ms := by
  induction ls with
  | nil => rfl
  | cons l ls ih =>
    obtain ⟨hl, hls⟩ := List.forall_mem_cons.mp h
    rw [List.cons_append, State.placeFirst, hl, ih hls]

theorem State.placeFirst_places {l : Launch} {t : State} (h : s.placeNext l = some t) (ls : List Launch) :
    s.placeFirst (l :: ls) = some t := by
  rw [State.placeFirst, h]

theorem exec_workgroupPlace_places {ls ms : List Launch} {m : Launch} {t : State}
    (ho : (s.noteStuck s.args.p).placeOrder s.args.p = ls ++ m :: ms) (hn : ∀ k ∈ ls, (s.noteStuck s.args.p).placeNext k = none)
    (ht : (s.noteStuck s.args.p).placeNext m = some t) : Goes .workgroupPlace s t := by
  simp only [Goes, exec_workgroupPlace, execWorkgroupPlace, ho, State.placeFirst_append hn, State.placeFirst_places ht, Option.getD_some]

theorem exec_workgroupPlace_none
    (h : (s.noteStuck s.args.p).placeFirst ((s.noteStuck s.args.p).placeOrder s.args.p) = none) :
    Goes .workgroupPlace s (s.noteStuck s.args.p) := by
  simp only [Goes, exec_workgroupPlace, execWorkgroupPlace, h, Option.getD_none]

/-- A launch that is placed workgroup by workgroup goes to the core that is reserved for it, and nowhere else. -/
theorem State.placeNext_reserved {l : Launch} {x : NextWg} {k : Nat} (hx : l.next = some x) (hd : l.record.coopDie = false)
    (hq : l.record.coopQuad = false ∨ x.was ≠ none) (hk : s.reservedFor l x = some k) :
    s.placeNext l = if s.coreFits k l.record.tmpl then some (s.placeOn l x k) else none := by
  have hsingle : s.placeNext l = s.placeSingle l x := by
    simp only [State.placeNext, hx, hd, Bool.false_eq_true, if_false]
    by_cases hw : x.was = none
    · have hq' : l.record.coopQuad = false := hq.resolve_right (not_not.mpr hw)
      simp only [hq', Bool.false_eq_true, if_false, ite_self]
    · exact if_pos (Option.isSome_iff_ne_none.mpr hw)
  simp only [hsingle, State.placeSingle, hk]

theorem State.putWg_reservations (s : State) (l : Launch) (x : NextWg) (k : Nat) : (s.putWg l x k).reservations = s.reservations := by
  show (if l.queue.isNone then (s.modCtx l.part l.ctx _).dropCache k else s.modCtx l.part l.ctx _).reservations = _
  split <;> rfl

/-- The reservation of the core that a workgroup is placed on ends (R82). -/
theorem State.placeOn_reservations (s : State) (l : Launch) (x : NextWg) (k : Nat) :
    (s.placeOn l x k).reservations = s.reservations.filter fun r => !(r.launch == l.id && r.core == some k) := by
  rw [← State.putWg_reservations s l x k]
  rfl

/-! ## Reservations (R82, R87) -/

theorem exec_drainReservation_best {l : Launch} {x : NextWg} {k : Nat} (hl : s.drainDue s.args.p = some (l, x))
    (hq : l.record.coopQuad = false)
    (hk : s.bestRatio l.record.tmpl ((s.candidateCores l x).filter fun k => !s.dieReserved (dieOf k)) = some k) :
    Goes .drainReservation s { s with reservations := s.reservations ++ [⟨BitVec.ofNat 2 (dieOf k), l.id, some k⟩] } := by
  simp only [Goes, exec_drainReservation, execDrainReservation, hl, hq, Bool.not_false, Bool.true_or, Bool.and_true, hk]

theorem exec_coopDieReserve_due {l : Launch} (h : s.coopDue s.args.p = some l) :
    Goes .coopDieReserve s
      { s with reservations := s.reservations ++ (diesOf (s.launchDies l)).map fun d => ⟨BitVec.ofNat 2 d, l.id, none⟩ } := by
  simp only [Goes, exec_coopDieReserve, execCoopDieReserve, h]

/-! ## Releases (R84) and bins (R92) -/

theorem exec_resourceRelease_warp {w : Warp} (hf : s.args.flag = false) (hw : s.warp? s.args.i = some w) (he : w.exited = true) :
    Goes .resourceRelease s (s.modWarp w.id fun x => { x with
      reserved := false, accsReserved := x.accsReserved && s.jobs.any fun j => j.kind == .mma && j.warp == w.id }) := by
  simp only [Goes, exec_resourceRelease, execResourceRelease, hf, hw, he, State.mmasDone, Bool.not_not,
    Bool.false_eq_true, if_false, if_true]

theorem State.wgOver_iff {g : Workgroup} :
    s.wgOver g = true ↔ (∀ w ∈ s.warpsOf g.id, w.exited = true) ∧ ∀ j ∈ s.jobs, j.wg ≠ g.id := by
  simp [State.wgOver, List.all_eq_true]

theorem exec_resourceRelease_wg {g : Workgroup} (hf : s.args.flag = true) (hg : s.wg? s.args.i = some g) (h : s.wgOver g = true) :
    Goes .resourceRelease s (s.removeWg g).dropStale := by
  simp only [Goes, exec_resourceRelease, execResourceRelease, hf, hg, h, if_true]

theorem exec_packFlushTimeout_due {b : Bin} (hb : s.bins[s.args.i]? = some b) (ht : 17 * b.flushNs ≤ 10 * (s.cycle - b.first)) :
    Goes .packFlushTimeout s (s.flushBin b) := by
  have hdue : s.dueBins.contains b = true :=
    List.contains_iff_mem.mpr (List.mem_filter.mpr ⟨List.mem_of_getElem? hb, decide_eq_true ht⟩)
  simp only [Goes, exec_packFlushTimeout, execPackFlushTimeout, hb, hdue, if_true]

end Sys2Proof.Machine

open Sys2Proof.Machine

/-- Settles O36, event by event; the two clauses on the order of R81 are one, with no launch before the first. -/
theorem placementEvents : Obligations.PlacementEvents := by
  intro s
  refine ⟨fun l ls t ho ht => ?_, fun ls m ms t ho hn ht => exec_workgroupPlace_places ho hn ht, exec_workgroupPlace_none,
    fun l x k => exec_drainReservation_best, fun l x k => State.placeNext_reserved, State.placeOn_reservations s,
    fun l => exec_coopDieReserve_due, fun w => exec_resourceRelease_warp, fun g hf hg hw hj => ?_, fun b => exec_packFlushTimeout_due⟩
  · exact exec_workgroupPlace_places (ls := []) ho (fun _ hk => absurd hk List.not_mem_nil) ht
  · exact exec_resourceRelease_wg hf hg (State.wgOver_iff.mpr ⟨hw, hj⟩)
end

section
/-! SUPPORT. Results that land, stores that settle, and splits that go on (R97, R182, R210, R256, R281, R284, R300). -/
namespace Sys2Proof.Machine

section
variable {s : State} {w : Warp}

/-! ## Landing and settling -/

theorem exec_resultLands_part (hw : s.warp? s.args.i = some w) (hl : w.landable s.args.addr = true) (hp : 1 < w.partsLeft s.args.addr) :
    Goes .resultLands s (s.bindPart w.id s.args.addr) := by
  simp only [Goes, exec_resultLands, execResultLands, hw, hl, Bool.true_eq_false, if_false, if_pos hp]

theorem exec_resultLands_last (hw : s.warp? s.args.i = some w) (hl : w.landable s.args.addr = true) (hp : w.partsLeft s.args.addr ≤ 1) :
    Goes .resultLands s
      (State.landFixed w.pending.length w.id ((s.landAt w.id s.args.addr).landed w.id w.pending[s.args.addr]?)) := by
  simp only [Goes, exec_resultLands, execResultLands, hw, hl, Bool.true_eq_false, if_false, if_neg (Nat.not_lt.mpr hp)]

theorem exec_storeSettled_settleable {g : Workgroup} (hw : s.warp? s.args.i = some w) (hg : s.wg? w.wg = some g)
    (hs : s.settleable w g s.args.addr = true) :
    Goes .storeSettled s (((s.settlePart w.id s.args.addr).unpark w.id).tryExit w.id) := by
  simp only [Goes, exec_storeSettled, execStoreSettled, hw, hg, hs, if_true]

/-! ## Waits that end -/

section
variable {p : Split} (hw : s.warp? s.args.i = some w) (hp : w.split s.args.split.toNat = some p)
include hw hp

theorem exec_yieldTimeout_over {d : Nat} {os : List (Nat × Nat)} (hwait : p.wait = .yield d os) (hd : d ≤ s.cycle) :
    Goes .yieldTimeout s (s.resume ⟨s.args.i, s.args.split.toNat⟩ fun p => p.goOn (s.cycle + 1)) := by
  simp only [Goes, exec_yieldTimeout, execYieldTimeout, hw, Option.bind_some, hp, hwait, if_pos hd]

theorem exec_sleepExpiry_over {d : Nat} (hwait : p.wait = .sleep d) (hd : d ≤ s.cycle) :
    Goes .sleepExpiry s (s.resume ⟨s.args.i, s.args.split.toNat⟩ fun p => p.wake (s.cycle + 1)) := by
  simp only [Goes, exec_sleepExpiry, execSleepExpiry, hw, Option.bind_some, hp, hwait, if_pos hd]

theorem exec_sleepExpiry_early {d : Nat} (hwait : p.wait = .sleep d) (hd : s.cycle < d) : Goes .sleepExpiry s s := by
  simp only [Goes, exec_sleepExpiry, execSleepExpiry, hw, Option.bind_some, hp, hwait, if_neg (Nat.not_le.mpr hd)]

theorem exec_splitLift_due (hl : s.liftDue w p = true) :
    Goes .splitLift s (s.modSplit ⟨w.id, s.args.split.toNat⟩ fun p => { p with lifted := true }) := by
  simp only [Goes, exec_splitLift, execSplitLift, hw, hp, hl, if_true]

end

theorem exec_waitePoll_due {c : Issue} {q v : Word} (hc : s.waitingIssue s.args.i s.args.split.toNat = some c)
    (hwait : c.p.wait = .waite q v) (hd : s.waiteDue c = true) : Goes .waitePoll s (s.readEvent c q.toNat v.toNat) := by
  simp only [Goes, exec_waitePoll, execWaitePoll, hc, hwait, hd, if_true]

end
end Sys2Proof.Machine

open Sys2Proof.Machine

/-- Settles O37, event by event. -/
theorem warpEvents : Obligations.WarpEvents := by
  intro s
  refine ⟨fun w hw hl => ⟨fun hp => ?_, exec_resultLands_part hw hl⟩, fun w g => exec_storeSettled_settleable, fun w p hw hp =>
    ⟨fun d os => exec_yieldTimeout_over hw hp, fun d => exec_sleepExpiry_over hw hp, fun d => exec_sleepExpiry_early hw hp,
      exec_splitLift_due hw hp⟩, fun c q v => exec_waitePoll_due⟩
  have hlast := exec_resultLands_last hw hl hp
  cases hx : w.pending[s.args.addr]? with
  | none => rwa [hx] at hlast
  | some x => rwa [hx] at hlast
end

section
/-! SUPPORT. Rungs, missed times, resets, starved barriers and lost workgroups (R212 to R220, R347). -/
namespace Sys2Proof.Machine

/-! ## The WARP rung -/

section
variable {s : State} {i : Nat} {w : Warp} {g : Workgroup} {r : FaultRec}
  (hw : s.warp? i = some w) (hg : s.wg? w.wg = some g) (hr : w.raised = some r) (hh : w.handler = none)
include hw hg hh

/-- A rung that is not entered: a split between two issue boundaries, or another context on the cores. -/
theorem State.warpEnters_early (h : s.running g = false ∨ s.canStop w = false) : s.warpEnters i = s := by
  have hdue : s.warpDue w = false := by
    simp only [State.warpDue, hg, hh, Option.any_some]
    rcases h with h | h <;> simp only [h, Bool.and_false, Bool.false_and]
  simp only [State.warpEnters, hw, hdue, Bool.false_eq_true, if_false]

include hr

theorem State.warpEnters_due (hrun : s.running g = true) (hstop : s.canStop w = true) (hgr : g.raised = none) :
    s.warpEnters i = s.enterWarp i := by
  have hdue : s.warpDue w = true := by
    simp only [State.warpDue, hg, hr, hh, hrun, hstop, Option.any_some, Option.isSome_some, Bool.and_self]
  simp only [State.warpEnters, hw, hdue, if_true, hg, Option.any_some, hgr, Option.isSome_none, Bool.false_eq_true, if_false, hh]

end

/-- A warp whose splits have stopped for its WARP rung. -/
def Warp.stoppedForRung (x : Warp) : Warp :=
  { x with raised := none, delivering := [], splits := x.splits.map (Option.map Split.stop) }

/-- A warp whose WARP handler has begun on split `n`. -/
def Warp.warpHandler (r : FaultRec) (n v now : Nat) (x : Warp) : Warp :=
  { x with
    fmask := r.fmask, frec := some { r with rung := 1 }, late := x.late.map fun l => { l with inHandler := false }
    handler := some ⟨1, n, true, x.splits, now⟩
    splits := modifyAt (Option.map fun p => handlerSplit p v (liveLanes x.splits) (now + 1)) x.splits n }

section
variable {s t2 t3 : State} {i v : Nat} {w w1 : Warp} {g : Workgroup} {r : FaultRec}
  (hw : s.warp? i = some w) (hg : s.wg? w.wg = some g) (hr : w.raised = some r)
  {n : Nat} (hn : n = if (w.split r.split.toNat).isSome then r.split.toNat else w.valid.headD 0)
include hw hg hr hn

theorem State.enterWarp_noVector
    (hv : (s.modWarp i Warp.stoppedForRung).vector (w.agent g n none) (s.vecBase g) 1 r.code.num = none) :
    s.enterWarp i = (s.modWarp i Warp.stoppedForRung).raiseWg g.id r := by
  subst hn
  simp only [State.enterWarp, hw, hg, hr]
  split
  · rfl
  · next e => cases e.symm.trans hv

variable (hw1 : (s.modWarp i Warp.stoppedForRung).warp? i = some w1)
  (hv : (s.modWarp i Warp.stoppedForRung).vector (w.agent g n none) (s.vecBase g) 1 r.code.num = some (t2, v))
include hw1 hv

theorem State.enterWarp_noFrame {e : MErr}
    (hf : t2.writeCore (w.agent g n none) (frameAddr (s.vecBase g) w.core w.slot 1) (w1.header g w1.splits (some { r with rung := 1 })) =
      (t3, .error e)) :
    s.enterWarp i = t3.raiseWg g.id r := by
  have hm := State.vector_mapped hv
  have hw2 : t2.warp? i = some w1 := (hm.warp? i).trans hw1
  have hbase : t2.vecBase g = s.vecBase g := by simp only [State.vecBase, hm.ctx]; rfl
  subst hn
  simp only [State.enterWarp, hw, hg, hr]
  split
  · next e => cases e.symm.trans hv
  · next ev =>
    cases ev.symm.trans hv
    simp only [hw2, hbase, hf]

theorem State.enterWarp_enters
    (hf : t2.writeCore (w.agent g n none) (frameAddr (s.vecBase g) w.core w.slot 1) (w1.header g w1.splits (some { r with rung := 1 })) =
      (t3, .ok ())) :
    s.enterWarp i = (t3.dropOwn i).modWarp i (Warp.warpHandler r n v s.cycle) := by
  have hm := State.vector_mapped hv
  have hw2 : t2.warp? i = some w1 := (hm.warp? i).trans hw1
  have hbase : t2.vecBase g = s.vecBase g := by simp only [State.vecBase, hm.ctx]; rfl
  subst hn
  simp only [State.enterWarp, hw, hg, hr]
  split
  · next e => cases e.symm.trans hv
  · next ev =>
    cases ev.symm.trans hv
    simp only [hw2, hbase, hf]
    rfl

end

theorem exec_warpRungEntry_enters {s t : State} (h : s.warpEnters s.args.i = t) : Goes .warpRungEntry s t :=
  congrArg Host.Outcome.next h

/-- The WARP rung is entered, with its frame written, or the fault climbs; or it is not due. -/
theorem warpRung (s : State) : WarpRung s s.args.i := by
  intro w g r w1 hw hg hr hh
  refine ⟨fun hrun hstop hgr => ?_, fun h => exec_warpRungEntry_enters (State.warpEnters_early hw hg hh h)⟩
  intro n r1 s1 vec hw1
  have hdue := State.warpEnters_due hw hg hr hh hrun hstop hgr
  refine ⟨fun hv => exec_warpRungEntry_enters (hdue.trans (State.enterWarp_noVector hw hg hr rfl hv)), fun t2 v hv => ?_⟩
  refine ⟨fun t3 e hf => exec_warpRungEntry_enters (hdue.trans (State.enterWarp_noFrame hw hg hr rfl hw1 hv hf)), fun t3 hf => ?_⟩
  have hwarps (k : Nat) : t3.warp? k = s1.warp? k := by
    have hk := State.writeCore_kept t2 (w.agent g n none) (frameAddr (s.vecBase g) w.core w.slot 1) (w1.header g w1.splits (some r1))
    rw [show t2.writeCore _ _ _ = _ from hf] at hk
    exact (hk.warp? k).trans ((State.vector_mapped hv).warp? k)
  refine ⟨_, exec_warpRungEntry_enters (hdue.trans (State.enterWarp_enters hw hg hr rfl hw1 hv hf)), rfl, rfl, rfl, fun k hk => ?_, ?_⟩
  · exact (State.warp?_modWarp_ne (t3.dropOwn _) hk (Warp.warpHandler r _ v s.cycle) fun _ => rfl).trans
      ((hwarps k).trans (State.warp?_modWarp_ne s hk _ fun _ => rfl))
  · exact State.warp?_modWarp_self ((hwarps _).trans hw1) _ fun _ => rfl

/-! ## Several warps at once -/

/-- No two warps of different content bear one number. -/
def State.warpsNamed (s : State) : Prop := ∀ x ∈ s.warps, s.warp? x.id = some x

theorem State.modWarp_warpsNamed {s : State} (h : s.warpsNamed) (k : Nat) {f : Warp → Warp} (hf : ∀ w, (f w).id = w.id) :
    (s.modWarp k f).warpsNamed := by
  intro x hx
  obtain ⟨y, hy, rfl⟩ := List.mem_map.mp hx
  have hid : (if y.id = k then f y else y).id = y.id := by split <;> simp only [hf]
  rw [State.warp?_modWarp _ _ _ _ hf, hid, h y hy, Option.map_some]

/-- Change by `f` each warp that a list names. -/
def State.modWarps (s : State) (f : Warp → Warp) (xs : List Warp) : State := xs.foldl (fun t x => t.modWarp x.id f) s

section
variable (s : State) (f : Warp → Warp) (xs : List Warp)

@[simp] theorem State.modWarps_parts : (s.modWarps f xs).parts = s.parts := by
  induction xs generalizing s with
  | nil => rfl
  | cons x xs ih => exact ih _

@[simp] theorem State.modWarps_wgs : (s.modWarps f xs).wgs = s.wgs := by
  induction xs generalizing s with
  | nil => rfl
  | cons x xs ih => exact ih _

@[simp] theorem State.modWarps_mem : (s.modWarps f xs).mem = s.mem := by
  induction xs generalizing s with
  | nil => rfl
  | cons x xs ih => exact ih _

@[simp] theorem State.modWarps_host : (s.modWarps f xs).host = s.host := by
  induction xs generalizing s with
  | nil => rfl
  | cons x xs ih => exact ih _

variable {f} (hid : ∀ w, (f w).id = w.id)
include hid

theorem State.modWarps_warpsNamed {s : State} (h : s.warpsNamed) : (s.modWarps f xs).warpsNamed := by
  induction xs generalizing s with
  | nil => exact h
  | cons x xs ih => exact ih (State.modWarp_warpsNamed h x.id hid)

/-- A change that comes to the same when made twice reaches each named warp once. -/
theorem State.warp?_modWarps (hff : ∀ w, f (f w) = f w) (k : Nat) :
    (s.modWarps f xs).warp? k = (s.warp? k).map fun w => if k ∈ xs.map (·.id) then f w else w := by
  induction xs generalizing s with
  | nil => simp [State.modWarps]
  | cons x xs ih =>
    refine (ih (s.modWarp x.id f)).trans ?_
    rw [State.warp?_modWarp _ _ _ _ hid, Option.map_map]
    refine congrArg (Option.map · _) (funext fun w => ?_)
    by_cases hx : k = x.id <;> by_cases hxs : k ∈ xs.map (·.id) <;> simp [hx, hxs, hff]

end

/-- Two changes that agree on the warps with a number. -/
theorem State.modWarp_congr {s : State} {k : Nat} {f f' : Warp → Warp} (h : ∀ w ∈ s.warps, w.id = k → f w = f' w) :
    s.modWarp k f = s.modWarp k f' := by
  have hw : (s.warps.map fun w => if w.id = k then f w else w) = s.warps.map fun w => if w.id = k then f' w else w :=
    List.map_congr_left fun w hm => ite_congr rfl (h w hm) fun _ => rfl
  exact congrArg (fun ws => { s with warps := ws }) hw

/-! ## The WORKGROUP rung -/

/-- A warp whose splits have stopped for its workgroup's rung. -/
def Warp.stopped (x : Warp) : Warp := { x with splits := x.splits.map (Option.map Split.stop) }

theorem Warp.unraise_none {w : Warp} (h : w.raised = none) : w.unraise = w := by simp only [Warp.unraise, h]

/-- Where no warp has raised a fault, stopping puts none off. -/
theorem State.foldl_stop (xs : List Warp) (s : State) (h : ∀ y ∈ s.warps, y.id ∈ xs.map (·.id) → y.raised = none) :
    xs.foldl (fun t w => t.modWarp w.id fun x => { x.unraise with splits := x.unraise.splits.map (Option.map Split.stop) }) s =
      s.modWarps Warp.stopped xs := by
  induction xs generalizing s with
  | nil => rfl
  | cons x xs ih =>
    have hx : (s.modWarp x.id fun y => { y.unraise with splits := y.unraise.splits.map (Option.map Split.stop) }) =
        s.modWarp x.id Warp.stopped :=
      State.modWarp_congr fun y hy hk => by
        rw [Warp.unraise_none (h y hy (by simp [hk]))]; rfl
    rw [List.foldl_cons, hx]
    refine ih _ fun y hy hk => ?_
    obtain ⟨z, hz, rfl⟩ := List.mem_map.mp hy
    have hid : (if z.id = x.id then z.stopped else z).id = z.id := by split <;> rfl
    have hraised : (if z.id = x.id then z.stopped else z).raised = z.raised := by split <;> rfl
    rw [hraised]
    exact h z hz (by rw [hid] at hk; exact List.mem_cons_of_mem _ hk)

/-- A warp without a handler gives none up. -/
theorem State.foldl_abandon_none {s : State} (xs : List Warp) (h : ∀ x ∈ xs, s.warp? x.id = some x ∧ x.handler = none) :
    xs.foldl (fun t w => t.abandon w.id) s = s := by
  induction xs with
  | nil => rfl
  | cons x xs ih =>
    obtain ⟨hw, hh⟩ := h x List.mem_cons_self
    have hx : s.abandon x.id = s := by
      simp only [State.abandon, hw]
      split
      · next hk => cases hh.symm.trans hk
      · rfl
    rw [List.foldl_cons, hx]
    exact ih fun y hy => h y (List.mem_cons_of_mem _ hy)

/-- The warp of the lower number. -/
def lowerNum (o : Option Warp) (w : Warp) : Option Warp := match o with
  | some v => if w.num < v.num then some w else some v
  | none => some w

theorem foldl_lowerNum_kept {w : Warp} (xs : List Warp) (h : ∀ x ∈ xs, x ≠ w → w.num < x.num) :
    xs.foldl lowerNum (some w) = some w := by
  induction xs with
  | nil => rfl
  | cons x xs ih =>
    have hx : lowerNum (some w) x = some w := by
      by_cases hxw : x = w
      · simp [lowerNum, hxw]
      · simp [lowerNum, Nat.not_lt.mpr (h x List.mem_cons_self hxw).le]
    rw [List.foldl_cons, hx]
    exact ih fun y hy => h y (List.mem_cons_of_mem _ hy)

theorem foldl_lowerNum {w : Warp} {xs : List Warp} (hw : w ∈ xs) (h : ∀ x ∈ xs, x ≠ w → w.num < x.num) (o : Option Warp)
    (ho : ∀ v, o = some v → v ≠ w → w.num < v.num) : xs.foldl lowerNum o = some w := by
  induction xs generalizing o with
  | nil => cases hw
  | cons x xs ih =>
    have htail : ∀ y ∈ xs, y ≠ w → w.num < y.num := fun y hy => h y (List.mem_cons_of_mem _ hy)
    rw [List.foldl_cons]
    by_cases hxw : x = w
    · subst hxw
      have hx : lowerNum o x = some x := by
        cases o with
        | none => rfl
        | some v =>
          by_cases hv : v = x
          · simp [lowerNum, hv]
          · simp [lowerNum, ho v rfl hv]
      rw [hx]
      exact foldl_lowerNum_kept xs htail
    · refine ih ((List.mem_cons.mp hw).resolve_left (Ne.symm hxw)) htail _ fun v hv hne => ?_
      cases o with
      | none => cases hv; exact h x List.mem_cons_self hxw
      | some u =>
        simp only [lowerNum] at hv
        split at hv <;> cases hv
        · exact h x List.mem_cons_self hxw
        · exact ho _ rfl hne

/-- The state in which a workgroup's warps have stopped for its rung, and the warps that are live then. -/
def State.wgStopped (s : State) (gid : Nat) : State := s.modWarps Warp.stopped (s.warpsOf gid)
def State.liveOf (s : State) (gid : Nat) : List Warp := (s.warpsOf gid).filter fun x => !x.exited && !x.valid.isEmpty

/-- A warp whose workgroup's handler runs, in warp `first`. -/
def Warp.inWgHandler (first now : Nat) (y : Warp) : Warp :=
  { y with handler := some ⟨2, y.valid.headD 0, y.id == first, y.splits, now⟩ }

/-- The warp in which the handler begins, on split `n`. -/
def Warp.wgHandler (r : FaultRec) (n v now : Nat) (y : Warp) : Warp :=
  { y with
    fmask := r.fmask, frec := some { r with rung := 2 }, late := y.late.map fun l => { l with inHandler := false }
    splits := modifyAt (Option.map fun p => handlerSplit p v (liveLanes y.splits) (now + 1)) y.splits n }

/-- The handler of workgroup `gid` begins in warp `w` of its live ones. -/
def State.wgHandlerBegins (t : State) (gid : Nat) (live : List Warp) (w : Warp) (r : FaultRec) (v now : Nat) : State :=
  ((((t.modWarps (Warp.inWgHandler w.id now) live).noteFmask gid r).modWarp w.id
    (Warp.wgHandler r (w.valid.headD 0) v now)).dropOwn w.id).modWg gid fun x => { x with raised := none, handler := some now }

section
variable {s s3 s4 : State} {gid v : Nat} {g : Workgroup} {r : FaultRec} {w : Warp}
  (hg : s.wg? gid = some g) (hr : g.raised = some r) (hn : s.warpsNamed)
  (hno : ∀ x ∈ s.warpsOf gid, x.handler = none ∧ x.raised = none)
include hn hno

theorem State.foldl_abandon_warpsOf : (s.warpsOf gid).foldl (fun t w => t.abandon w.id) s = s :=
  State.foldl_abandon_none _ fun x hx => ⟨hn x (List.mem_of_mem_filter hx), (hno x hx).1⟩

theorem State.foldl_stop_warpsOf :
    (s.warpsOf gid).foldl (fun t w =>
      t.modWarp w.id fun x => { x.unraise with splits := x.unraise.splits.map (Option.map Split.stop) }) s =
      s.wgStopped gid := by
  refine State.foldl_stop _ s fun y hy hk => ?_
  obtain ⟨x, hx, hid⟩ := List.mem_map.mp hk
  have hxy : some x = some y := (hn x (List.mem_of_mem_filter hx)).symm.trans (hid ▸ hn y hy)
  cases hxy
  exact (hno _ hx).2

include hg hr

theorem State.enterWg_noLive (hl : (s.wgStopped gid).liveOf gid = []) : s.enterWg gid = (s.wgStopped gid).climbCtx gid r := by
  have hl' : ((s.wgStopped gid).warpsOf gid).filter (fun x => !x.exited && !x.valid.isEmpty) = [] := hl
  simp only [State.enterWg, hg, hr, State.foldl_abandon_warpsOf hn hno, State.foldl_stop_warpsOf hn hno, hl', List.foldl_nil]

theorem State.enterWg_enters (hw : w ∈ (s.wgStopped gid).liveOf gid)
    (hlow : ∀ x ∈ (s.wgStopped gid).liveOf gid, x ≠ w → w.num < x.num)
    (hv : (s.wgStopped gid).vector (w.agent g (w.valid.headD 0) none) (s.vecBase g) 2 r.code.num = some (s3, v))
    (hf : State.writeFrames g w.id { r with rung := 2 } ((s.wgStopped gid).liveOf gid) s3 = some s4) :
    s.enterWg gid = s4.wgHandlerBegins gid ((s.wgStopped gid).liveOf gid) w r v s.cycle := by
  have hlive := foldl_lowerNum hw hlow none fun _ h => by cases h
  have hbase : (s.wgStopped gid).vecBase g = s.vecBase g := by
    simp only [State.vecBase, State.ctx, State.part, State.wgStopped, State.modWarps_parts]
  simp only [State.enterWg, hg, hr, State.foldl_abandon_warpsOf hn hno, State.foldl_stop_warpsOf hn hno]
  simp only [State.liveOf] at hf
  split
  · next e => cases e.symm.trans hlive
  · next e =>
    cases e.symm.trans hlive
    simp only [hbase, hv, hf]
    rfl

end

/-! ## What the handler of a workgroup begins with -/

theorem Kept.wg?_some {s t : State} (h : Kept s t) {k : Nat} {g : Workgroup} (hg : s.wg? k = some g) : ∃ x, t.wg? k = some x := by
  have hclear (u : State) : (u.wgs.map fun x => { x with scratch := [] }).find? (fun x => x.id == k) =
      (u.wg? k).map fun x => { x with scratch := [] } := List.find?_map
  have he := congrArg (List.find? fun x : Workgroup => x.id == k) h.wgs
  rw [hclear, hclear, hg, Option.map_some] at he
  exact (Option.map_eq_some_iff.mp he).imp fun _ hx => hx.1

theorem State.writeFrames_kept {g : Workgroup} {first : Nat} {r : FaultRec} (xs : List Warp) {s t : State}
    (h : State.writeFrames g first r xs s = some t) : Kept s t := by
  induction xs generalizing s with
  | nil => cases h; exact Kept.refl _
  | cons x xs ih =>
    have hk := State.writeCore_kept s (x.agent g 0 none) (frameAddr (s.vecBase g) x.core x.slot 2)
      (x.header g x.splits (if x.id = first then some r else none))
    simp only [State.writeFrames] at h
    split at h
    · next e =>
      rw [e] at hk
      exact hk.trans (ih h)
    · cases h

section
variable (s : State) (gid : Nat) (r : FaultRec)

@[simp] theorem State.noteFmask_wgs : (s.noteFmask gid r).wgs = s.wgs := by unfold State.noteFmask; split <;> rfl
@[simp] theorem State.noteFmask_mem : (s.noteFmask gid r).mem = s.mem := by unfold State.noteFmask; split <;> rfl
@[simp] theorem State.noteFmask_host : (s.noteFmask gid r).host = s.host := by unfold State.noteFmask; split <;> rfl

theorem State.warp?_noteFmask {s : State} {k : Nat} {w : Warp} (h : s.warp? k = some w) :
    ∃ m, (s.noteFmask gid r).warp? k = some { w with fmask := m } := by
  unfold State.noteFmask
  split
  · exact ⟨w.fmask, h⟩
  · let f (w : Warp) : Warp := if w.wg = gid ∧ w.serial = r.serial then { w with fmask := r.fmask } else w
    have hid (w : Warp) : (f w).id = w.id := by simp only [f]; split <;> rfl
    have hf : (s.warps.map f).find? (fun x => x.id == k) = some (f w) := by
      have hcomp : (fun x : Warp => x.id == k) ∘ f = fun x => x.id == k := funext fun x => by simp only [Function.comp, hid]
      rw [List.find?_map, hcomp]
      exact congrArg (Option.map f) h
    by_cases hw : w.wg = gid ∧ w.serial = r.serial
    · exact ⟨r.fmask, hf.trans (by simp only [f, if_pos hw])⟩
    · exact ⟨w.fmask, hf.trans (by simp only [f, if_neg hw])⟩

end

section
variable (t : State) (gid : Nat) (live : List Warp) (w : Warp) (r : FaultRec) (v now : Nat)

theorem State.wgHandlerBegins_mem : (t.wgHandlerBegins gid live w r v now).mem = t.mem := by
  simp only [State.wgHandlerBegins, State.dropOwn, State.modWg_mem, State.dropLatch_mem, State.modWarp_mem, State.noteFmask_mem,
    State.modWarps_mem]

theorem State.wgHandlerBegins_host : (t.wgHandlerBegins gid live w r v now).host = t.host := by
  simp only [State.wgHandlerBegins, State.dropOwn, State.modWg_host, State.dropLatch_host, State.modWarp_host, State.noteFmask_host,
    State.modWarps_host]

theorem State.wg?_wgHandlerBegins {g : Workgroup} (hg : t.wg? gid = some g) :
    (t.wgHandlerBegins gid live w r v now).wg? gid = some { g with raised := none, handler := some now } := by
  have hwg : ((t.modWarps (Warp.inWgHandler w.id now) live).noteFmask gid r).wg? gid = some g := by
    simp only [State.wg?, State.noteFmask_wgs, State.modWarps_wgs] at hg ⊢
    exact hg
  rw [State.wgHandlerBegins, State.wg?_modWg, State.dropOwn, State.wg?_dropLatch, State.wg?_modWarp, hwg, Option.map_some, if_pos rfl]
  exact fun _ => rfl

/-- Each live warp runs the handler, and the first one begins with it. -/
theorem State.warp?_wgHandlerBegins {x : Warp} (hx : x ∈ live) (ht : t.warp? x.id = some x) :
    ∃ m, (t.wgHandlerBegins gid live w r v now).warp? x.id =
      some (let y := { x.inWgHandler w.id now with fmask := m }; if x.id = w.id then y.wgHandler r (w.valid.headD 0) v now else y) := by
  have hin : (t.modWarps (Warp.inWgHandler w.id now) live).warp? x.id = some (x.inWgHandler w.id now) := by
    rw [State.warp?_modWarps t live (f := Warp.inWgHandler w.id now) (fun _ => rfl) (fun _ => rfl), ht, Option.map_some,
      if_pos (List.mem_map_of_mem hx)]
  obtain ⟨m, hm⟩ := State.warp?_noteFmask gid r hin
  refine ⟨m, ?_⟩
  rw [State.wgHandlerBegins, State.warp?_modWg, State.dropOwn, State.warp?_dropLatch, State.warp?_modWarp, hm, Option.map_some]
  exact fun _ => rfl

end

/-! ## The WORKGROUP rung's entry -/

section
variable {s : State} {g : Workgroup} {r : FaultRec} (hg : s.wg? s.args.i = some g) (hr : g.raised = some r) (hh : g.handler = none)
  (hrun : s.running g = true) (hstop : s.wgCanStop g.id = true)
include hg hr hh hrun hstop

theorem exec_workgroupRungEntry_due : Goes .workgroupRungEntry s (s.enterWg g.id) := by
  simp only [Goes, exec_workgroupRungEntry, execWorkgroupRungEntry, hg, hr, hh, hrun, hstop, Option.isSome_some, Option.isNone_none,
    and_self, if_true]

end

theorem workgroupRung (s : State) : WorkgroupRung s s.args.i := by
  intro g r w v s3 s4 hg hr hh hrun hstop hn hno r2 s2 live
  have hgo := exec_workgroupRungEntry_due hg hr hh hrun hstop
  have hg' : s.wg? g.id = some g := by rw [State.wg?_id hg]; exact hg
  refine ⟨fun hl => (State.enterWg_noLive hg' hr hn hno hl) ▸ hgo, fun hw hlow hv hf => ?_⟩
  rw [State.enterWg_enters hg' hr hn hno hw hlow hv hf] at hgo
  have hk : Kept s2 s4 := (State.vector_mapped hv).kept.trans (State.writeFrames_kept _ hf)
  have hn2 : s2.warpsNamed := State.modWarps_warpsNamed (f := Warp.stopped) _ (fun _ => rfl) hn
  have hnamed : ∀ x ∈ live, s2.warp? x.id = some x := fun x hx => hn2 x (List.mem_of_mem_filter (List.mem_of_mem_filter hx))
  have hwarp (x : Warp) (hx : x ∈ live) := State.warp?_wgHandlerBegins s4 g.id live w r v s.cycle hx
    ((hk.warp? x.id).trans (hnamed x hx))
  obtain ⟨g', hg4⟩ := hk.wg?_some (k := g.id) (g := g) (by
    exact (congrArg (List.find? fun x : Workgroup => x.id == g.id) (State.modWarps_wgs s Warp.stopped (s.warpsOf g.id))).trans hg')
  refine ⟨s4.wgHandlerBegins g.id live w r v s.cycle, hgo, State.wgHandlerBegins_mem .., State.wgHandlerBegins_host ..,
    ?_, ?_, fun x hx => ?_⟩
  · rw [State.wg?_wgHandlerBegins _ _ _ _ _ _ _ hg4]; rfl
  · obtain ⟨m, hm⟩ := hwarp w hw
    rw [hm, if_pos rfl]; rfl
  · obtain ⟨m, hm⟩ := hwarp x hx
    rw [hm]
    by_cases hid : x.id = w.id
    · have hxw : some x = some w := (hnamed x hx).symm.trans (hid ▸ hnamed w hw)
      cases hxw
      rw [if_pos rfl, if_pos rfl]; rfl
    · rw [if_neg hid, if_neg hid]; rfl

/-! ## The CONTEXT rung -/

section
variable {s : State} {f : FaultRec} {m : Summary} (hr : (s.ctx s.args.p s.args.c).raised = some (f, m))
include hr

theorem exec_contextRungEntry_halts (hin : (s.part s.args.p).resident = some s.args.c) (hsw : (s.part s.args.p).switch = .none)
    (hst : (s.part s.args.p).staged = true) (hwb : (s.part s.args.p).writeback = none) :
    Goes .contextRungEntry s (s.modPart s.args.p fun x => { x with switch := .halting none }) := by
  have hmay : s.mayHalt s.args.p = true := by simp [State.mayHalt, hsw, hst, hwb]
  simp [Goes, execContextRungEntry, State.inside, hr, hin, hmay]

theorem exec_contextRungEntry_waits (hin : (s.part s.args.p).resident = some s.args.c)
    (h : (s.part s.args.p).staged = false ∨ (s.part s.args.p).writeback ≠ none) : Goes .contextRungEntry s s := by
  have hmay : s.mayHalt s.args.p = false := by
    rcases h with h | h
    · simp [State.mayHalt, h]
    · simp [State.mayHalt, Option.isNone_eq_false_iff.mpr (Option.isSome_iff_ne_none.mpr h)]
  simp [Goes, execContextRungEntry, State.inside, hr, hin, hmay]

theorem exec_contextRungEntry_out (hout : (s.part s.args.p).resident ≠ some s.args.c) (hsw : (s.part s.args.p).switch = .none) :
    let t := s.modCtx s.args.p s.args.c fun x =>
      { x with state := .faulted, raised := none, summary := { m with raisedAt := s.cycle } }
    Goes .contextRungEntry s { t with irqs := t.irqs ++ [64 + 128 * s.args.p.toNat + s.args.c.toNat] } := by
  simp [Goes, execContextRungEntry, State.inside, hr, hout, hsw]

end

/-! ## Missed times -/

section
variable {s : State} {w : Warp} {g : Workgroup} {h : Handler} (hw : s.warp? s.args.i = some w) (hl : s.handlerLate w = some (g, h))
include hw hl

theorem exec_handlerTimeout_warp (hrung : h.rung = 1) : Goes .handlerTimeout s (s.raiseWg g.id (lateRecord w h 1)) := by
  simp only [Goes, exec_handlerTimeout, execHandlerTimeout, hw, hl, hrung, if_true]

theorem exec_handlerTimeout_wg (hrung : h.rung = 2) : Goes .handlerTimeout s (s.climbCtx g.id (lateRecord w h 2)) := by
  simp only [Goes, exec_handlerTimeout, execHandlerTimeout, hw, hl, hrung, OfNat.ofNat_ne_one, if_false]

end

theorem exec_hostResponseTimeout_late {s : State} (h : s.hostLate s.args.p s.args.c = true) :
    Goes .hostResponseTimeout s (s.raisePart s.args.p (hostTimeout (s.ctx s.args.p s.args.c).summary s.cycle).1
      (hostTimeout (s.ctx s.args.p s.args.c).summary s.cycle).2) := by
  simp only [Goes, exec_hostResponseTimeout, execHostResponseTimeout, h, if_true]

theorem exec_partitionReset_raised {s : State} {f : FaultRec} {m : Summary} (h : (s.part s.args.p).raised = some (f, m)) :
    Goes .partitionReset s (((((s.killAll s.args.p (some m)).stopAll s.args.p).zeroQuads s.args.p).closeSessions s.args.p).modPart
      s.args.p Part.cleared) := by
  simp only [Goes, exec_partitionReset, execPartitionReset, h]

/-- A time that acts as at least 1 is over once its cycles have passed. -/
theorem State.timeUp_of_le {s : State} {since us : Nat} (hus : 1 ≤ us) (h : us * Config.cyclesPerUs ≤ s.cycle - since) :
    s.timeUp since us = true := by
  rw [State.timeUp, Nat.max_eq_right hus, Nat.mul_comm]
  exact decide_eq_true h

theorem exec_partitionResetTimeout_late {s : State} {f : FaultRec × Summary} {a : Nat} (hr : (s.part s.args.p).raised = some f)
    (ha : (s.part s.args.p).resetAt = some a)
    (ht : 1000 * Config.cyclesPerUs * max 1 (s.part s.args.p).partMs.toNat ≤ s.cycle - a) :
    Goes .partitionResetTimeout s s.deviceReset := by
  have hup : s.timeUp a (1000 * max 1 (s.part s.args.p).partMs.toNat) = true :=
    State.timeUp_of_le (by omega) (by rwa [Nat.mul_right_comm])
  simp only [Goes, exec_partitionResetTimeout, execPartitionResetTimeout, hr, ha, hup, or_true, if_true]

/-! ## Starved barriers -/

theorem lowestWarp_mem {ws : List Warp} (h : ws ≠ []) : ∃ w ∈ ws, lowestWarp ws = some w := by
  induction ws with
  | nil => exact absurd rfl h
  | cons w ws ih =>
    simp only [lowestWarp]
    split
    · next v e =>
      have hv : v ∈ ws := by
        obtain ⟨u, hu, he⟩ := ih fun hn => by simp [hn, lowestWarp] at e
        cases he.symm.trans e
        exact hu
      split
      · exact ⟨v, List.mem_cons_of_mem _ hv, rfl⟩
      · exact ⟨w, List.mem_cons_self, rfl⟩
    · exact ⟨w, List.mem_cons_self, rfl⟩

/-- The lowest valid split of a warp that has one. -/
theorem Warp.split_headD_valid {w : Warp} (h : w.valid ≠ []) : ∃ p, w.split (w.valid.headD 0) = some p := by
  have hmem : w.valid.headD 0 ∈ w.valid := by
    cases hv : w.valid with
    | nil => exact absurd hv h
    | cons n ns => exact List.mem_cons_self
  exact Option.isSome_iff_exists.mp (List.mem_filter.mp hmem).2

theorem State.starved_live {s : State} {g : Workgroup} (h : s.starved g = true) : s.liveOf g.id ≠ [] := by
  intro hl
  have hl' : (s.warpsOf g.id).filter (fun w => !w.exited && !w.valid.isEmpty) = [] := hl
  simp [State.starved, hl'] at h

theorem exec_barrierStarved_starved {s : State} {g : Workgroup} (hg : s.wg? s.args.i = some g) (h : s.starved g = true) :
    ∃ r, r.code = .barrierStarved ∧ Goes .barrierStarved s (s.raiseWg g.id r) := by
  obtain ⟨w, hmem, hw⟩ := lowestWarp_mem (State.starved_live h)
  have hvalid : w.valid ≠ [] := by
    have hlive := (List.mem_filter.mp hmem).2
    simp only [Bool.and_eq_true, Bool.not_eq_true', List.isEmpty_eq_false_iff] at hlive
    exact hlive.2
  obtain ⟨p, hp⟩ := Warp.split_headD_valid hvalid
  rw [State.liveOf] at hw
  simp only [Goes, exec_barrierStarved, execBarrierStarved, hg, h, Bool.true_eq_false, if_false, hw, hp]
  refine ⟨_, ?_, rfl⟩
  rfl

/-! ## Lost workgroups -/

section
variable {s : State} {g : Workgroup} (hf : s.args.flag = false) (hg : s.wg? s.args.i = some g) (hrun : s.running g = true)
include hf hg hrun

theorem exec_workgroupStateError_ends
    (h : ((s.launch? g.launch).any fun l => l.record.idempotent && decide (g.losses < 2)) = false) :
    Goes .workgroupStateError s
      (((s.loseWg g s.args.size).noteEcc true (64 + s.args.addr)).raiseLost g.part g.ctx (s.lastSerial g.id) true 0) := by
  simp only [Goes, exec_workgroupStateError, execWorkgroupStateError, hf, hg, hrun, Bool.true_eq_false, Bool.false_eq_true, if_false]
  cases hl : s.launch? g.launch with
  | none => rfl
  | some l =>
    rw [hl, Option.any_some] at h
    simp only [h, Bool.false_eq_true, if_false]

theorem exec_workgroupStateError_again
    (h : ((s.launch? g.launch).any fun l => l.record.idempotent && decide (g.losses < 2)) = true) :
    let t := (s.loseWg g s.args.size).noteEcc true (64 + s.args.addr)
    Goes .workgroupStateError s { t.modLaunch g.launch fun l => l.again ⟨g.num, g.losses + 1, g.core, g.items⟩ s.cycle with
      lifeNow := { t.lifeNow with relaunches := t.lifeNow.relaunches + 1 } } := by
  simp only [Goes, exec_workgroupStateError, execWorkgroupStateError, hf, hg, hrun, Bool.true_eq_false, Bool.false_eq_true, if_false]
  cases hl : s.launch? g.launch with
  | none => rw [hl] at h; cases h
  | some l =>
    rw [hl, Option.any_some] at h
    simp only [h, if_true]

end

end Sys2Proof.Machine

open Sys2Proof.Machine

/-- Settles O41, rung by rung. -/
theorem rungEvents : Obligations.RungEvents := by
  intro s i p c
  refine ⟨exec_warpRungEntry_enters rfl, fun g r hg hr hh hrun hstop => exec_workgroupRungEntry_due hg hr hh hrun hstop,
    warpRung s, workgroupRung s, ?_⟩
  refine ⟨fun f m hr hin hsw => ⟨exec_contextRungEntry_halts hr hin hsw, exec_contextRungEntry_waits hr hin⟩,
    fun f m hr => exec_contextRungEntry_out hr, ?_⟩
  refine ⟨fun w g h hw hl => exec_handlerTimeout_warp hw hl, fun w g h hw hl => exec_handlerTimeout_wg hw hl,
    exec_hostResponseTimeout_late, fun f m => exec_partitionReset_raised, fun f a => exec_partitionResetTimeout_late, ?_⟩
  exact ⟨fun g => exec_barrierStarved_starved,
    fun g hf hg hrun => ⟨exec_workgroupStateError_ends hf hg hrun, exec_workgroupStateError_again hf hg hrun⟩,
    fun hf => by simp only [Goes, exec_workgroupStateError, execWorkgroupStateError, hf, if_true]; rfl⟩

end

section
/-! SUPPORT. Compares and predicate functions (R317 to R319). -/
namespace Sys2Proof.Machine

/-! ## Compares (R317) -/

/-- A row whose meaning is the shared integer compare. -/
theorem icmpRuns_of {row : CmpRow} {f : Nat → Nat → Nat → Bool}
    (hrow : ∀ sw w b a n p s, exec (row sw w b a n p) s = s.icmp (row sw w b a n p) sw w b a n p f) : IcmpRuns row f := by
  intro s c t sw w b a n p h
  rw [hrow, State.icmp]
  exact State.issueWith_run h rfl rfl

/-- A row whose meaning is the shared floating-point compare. -/
theorem fcmpRuns_of {row : CmpRow} {quiet : Bool} {f : FVal → FVal → Bool}
    (hrow : ∀ sw w b a n p s, exec (row sw w b a n p) s = s.fcmp (row sw w b a n p) sw quiet w b a n p f) : FcmpRuns row quiet f := by
  intro s c t sw w b a n p h
  rw [hrow, State.fcmp]
  exact State.issueWith_run h rfl rfl

/-! ## Predicate functions (R318, R319) -/

/-- A row whose meaning is the shared predicate function. -/
theorem predRuns_of {i : Instr} {sw : Bool} {ps : List Nat} {p : BitVec 3} {f : Lane → Bool}
    (hrow : ∀ s, exec i s = s.predFn i sw ps p f) : PredRuns i sw ps p f := by
  intro s c t h
  rw [hrow, State.predFn]
  exact State.issueWith_run h rfl rfl

section
variable {s t : State} {c : Issue} {sw : Bool} {w : BitVec 3} {d a : BitVec 7} {n : BitVec 1} {p : BitVec 3}

theorem exec_pmovv_begins {u : Uses}
    (hu : u = { fits := [2], vs := [(a.toNat, wSlices w)], src := [(a.toNat, wSlices w)], preds := if n = 1 then [p.toNat] else [] })
    (h : u.begins s (.pmovv sw w a n p) sw = some (c, t)) :
    exec (.pmovv sw w a n p) s = .next (t.putPreds c (u.lanes c) n p fun l => t.src c 0 l a.toNat (wSlices w) != 0) := by
  subst hu
  rw [exec_pmovv, execPmovv]
  exact State.issueWith_run h rfl rfl

theorem exec_vmovp_begins {u : Uses} (hu : u = { fits := [2], vs := [(d.toNat, wSlices w)], preds := [p.toNat] })
    (h : u.begins s (.vmovp sw w d p) sw = some (c, t)) :
    exec (.vmovp sw w d p) s =
      .next (t.vec c (u.lanes c) d.toNat (wSlices w) fun l => if (c.w.lane l).pred p.toNat then 1 else 0) := by
  subst hu
  rw [exec_vmovp, execVmovp]
  exact State.issueWith_run h rfl (by simp only [Bool.toNat, Bool.cond_eq_ite])

theorem exec_sel_begins {u : Uses}
    (hu : u = { fits := [2], vs := [(d.toNat, wSlices w), (a.toNat, wSlices w)], src := [(a.toNat, wSlices w)], preds := [p.toNat] })
    (h : u.begins s (.sel sw w d a n p) sw = some (c, t)) :
    exec (.sel sw w d a n p) s = .next (t.vec c
      (maskOf ((lanesOf (u.lanes c)).filter fun l => (c.w.lane l).pred p.toNat ^^ (n == 1))) d.toNat (wSlices w) fun l =>
        t.src c 0 l a.toNat (wSlices w)) := by
  subst hu
  rw [exec_sel, execSel]
  exact State.issueWith_run h rfl rfl

end

end Sys2Proof.Machine

open Sys2Proof.Machine

/-- Settles O6: every row is one of the two shared compares. -/
theorem compareResults : Obligations.CompareResults :=
  ⟨icmpRuns_of exec_icmpEq, icmpRuns_of exec_icmpNe, icmpRuns_of exec_icmpLt, icmpRuns_of exec_icmpLe, icmpRuns_of exec_icmpLtu,
    icmpRuns_of exec_icmpLeu, fcmpRuns_of exec_fcmpEq, fcmpRuns_of exec_fcmpNe, fcmpRuns_of exec_fcmpLt, fcmpRuns_of exec_fcmpLe,
    fcmpRuns_of exec_fcmpUn⟩

/-- Settles O7: the four functions of predicates are one shared operation; PMOVV, VMOVP and SEL stand for themselves. -/
theorem predicateResults : Obligations.PredicateResults :=
  ⟨fun sw f g p n => ⟨predRuns_of (exec_pand sw f g n p), predRuns_of (exec_por sw f g n p), predRuns_of (exec_pxor sw f g n p),
      predRuns_of (exec_pnot sw f p)⟩,
    fun _ _ _ _ _ _ _ _ => exec_pmovv_begins rfl, fun _ _ _ _ _ _ _ => exec_vmovp_begins rfl,
    fun _ _ _ _ _ _ _ _ _ => exec_sel_begins rfl⟩

end

section
/-! SUPPORT. Special and control registers (R115, R288, R290 to R293). -/
namespace Sys2Proof.Machine

/-! ## Special registers (R115, R288) -/

theorem specialCodes : SpecialCodes := by
  intro s c
  refine ⟨rfl, rfl, rfl, rfl, rfl, rfl, rfl, rfl, rfl, rfl, fun h => Nat.mod_eq_of_lt h, fun h => ?_, fun h => ?_, rfl, rfl, rfl⟩
  · simp only [State.special, h, Bool.false_eq_true, if_false]
  · simp only [State.special, h, if_true]

/-! ## What CSRW does, by the register's number (R290) -/

section
variable {t u : State} {c : Issue} {n v : Nat}

theorem State.csrWrite_queue (hlo : 0x10 ≤ n) (hhi : n ≤ 0x17) : t.csrWrite c n v = t.bindQueue c (n - 0x10) v := by
  unfold State.csrWrite
  rw [if_neg (by omega), if_neg (by omega), if_neg (by omega), if_pos (by omega)]

theorem State.csrWrite_expert (h : 0x100 ≤ n) : t.csrWrite c n v =
    if (t.ctx c.g.part c.g.ctx).expertEn then (t.modCtx c.g.part c.g.ctx fun x => (x.setExpert (n - 0x100) v).1).complete c
    else t.faultAt c .privViolation c.p.mask 0 1 := by
  unfold State.csrWrite
  rw [if_neg (by omega), if_neg (by omega), if_neg (by omega), if_neg (by omega)]
  cases (t.ctx c.g.part c.g.ctx).expertEn <;> rfl

/-! ## Queue bindings (R293) -/

theorem bits_space {v : Nat} (hv : v < 2 ^ 64) : bits v 60 4 = v / 2 ^ 60 := Nat.mod_eq_of_lt (by omega)

theorem State.bindQueue_clear : t.bindQueue c n 0 = (t.modSplit c.id fun p => { p with qb := Sparse.set 0 p.qb n 0 }).complete c := by
  rw [State.bindQueue, if_pos rfl]

theorem State.bindQueue_space (h0 : v ≠ 0) (hv : v < 2 ^ 64) (hs : v / 2 ^ 60 ≠ 3) :
    t.bindQueue c n v = t.faultAt c .badSpace c.p.mask (BitVec.ofNat 64 v) 0 := by
  rw [State.bindQueue, if_neg h0, if_pos (by rwa [bits_space hv])]

section
variable (h0 : v ≠ 0) (hv : v < 2 ^ 64) (hs : v / 2 ^ 60 = 3)
include h0 hv hs

/-- A misaligned binding value is read before it is refused. -/
theorem State.bindQueue_misaligned (ha : v % 64 ≠ 0) {b : List Byte} (hr : t.readSeen c v 64 = (u, .ok b)) :
    t.bindQueue c n v = u.faultAt c .queue c.p.mask 0 n := by
  simp only [State.bindQueue, h0, bits_space hv, hs, ha, hr, ne_eq, not_true_eq_false, not_false_eq_true, if_false, if_true]

theorem State.bindQueue_misaligned_error (ha : v % 64 ≠ 0) {e : MErr} (hr : t.readSeen c v 64 = (u, .error e)) :
    t.bindQueue c n v = u.faultAt c e.code c.p.mask (BitVec.ofNat 64 v) e.detail := by
  simp only [State.bindQueue, h0, bits_space hv, hs, ha, hr, ne_eq, not_true_eq_false, not_false_eq_true, if_false, if_true]

theorem State.bindQueue_error (ha : v % 64 = 0) {e : MErr} (hr : t.readBind c v = (u, .error e)) :
    t.bindQueue c n v = u.faultAt c e.code c.p.mask (BitVec.ofNat 64 v) e.detail := by
  simp only [State.bindQueue, h0, bits_space hv, hs, ha, hr, ne_eq, not_true_eq_false, if_false]

/-- One sector is read, the other is not. -/
theorem State.bindQueue_first (ha : v % 64 = 0) (hr : t.readBind c v = (u, .ok none)) : t.bindQueue c n v = u := by
  simp only [State.bindQueue, h0, bits_space hv, hs, ha, hr, ne_eq, not_true_eq_false, if_false]

theorem State.bindQueue_second (ha : v % 64 = 0) {b : List Byte} (hr : t.readBind c v = (u, .ok (some b))) : t.bindQueue c n v =
    if qdescOk b (u.part c.g.part).dies.toNat then
      (u.modSplit c.id fun p => { p with qb := Sparse.set 0 p.qb n (qbindOf v (qdescOf b).kind (qdescOf b).dieMask) }).complete c
    else u.faultAt c .queue c.p.mask 0 n := by
  simp only [State.bindQueue, h0, bits_space hv, hs, ha, hr, ne_eq, not_true_eq_false, if_false]

end

/-- The sector of the descriptor that a CSRW reads: with none read yet, the one that a free value picks, else the other. -/
def State.bindUpper (t : State) (c : Issue) : Bool := match c.p.seen with
  | some x => !x.1
  | none => Config.pick t.free 22 0 0 % 2 == 1

theorem State.readBind_error {e : MErr} (h : t.readSeen c (v + 32 * (t.bindUpper c).toNat) 32 = (u, .error e)) :
    t.readBind c v = (u, .error e) := by
  unfold State.bindUpper at h
  unfold State.readBind
  cases hs : c.p.seen <;> simp only [hs] at h ⊢ <;> simp only [h]

theorem State.readBind_first {b : List Byte} (hn : c.p.seen = none)
    (h : t.readSeen c (v + 32 * (t.bindUpper c).toNat) 32 = (u, .ok b)) :
    t.readBind c v = ((u.waitAt c .ready).modSplit c.id fun p => { p with seen := some (t.bindUpper c, b) }, .ok none) := by
  unfold State.bindUpper at h ⊢
  unfold State.readBind
  simp only [hn] at h ⊢
  simp only [h]

theorem State.readBind_second {up : Bool} {old b : List Byte} (hs : c.p.seen = some (up, old))
    (h : t.readSeen c (v + 32 * (!up).toNat) 32 = (u, .ok b)) :
    t.readBind c v = (u, .ok (some (if up then b ++ old else old ++ b))) := by
  unfold State.readBind
  simp only [hs, h]
  cases up <;> rfl

end

section
variable {s t : State} {c : Issue} {sw : Bool} {d : BitVec 6} {n : BitVec 12}

/-- CSRW has the effect of its register. -/
theorem exec_csrw_begins (h : Uses.begins { orders := true, okOp := csrCode n, uregs := [d.toNat] } s (.csrw sw d n) sw = some (c, t)) :
    exec (.csrw sw d n) s = .next (t.csrWrite c n.toNat (c.p.ureg d.toNat).toNat) := by
  rw [exec_csrw, execCsrw]
  exact State.issueWith_run h rfl rfl

theorem exec_csrw_queue (hlo : 0x10 ≤ n) (hhi : n ≤ 0x17)
    (h : Uses.begins { orders := true, okOp := csrCode n, uregs := [d.toNat] } s (.csrw sw d n) sw = some (c, t)) :
    exec (.csrw sw d n) s = .next (t.bindQueue c (n.toNat - 0x10) (c.p.ureg d.toNat).toNat) := by
  rw [exec_csrw_begins h, State.csrWrite_queue hlo hhi]

end

theorem queueBindings : QueueBindings := by
  intro s c t sw d n hlo hhi h v i runs faults read h0
  have hv : v < 2 ^ 64 := (c.p.ureg d.toNat).isLt
  have hw : BitVec.ofNat 64 v = c.p.ureg d.toNat := BitVec.eq_of_toNat_eq (Nat.mod_eq_of_lt hv)
  have hr : runs = .next (t.bindQueue c i v) := exec_csrw_queue hlo hhi h
  refine ⟨fun hs => ?_, fun hs ha => ⟨fun u b hb => ?_, fun u e he => ?_⟩, fun hs ha hn => ⟨t.bindUpper c, fun u b hb => ?_, fun u e he => ?_⟩,
    fun up old hs ha hseen => ?_⟩
  · rw [hr, State.bindQueue_space h0 hv hs, hw]
  · rw [hr, State.bindQueue_misaligned h0 hv hs ha hb]
  · rw [hr, State.bindQueue_misaligned_error h0 hv hs ha he, hw]
  · rw [hr, State.bindQueue_first h0 hv hs ha (State.readBind_first hn hb)]
  · rw [hr, State.bindQueue_error h0 hv hs ha (State.readBind_error he), hw]
  · have hup : t.bindUpper c = !up := by simp only [State.bindUpper, hseen]
    refine ⟨fun u e he => ?_, fun u b hb => ?_⟩
    · rw [hr, State.bindQueue_error h0 hv hs ha (State.readBind_error (hup ▸ he)), hw]
    have hset := State.bindQueue_second (n := i) h0 hv hs ha (State.readBind_second hseen hb)
    refine ⟨fun hok => ?_, fun hok => ?_⟩
    · rw [hr, hset]
      exact congrArg _ (if_pos hok)
    · rw [hr, hset]
      exact congrArg _ (if_neg (by simp only [hok, Bool.false_eq_true, not_false_eq_true]))

/-! ## WIN, CSRR and CSRW (R288, R290 to R292) -/

section
variable {s t : State} {c : Issue} {sw : Bool} {d : BitVec 6} {n : BitVec 12}

theorem exec_winImm_begins {k : BitVec 5} (h : Uses.begins {} s (.winImm sw k) sw = some (c, t)) :
    exec (.winImm sw k) s = .next ((t.modSplit c.id fun p => { p with wb := k }).complete c) := by
  rw [exec_winImm, execWinImm]
  exact State.issueWith_run h rfl rfl

theorem exec_winReg_begins {a : BitVec 6} (h : Uses.begins { uregs := [a.toNat] } s (.winReg sw a) sw = some (c, t)) :
    exec (.winReg sw a) s = .next ((t.modSplit c.id fun p => { p with wb := (c.p.ureg a.toNat).truncate 5 }).complete c) := by
  rw [exec_winReg, execWinReg]
  exact State.issueWith_run h rfl rfl

theorem exec_csrr_begins (h : Uses.begins { okOp := csrCode n } s (.csrr sw d n) sw = some (c, t)) :
    exec (.csrr sw d n) s = .next ((t.putLater c [(.ureg d.toNat, t.csr c n.toNat)]).complete c) := by
  rw [exec_csrr, execCsrr]
  exact State.issueWith_run h rfl rfl

end

theorem State.csrWrite_mconf (t : State) (c : Issue) (x : Word) :
    t.csrWrite c 0 x.toNat = (t.modSplit c.id fun p => { p with mconf := x }).complete c := by
  simp only [State.csrWrite, if_true, BitVec.ofNat_toNat, BitVec.setWidth_eq]

theorem State.csrWrite_seed (t : State) (c : Issue) (x : Word) :
    t.csrWrite c 1 x.toNat = (t.modWarp c.id.warp fun w => w.reseed x).complete c := by
  simp only [State.csrWrite, Nat.one_ne_zero, if_true, if_false, BitVec.ofNat_toNat, BitVec.setWidth_eq]

theorem State.csrWrite_flags (t : State) (c : Issue) (x : Word) :
    t.csrWrite c 2 x.toNat = (t.modWarp c.id.warp fun w => (lanesOf c.p.mask).foldl (fun w l =>
      w.modLane l fun y => { y with fpflags := x.truncate 5 }) w).complete c := rfl

theorem windowAndCsrs : WindowAndCsrs := by
  refine ⟨fun _ _ _ _ _ => exec_winImm_begins, fun _ _ _ _ _ => exec_winReg_begins, fun _ _ _ _ _ _ => exec_csrr_begins,
    fun s c t sw d h => ?_, fun s c t sw d h => ?_, fun s c t sw d h => ?_, fun s c t sw d n hlo hhi h h0 => ?_, queueBindings,
    fun s c t sw d n hlo hhi h => ?_⟩
  · exact (exec_csrw_begins h).trans (congrArg _ (State.csrWrite_mconf t c _))
  · exact (exec_csrw_begins h).trans (congrArg _ (State.csrWrite_seed t c _))
  · exact (exec_csrw_begins h).trans (congrArg _ (State.csrWrite_flags t c _))
  · rw [exec_csrw_queue hlo hhi h, h0]
    exact congrArg _ State.bindQueue_clear
  · rw [exec_csrw_begins h, State.csrWrite_expert hlo]

end Sys2Proof.Machine

/-- Settles O14: the codes of SREAD one by one, and each control register's effect; a descriptor is read sector by sector. -/
theorem specialRegisters : Obligations.SpecialRegisters := ⟨Sys2Proof.Machine.specialCodes, Sys2Proof.Machine.windowAndCsrs⟩
end

section
/-! SUPPORT. What the engines do of themselves (R139, R178 to R180, R348, R384, R393 to R396, R428). -/
namespace Sys2Proof.Machine

section
variable {s : State} {j : Job}

/-! ## Sheet and Jib (R348, R428) -/

theorem State.recordStopped_copy (hk : j.kind = .copyRecord) {l : Launch} (hl : s.launch? j.launch = some l) :
    s.recordStopped j = ((l.copyStatus &&& 0x42B) != 0) := by
  simp only [State.recordStopped, hk, hl, beq_self_eq_true, Bool.true_and]
  rfl

theorem State.recordStopped_other (hk : j.kind ≠ .copyRecord) : s.recordStopped j = false := by
  simp only [State.recordStopped, beq_eq_false_iff_ne.2 hk, Bool.false_and]

section
variable (hj : (s.jobs.find? fun j => j.id == s.args.i) = some j)
include hj

theorem exec_sheetChunkComplete_chunk (hs : s.sheetServes j = true) (hk : j.kind ≠ .copyRecord) (hc : j.clash.contains j.next = false) :
    Goes .sheetChunkComplete s (State.runChunk 5000 j.id s) := by
  simp only [Goes, exec_sheetChunkComplete, execSheetChunkComplete, hj, hs, State.recordStopped_other hk, hk, hc, Bool.true_eq_false,
    Bool.false_eq_true, if_false]
  rfl

theorem exec_sheetChunkComplete_stopped (hs : s.sheetServes j = true) (hr : s.recordStopped j = true) :
    Goes .sheetChunkComplete s (s.modJob j.id fun j => { j with done := true }) := by
  simp only [Goes, exec_sheetChunkComplete, execSheetChunkComplete, hj, hs, hr, Bool.true_eq_false, if_true, if_false]

theorem exec_sheetChunkComplete_record {t : State} (hs : s.sheetServes j = true) (hk : j.kind = .copyRecord) (hr : s.recordStopped j = false)
    (ht : t = if j.clash.contains j.next then s.stopJob j.id 10 else State.runChunk 5000 j.id s) :
    Goes .sheetChunkComplete s (t.modLaunch j.launch fun l =>
      { l with copyStatus := l.copyStatus ||| ((t.jobs.find? fun k => k.id == j.id).elim 0 (·.status)) }) := by
  subst ht
  simp only [Goes, exec_sheetChunkComplete, execSheetChunkComplete, hj, hs, hr, hk, Bool.true_eq_false, Bool.false_eq_true, if_true, if_false]
  rfl

end

/-! ## Mainsail (R393 to R396) -/

/-- A grant of an MMA does one pass to eight. -/
theorem mmaPlan_rate {a b : TileHdr} {p : MmaPlan} (h : mmaPlan a b = some p) : 1 ≤ p.rate ∧ p.rate ≤ 8 := by
  unfold mmaPlan at h
  dsimp only at h
  split_ifs at h <;> cases h <;> dsimp only <;> omega

/-- The passes of the next grant of an MMA, 1 where its operands have no plan. -/
def State.grantPasses (s : State) (j : Job) : Nat :=
  ((mmaPlan (tileHdr ((s.jobWarp j).tile j.tA).toNat) (tileHdr ((s.jobWarp j).tile j.tB).toNat)).map (·.rate)).getD 1

theorem State.grantPasses_bounds (s : State) (j : Job) : 1 ≤ s.grantPasses j ∧ s.grantPasses j ≤ 8 := by
  unfold State.grantPasses
  cases h : mmaPlan (tileHdr ((s.jobWarp j).tile j.tA).toNat) (tileHdr ((s.jobWarp j).tile j.tB).toNat) with
  | none => simp only [Option.map_none, Option.getD_none]; omega
  | some p => exact mmaPlan_rate h

section
variable (hj : (s.jobs.find? fun j => j.id == s.args.i) = some j) (hp : (s.mainsailPick j.place).map (·.id) = some j.id)
  (hl : j.status.getLsbD 10 = false)
include hj hp hl

theorem exec_mainsailGrant_adrn (hk : j.kind = .adrn) :
    Goes .mainsailGrant s ((s.modJob j.id fun j => { j with since := s.cycle }).runAdrn j) := by
  simp only [Goes, exec_mainsailGrant, execMainsailGrant, hj, hp, hl, hk, JobKind.unit, ne_eq, not_true_eq_false, or_self, if_false,
    Bool.false_eq_true]

theorem exec_mainsailGrant_afill (hk : j.kind = .afill) :
    Goes .mainsailGrant s ((s.modJob j.id fun j => { j with since := s.cycle }).runAfill j) := by
  simp only [Goes, exec_mainsailGrant, execMainsailGrant, hj, hp, hl, hk, JobKind.unit, ne_eq, not_true_eq_false, or_self, if_false,
    Bool.false_eq_true]

theorem exec_mainsailGrant_mma (hk : j.kind = .mma) :
    Goes .mainsailGrant s (State.passes j.id (s.grantPasses j) (s.modJob j.id fun j => { j with since := s.cycle })) := by
  simp only [Goes, exec_mainsailGrant, execMainsailGrant, hj, hp, hl, hk, JobKind.unit, ne_eq, not_true_eq_false, or_self, if_false,
    Bool.false_eq_true]
  rfl

end

/-! ## Completion, tile loads and stores (R177 to R180, R221, R344) -/

section
variable (hj : (s.jobs.find? fun j => j.id == s.args.i) = some j) (hr : s.jobReaches j = true) (ha : j.asking = false)
include hj hr ha

theorem exec_engineOperationComplete_done (hd : j.done = true) (hk : j.kind ≠ .copyRecord) :
    Goes .engineOperationComplete s (s.completeJob j) := by
  simp only [Goes, exec_engineOperationComplete, execEngineOperationComplete, hj, hr, ha, hd, hk, Bool.true_eq_false, Bool.false_eq_true,
    or_self, if_true, if_false]

theorem exec_engineOperationComplete_record (hd : j.done = true) (hk : j.kind = .copyRecord) :
    Goes .engineOperationComplete s ((s.completeJob j).modLaunch j.launch fun l =>
      { l with copyStatus := l.copyStatus ||| j.status ||| (if j.resumed then 256 else 0) }) := by
  simp only [Goes, exec_engineOperationComplete, execEngineOperationComplete, hj, hr, ha, hd, hk, Bool.true_eq_false, Bool.false_eq_true,
    or_self, if_true, if_false]

theorem exec_engineOperationComplete_tld (hd : j.done = false) (ht : j.torn = false) (hk : j.kind = .tld) :
    Goes .engineOperationComplete s (s.tldAttempt j) := by
  simp only [Goes, exec_engineOperationComplete, execEngineOperationComplete, hj, hr, ha, hd, ht, hk, Bool.true_eq_false,
    Bool.false_eq_true, or_self, if_false]

theorem exec_engineOperationComplete_tst (hd : j.done = false) (ht : j.torn = false) (hk : j.kind = .tst) :
    Goes .engineOperationComplete s (if j.flag then s.tstCommit j else s.tstStep j) := by
  simp only [Goes, exec_engineOperationComplete, execEngineOperationComplete, hj, hr, ha, hd, ht, hk, Bool.true_eq_false,
    Bool.false_eq_true, or_self, if_false]

end
end

theorem engineRows : EngineRows := by
  intro s j hj
  refine ⟨exec_sheetChunkComplete_chunk hj, fun hs hk => ⟨fun l => State.recordStopped_copy hk, exec_sheetChunkComplete_stopped hj hs,
    fun hr => exec_sheetChunkComplete_record hj hs hk hr rfl⟩, fun _ hp hl => ⟨exec_mainsailGrant_adrn hj hp hl,
    exec_mainsailGrant_afill hj hp hl, fun hk => ⟨s.grantPasses j, (s.grantPasses_bounds j).1, (s.grantPasses_bounds j).2,
      exec_mainsailGrant_mma hj hp hl hk⟩⟩, fun hr ha => ⟨exec_engineOperationComplete_done hj hr ha,
    exec_engineOperationComplete_record hj hr ha, exec_engineOperationComplete_tld hj hr ha, fun hd ht hk hf => ?_, fun hd ht hk hf => ?_⟩⟩
  · simpa only [hf, Bool.false_eq_true, if_false] using exec_engineOperationComplete_tst hj hr ha hd ht hk
  · simpa only [hf, if_true] using exec_engineOperationComplete_tst hj hr ha hd ht hk

/-! ## Repeated attempts (R180, R384) -/

section
variable {s : State} {j : Job} {g : Workgroup}

theorem State.tornJob_iff : s.tornJob j = true ↔
    j.torn = true ∧ 46 ≤ s.cycle - j.since ∧ (if j.kind.unit = 3 then s.jobReaches j else s.jobRuns j) = true := by
  simp only [State.tornJob, Bool.and_eq_true, decide_eq_true_eq, and_assoc]
  rw [and_comm (a := 46 ≤ s.cycle - j.since), retryCycles]

theorem State.tornWg_iff : s.tornWg g = true ↔ g.torn = true ∧ 46 ≤ s.cycle - g.tornAt ∧ s.running g = true := by
  simp only [State.tornWg, Bool.and_eq_true, decide_eq_true_eq, and_assoc]
  rw [and_comm (a := 46 ≤ s.cycle - g.tornAt), retryCycles]

theorem exec_tileLoadRetry_job (hf : s.args.flag = false) (hj : (s.jobs.find? fun j => j.id == s.args.i) = some j) :
    Goes .tileLoadRetry s (if s.tornJob j then s.retryJob j else s) := by
  simp only [Goes, exec_tileLoadRetry, execTileLoadRetry, hf, hj, Bool.false_eq_true, if_false]

theorem exec_tileLoadRetry_wg (hf : s.args.flag = true) (hg : s.wg? s.args.i = some g) :
    Goes .tileLoadRetry s (if s.tornWg g then s.retryWg g else s) := by
  simp only [Goes, exec_tileLoadRetry, execTileLoadRetry, hf, hg, if_true]

theorem State.retryJob_tld (hk : j.kind = .tld) :
    s.retryJob j = (s.modJob j.id fun j => { j with torn := false }).tldAttempt { j with torn := false } := if_pos hk

theorem State.retryJob_chunk (hk : j.kind ≠ .tld) :
    s.retryJob j = State.runChunk 5000 j.id (s.modJob j.id fun j => { j with torn := false }) := if_neg hk

/-! ## The journal (R179) and prologues (R139) -/

/-- A write at home leaves the journal alone. -/
theorem State.homeWrite_journal (s : State) (key : Nat) (data : List Byte) : (s.homeWrite key data).journal = s.journal := by
  unfold State.homeWrite
  generalize partsOf key data.length = xs
  induction xs generalizing s with
  | nil => rfl
  | cons x xs ih => exact ih _

/-- The only entry of its tile, once it stands first, is written out. -/
theorem exec_journalApply_last {e : Journal} (he : s.journal[s.args.i]? = some e)
    (hfirst : ((s.journal.take s.args.i).any fun x => x.addr == e.addr) = false)
    (hlast : ((removeAt s.journal s.args.i).any fun x => x.addr == e.addr) = false) :
    Goes .journalApply s (({ s.homeWrite e.addr (e.data.take 8 ++ leBytes 4 (e.version + 2).toNat ++ e.data.drop 12) with
      journal := removeAt s.journal s.args.i } : State).modJob e.job fun j => { j with done := true }) := by
  simp only [Goes, exec_journalApply, execJournalApply, State.journalApply, he, hfirst, State.homeWrite_journal, hlast, Bool.false_eq_true,
    if_false]

theorem exec_jibChunkComplete_serves {b k : Nat} (hg : s.wg? s.args.i = some g) (hp : g.prologue = some (b, k))
    (hs : s.jibServes g = true) :
    Goes .jibChunkComplete s (State.jibGo g b k ((s.bindingsOf g).getD b {}) 5000 [] s) := by
  simp only [Goes, exec_jibChunkComplete, execJibChunkComplete, State.jibChunk, hg, hp, hs, if_true]
  rfl

end

theorem journalRows : JournalRows := by
  intro s i
  refine ⟨fun j hf hj => ⟨State.tornJob_iff, fun ht => ?_, fun ht => ⟨fun hk => ?_, fun hk => ?_⟩⟩,
    fun g hf hg => ⟨State.tornWg_iff, fun ht => ?_, fun ht => ?_⟩,
    fun e he hfirst hlast => ⟨State.homeWrite_journal _ _ _, exec_journalApply_last he hfirst hlast⟩,
    fun g b k => exec_jibChunkComplete_serves⟩
  · simpa only [ht, Bool.false_eq_true, if_false] using exec_tileLoadRetry_job hf hj
  · simpa only [ht, if_true, State.retryJob_tld hk] using exec_tileLoadRetry_job hf hj
  · simpa only [ht, if_true, State.retryJob_chunk hk] using exec_tileLoadRetry_job hf hj
  · simpa only [ht, Bool.false_eq_true, if_false] using exec_tileLoadRetry_wg hf hg
  · simpa only [ht, if_true, State.retryWg] using exec_tileLoadRetry_wg hf hg

end Sys2Proof.Machine

/-- Settles O39: each event's conditions pick the branch that its clause tells of; a grant of an MMA has one pass to eight. -/
theorem engineEvents : Obligations.EngineEvents := ⟨Sys2Proof.Machine.engineRows, Sys2Proof.Machine.journalRows⟩
end

section
/-! SUPPORT. What keeps an instruction from its effect (R253, R258, R259, R271 to R273, R277). -/
namespace Sys2Proof.Machine

section
variable {s t : State} {i : Instr} {sw : Bool} {u : Uses} {c : Issue} {body : Issue → State → State}

/-! ## The issue of a coded instruction -/

theorem State.issueWith_noSplit (h : s.issue? sw = none) : s.issueWith i sw u body = .fault .noIssuingSplit := by
  simp only [State.issueWith, h]

theorem State.issueWith_check {code : FaultCode} {n : Nat} (h : s.issue? sw = some c) (hc : u.check c i = some (code, n)) :
    s.issueWith i sw u body = .next (s.faultAt c code c.p.mask 0 n) := by
  simp only [State.issueWith, h, hc]

theorem State.issueWith_stalled (h : s.issue? sw = some c) (hc : u.check c i = none) (hs : u.stalled s c = true) :
    s.issueWith i sw u body = .next (s.waitAt c .results) := by
  simp only [State.issueWith, h, hc, hs, if_true]

theorem State.issueWith_hazard {n : Nat} (h : s.issue? sw = some c) (hc : u.check c i = none) (hs : u.stalled s c = false)
    (hm : s.checkedMode c = true) (hz : u.hazard c (u.lanes c &&& ~~~(if u.keyProg then 0 else c.doneBefore)) = some n) :
    s.issueWith i sw u body =
      .next (s.faultAt c .runHazard (u.lanes c &&& ~~~(if u.keyProg then 0 else c.doneBefore)) 0 (n % 1024)) := by
  unfold State.issueWith
  simp only [h, hc, hs, hm, hz, Bool.false_eq_true, if_true, if_false]

/-- A split that issues goes on, whatever comes of its instruction. -/
theorem State.issueWith_completes (h : s.issue? sw = some c) : Completes (s.issueWith i sw u body) := by
  unfold State.issueWith
  simp only [h]
  split
  · exact ⟨_, rfl⟩
  · split
    · exact ⟨_, rfl⟩
    · split
      · exact ⟨_, rfl⟩
      · split <;> exact ⟨_, rfl⟩

/-! ## The checks of R273, in their order -/

theorem Uses.check_op (h : u.okOp = false) : u.check c i = some (.illegalOp, (encodeWord i).toNat) := if_pos h

theorem Uses.check_width (ho : u.okOp = true) (hw : u.okWidth = false) :
    u.check c i = some (.illegalWidth, (encodeWord i).toNat) := by
  simp only [Uses.check, ho, hw, Bool.true_eq_false, if_true, if_false]

theorem Uses.check_hint {d : Nat} (ho : u.okOp = true) (hw : u.okWidth = true) (hh : u.hintFault c.p.hints = some d) :
    u.check c i = some (.illegalHint, d) := by
  simp only [Uses.check, ho, hw, hh, Bool.true_eq_false, if_false]

theorem bits_low4 (x : Nat) : bits x 0 4 = x % 16 := by simp [bits]

theorem Uses.check_target {d : Nat} {r : BitVec 6} (ho : u.okOp = true) (hw : u.okWidth = true) (hh : u.hintFault c.p.hints = none)
    (hr : u.target = some r) (hl : u.targetWaits c = false) (hd : tcvtHint c.p.hints ((c.p.ureg r.toNat).toNat % 16) = some d) :
    u.check c i = some (.illegalHint, d) := by
  simp only [Uses.check, ho, hw, hh, hl, hr, Option.bind_some, bits_low4, hd, Bool.true_eq_false, Bool.false_eq_true, if_false]

/-- The registers are checked last. -/
theorem Uses.check_registers (ho : u.okOp = true) (hw : u.okWidth = true) (hh : u.hintFault c.p.hints = none)
    (hr : ∀ r, u.target = some r → u.targetWaits c = false ∧ tcvtHint c.p.hints ((c.p.ureg r.toNat).toNat % 16) = none) :
    u.check c i = (u.windowFault c).map fun d => (.window, d) := by
  cases ht : u.target with
  | none =>
    have hl : u.targetWaits c = false := by simp only [Uses.targetWaits, ht, Option.any_none]
    simp only [Uses.check, ho, hw, hh, hl, ht, Option.bind_none, Bool.true_eq_false, Bool.false_eq_true, if_false]
  | some r =>
    obtain ⟨hl, hn⟩ := hr r ht
    simp only [Uses.check, ho, hw, hh, hl, ht, Option.bind_some, bits_low4, hn, Bool.true_eq_false, Bool.false_eq_true, if_false]

/-! ## What no instruction passes: a slice beyond the allocation, a hint that does not fit or stands twice (R117, R271) -/

theorem Uses.check_of_hintFault (h : (u.hintFault c.p.hints).isSome = true) : (u.check c i).isSome = true := by
  obtain ⟨d, hd⟩ := Option.isSome_iff_exists.1 h
  unfold Uses.check
  split
  · rfl
  · split
    · rfl
    · simp only [hd, Option.isSome_some]

theorem Uses.check_of_windowFault (h : (u.windowFault c).isSome = true) (hl : u.targetWaits c = false) : (u.check c i).isSome = true := by
  unfold Uses.check
  split
  · rfl
  · split
    · rfl
    · split
      · rfl
      · rw [hl, if_neg Bool.false_ne_true]
        split
        · rfl
        · simpa only [Option.isSome_map] using h

theorem Uses.windowFault_of_slice {v : Nat × Nat} (hv : v ∈ u.vs) (h : c.w.slicesA < c.abs v.1 + v.2) : (u.windowFault c).isSome = true := by
  have hs : (u.vs.findSome? fun v =>
      if c.w.slicesA < c.abs v.1 + v.2 then some (max (c.abs v.1) c.w.slicesA % 2 ^ 16) else none).isSome = true :=
    List.findSome?_isSome_iff.2 ⟨v, hv, by simp only [h, if_true, Option.isSome_some]⟩
  obtain ⟨d, hd⟩ := Option.isSome_iff_exists.1 hs
  simp only [Uses.windowFault, hd, Option.isSome_some]

theorem Uses.hintFault_of_bad {hs : List HintRec} {k : Nat} {h : HintRec} (hk : hs[k]? = some h) (hb : u.hintBad hs k h = true) :
    (u.hintFault hs).isSome = true := by
  refine List.findSome?_isSome_iff.2 ⟨k, List.mem_range.2 (List.getElem?_eq_some_iff.1 hk).1, ?_⟩
  simp only [hk, hb, if_true, Option.isSome_some]

theorem Uses.hintBad_unfit {hs : List HintRec} {k : Nat} {h : HintRec} (h8 : h.kind ≠ 8) (hf : u.fits.contains h.kind.toNat = false) :
    u.hintBad hs k h = true := by
  have hne : (h.kind.toNat == 8) = false := beq_eq_false_iff_ne.2 fun e => h8 (BitVec.eq_of_toNat_eq e)
  simp only [Uses.hintBad, hne, hf, Bool.or_self, Bool.not_false, Bool.or_true, Bool.true_or]

theorem Uses.hintBad_twice {hs : List HintRec} {j k : Nat} {h h' : HintRec} (hjk : j < k) (hj : hs[j]? = some h)
    (hkind : h.kind = h'.kind) : u.hintBad hs k h' = true := by
  have hany : ((hs.take k).any fun x => x.kind == h'.kind) = true :=
    List.any_eq_true.2 ⟨h, List.mem_of_getElem? ((List.getElem?_take_of_lt hjk).trans hj), beq_iff_eq.2 hkind⟩
  simp only [Uses.hintBad, hany, Bool.or_true, Bool.true_or]

/-! ## Fetch and decoding (R253, R272, R277) -/

theorem State.fetchWord_space {ag : Agent} {g : Workgroup} {pc : Word} (h : pc.toNat / 2 ^ 60 ≠ 3) :
    s.fetchWord ag g pc = (s, .error ⟨.badSpace, 0⟩) :=
  if_pos (by rwa [bits_space pc.isLt])

theorem State.fetchWord_error {ag : Agent} {g : Workgroup} {pc : Word} {e : MErr} (h : s.places ag .fetch pc.toNat 4 = (t, .error e))
    (hs : pc.toNat / 2 ^ 60 = 3) : s.fetchWord ag g pc = (t, .error e) := by
  rw [State.fetchWord, if_neg (by rw [bits_space pc.isLt]; exact not_not_intro hs), h]

theorem State.fetch_error {id : SplitId} {w : Warp} {e : MErr} (hw : s.warp? id.warp = some w)
    (hi : (s.atIssue id w).issue? false = some c) (hf : (s.atIssue id w).fetchWord (c.agent none) c.g c.pc = (t, .error e)) :
    s.fetch id = .taken (t.faultAt c e.code c.p.mask c.pc e.detail) := by
  unfold State.atIssue at hi hf
  simp only [State.fetch, hw, hi, hf]

theorem State.decodeFor_illegalOp {x : IWord} (h : decode x = .illegalOp) :
    s.decodeFor c x = .taken (s.faultAt c .illegalOp c.p.mask 0 x.toNat) := by simp only [State.decodeFor, h]

theorem State.decodeFor_illegalWidth {x : IWord} (h : decode x = .illegalWidth) :
    s.decodeFor c x = .taken (s.faultAt c .illegalWidth c.p.mask 0 x.toNat) := by simp only [State.decodeFor, h]

end
end Sys2Proof.Machine

open Sys2Proof.Machine

/-- Settles O50: what keeps an instruction from its effect, check by check, and the faults of fetch and decoding. -/
theorem issueChecks : Obligations.IssueChecks := by
  refine ⟨fun s i sw u body => State.issueWith_noSplit, fun s i sw u body c h => ⟨fun code n => State.issueWith_check h,
    State.issueWith_stalled h, fun n hc hs hm => State.issueWith_hazard h hc hs hm, fun _ => State.issueWith_completes h⟩,
    fun u c i => ⟨Uses.check_op, Uses.check_width, fun d => Uses.check_hint, fun d r => Uses.check_target, fun d ho hw hh hd hr => ?_,
      fun v hv h => Uses.check_of_windowFault (Uses.windowFault_of_slice hv h),
      fun k h hk h8 hf => Uses.check_of_hintFault (Uses.hintFault_of_bad hk (Uses.hintBad_unfit h8 hf)),
      fun j k h h' hjk hj hk hkind => Uses.check_of_hintFault (Uses.hintFault_of_bad hk (Uses.hintBad_twice hjk hj hkind))⟩,
    fun s t ag g pc e => State.fetchWord_error, fun s ag g pc => State.fetchWord_space, fun s t id w c e => State.fetch_error,
    fun s c x => ⟨State.decodeFor_illegalOp, State.decodeFor_illegalWidth⟩⟩
  rw [Uses.check_registers ho hw hh hr, hd, Option.map_some]

end

section
/-! SUPPORT. The frames of rounded results, of predicate writes and of the uniform instructions (R121 to R124, R231 to R233, R255, R276,
R319). Each of these effects is one change of the issuing warp, and perhaps of the operand latch (`Issue.Changes`). -/
namespace Sys2Proof.Machine

/-! ## Changes of one warp -/

theorem State.modWarp_modWarp (s : State) (id : Nat) (F : Warp → Warp) {G : Warp → Warp} (hG : ∀ w, (G w).id = w.id) :
    (s.modWarp id G).modWarp id F = s.modWarp id fun w => F (G w) := by
  unfold State.modWarp
  simp only [List.map_map, Function.comp_def]
  congr 1
  refine List.map_congr_left fun w _ => ?_
  by_cases hw : w.id = id
  · simp only [hw, if_true, hG]
  · simp only [hw, if_false]

/-- `r` is `t` with the issuing warp changed into `v`, and nothing else but the operand latch. -/
def Issue.Changes (c : Issue) (t : State) (v : Warp) (r : State) : Prop :=
  ∃ F l, (∀ w, Warp.id (F w) = w.id) ∧ F c.w = v ∧ r = { t.modWarp c.id.warp F with latch := l }

/-- The issuing split behind its instruction, at `target` in cycle `now`. -/
def Split.onward (target : Word) (now : Nat) (p : Split) : Split :=
  { p with
    pc := target, hints := [], progValid := false, seen := none, asked := false, walk := none, stc := none, count := p.count + 1
    since := now + 1, lifted := false, wait := .ready }

theorem Issue.behind_eq_onward (c : Issue) (now : Nat) : c.behind now = c.p.onward (c.pc + 4) now := rfl

section
variable {t r : State} {c : Issue} {v : Warp}

theorem Issue.Changes.onlyWarp (h : c.Changes t v r) : OnlyWarp c.id.warp t r := by
  obtain ⟨F, l, hF, -, rfl⟩ := h
  exact OnlyWarp.of hF

theorem Issue.Changes.warp? (h : c.Changes t v r) (hp : c.plain t) : r.warp? c.id.warp = some v := by
  obtain ⟨F, l, hF, rfl, rfl⟩ := h
  exact State.warp?_modWarp_self hp.1 F hF

theorem Issue.Changes.laneOf (h : c.Changes t v r) (hp : c.plain t) (l : Nat) : r.laneOf c.id.warp l = v.lane l :=
  State.laneOf_of (h.warp? hp) l

theorem Issue.Changes.splitOf (h : c.Changes t v r) (hp : c.plain t) (k : Nat) : r.splitOf ⟨c.id.warp, k⟩ = v.split k :=
  State.splitOf_of (h.warp? hp) k

theorem Issue.plain.split (hp : c.plain t) : c.w.split c.id.split = some c.p := hp.2.1

theorem Issue.plain.pending (hp : c.plain t) : c.w.pending = [] := hp.2.2.1

theorem Issue.plain.lanes_length (hp : c.plain t) : c.w.lanes.length = 32 := hp.2.2.2.2

theorem Issue.plain.laneOf (hp : c.plain t) (l : Nat) : t.laneOf c.id.warp l = c.w.lane l := State.laneOf_of hp.1 l

theorem Issue.plain.splitOf (hp : c.plain t) (k : Nat) : t.splitOf ⟨c.id.warp, k⟩ = c.w.split k := State.splitOf_of hp.1 k

/-- Only the issuing split goes on: the others are as before. -/
theorem Issue.Changes.splitOf_ne {u : Warp} {g : Split → Split} (h : c.Changes t (u.modSplit c.id.split g) r) (hp : c.plain t)
    (hu : ∀ k, k ≠ c.id.split → u.split k = c.w.split k) (k : Nat) (hk : k ≠ c.id.split) :
    r.splitOf ⟨c.id.warp, k⟩ = t.splitOf ⟨c.id.warp, k⟩ := by
  rw [h.splitOf hp, hp.splitOf, Warp.split_modSplit, if_neg hk, hu k hk]

theorem Issue.Changes.splitOf_self {u : Warp} {g : Split → Split} {q : Split} (h : c.Changes t (u.modSplit c.id.split g) r)
    (hp : c.plain t) (hu : u.split c.id.split = some q) : r.splitOf c.id = some (g q) := by
  rw [show c.id = ⟨c.id.warp, c.id.split⟩ from rfl, h.splitOf hp, Warp.split_modSplit, if_pos rfl, hu, Option.map_some]

/-- A change of lanes alone, behind which the issuing split goes on. -/
theorem Issue.Changes.onlyLanes {ls : List Lane} (h : c.Changes t (({ c.w with lanes := ls } : Warp).modSplit c.id.split
    (Split.onward (c.pc + 4) t.cycle)) r) (hp : c.plain t) : OnlyLanes c.id.warp c.id.split (c.behind t.cycle) c.w t r :=
  ⟨h.onlyWarp, h.splitOf_self hp hp.split, h.splitOf_ne hp fun _ _ => rfl, by rw [h.warp? hp]; rfl⟩

end

/-! ## What the shared operations change -/

section
variable {t : State} {c : Issue}

/-- One warp's change, and then the instruction is complete. -/
theorem Issue.changes_goTo (hsw : c.sw = false) {F : Warp → Warp} (hF : ∀ w, (F w).id = w.id) (target : Word) :
    c.Changes t ((F c.w).modSplit c.id.split (Split.onward target t.cycle)) ((t.modWarp c.id.warp F).goTo c target) := by
  refine ⟨fun w => (F w).modSplit c.id.split (Split.onward target t.cycle), t.latch, hF, rfl, ?_⟩
  rw [State.goTo, State.stepTo, hsw, if_neg Bool.false_ne_true, if_neg Bool.false_ne_true, State.modSplit, State.modWarp_modWarp _ _ _ hF]
  rfl

/-- The same with results at fixed latency behind it. -/
theorem Issue.changes_put (hsw : c.sw = false) {F : Warp → Warp} (hF : ∀ w, (F w).id = w.id) (xs : List (Dest × Nat)) :
    c.Changes t ((xs.foldl (fun w x => w.write c.id.split x.1 x.2) (F c.w)).modSplit c.id.split (Split.onward (c.pc + 4) t.cycle))
      (((t.modWarp c.id.warp F).put c xs).complete c) := by
  obtain ⟨l, hl⟩ := State.put_complete (t := t.modWarp c.id.warp F) hsw xs
  refine ⟨fun w => (xs.foldl (fun w x => w.write c.id.split x.1 x.2) (F w)).modSplit c.id.split (Split.onward (c.pc + 4) t.cycle), l,
    fun w => (Warp.foldl_write_id xs _ _).trans (hF w), rfl, ?_⟩
  rw [hl, State.modWarp_modWarp _ _ _ hF]
  rfl

theorem State.modWarp_id (t : State) (k : Nat) : t.modWarp k (fun w => w) = t := by
  simp only [State.modWarp, ite_self, List.map_id']

theorem Issue.changes_put_only (hsw : c.sw = false) (xs : List (Dest × Nat)) :
    c.Changes t ((xs.foldl (fun w x => w.write c.id.split x.1 x.2) c.w).modSplit c.id.split (Split.onward (c.pc + 4) t.cycle))
      ((t.put c xs).complete c) := by
  have h := Issue.changes_put (t := t) hsw (F := fun w => w) (fun _ => rfl) xs
  rwa [State.modWarp_id] at h

/-- Results at variable latency stand behind those that are pending. -/
theorem Warp.foldl_later (n : Nat) (xs : List (Dest × Nat)) (w : Warp) : xs.foldl (fun w x => w.later n x.1 x.2) w =
    { w with pending := w.pending ++ xs.map fun x => { split := n, dest := x.1, value := x.2 } } := by
  induction xs generalizing w with
  | nil => simp only [List.foldl_nil, List.map_nil, List.append_nil]
  | cons x xs ih => rw [List.foldl_cons, ih]; simp only [Warp.later, List.map_cons, List.append_assoc, List.singleton_append]

theorem Issue.changes_putLater (hsw : c.sw = false) {F : Warp → Warp} (hF : ∀ w, (F w).id = w.id) (xs : List (Dest × Nat)) :
    c.Changes t (({ F c.w with pending := (F c.w).pending ++ xs.map fun x => { split := c.id.split, dest := x.1, value := x.2 } } : Warp).modSplit
      c.id.split (Split.onward (c.pc + 4) t.cycle)) (((t.modWarp c.id.warp F).putLater c xs).complete c) := by
  have h := Issue.changes_goTo (t := t) hsw
    (F := fun w => { F w with pending := (F w).pending ++ xs.map fun x => { split := c.id.split, dest := x.1, value := x.2 } }) hF (c.pc + 4)
  rw [State.complete, State.putLater, State.modWarp_modWarp _ _ _ hF]
  simpa only [Warp.foldl_later] using h

end

/-! ## Rounded results (R231, R233) -/

theorem modifyAt_modifyAt {α : Type} (f g : α → α) (xs : List α) (i : Nat) :
    modifyAt g (modifyAt f xs i) i = modifyAt (fun x => g (f x)) xs i := by
  induction xs generalizing i with
  | nil => rfl
  | cons x xs ih => cases i with
    | zero => rfl
    | succ i => simp only [modifyAt, ih]

/-- What a rounded result leaves in its lane besides the slices: its flags, and its draw. -/
def Rounded.mark (y : Rounded) (x : Lane) : Lane :=
  { x with
    fpflags := x.fpflags ||| BitVec.ofNat 5 y.flags
    sr := if y.drew then BitVec.ofNat 64 (drawNext x.sr.toNat) else x.sr }

theorem Warp.addFlags_advance (w : Warp) (l : Nat) (y : Rounded) :
    (if y.drew then (w.addFlags l y.flags).advanceStream l else w.addFlags l y.flags) = w.modLane l y.mark := by
  unfold Warp.addFlags Warp.advanceStream Warp.modLane Rounded.mark
  cases y.drew
  · rfl
  · simp only [if_true, modifyAt_modifyAt]

/-- A warp whose lanes `ls` have the marks of their results. -/
def Warp.marked (w : Warp) (ls : List Nat) (f : Nat → Rounded) : Warp := ls.foldl (fun w l => w.modLane l (f l).mark) w

theorem State.flagLanes_marked (t : State) (c : Issue) (ls : List Nat) (f : Nat → Rounded) :
    t.flagLanes c (ls.map fun l => (l, f l)) = t.modWarp c.id.warp fun w => w.marked ls f := by
  unfold State.flagLanes Warp.marked
  simp only [List.foldl_map, Warp.addFlags_advance]

section
variable {w : Warp} {ls : BitVec 32} {f : Nat → Rounded}

theorem Warp.marked_rest (w : Warp) (ls : List Nat) (f : Nat → Rounded) :
    ∃ l', l'.length = w.lanes.length ∧ w.marked ls f = { w with lanes := l' } := Warp.foldl_modLane_rest _ _ _

theorem Warp.marked_id (w : Warp) (ls : List Nat) (f : Nat → Rounded) : (w.marked ls f).id = w.id := by
  obtain ⟨l', -, h⟩ := w.marked_rest ls f
  rw [h]

/-- A change of the lanes of a mask, lane by lane. -/
theorem Warp.lane_foldl_mask (hw : w.lanes.length = 32) (ls : BitVec 32) (g : Nat → Lane → Lane) (l : Nat) :
    ((lanesOf ls).foldl (fun w l => w.modLane l (g l)) w).lane l = if ls.getLsbD l = true then g l (w.lane l) else w.lane l := by
  rw [Warp.lane_foldl g _ (lanesOf_nodup ls)]
  by_cases hl : ls.getLsbD l = true
  · rw [if_pos ⟨mem_lanesOf.2 hl, by rw [hw]; exact lanesOf_lt (mem_lanesOf.2 hl)⟩, if_pos hl]
  · rw [if_neg fun h => hl (mem_lanesOf.1 h.1), if_neg hl]

theorem Warp.lane_marked (hw : w.lanes.length = 32) (l : Nat) :
    (w.marked (lanesOf ls) f).lane l = if ls.getLsbD l = true then (f l).mark (w.lane l) else w.lane l :=
  Warp.lane_foldl_mask hw ls (fun l => (f l).mark) l

end

/-- The warp behind rounded results at fixed latency: marked, and each lane's slices written. -/
def Warp.rounded (w : Warp) (ls : List Nat) (st n : Nat) (f : Nat → Rounded) : Warp :=
  ls.foldl (fun w l => w.modLane l fun x => x.put st n (trunc (f l).code (4 * n))) (w.marked ls f)

theorem Warp.rounded_rest (w : Warp) (ls : List Nat) (st n : Nat) (f : Nat → Rounded) :
    ∃ l', w.rounded ls st n f = { w with lanes := l' } := by
  obtain ⟨l1, -, h1⟩ := w.marked_rest ls f
  obtain ⟨l2, -, h2⟩ := Warp.foldl_modLane_rest (fun l x => x.put st n (trunc (f l).code (4 * n))) ls (w.marked ls f)
  refine ⟨l2, ?_⟩
  rw [Warp.rounded, h2, h1]

theorem Warp.lane_rounded {w : Warp} (hw : w.lanes.length = 32) (ls : BitVec 32) (st n : Nat) (f : Nat → Rounded) (l : Nat) :
    (w.rounded (lanesOf ls) st n f).lane l =
      if ls.getLsbD l = true then ((f l).mark (w.lane l)).put st n (trunc (f l).code (4 * n)) else w.lane l := by
  obtain ⟨l1, hlen, h1⟩ := w.marked_rest (lanesOf ls) f
  rw [Warp.rounded, Warp.lane_foldl_mask (by rw [h1]; exact hlen.trans hw) ls (fun l x => x.put st n (trunc (f l).code (4 * n))),
    Warp.lane_marked hw]
  split <;> rfl

section
variable {t : State} {c : Issue} (ls : BitVec 32) (d n : Nat) (f : Nat → Rounded)

/-- Rounded results at fixed latency. -/
theorem Issue.plain.changes_vecF (hp : c.plain t) : c.Changes t
    ((c.w.rounded (lanesOf ls) (c.abs d) n f).modSplit c.id.split (Split.onward (c.pc + 4) t.cycle)) (t.vecF c false ls d n f) := by
  obtain ⟨-, -, hpend, hsw, -⟩ := hp
  have h := Issue.changes_put (t := t) hsw (F := fun w => w.marked (lanesOf ls) f) (fun w => w.marked_id _ f)
    ((lanesOf ls).map fun l => (c.dst l d n, trunc (f l).code (4 * n)))
  rw [Warp.foldl_write_lanes (by obtain ⟨l', -, e⟩ := c.w.marked_rest (lanesOf ls) f; rw [e]; exact hpend) c.id.split (fun l => c.dst l d n) _
    (fun l x => x.put (c.abs d) n (trunc (f l).code (4 * n))) (fun _ _ => rfl), ← State.flagLanes_marked] at h
  rw [State.vecF, List.map_map]
  exact h

/-- Rounded results at variable latency: the marks come at once, the slices later (R255, R306). -/
theorem Issue.plain.changes_vecF_later (hp : c.plain t) : c.Changes t
    (({ c.w.marked (lanesOf ls) f with pending := (lanesOf ls).map fun l =>
      { split := c.id.split, dest := .slices l (c.abs d) n, value := trunc (f l).code (4 * n) } } : Warp).modSplit c.id.split
        (Split.onward (c.pc + 4) t.cycle)) (t.vecF c true ls d n f) := by
  obtain ⟨-, -, hpend, hsw, -⟩ := hp
  have h := Issue.changes_putLater (t := t) hsw (F := fun w => w.marked (lanesOf ls) f) (fun w => w.marked_id _ f)
    ((lanesOf ls).map fun l => (c.dst l d n, trunc (f l).code (4 * n)))
  have hm : (c.w.marked (lanesOf ls) f).pending = [] := by obtain ⟨l', -, e⟩ := c.w.marked_rest (lanesOf ls) f; rw [e]; exact hpend
  rw [hm, List.nil_append, List.map_map, ← State.flagLanes_marked] at h
  rw [State.vecF, List.map_map]
  exact h

end

/-- The issuing warp behind rounded results, but for its counter. -/
def Issue.roundedTo (c : Issue) (later : Bool) (ls : BitVec 32) (d n : Nat) (f : Nat → Rounded) : Warp :=
  if later then { c.w.marked (lanesOf ls) f with pending := (lanesOf ls).map fun l =>
    { split := c.id.split, dest := .slices l (c.abs d) n, value := trunc (f l).code (4 * n) } }
  else c.w.rounded (lanesOf ls) (c.abs d) n f

section
variable {t : State} {c : Issue} (later : Bool) (ls : BitVec 32) (d n : Nat) (f : Nat → Rounded)

theorem Issue.plain.changes_rounded (hp : c.plain t) : c.Changes t
    ((c.roundedTo later ls d n f).modSplit c.id.split (Split.onward (c.pc + 4) t.cycle)) (t.vecF c later ls d n f) := by
  cases later with
  | false => exact hp.changes_vecF ls d n f
  | true => exact hp.changes_vecF_later ls d n f

/-- Only the lanes differ, and with results at variable latency what is pending. -/
theorem Issue.roundedTo_rest (c : Issue) (later : Bool) (ls : BitVec 32) (d n : Nat) (f : Nat → Rounded) :
    ∃ l' p', c.roundedTo later ls d n f = { c.w with lanes := l', pending := p' } := by
  cases later with
  | false =>
    obtain ⟨l', h⟩ := c.w.rounded_rest (lanesOf ls) (c.abs d) n f
    exact ⟨l', c.w.pending, h⟩
  | true =>
    obtain ⟨l', -, h⟩ := c.w.marked_rest (lanesOf ls) f
    exact ⟨l', _, by rw [Issue.roundedTo, if_pos rfl, h]⟩

theorem Issue.split_roundedTo (k : Nat) : (c.roundedTo later ls d n f).split k = c.w.split k := by
  obtain ⟨l', p', h⟩ := c.roundedTo_rest later ls d n f
  rw [h]
  rfl

theorem Issue.roundedTo_bare : ({ c.roundedTo later ls d n f with lanes := [], splits := [], pending := [] } : Warp) =
    { c.w with lanes := [], splits := [], pending := [] } := by
  obtain ⟨l', p', h⟩ := c.roundedTo_rest later ls d n f
  rw [h]

/-- Besides the slices a lane takes the mark of its result, if it has one. -/
theorem Issue.lane_roundedTo (hp : c.plain t) (l : Nat) : ({ (c.roundedTo later ls d n f).lane l with slices := 0 } : Lane) =
    { (if ls.getLsbD l = true then (f l).mark (c.w.lane l) else c.w.lane l) with slices := 0 } := by
  have hlen := hp.lanes_length
  cases later with
  | false =>
    rw [Issue.roundedTo, if_neg Bool.false_ne_true, Warp.lane_rounded hlen]
    split <;> rfl
  | true => exact congrArg (fun x : Lane => { x with slices := 0 }) (Warp.lane_marked hlen l)

end

/-- What a mark changes, field by field. -/
theorem Lane.marked_fields {x y : Lane} {b : Bool} {r : Rounded}
    (h : ({ y with slices := 0 } : Lane) = { (if b = true then r.mark x else x) with slices := 0 }) :
    y.preds = x.preds ∧ y.fpflags = (if b then x.fpflags ||| BitVec.ofNat 5 r.flags else x.fpflags) ∧
    y.sr = (if b && r.drew then BitVec.ofNat 64 (drawNext x.sr.toNat) else x.sr) := by
  have hpreds := congrArg Lane.preds h
  have hflags := congrArg Lane.fpflags h
  have hsr := congrArg Lane.sr h
  dsimp only at hpreds hflags hsr
  rw [hpreds, hflags, hsr]
  cases b <;> exact ⟨rfl, rfl, rfl⟩

section
variable {t : State} {c : Issue} {ls : BitVec 32} {d n : Nat} {f : Nat → Rounded}

theorem Issue.plain.vecF_slices (hp : c.plain t) (hd : c.abs d + n ≤ 1024) {l : Nat} (hl : ls.getLsbD l = true) :
    ((t.vecF c false ls d n f).laneOf c.id.warp l).get (c.abs d) n = trunc (f l).code (4 * n) := by
  rw [(hp.changes_vecF ls d n f).laneOf hp]
  change ((c.w.rounded (lanesOf ls) (c.abs d) n f).lane l).get (c.abs d) n = _
  rw [Warp.lane_rounded hp.lanes_length, if_pos hl, Lane.get_put _ hd, Nat.mod_eq_of_lt (trunc_lt _ _)]

theorem Issue.plain.vecF_slices_ne (hp : c.plain t) {l k : Nat} (h : ls.getLsbD l = false ∨ k < c.abs d ∨ c.abs d + n ≤ k) :
    ((t.vecF c false ls d n f).laneOf c.id.warp l).get k 1 = (t.laneOf c.id.warp l).get k 1 := by
  rw [(hp.changes_vecF ls d n f).laneOf hp, hp.laneOf]
  change ((c.w.rounded (lanesOf ls) (c.abs d) n f).lane l).get k 1 = _
  rw [Warp.lane_rounded hp.lanes_length]
  split
  · next hl => exact Lane.get_put_ne _ _ (h.resolve_left (by simp only [hl, Bool.true_eq_false, not_false_eq_true]))
  · rfl

theorem Issue.plain.vecF_later_slices (hp : c.plain t) (l : Nat) :
    ((t.vecF c true ls d n f).laneOf c.id.warp l).slices = (t.laneOf c.id.warp l).slices := by
  rw [(hp.changes_vecF_later ls d n f).laneOf hp, hp.laneOf]
  change ((c.w.marked (lanesOf ls) f).lane l).slices = _
  rw [Warp.lane_marked hp.lanes_length]
  split <;> rfl

end

/-! ## Predicate writes (R124, R317 to R319) -/

/-- The issuing warp behind a predicate write, but for its counter. -/
def Issue.predicated (c : Issue) (ls : BitVec 32) (m : BitVec 1) (p : BitVec 3) (f : Nat → Bool) : Warp :=
  (lanesOf ls).foldl (fun w l => w.modLane l fun x => x.setPred p.toNat (f l && (m == 0 || (c.w.lane l).pred p.toNat))) c.w

section
variable {t : State} {c : Issue} {ls : BitVec 32} {m : BitVec 1} {p : BitVec 3} {f : Nat → Bool}

theorem Issue.plain.changes_putPreds (hp : c.plain t) :
    c.Changes t ((c.predicated ls m p f).modSplit c.id.split (Split.onward (c.pc + 4) t.cycle)) (t.putPreds c ls m p f) := by
  obtain ⟨-, -, hpend, hsw, -⟩ := hp
  have h := Issue.changes_put_only (t := t) hsw
    ((lanesOf ls).map fun l => (Dest.pred l p.toNat, (f l && (m == 0 || (c.w.lane l).pred p.toNat)).toNat))
  rwa [Warp.foldl_write_lanes hpend c.id.split (fun l => Dest.pred l p.toNat) _
    (fun l x => x.setPred p.toNat (f l && (m == 0 || (c.w.lane l).pred p.toNat)))
    (fun l w => by rw [Warp.land]; cases f l && (m == 0 || (c.w.lane l).pred p.toNat) <;> rfl)] at h

theorem Issue.lane_predicated (hp : c.plain t) (l : Nat) : (c.predicated ls m p f).lane l =
    if ls.getLsbD l = true then (c.w.lane l).setPred p.toNat (f l && (m == 0 || (c.w.lane l).pred p.toNat)) else c.w.lane l :=
  Warp.lane_foldl_mask hp.lanes_length ls (fun l x => x.setPred p.toNat (f l && (m == 0 || (c.w.lane l).pred p.toNat))) l

theorem Issue.plain.putPreds_onlyLanes (hp : c.plain t) :
    OnlyLanes c.id.warp c.id.split (c.behind t.cycle) c.w t (t.putPreds c ls m p f) := by
  obtain ⟨l', -, h⟩ := Warp.foldl_modLane_rest
    (fun l x => x.setPred p.toNat (f l && (m == 0 || (c.w.lane l).pred p.toNat))) (lanesOf ls) c.w
  have hc := hp.changes_putPreds (ls := ls) (m := m) (p := p) (f := f)
  rw [Issue.predicated, h] at hc
  exact hc.onlyLanes hp

theorem Issue.plain.laneOf_putPreds (hp : c.plain t) (l : Nat) : (t.putPreds c ls m p f).laneOf c.id.warp l =
    if ls.getLsbD l = true then (c.w.lane l).setPred p.toNat (f l && (m == 0 || (c.w.lane l).pred p.toNat)) else c.w.lane l :=
  (hp.changes_putPreds.laneOf hp l).trans (Issue.lane_predicated hp l)

end

theorem Lane.setPred_bare (x : Lane) (n : Nat) (v : Bool) : ({ x.setPred n v with preds := 0 } : Lane) = { x with preds := 0 } := by
  unfold Lane.setPred
  split <;> rfl

end Sys2Proof.Machine

open Sys2Proof.Machine

/-- Settles O55: either effect is one change of the issuing warp, read back lane by lane. -/
theorem flagAndPredicateFrame : Obligations.FlagAndPredicateFrame := by
  refine ⟨fun t c later ls d n f hp hd => ?_, fun t c ls m p f hp => ⟨hp.putPreds_onlyLanes, fun l hl hne => ?_, fun _ => rfl,
    fun l k hk h => ?_, fun l => ?_⟩⟩
  · have h := hp.changes_rounded later ls d n f
    refine ⟨h.onlyWarp, h.splitOf_ne hp fun k _ => Issue.split_roundedTo later ls d n f k,
      h.splitOf_self hp ((Issue.split_roundedTo later ls d n f _).trans hp.split), ?_, fun hl => ?_, fun l _ => ?_,
      fun hl => ?_, fun hl => ?_⟩
    · rw [h.warp? hp]
      exact congrArg some ((Issue.roundedTo_bare later ls d n f).trans (by rw [← hp.pending]))
    · subst hl
      obtain ⟨l', hr⟩ := c.w.rounded_rest (lanesOf ls) (c.abs d) n f
      rw [(hp.changes_vecF ls d n f).warp? hp, hr]
      exact congrArg some hp.pending
    · rw [h.laneOf hp, hp.laneOf]
      exact Lane.marked_fields (Issue.lane_roundedTo later ls d n f hp l)
    · subst hl
      exact ⟨fun l => hp.vecF_slices hd, fun l k => hp.vecF_slices_ne⟩
    · subst hl
      exact ⟨hp.vecF_later_slices, by rw [(hp.changes_vecF_later ls d n f).warp? hp]; rfl⟩
  · rw [hp.laneOf_putPreds, if_pos hl, Lane.pred_setPred _ p.isLt, if_pos ⟨rfl, fun e => hne (BitVec.eq_of_toNat_eq e)⟩]
  · rw [hp.laneOf_putPreds, hp.laneOf]
    split
    · next hl =>
      have hkp : k ≠ p.toNat := h.resolve_left (by simp only [hl, Bool.true_eq_false, not_false_eq_true])
      rw [Lane.pred_setPred _ p.isLt, if_neg fun e => hkp e.1]
    · rfl
  · rw [hp.laneOf_putPreds, hp.laneOf]
    split
    · exact Lane.setPred_bare _ _ _
    · rfl

end

section
/-! SUPPORT. The frames of uniform results, of jumps and of results that come later (R121, R122, R255, R276, R285). -/
namespace Sys2Proof.Machine

/-! ## The uniform file of a split (R121, R122) -/

section
variable {p : Split} {many : Bool} {n : Nat} {v : Word}

theorem Split.setUreg_written (hn : n ≠ 0) :
    (p.setUreg many n v).written = if many then p.written ||| (1#64 <<< n) else p.written := by
  rw [Split.setUreg, if_neg hn]

theorem Split.setUreg_sregs (hn : n ≠ 0) : (p.setUreg many n v).sregs = Sparse.set 0 p.sregs n v := by
  rw [Split.setUreg, if_neg hn]

theorem Split.ureg_setUreg_self (hn : n ≠ 0) (hw : Sparse.wf 0 p.sregs = true) : (p.setUreg many n v).ureg n = v := by
  rw [Split.ureg, if_neg hn, Split.setUreg_sregs hn, Sparse.get_set hw, if_pos rfl]

theorem Split.ureg_setUreg_ne {k : Nat} (hn : n ≠ 0) (hw : Sparse.wf 0 p.sregs = true) (hk : k ≠ n) :
    (p.setUreg many n v).ureg k = p.ureg k := by
  rw [Split.ureg, Split.ureg, Split.setUreg_sregs hn, Sparse.get_set hw, if_neg hk]

/-- A uniform write and the advance of the counter touch different fields. -/
theorem Split.onward_setUreg (target : Word) (now : Nat) :
    (p.setUreg many n v).onward target now = (p.onward target now).setUreg many n v := by
  unfold Split.setUreg
  split <;> rfl

end

/-! ## The three effects -/

section
variable {t : State} {c : Issue}

/-- Where nothing is pending, a result for one destination lands at once. -/
theorem Issue.plain.changes_put_one (hp : c.plain t) (d : Dest) (v : Nat) : c.Changes t
    ((c.w.land c.id.split d v).modSplit c.id.split (Split.onward (c.pc + 4) t.cycle)) ((t.put c [(d, v)]).complete c) := by
  obtain ⟨-, -, hpend, hsw, -⟩ := hp
  have h := Issue.changes_put_only (t := t) hsw [(d, v)]
  have hw : c.w.write c.id.split d v = c.w.land c.id.split d v := by
    simp only [Warp.write, hpend, List.any_nil, Bool.false_eq_true, if_false]
  rwa [List.foldl_cons, List.foldl_nil, hw] at h

theorem Issue.plain.changes_jump (hp : c.plain t) (target : Word) :
    c.Changes t (c.w.modSplit c.id.split (Split.onward target t.cycle)) (t.goTo c target) := by
  obtain ⟨-, -, -, hsw, -⟩ := hp
  have h := Issue.changes_goTo (t := t) hsw (F := fun w => w) (fun _ => rfl) target
  rwa [State.modWarp_id] at h

theorem Issue.plain.changes_putLater (hp : c.plain t) (xs : List (Dest × Nat)) : c.Changes t
    (({ c.w with pending := xs.map fun x => { split := c.id.split, dest := x.1, value := x.2 } } : Warp).modSplit c.id.split
      (Split.onward (c.pc + 4) t.cycle)) ((t.putLater c xs).complete c) := by
  obtain ⟨-, -, hpend, hsw, -⟩ := hp
  have h := Issue.changes_putLater (t := t) hsw (F := fun w => w) (fun _ => rfl) xs
  rwa [State.modWarp_id, hpend, List.nil_append] at h

theorem Issue.plain.goTo_eq_stepTo (hp : c.plain t) (target : Word) : t.goTo c target = t.stepTo c target := by
  obtain ⟨-, -, -, hsw, -⟩ := hp
  rw [State.goTo, hsw, if_neg Bool.false_ne_true]

end

end Sys2Proof.Machine

open Sys2Proof.Machine

/-- Settles O56: the uniform file reads back; a uniform result, a jump and a later result are one change of the issuing warp each. -/
theorem uniformFrame : Obligations.UniformFrame := by
  refine ⟨fun p => ⟨p.ureg_zero, p.setUreg_zero, fun many n v => Split.setUreg_written, fun many n v hn hw =>
      ⟨(congrArg _ (Split.setUreg_sregs hn)).trans (Sparse.wf_set hw n v), Split.ureg_setUreg_self hn hw, fun k => Split.ureg_setUreg_ne hn hw⟩⟩,
    fun t c n v hp _ => ?_, fun t c target hp => ?_, fun t c xs hp => ?_⟩
  · have h := hp.changes_put_one (.ureg n) v
    have hsplit : ∀ k, (c.w.land c.id.split (.ureg n) v).split k =
        if k = c.id.split then (c.w.split k).map fun p => p.setUreg c.many n (BitVec.ofNat 64 v) else c.w.split k :=
      fun k => Warp.split_modSplit _ _ _ _
    refine ⟨h.onlyWarp, h.splitOf_ne hp fun k hk => by rw [hsplit, if_neg hk], ?_, by rw [h.warp? hp]; rfl⟩
    rw [h.splitOf_self hp (by rw [hsplit, if_pos rfl, hp.split, Option.map_some]), Split.onward_setUreg, c.behind_eq_onward]
  · have h := hp.changes_jump target
    exact ⟨hp.goTo_eq_stepTo target, h.onlyWarp, h.splitOf_ne hp fun _ _ => rfl, h.splitOf_self hp hp.split, by rw [h.warp? hp]; rfl⟩
  · have h := hp.changes_putLater xs
    exact ⟨h.onlyWarp, h.splitOf_ne hp fun _ _ => rfl, h.splitOf_self hp hp.split, by rw [h.warp? hp]; rfl⟩

end

section
/-! SUPPORT. A fault without a handler climbs to the CONTEXT rung or to the PARTITION rung (R212 to R217). -/
namespace Sys2Proof.Machine

/-! ## A workgroup of one warp -/

/-- `w` is the only warp of `g`; no handler runs in the device, the context of `g` runs, and its vector base is 0. -/
structure Solo (s : State) (w : Warp) (g : Workgroup) : Prop where
  warp : s.warp? w.id = some w
  wg : s.wg? g.id = some g
  only : s.warpsOf g.id = [w]
  warps : ∀ v ∈ s.warps, v.handler = none
  wgs : ∀ x ∈ s.wgs, x.handler = none
  base : s.vecBase g = 0
  running : s.running g = true

theorem State.warpsOf_modWarp (s : State) (k i : Nat) {f : Warp → Warp} (hf : ∀ x, (f x).wg = x.wg) :
    (s.modWarp k f).warpsOf i = (s.warpsOf i).map fun x => if x.id = k then f x else x := by
  have hwg : ∀ x : Warp, (if x.id = k then f x else x).wg = x.wg := fun x => by split <;> simp only [hf]
  simp only [State.warpsOf, State.modWarp, List.filter_map, Function.comp_def, hwg]

section
variable {s : State} {w : Warp} {g : Workgroup}

theorem Solo.wgOf (h : Solo s w g) : w.wg = g.id := by
  have hmem : w ∈ s.warpsOf g.id := by rw [h.only]; exact List.mem_singleton_self w
  exact beq_iff_eq.1 (List.mem_filter.1 hmem).2

theorem Solo.handler (h : Solo s w g) : w.handler = none := h.warps w (List.mem_of_find?_eq_some h.warp)

theorem Solo.wgHandler (h : Solo s w g) : g.handler = none := h.wgs g (List.mem_of_find?_eq_some h.wg)

theorem Solo.modWarp (h : Solo s w g) {f : Warp → Warp} (hid : ∀ x, (f x).id = x.id) (hwg : ∀ x, (f x).wg = x.wg)
    (hh : ∀ x, (f x).handler = x.handler) : Solo (s.modWarp w.id f) (f w) g where
  warp := by rw [hid]; exact State.warp?_modWarp_self h.warp f hid
  wg := h.wg
  only := by rw [State.warpsOf_modWarp _ _ _ hwg, h.only, List.map_singleton, if_pos rfl]
  warps := fun v hv => by
    obtain ⟨x, hx, rfl⟩ := List.mem_map.1 hv
    split
    · rw [hh, h.warps x hx]
    · exact h.warps x hx
  wgs := h.wgs
  base := h.base
  running := h.running

theorem Solo.modWg (h : Solo s w g) {f : Workgroup → Workgroup} (hid : ∀ x, (f x).id = x.id) (hp : (f g).part = g.part)
    (hc : (f g).ctx = g.ctx) (hh : ∀ x : Workgroup, x.handler = none → (f x).handler = none) : Solo (s.modWg g.id f) w (f g) where
  warp := h.warp
  wg := by rw [hid, State.wg?_modWg _ _ _ _ hid, h.wg, Option.map_some, if_pos rfl]
  only := by rw [hid]; exact h.only
  warps := h.warps
  wgs := fun y hy => by
    obtain ⟨x, hx, rfl⟩ := List.mem_map.1 hy
    split
    · exact hh x (h.wgs x hx)
    · exact h.wgs x hx
  base := by rw [State.vecBase, hp, hc]; exact h.base
  running := by rw [State.running, hp, hc]; exact h.running

theorem Solo.othersInHandlers (h : Solo s w g) : s.othersInHandlers g = [] := by
  refine List.filter_eq_nil_iff.2 fun x hx => ?_
  have hw : ((s.warpsOf x.id).any fun w => w.handler.isSome) = false :=
    List.any_eq_false.2 fun v hv => by rw [h.warps v (List.mem_of_mem_filter hv)]; exact Bool.false_ne_true
  simp only [h.wgs x hx, hw, Option.isSome_none, Bool.or_self, Bool.and_false, Bool.false_eq_true, not_false_eq_true]

/-- There is no handler to give up. -/
theorem Solo.foldl_abandon (h : Solo s w g) : (s.warpsOf g.id).foldl (fun t x => t.abandon x.id) s = s := by
  rw [h.only]
  exact State.foldl_abandon_none [w] fun x hx => by rw [List.mem_singleton.1 hx]; exact ⟨h.warp, h.handler⟩

end

/-! ## Splits that can stop (R214) -/

theorem Warp.split_mapSplits (w : Warp) (f : Split → Split) (n : Nat) :
    ({ w with splits := w.splits.map (Option.map f) } : Warp).split n = (w.split n).map f := by
  simp only [Warp.split, List.getD_eq_getElem?_getD, List.getElem?_map]
  cases w.splits[n]? <;> rfl

theorem State.canStop_iff {s : State} {w : Warp} : s.canStop w = true ↔
    ∀ n, n < 4 → ∀ q, w.split n = some q → q.canStop (!w.resultsOut n && s.storesSettled w.id) = true := by
  simp only [State.canStop, List.all_eq_true, List.mem_range]
  refine forall₂_congr fun n _ => ?_
  cases w.split n with
  | none => simp only [reduceCtorEq, false_implies, implies_true]
  | some q => simp only [Option.some.injEq, forall_eq']

/-- A split that has stopped where it could can stop. -/
theorem Split.canStop_stop {p : Split} {b : Bool} (h : p.canStop b = true) (b' : Bool) : p.stop.canStop b' = true := by
  simp only [Split.canStop, Bool.and_eq_true] at h ⊢
  exact ⟨h.1, rfl⟩

theorem State.canStop_stopped {s : State} {w : Warp} (h : s.canStop w = true) (t : State) : t.canStop w.stoppedForRung = true := by
  rw [State.canStop_iff] at h ⊢
  intro n hn q hq
  rw [show w.stoppedForRung.split n = (w.split n).map Split.stop from Warp.split_mapSplits w Split.stop n] at hq
  obtain ⟨p, hp, rfl⟩ := Option.map_eq_some_iff.1 hq
  exact Split.canStop_stop (h n hn p hp) _

theorem State.storesSettled_modWarp (s : State) (k i : Nat) {f : Warp → Warp} (hid : ∀ x, (f x).id = x.id)
    (hs : ∀ x, (f x).stores = x.stores) : (s.modWarp k f).storesSettled i = s.storesSettled i := by
  unfold State.storesSettled
  rw [State.warp?_modWarp _ _ _ _ hid]
  cases s.warp? i with
  | none => rfl
  | some w =>
    have hstores : (if i = k then f w else w).stores = w.stores := by split <;> simp only [hs]
    simp only [Option.map_some, hstores, State.modWarp_exts]

/-! ## The rungs, without a handler (R212 to R215, R217) -/

section
variable {s : State} {w : Warp} {g : Workgroup} {r : FaultRec}

theorem State.vector_noBase {s : State} {ag : Agent} {base : Nat} (h : base = 0) (rung code : Nat) : s.vector ag base rung code = none :=
  if_pos h

theorem Solo.enterWarp (h : Solo s w g) (hr : w.raised = some r) :
    s.enterWarp w.id = (s.modWarp w.id Warp.stoppedForRung).raiseWg g.id r :=
  State.enterWarp_noVector h.warp (h.wgOf ▸ h.wg) hr rfl (State.vector_noBase h.base _ _)

/-- A fault that comes to the WORKGROUP rung. -/
def Workgroup.raise (r : FaultRec) (x : Workgroup) : Workgroup := { x with raised := some { r with rung := 2 } }

theorem Solo.raiseWg (h : Solo s w g) (hr : g.raised = none) (hstop : s.canStop w = true) :
    s.raiseWg g.id r = (s.modWg g.id (Workgroup.raise r)).enterWg g.id := by
  have hrun : (s.modWg g.id (Workgroup.raise r)).running g = true := h.running
  have hall : (s.modWg g.id (Workgroup.raise r)).wgCanStop g.id = true := by
    have hw : (s.modWg g.id (Workgroup.raise r)).warpsOf g.id = [w] := h.only
    have hc : (s.modWg g.id (Workgroup.raise r)).canStop w = true := hstop
    simp only [State.wgCanStop, hw, List.all_cons, List.all_nil, hc, Bool.or_true, Bool.and_self]
  simp only [State.raiseWg, h.wg, h.wgHandler, hr, Option.isSome_none, Bool.false_eq_true, if_false]
  exact if_pos ⟨hrun, hall⟩

/-- A warp whose splits stop for its workgroup's rung; a fault that it has raised is put off. -/
def Warp.stopAll (x : Warp) : Warp := { x.unraise with splits := x.unraise.splits.map (Option.map Split.stop) }

theorem Warp.unraise_kept (x : Warp) : x.unraise.id = x.id ∧ x.unraise.wg = x.wg ∧ x.unraise.handler = x.handler := by
  unfold Warp.unraise Warp.putOff
  split
  · split <;> exact ⟨rfl, rfl, rfl⟩
  · exact ⟨rfl, rfl, rfl⟩

theorem Solo.stopAll (h : Solo s w g) : Solo (s.modWarp w.id Warp.stopAll) w.stopAll g :=
  h.modWarp (fun x => x.unraise_kept.1) (fun x => x.unraise_kept.2.1) fun x => x.unraise_kept.2.2

theorem Solo.giveUp (h : Solo s w g) : Solo (s.modWarp w.id Warp.giveUp) w.giveUp g :=
  h.modWarp (fun x => x.unraise_kept.1) (fun x => x.unraise_kept.2.1) fun x => x.unraise_kept.2.2

/-- A live warp or none: without a vector the fault climbs. -/
theorem Solo.enterWg (h : Solo s w g) (hg : g.raised = some r) :
    s.enterWg g.id = (s.modWarp w.id Warp.stopAll).climbCtx g.id r := by
  have hstop : (s.warpsOf g.id).foldl (fun t w =>
      t.modWarp w.id fun x => { x.unraise with splits := x.unraise.splits.map (Option.map Split.stop) }) s =
      s.modWarp w.id Warp.stopAll := by rw [h.only]; rfl
  simp only [State.enterWg, h.wg, hg, h.foldl_abandon, hstop]
  split
  · rfl
  · rw [State.vector_noBase h.stopAll.base]

/-- A workgroup whose fault has climbed past it. -/
def Workgroup.passed (x : Workgroup) : Workgroup := { x with raised := none, handler := none }

/-- The summary that a fault of workgroup `gid` climbs with (R217). -/
def climbSummary (r : FaultRec) (gid now : Nat) : Summary := summaryOf r r.first r.serial (r.split == 0xFF) r.prologue false gid now

theorem Solo.climbCtx (h : Solo s w g) : s.climbCtx g.id r =
    ((((s.modWg g.id Workgroup.passed).modWarp w.id Warp.giveUp).noteFmask g.id r).raiseCtx g.part g.ctx r
      (climbSummary r g.id s.cycle)) := by
  have hgive : ((s.modWg g.id Workgroup.passed).warpsOf g.id).foldl (fun t w => t.modWarp w.id Warp.giveUp) (s.modWg g.id Workgroup.passed) =
      (s.modWg g.id Workgroup.passed).modWarp w.id Warp.giveUp := by
    rw [show (s.modWg g.id Workgroup.passed).warpsOf g.id = [w] from h.only]
    rfl
  simp only [State.climbCtx, h.wg, h.othersInHandlers, List.foldl_nil, h.foldl_abandon]
  exact congrArg (fun t : State => (t.noteFmask g.id r).raiseCtx g.part g.ctx r _) hgive

end

/-! ## The CONTEXT and the PARTITION rung (R115, R217, R218) -/

section
variable {s : State} {p : BitVec 2} {c : BitVec 6} {r : FaultRec} {m : Summary}

theorem State.raiseCtx_ctx (hp : p.toNat < s.parts.length) (hpend : (s.ctx p c).summary.pending = false) (hr : (s.ctx p c).raised = none) :
    ((s.raiseCtx p c r m).ctx p c).raised = some ({ r with rung := 3 }, m) := by
  have hcond : ¬ ((s.ctx p c).summary.pending = true ∨ (s.ctx p c).raised.isSome = true) := by
    simp only [hpend, hr, Option.isSome_none, Bool.false_eq_true, or_self, not_false_eq_true]
  have hne : ({ s.ctx p c with raised := some ({ r with rung := 3 }, m) } : Ctx) ≠ {} := fun e => by
    cases congrArg (fun x : Ctx => x.raised) e
  rw [State.raiseCtx, if_neg hcond, State.modCtx, State.ctx, State.part_modPart_same hp]
  exact congrArg (fun x : Ctx => x.raised) (Sparse.get_set_same _ _ hne)

theorem State.raiseCtx_part (hp : p.toNat < s.parts.length) (hpend : (s.ctx p c).summary.pending = true) (hr : (s.part p).raised = none) :
    ((s.raiseCtx p c r m).part p).raised = some ({ r with rung := 4 }, m) := by
  rw [State.raiseCtx, if_pos (Or.inl hpend), State.raisePart, State.part_modPart_same hp, hr]
  rfl

theorem State.warp?_raiseCtx (k : Nat) : (s.raiseCtx p c r m).warp? k = s.warp? k := by
  unfold State.raiseCtx
  dsimp only
  split <;> rfl

theorem State.noteFmask_parts (gid : Nat) : (s.noteFmask gid r).parts = s.parts := by
  unfold State.noteFmask
  split <;> rfl

theorem Solo.warp?_noteFmask {w : Warp} {g : Workgroup} (h : Solo s w g) (hr : r.split ≠ 0xFF) (hs : w.serial = r.serial) :
    (s.noteFmask g.id r).warp? w.id = some { w with fmask := r.fmask } := by
  have hid : ∀ x : Warp, (if x.wg = g.id ∧ x.serial = r.serial then { x with fmask := r.fmask } else x).id = x.id :=
    fun x => by split <;> rfl
  have hw : s.warps.find? (fun x => x.id == w.id) = some w := h.warp
  rw [State.noteFmask, if_neg hr, State.warp?, List.find?_map]
  simp only [Function.comp_def, hid, hw, Option.map_some, h.wgOf, hs, and_self, if_true]

end

/-! ## A fault is taken (R205, R212) -/

/-- A warp that has raised the fault of its split `n`. -/
def Warp.faultedAt (n : Nat) (stop : Word) (r : FaultRec) (x : Warp) : Warp :=
  { x.modSplit n (fun p => p.faulted stop) with raised := some r }

theorem Warp.split_lt {w : Warp} {n : Nat} {p : Split} (h : w.split n = some p) : n < w.splits.length := by
  by_contra hn
  rw [Warp.split, List.getD_eq_default _ _ (Nat.le_of_not_lt hn)] at h
  cases h

theorem Warp.split_faultedAt (x : Warp) (n k : Nat) (stop : Word) (r : FaultRec) :
    (x.faultedAt n stop r).split k = if k = n then (x.split k).map (·.faulted stop) else x.split k := Warp.split_modSplit _ _ _ _

/-- A warp whose fault has climbed past its workgroup. -/
def Warp.climbed (x : Warp) : Warp := x.stoppedForRung.stopAll.giveUp

theorem Warp.faultedAt_id (n : Nat) (stop : Word) (r : FaultRec) (x : Warp) : (x.faultedAt n stop r).id = x.id := rfl

theorem Warp.faultedAt_serial (n : Nat) (stop : Word) (r : FaultRec) (x : Warp) : (x.faultedAt n stop r).serial = x.serial := rfl

theorem Warp.climbed_id (x : Warp) : x.climbed.id = x.id := rfl

theorem Warp.climbed_serial (x : Warp) : x.climbed.serial = x.serial := rfl

/-- The fault that a warp has raised is gone with the climb, and nothing is put off. -/
theorem Warp.split_climbed (x : Warp) (n : Nat) :
    x.climbed.split n = (x.split n).map fun p => { p.stop.stop.retrap with wait := .ready, hints := [] } := by
  have hsplits : x.climbed.splits = ((x.splits.map (Option.map Split.stop)).map (Option.map Split.stop)).map
      (Option.map fun p => { p.retrap with wait := .ready, hints := [] }) := rfl
  simp only [Warp.split, hsplits, List.getD_eq_getElem?_getD, List.getElem?_map]
  rcases x.splits[n]? with _ | _ | p <;> rfl

/-- The split at fault stands at its stop position, unless a TRAP or BRK is to issue again (R427). -/
theorem Warp.pc_climbed {w : Warp} {n : Nat} {p : Split} {stop : Word} {r : FaultRec} (hp : w.split n = some p) (ht : p.trap = none) :
    ((w.faultedAt n stop r).climbed.split n).map (·.pc) = some stop := by
  rw [Warp.split_climbed, Warp.split_faultedAt, if_pos rfl, hp]
  simp only [Option.map_some, Split.retrap, Split.stop, Split.faulted, ht, List.length_nil, Nat.mul_zero, BitVec.sub_zero]

/-- A fault `r` of the only warp of `g`, which has become `v`, comes to the CONTEXT rung, and then the device is `t`. -/
def Climbs (s : State) (g : Workgroup) (r : FaultRec) (v : Warp) (t : State) : Prop :=
  ∃ B x now, Solo B v x ∧ B.parts = s.parts ∧ x.id = g.id ∧
    t = (B.noteFmask g.id r).raiseCtx g.part g.ctx r (climbSummary r g.id now)

/-- What has happened to the warps and the workgroups before is of no account. -/
theorem Climbs.of {s s' : State} {g g' : Workgroup} {r : FaultRec} {v : Warp} {t : State} (h : Climbs s' g' r v t)
    (hs : s'.parts = s.parts) (hp : g'.part = g.part) (hc : g'.ctx = g.ctx) (hid : g'.id = g.id) : Climbs s g r v t := by
  obtain ⟨B, x, now, hB, hparts, hx, ht⟩ := h
  rw [hp, hc, hid] at ht
  exact ⟨B, x, now, hB, hparts.trans hs, hx.trans hid, ht⟩

section
variable {s t : State} {g : Workgroup} {r : FaultRec} {v : Warp}

theorem Climbs.ctx_raised (h : Climbs s g r v t) (hp : g.part.toNat < s.parts.length)
    (hpend : (s.ctx g.part g.ctx).summary.pending = false) (hr : (s.ctx g.part g.ctx).raised = none) :
    ∃ now, (t.ctx g.part g.ctx).raised = some ({ r with rung := 3 }, climbSummary r g.id now) := by
  obtain ⟨B, x, now, -, hparts, -, rfl⟩ := h
  have hB : (B.noteFmask g.id r).parts = s.parts := (State.noteFmask_parts g.id).trans hparts
  have hctx : (B.noteFmask g.id r).ctx g.part g.ctx = s.ctx g.part g.ctx := by simp only [State.ctx, State.part, hB]
  exact ⟨now, State.raiseCtx_ctx (by rwa [hB]) (by rwa [hctx]) (by rwa [hctx])⟩

theorem Climbs.part_raised (h : Climbs s g r v t) (hp : g.part.toNat < s.parts.length)
    (hpend : (s.ctx g.part g.ctx).summary.pending = true) (hr : (s.part g.part).raised = none) :
    ∃ now, (t.part g.part).raised = some ({ r with rung := 4 }, climbSummary r g.id now) := by
  obtain ⟨B, x, now, -, hparts, -, rfl⟩ := h
  have hB : (B.noteFmask g.id r).parts = s.parts := (State.noteFmask_parts g.id).trans hparts
  have hpart : (B.noteFmask g.id r).part g.part = s.part g.part := by simp only [State.part, hB]
  exact ⟨now, State.raiseCtx_part (by rwa [hB]) (by rwa [State.ctx, hpart]) (by rwa [hpart])⟩

theorem Climbs.warp? (h : Climbs s g r v t) (hr : r.split ≠ 0xFF) (hs : v.serial = r.serial) :
    t.warp? v.id = some { v with fmask := r.fmask } := by
  obtain ⟨B, x, now, hB, -, hx, rfl⟩ := h
  rw [State.warp?_raiseCtx, ← hx, hB.warp?_noteFmask hr hs]

end

section
variable {s : State} {w : Warp} {g : Workgroup} {r : FaultRec}

theorem Solo.enterWg_climbs (h : Solo s w g) (hg : g.raised = some r) : Climbs s g r w.stopAll.giveUp (s.enterWg g.id) := by
  have hgone := (h.stopAll.modWg (f := Workgroup.passed) (fun _ => rfl) rfl rfl fun _ _ => rfl).giveUp
  exact ⟨_, _, _, hgone, by simp only [State.modWarp_parts, State.modWg_parts], rfl, (h.enterWg hg).trans h.stopAll.climbCtx⟩

theorem Solo.raiseWg_climbs (h : Solo s w g) (hg : g.raised = none) (hstop : s.canStop w = true) :
    Climbs s g { r with rung := 2 } w.stopAll.giveUp (s.raiseWg g.id r) := by
  have hraise := h.modWg (f := Workgroup.raise r) (fun _ => rfl) rfl rfl fun _ hx => hx
  rw [h.raiseWg hg hstop]
  exact (hraise.enterWg_climbs rfl).of (State.modWg_parts _ _ _) rfl rfl rfl

/-- A fault that a warp has raised passes both its rungs. -/
theorem Solo.enterWarp_climbs (h : Solo s w g) (hr : w.raised = some r) (hg : g.raised = none) (hstop : s.canStop w = true) :
    Climbs s g { r with rung := 2 } w.climbed (s.enterWarp w.id) := by
  have hstopped := h.modWarp (f := Warp.stoppedForRung) (fun _ => rfl) (fun _ => rfl) fun _ => rfl
  rw [h.enterWarp hr]
  exact (hstopped.raiseWg_climbs hg (State.canStop_stopped hstop _)).of (State.modWarp_parts _ _ _) rfl rfl rfl

end

section
variable {s : State} {id : SplitId} {w : Warp} {g : Workgroup} {p : Split} {stop : Word} {r : FaultRec}
  (hc : s.calm id w g p)
include hc

/-- The split at fault has stopped, and the others can. -/
theorem State.canStop_faultedAt : (s.modWarp w.id (Warp.faultedAt id.split stop r)).canStop (w.faultedAt id.split stop r) = true := by
  obtain ⟨-, -, hp, -, -, -, -, -, -, hothers⟩ := hc
  refine State.canStop_iff.2 fun n _ q hq => ?_
  rw [Warp.split_faultedAt] at hq
  by_cases hn : n = id.split
  · rw [if_pos hn, hn, hp] at hq
    cases hq
    rfl
  · rw [if_neg hn] at hq
    rw [State.storesSettled_modWarp s w.id _ (f := Warp.faultedAt id.split stop r) (fun _ => rfl) fun _ => rfl]
    exact hothers n q hn hq

variable (hid : w.id = id.warp)
include hid

theorem State.takeFault_calm (hr : r.split ≠ 0xFF) : s.takeFault id stop r =
    (s.modWarp w.id (Warp.faultedAt id.split stop { r with split := BitVec.ofNat 8 id.split, serial := w.serial })).warpEnters w.id := by
  obtain ⟨hw, hg, -, -, hh, hraised, hgr, hgh, -⟩ := hc
  simp only [State.takeFault, hw, hg, hh, hraised, hgr, hgh, hr, Option.isSome_none, Bool.false_eq_true, or_self, if_false]
  rw [State.modSplit, ← hid]
  exact congrArg (fun t : State => t.warpEnters w.id)
    (State.modWarp_modWarp s w.id _ (G := fun x => x.modSplit id.split fun p => p.faulted stop) fun _ => rfl)

/-- With no vector base and no handler a fault passes the WARP and the WORKGROUP rung. -/
theorem State.takeFault_climbs (h : Solo s w g) (hr : r.split ≠ 0xFF) {r1 : FaultRec}
    (hr1 : r1 = { r with split := BitVec.ofNat 8 id.split, serial := w.serial }) :
    Climbs s g { r1 with rung := 2 } (w.faultedAt id.split stop r1).climbed (s.takeFault id stop r) := by
  have hfault := State.takeFault_calm (stop := stop) hc hid hr
  rw [← hr1] at hfault
  have hstop := State.canStop_faultedAt (stop := stop) (r := r1) hc
  obtain ⟨-, -, -, -, -, -, hgr, -⟩ := hc
  have hraised := h.modWarp (f := Warp.faultedAt id.split stop r1) (fun _ => rfl) (fun _ => rfl) fun _ => rfl
  have hdue : (s.modWarp w.id (Warp.faultedAt id.split stop r1)).warpEnters w.id =
      (s.modWarp w.id (Warp.faultedAt id.split stop r1)).enterWarp w.id :=
    State.warpEnters_due hraised.warp (hraised.wgOf ▸ hraised.wg) rfl hraised.handler hraised.running hstop hgr
  rw [hfault, hdue]
  exact (hraised.enterWarp_climbs rfl hgr hstop).of (State.modWarp_parts _ _ _) rfl rfl rfl

end
end Sys2Proof.Machine

open Sys2Proof.Machine

/-- Settles O52: with one warp and no handler each rung passes the fault on, and the CONTEXT rung takes it, or, where that summary is
pending, the PARTITION rung. -/
theorem faultClimbs : Obligations.FaultClimbs := by
  intro s id w g p stop r hc hr hbase hpart honly hid _ hwarps hwgs t r1 x
  have hcalm := hc
  obtain ⟨hw, hg, hp, hlen, -, -, -, -, hrun, -⟩ := hcalm
  have hwg : g.id = w.wg := State.wg?_id hg
  have hsolo : Solo s w g := ⟨hid ▸ hw, hwg ▸ hg, honly, hwarps, hwgs, hbase, hrun⟩
  have hn : (BitVec.ofNat 8 id.split : BitVec 8) ≠ 0xFF := by
    have := Warp.split_lt hp
    bv_omega
  have hclimb := State.takeFault_climbs (stop := stop) (r1 := r1) hc hid hsolo hr rfl
  have hwarp := hclimb.warp? hn ((Warp.climbed_serial _).trans (Warp.faultedAt_serial _ _ _ _))
  rw [Warp.climbed_id, Warp.faultedAt_id, hid] at hwarp
  refine ⟨fun hpend hraised => ?_, fun hpend hraised => ?_, ?_, fun htrap => ?_⟩
  · obtain ⟨now, h⟩ := hclimb.ctx_raised hpart hpend hraised
    exact ⟨_, h, rfl, rfl, rfl, rfl, rfl⟩
  · obtain ⟨now, h⟩ := hclimb.part_raised hpart hpend hraised
    exact ⟨_, h⟩
  · exact congrArg (Option.map Warp.fmask) hwarp
  · exact (congrArg (Option.map Split.pc) (State.splitOf_of hwarp id.split)).trans (Warp.pc_climbed hp htrap)

end

section
/-! SUPPORT. What the beginning of an instruction's effect tells of its issue (R253, R273). -/
namespace Sys2Proof.Machine

variable {u : Uses} {s t : State} {i : Instr} {sw : Bool} {c : Issue}

/-- An instruction that begins has issued, and is kept by nothing; its warp is the one that stands once its sources are bound. -/
theorem Uses.begins_cases (h : u.begins s i sw = some (c, t)) :
    ∃ d, s.issue? sw = some d ∧ u.kept s i d = false ∧ t = (s.bindSources u d).latchTick u d ∧
      t.warp? d.id.warp = some c.w ∧ c = { d with w := c.w } := by
  unfold Uses.begins at h
  split at h
  · cases h
  · next d hd =>
    split at h
    · cases h
    · next hk =>
      obtain ⟨w, hw, he⟩ := Option.map_eq_some_iff.mp h
      obtain ⟨rfl, rfl⟩ := Prod.mk.inj he
      exact ⟨d, hd, Bool.eq_false_iff.mpr hk, rfl, hw, rfl⟩

theorem Uses.begins_warp_id (h : u.begins s i sw = some (c, t)) : c.w.id = c.id.warp := by
  obtain ⟨d, -, -, -, hw, hc⟩ := Uses.begins_cases h
  rw [State.warp?_id hw, hc]

/-- A word with a reserved code does not begin (R272, R273). -/
theorem Uses.begins_okOp (h : u.begins s i sw = some (c, t)) : u.okOp = true := by
  obtain ⟨d, -, hk, -⟩ := Uses.begins_cases h
  refine Bool.of_not_eq_false fun ho => ?_
  simp [Uses.kept, Uses.check_op ho] at hk

end Sys2Proof.Machine
end

section
/-! SUPPORT. The loads LD, LDL and LDS (R193, R206, R327, R329, R332). -/
namespace Sys2Proof.Machine

variable {s t : State} {c : Issue} {sw : Bool} {g w : BitVec 3} {d a : BitVec 7}

/-- Loads none of whose lanes waits or faults complete their instruction (R206). -/
theorem State.loadLanes_clean {u : Uses} {n k : Nat} {ptr : Nat → Nat} (h : (loadRun t c u d a n k ptr).clean) :
    t.loadLanes c u d a n k ptr = (loadRun t c u d a n k ptr).st.complete c :=
  LaneRun.finish_clean h c

theorem exec_ld_clean {x : BitVec 1}
    (h : (loadForm (memWidthOk w x) g d a (2 * memBytes w x) [2, 5, 6, 7] [0, 1] false).begins s (.ld sw g w d a x) sw = some (c, t))
    (hrun : (loadRun t c (loadForm (memWidthOk w x) g d a (2 * memBytes w x) [2, 5, 6, 7] [0, 1] false)
      d a (memBytes w x) (2 * memBytes w x) id).clean) :
    exec (.ld sw g w d a x) s = .next ((loadRun t c
      (loadForm (memWidthOk w x) g d a (2 * memBytes w x) [2, 5, 6, 7] [0, 1] false)
      d a (memBytes w x) (2 * memBytes w x) id).st.complete c) := by
  rw [exec_ld, execLd]
  exact State.issueWith_run h rfl (State.loadLanes_clean hrun)

theorem exec_ldl_clean {n : Nat} (hn : n = 32 * 2 ^ w.toNat)
    (h : (loadForm (decide (w < 3)) g d a (2 * n) [2, 5, 6, 7] [0, 1] false).begins s (.ldl sw g w d a) sw = some (c, t))
    (hrun : (loadRun t c (loadForm (decide (w < 3)) g d a (2 * n) [2, 5, 6, 7] [0, 1] false) d a n (2 * n)
      fun p => p / 32 * 32).clean) :
    exec (.ldl sw g w d a) s = .next ((loadRun t c (loadForm (decide (w < 3)) g d a (2 * n) [2, 5, 6, 7] [0, 1] false) d a n (2 * n)
      fun p => p / 32 * 32).st.complete c) := by
  subst hn
  rw [exec_ldl, execLdl]
  exact State.issueWith_run h rfl (State.loadLanes_clean hrun)

theorem exec_lds_clean {x : BitVec 1}
    (h : (loadForm true g d a (spillCount w x) [2, 7] [] false).begins s (.lds sw g w d a x) sw = some (c, t))
    (hrun : (loadRun t c (loadForm true g d a (spillCount w x) [2, 7] [] false) d a ((spillCount w x + 1) / 2) (spillCount w x)
      id).clean) :
    exec (.lds sw g w d a x) s = .next ((loadRun t c (loadForm true g d a (spillCount w x) [2, 7] [] false)
      d a ((spillCount w x + 1) / 2) (spillCount w x) id).st.complete c) := by
  rw [exec_lds, execLds]
  exact State.issueWith_run h rfl (State.loadLanes_clean hrun)

end Sys2Proof.Machine

open Sys2Proof.Machine

/-- Settles O9: each load is `loadLanes`, which completes where its run is clean. -/
theorem loadsComplete : Obligations.LoadsComplete :=
  ⟨fun _ _ _ _ _ _ _ _ _ => exec_ld_clean, fun _ _ _ _ _ _ _ _ => exec_ldl_clean rfl, fun _ _ _ _ _ _ _ _ _ => exec_lds_clean⟩
end

section
/-! SUPPORT. Atomics: the orderings around them, and what each writes (R188, R193, R252, R335 to R337). -/
namespace Sys2Proof.Machine

/-! ## The instructions (R335, R337) -/

/-- The orderings before an atomic let it go on at once, where a release waits for no answer (R188, R192, R193). -/
theorem State.beforeAtomic_eq {t : State} {c : Issue} {lanes : BitVec 32} {scope ord : Nat}
    (h : 2 ≤ ord → answered t c lanes) (k : State → State) :
    t.beforeAtomic c lanes scope (2 ≤ ord) k = k (if 2 ≤ ord then t.release c.id.warp c.w.core lanes scope
      else if 2 ≤ scope then t.writeBack (quadOf c.w.core) else t) := by
  by_cases ho : 2 ≤ ord
  · simp only [State.beforeAtomic, ho, decide_true, if_true]
    exact State.releaseTo_eq (h ho) scope k
  · simp only [State.beforeAtomic, ho, decide_false, Bool.false_eq_true, if_false]

/-- A row of ATOM whose meaning is the shared one runs as R335 says. -/
theorem atomRuns_of {row : Bool → BitVec 3 → BitVec 3 → BitVec 1 → BitVec 7 → BitVec 7 → BitVec 1 → Instr} {op : Nat}
    (hexec : ∀ sw c g w d a n s, exec (row sw c g w d a n) s = s.atomics (row sw c g w d a n) sw op c g w d a n) : AtomRuns row op := by
  intro s k t sw c g w d a n nb m h hans hrun
  have hnb : atomBytes op (w == 1) = nb := by simp only [atomBytes, nb, beq_iff_eq]
  rw [hexec, State.atomics, hnb]
  refine State.issueWith_run h rfl ?_
  unfold atomRun at hrun ⊢
  by_cases hls : ((atomForm op c g d a m).todo k).isEmpty = true
  · rw [List.isEmpty_iff.mp hls] at hrun ⊢
    exact (if_pos hls).trans (LaneRun.finish_clean hrun k)
  · simp only [hls, Bool.false_eq_true, if_false, false_or] at hrun ⊢
    exact (if_neg hls).trans ((State.beforeAtomic_eq hans _).trans (LaneRun.finish_clean hrun k))

theorem atomics : Atomics :=
  ⟨atomRuns_of exec_atomAdd, atomRuns_of exec_atomMin, atomRuns_of exec_atomMax, atomRuns_of exec_atomMinu, atomRuns_of exec_atomMaxu,
    atomRuns_of exec_atomAnd, atomRuns_of exec_atomOr, atomRuns_of exec_atomXor, atomRuns_of exec_atomExch, atomRuns_of exec_atomCas,
    atomRuns_of exec_atomFadd, atomRuns_of exec_atomFmin, atomRuns_of exec_atomFmax, atomRuns_of exec_atomRedc, atomRuns_of exec_atomInc⟩

/-! ## What each writes (R336) -/

section
variable {n old v second : Nat}

/-- MIN writes the lower of two signed values. -/
theorem sext_atomMin : (atomNew 1 n old v second).map (fun x => sext x (8 * n)) = some (min (sext old (8 * n)) (sext v (8 * n))) := by
  rw [show atomNew 1 n old v second = some (if sle (8 * n) old v then old else v) from rfl, Option.map_some, sle, min_def]
  by_cases h : sext old (8 * n) ≤ sext v (8 * n)
  · simp only [h, decide_true, if_true]
  · simp only [h, decide_false, Bool.false_eq_true, if_false]

/-- MAX writes the higher of two signed values. -/
theorem sext_atomMax : (atomNew 2 n old v second).map (fun x => sext x (8 * n)) = some (max (sext old (8 * n)) (sext v (8 * n))) := by
  rw [show atomNew 2 n old v second = some (if sle (8 * n) old v then v else old) from rfl, Option.map_some, sle, max_def]
  by_cases h : sext old (8 * n) ≤ sext v (8 * n)
  · simp only [h, decide_true, if_true]
  · simp only [h, decide_false, Bool.false_eq_true, if_false]

/-- REDC takes its pair apart, low half first. -/
theorem atomNew_redc {err : Nat} (ho : old < 2 ^ (8 * n)) (he : err < 2 ^ (8 * n)) :
    atomNew 13 (2 * n) (old + err * 2 ^ (8 * n)) v second =
      some ((redcStep (atomFmt n) old err v).1 + (redcStep (atomFmt n) old err v).2 * 2 ^ (8 * n)) := by
  have hhalf : 2 * n / 2 = n := by omega
  have hlow : bits (old + err * 2 ^ (8 * n)) 0 (8 * n) = old := by
    rw [bits, Nat.pow_zero, Nat.div_one, Nat.add_mul_mod_self_right, Nat.mod_eq_of_lt ho]
  have hhigh : bits (old + err * 2 ^ (8 * n)) (8 * n) (8 * n) = err := by
    rw [bits, Nat.add_mul_div_right _ _ (Nat.two_pow_pos _), Nat.div_eq_of_lt ho, Nat.zero_add, Nat.mod_eq_of_lt he]
  simp only [atomNew, hhalf, hlow, hhigh]

end

theorem atomValues : AtomValues := by
  intro n old v second _ ho _
  exact ⟨rfl, sext_atomMin, sext_atomMax, rfl, rfl, rfl, rfl, rfl, rfl, fun h => if_pos h, fun h => if_neg h,
    fun h => congrArg some (if_pos h), fun h => congrArg some (if_neg (Nat.not_le.mpr h)), rfl, rfl, rfl,
    fun err he => atomNew_redc ho he⟩

/-! ## One pair step of REDC (R252) -/

theorem pairSteps : PairSteps := by
  intro f s err x add sub s' b e nan
  have htest : ((f.decode s).isNaN || (f.decode err).isNaN || (f.decode x).isNaN) = true ↔ nan := by
    simp only [Bool.or_eq_true, nan, or_assoc]
  have hstep : redcStep f s err x =
      if (f.decode s).isNaN || (f.decode err).isNaN || (f.decode x).isNaN then (f.nanCode, f.nanCode)
      else match f.decode s' with
        | .fin _ _ _ => (s', add err e)
        | _ => (s', err) := rfl
  refine ⟨fun h => ?_, fun h hfin => ?_, fun h hinf => ?_⟩
  · rw [hstep, if_pos (htest.mpr h)]
  · obtain ⟨m, n, k, hs⟩ := hfin
    rw [hstep, if_neg (mt htest.mp h), hs]
  · rw [hstep, if_neg (mt htest.mp h)]
    split
    · next m n k hs => exact absurd hs (hinf m n k)
    · rfl

end Sys2Proof.Machine

/-- Settles O12: every row of ATOM is the shared `atomics`; the values follow operation by operation. -/
theorem atomicResults : Obligations.AtomicResults :=
  ⟨Sys2Proof.Machine.atomics, Sys2Proof.Machine.atomValues, Sys2Proof.Machine.pairSteps⟩
end

section
/-! SUPPORT. Rate sets: visits and reads of members, and the opening of a sweep (R203, R403 to R411). -/
namespace Sys2Proof.Machine

variable {s t : State} {c : Issue} {sw : Bool} {b : BitVec 3}

/-- A rate instruction waits between the node writes of a mutation of its table, and completes where no lane faults. -/
theorem rateRuns_of {i : Instr} {u : Uses} {k : BitVec 7} {write : Bool}
    {f : Issue → State → Nat → RatePar → RateHdr → RateHdr × List (Dest × Nat)}
    (hexec : ∀ s, exec i s = s.rates i sw u b k write f) : RateRuns i sw u b k write f := by
  intro s c t h between r
  rw [hexec, State.rates]
  refine ⟨fun hgo hr => State.issueWith_run h rfl ((if_neg ?_).trans (LaneRun.finish_clean hr c)),
    fun hw hls => State.issueWith_run h rfl (if_pos ⟨hw, hls⟩)⟩
  rintro ⟨hw, hls⟩
  exact hgo.elim (absurd hw) hls

theorem rateDue_toNat (n r : Nat) : (rateDue n r).toNat = if n % 2 ^ r = 0 then 1 else 0 := by
  simp only [rateDue, Bool.toNat, Bool.cond_eq_ite, beq_iff_eq]

/-- The next sweep of a set whose binding is in order opens, whatever engines have locked (R407). -/
theorem State.sweepOp_ok {ag : Agent} {w : BitVec 128} {t1 t2 : State} {x : TDesc} {key : Nat}
    (hset : (t.writeBack (quadOf (ag.core.getD 0))).rateSetOf ag w = (t1, .ok x))
    (hkey : t1.hwKey ag true (tbPtr w + 0x3E) = (t2, .ok key)) :
    t.sweepOp ag w = ((((t2.bindIf ag.warp fun y => placesOverlap y.unread [(.mem key, 2)]).dropLines (ag.core.getD 0) key 2).homeWrite key
      (leBytes 2 ((x.par.sweep + 1) % 2 ^ 16))), .ok ((x.par.sweep + 1) % 2 ^ 16)) := by
  simp only [State.sweepOp, hset, TRes.andThen, hkey]

theorem exec_rsweep_opens {d : BitVec 6} {t1 t2 : State} {x : TDesc} {key : Nat}
    (h : Uses.begins { orders := true, tbs := [b.toNat] } s (.rsweep sw b d) sw = some (c, t))
    (hset : (t.writeBack (quadOf c.w.core)).rateSetOf (c.hw none) (c.p.tbind b.toNat) = (t1, .ok x))
    (hkey : t1.hwKey (c.hw none) true (tbPtr (c.p.tbind b.toNat) + 0x3E) = (t2, .ok key)) :
    exec (.rsweep sw b d) s = .next (((((t2.bindIf c.id.warp fun y => placesOverlap y.unread [(.mem key, 2)]).dropLines c.w.core
      key 2).homeWrite key (leBytes 2 ((x.par.sweep + 1) % 2 ^ 16))).putLater c [(.ureg d.toNat, (x.par.sweep + 1) % 2 ^ 16)]).complete
      c) := by
  rw [exec_rsweep, execRsweep]
  refine State.issueWith_run h rfl ?_
  have hwarp : (c.hw none).warp = c.id.warp := Uses.begins_warp_id h
  rw [State.sweepOp_ok hset hkey, hwarp]
  rfl

end Sys2Proof.Machine

open Sys2Proof.Machine

/-- Settles O24: every row but RSWEEP is the shared `rates`; RSWEEP's own step is `sweepOp`. -/
theorem rateInstructionsComplete : Obligations.RateInstructionsComplete := by
  refine ⟨fun sw b d k p => ⟨rateRuns_of fun s => ?_, rateRuns_of (exec_rvisit sw b d k p), rateRuns_of (exec_rreadh sw b d k),
    rateRuns_of (exec_rreadx sw b d k), rateRuns_of (exec_rset sw b d k)⟩,
    fun s c t t1 t2 x key sw b d h hset hkey => exec_rsweep_opens h hset hkey⟩
  rw [exec_rdue, execRdue]
  simp only [rateDue_toNat]
end

section
/-! SUPPORT. Engine operations at their issue: barrier references, pointers and registers, entry, clashes and empty operations
(R196, R198, R200, R340, R348 to R351, R383, R384, R392 to R396). -/
namespace Sys2Proof.Machine

/-! ## Entry into an engine (R196, R197, R200, R348) -/

section
variable {i : Instr} {s t : State} {c : Issue} {j : Job} {dst src : List LockOn} {regs locks : List (LockOn × Bool)}
  {fix : State → State}

/-- An operation with its locks waits for room, or is entered behind what the split's lanes did before. -/
def State.enterOrWait (t : State) (c : Issue) (j : Job) (locks : List (LockOn × Bool)) (fix : State → State) : State :=
  if t.engineFull j.kind c.w.core ∨ t.lockRoom (locks.map fun l => ⟨t.nextId, l.2, l.1⟩) = false then t.waitAt c .full
  else t.afterStores c c.p.mask fun r => (fix (r.enterJob c j locks)).complete c

theorem State.issueJob_free (h : t.rangeConflict dst src = false) :
    t.issueJob c j dst src regs false fix = t.enterOrWait c j (regs ++ (src.map (·, false) ++ dst.map (·, true))) fix := by
  simp only [State.issueJob, State.enterOrWait, h, Bool.or_false, Bool.false_eq_true, if_false]

theorem State.issueJob_clash {clash : Bool} (h : (clash || t.rangeConflict dst src) = true) :
    t.issueJob c j dst src regs clash fix =
      t.enterOrWait c { j with status := j.status ||| 0x400, done := j.done || j.kind.unit == 3 } regs fix := by
  simp only [State.issueJob, State.enterOrWait, h, if_true, List.append_nil]
  rfl

theorem roomFor_iff : roomFor t c j locks ↔
    ¬(t.engineFull j.kind c.w.core = true ∨ t.lockRoom (locks.map fun l => ⟨t.nextId, l.2, l.1⟩) = false) := by
  simp only [roomFor, not_or, Bool.not_eq_true, Bool.not_eq_false]

theorem enteredWith_of (h : exec i s = .next (t.enterOrWait c j locks fix)) : EnteredWith i s t c j locks fix := by
  unfold State.enterOrWait at h
  refine ⟨fun hroom hans => ?_, fun hroom => ?_⟩
  · rw [h, if_neg (roomFor_iff.mp hroom), State.afterStores_eq hans]
  · rw [h, if_pos (by simpa only [roomFor_iff, not_not] using hroom)]

theorem entered_of (h : exec i s = .next (t.issueJob c j dst src regs false fix)) : Entered i s t c j dst src regs fix :=
  ⟨fun hc => enteredWith_of (by rw [h, State.issueJob_free hc]),
    fun hc => enteredWith_of (by rw [h, State.issueJob_clash (clash := false) hc])⟩

/-- An operation whose own ranges meet clashes, whatever else is locked (R349). -/
theorem clashes_of (h : exec i s = .next (t.issueJob c j dst src regs true fix)) : Clashes i s t c j regs fix :=
  enteredWith_of (by rw [h, State.issueJob_clash (Bool.true_or _)])

theorem empties_of {clash : Bool} (h : exec i s = .next (t.queueSheet c j 0 dst src clash)) : Empties i s t c j := by
  intro hans
  rw [h, State.queueSheet, if_pos rfl, State.afterStores_eq hans]

theorem State.queueSheet_pos {len : Nat} {clash : Bool} (h : 0 < len) :
    t.queueSheet c j len dst src clash = t.issueJob c { j with bytes := len, total := (len + 4095) / 4096 } dst src [] clash id :=
  if_neg (by omega)

end

/-! ## Barrier references (R339, R340) -/

section
variable {t u : State} {c : Issue} {b : BitVec 6}

theorem Issue.ureg_lt (c : Issue) (n : BitVec 6) : c.ureg n < 2 ^ 64 := (c.p.ureg n.toNat).isLt

theorem Issue.ofNat_ureg (c : Issue) (b : BitVec 6) : BitVec.ofNat 64 (c.ureg b) = c.p.ureg b.toNat :=
  BitVec.eq_of_toNat_eq (toNat_ofNat_of_lt (c.ureg_lt b))

/-- An operation whose barrier reference is in order goes on. -/
theorem State.withBar_ok (h : BarOk t c b u) (go : State → State) : t.withBar c (c.ureg b) go = go u := by
  obtain ⟨x, hx, ⟨hnot, hu⟩ | ⟨⟨p, dev, k, rfl⟩, hprobed, rfl⟩⟩ := h
  · change t.findBar c (c.ureg b) false = .ok x at hx
    rw [State.withBar, hx, hu]
    cases x
    case pod p dev k => exact absurd rfl (hnot p dev k)
    all_goals rfl
  · change t.findBar c (c.ureg b) false = .ok (.pod p dev k) at hx
    simp only [State.withBar, hx, Issue.ofNat_ureg]
    exact if_pos hprobed

theorem barChecks : BarChecks := by
  intro t c b go
  refine ⟨fun p dev k hx hprobed => ?_, fun e hx => ?_⟩
  · change t.findBar c (c.ureg b) false = .ok (.pod p dev k) at hx
    change t.withBar c (c.ureg b) go = _
    simp only [State.withBar, hx, Issue.ofNat_ureg]
    exact if_neg (ne_true_of_eq_false hprobed)
  · change t.findBar c (c.ureg b) false = .error e at hx
    change t.withBar c (c.ureg b) go = _
    simp only [State.withBar, hx, Issue.ofNat_ureg]

end

/-! ## Tiles and accumulators (R380, R383, R384, R392 to R396) -/

section
variable {s t u t1 : State} {c : Issue} {ls : List LockOn} {sw : Bool} {b : BitVec 6}

theorem State.tilesFree_eq {ts : List (Nat × Bool)} (h : t.tilesLocked c ts = none) (go : State) : t.tilesFree c ts go = go := by
  rw [State.tilesFree, h]

theorem exec_tld_issues {a : BitVec 4} {p : BitVec 6}
    (h : Uses.begins { fits := [5, 7], ords := [0, 1], uregs := [p.toNat, b.toNat], tiles := [a.toNat] } s (.tld sw a p b) sw = some (c, t))
    (hp : tilePtrBad (uniformPtr c p) = none) (hb : BarOk t c b u) (ht : u.tilesLocked c [(a.toNat, true)] = none)
    (hr : u.rangeNames c.engine .load (uniformPtr c p) (min 9248 (65536 - uniformPtr c p % 65536)) = (t1, ls)) :
    exec (.tld sw a p b) s = .next (if ls.any fun o => t1.lockOn c.g.part c.g.ctx o == some true then
        t1.faultAt c .rangeLock c.p.mask (BitVec.ofNat 64 (uniformPtr c p)) 1
      else t1.issueJob c
        { newJob .tld (c.ureg b) with src := BitVec.ofNat 64 (uniformPtr c p), tA := a.toNat, bytes := 9248, acquire := sideOf c }
        [] ls [(.tile c.id.warp a.toNat, true)] false (noHeader c a)) := by
  rw [exec_tld, execTld]
  refine State.issueWith_run h rfl ?_
  simp only [hp]
  rw [State.withBar_ok hb, State.tilesFree_eq ht, hr]
  rfl

theorem exec_tst_issues {a : BitVec 4} {p : BitVec 6} {o : BitVec 1} {n : Nat} (hn : n = 32 + (tileHdr (c.tile a)).span)
    (h : Uses.begins { fits := [5, 7], ords := [0, 2], uregs := [p.toNat, b.toNat], tiles := [a.toNat] } s (.tst sw a p b o) sw =
      some (c, t))
    (hp : tilePtrBad (uniformPtr c p) = none) (hhdr : hdrCheck4 (c.tile a) = none) (hpage : uniformPtr c p % 65536 + n ≤ 65536)
    (hb : BarOk t c b u) (ht : u.tilesLocked c [(a.toNat, false)] = none)
    (hr : u.rangeNames c.engine .store (uniformPtr c p) n = (t1, ls)) :
    exec (.tst sw a p b o) s = .next (t1.issueJob c
      { newJob .tst (c.ureg b) with dst := BitVec.ofNat 64 (uniformPtr c p), tA := a.toNat, bytes := n, flag := o == 1 }
      ls [] [(.tile c.id.warp a.toNat, false)] false id) := by
  subst hn
  rw [exec_tst, execTst]
  refine State.issueWith_run h rfl ?_
  simp only [hp, hhdr, if_neg (Nat.not_lt.mpr hpage)]
  rw [State.withBar_ok hb, State.tilesFree_eq ht, hr]

theorem accsOf_eq (a : BitVec 3) (n : Nat) : accsOf a (n == 2) = if n = 2 then [a.toNat, a.toNat + 1] else [a.toNat] := by
  simp only [accsOf, beq_iff_eq]

theorem exec_mma_issues {a : BitVec 3} {x y : BitVec 4} {z : BitVec 1} {p : MmaPlan}
    (h : Uses.begins { fits := [9], uregs := [b.toNat], tiles := [x.toNat, y.toNat], accs := [a.toNat] } s (.mma sw a x y b z) sw =
      some (c, t))
    (hb : BarOk t c b u) (hplan : mmaCheck x y (c.tile x) (c.tile y) = .ok p) (hpair : pairBad c a (p.acc == 2) = none)
    (ht : u.tilesLocked c [(x.toNat, false), (y.toNat, false)] = none)
    (ha : u.accsLocked c ((accsOf a (p.acc == 2)).map fun n => (n, true)) = none) :
    exec (.mma sw a x y b z) s = .next (u.issueJob c
      { newJob .mma (c.ureg b) with
        acc := a.toNat, tA := x.toNat, tB := y.toNat, flag := z == 1, desc := BitVec.ofNat 64 p.acc, total := p.passes
        bytes := 16384 * (accsOf a (p.acc == 2)).length } [] []
      ([(.tile c.id.warp x.toNat, false), (.tile c.id.warp y.toNat, false)] ++
        (accsOf a (p.acc == 2)).map fun n => (.acc c.id.warp n, true)) false id) := by
  rw [exec_mma, execMma]
  refine State.issueWith_run h rfl ?_
  rw [State.withBar_ok hb]
  simp only [hplan, hpair, ha]
  rw [State.tilesFree_eq ht]

theorem exec_adrn_issues {a : BitVec 3} {x : BitVec 4} {f : BitVec 6} {g : Target}
    (h : Uses.begins { fits := [4], uregs := [f.toNat, b.toNat], tiles := [x.toNat], accs := [a.toNat] } s (.adrn sw a x f b) sw =
      some (c, t))
    (hb : BarOk t c b u) (hg : targetOf (c.ureg f) 0 0 0 true = some g) (hpair : pairBad c a (g.acc == 2) = none)
    (ht : u.tilesLocked c [(x.toNat, true)] = none) (ha : u.accsLocked c ((accsOf a (g.acc == 2)).map fun n => (n, false)) = none) :
    exec (.adrn sw a x f b) s = .next (u.issueJob c
      { newJob .adrn (c.ureg b) with
        acc := a.toNat, tA := x.toNat, flag := satOf c.p.hints, desc := c.p.ureg f.toNat, total := 1, bytes := 32 + g.hdr.span } [] []
      ((.tile c.id.warp x.toNat, true) :: (accsOf a (g.acc == 2)).map fun n => (.acc c.id.warp n, false)) false (noHeader c x)) := by
  rw [exec_adrn, execAdrn]
  refine State.issueWith_run h rfl ?_
  rw [State.withBar_ok hb]
  simp only [hg, hpair, ha, Issue.ofNat_ureg]
  rw [State.tilesFree_eq ht]
  rfl

theorem exec_afill_issues {a : BitVec 3} {v : BitVec 6}
    (h : Uses.begins { uregs := [v.toNat, b.toNat], accs := [a.toNat] } s (.afill sw a v b) sw = some (c, t))
    (hb : BarOk t c b u) (hv : afillOk (c.ureg v) = true) (ha : u.accsLocked c [(a.toNat, true)] = none)
    (hr : (if c.ureg v / 2 ^ 60 = 2 then u.rangeNames c.engine .load (c.ureg v) 16384 else (u, [])) = (t1, ls)) :
    exec (.afill sw a v b) s = .next (t1.issueJob c
      { newJob .afill (c.ureg b) with acc := a.toNat, desc := c.p.ureg v.toNat, total := 1, bytes := 16384 } [] ls
      [(.acc c.id.warp a.toNat, true)] false id) := by
  rw [exec_afill, execAfill]
  refine State.issueWith_run h rfl ?_
  rw [State.withBar_ok hb]
  simp only [hv, Bool.true_eq_false, if_false, ha, bits_space (c.ureg_lt v), hr, Issue.ofNat_ureg]

end

theorem tileOps : TileOps := by
  refine ⟨?_, ?_, ?_, ?_, ?_⟩
  · intro s c t u t1 ls sw a p b h q hp hb ht hr
    have hexec := exec_tld_issues h hp hb ht hr
    refine ⟨fun ⟨o, ho, hlock⟩ => ?_, fun hfree => entered_of ?_⟩
    · have hany : (ls.any fun o => t1.lockOn c.g.part c.g.ctx o == some true) = true :=
        List.any_eq_true.mpr ⟨o, ho, beq_iff_eq.mpr hlock⟩
      rwa [if_pos hany] at hexec
    · have hnone : ¬(ls.any fun o => t1.lockOn c.g.part c.g.ctx o == some true) = true := by
        simpa only [List.any_eq_true, beq_iff_eq, not_exists, not_and] using hfree
      rwa [if_neg hnone] at hexec
  · intro s c t u t1 ls sw a p b o h q n hp hhdr hpage hb ht hr
    exact entered_of (exec_tst_issues rfl h hp hhdr hpage hb ht hr)
  · intro s c t u sw a x y b z p h hb hplan hpair ht as ha
    have hexec := exec_mma_issues h hb hplan hpair ht (by rwa [accsOf_eq])
    rw [accsOf_eq] at hexec
    exact entered_of hexec
  · intro s c t u sw a x f b g h hb hg hpair ht as ha
    have hexec := exec_adrn_issues h hb hg hpair ht (by rwa [accsOf_eq])
    rw [accsOf_eq] at hexec
    exact entered_of hexec
  · intro s c t u t1 ls sw a v b h src hb hv ha hr
    exact entered_of (exec_afill_issues h hb hv ha hr)

/-! ## The Sheet and the Jib (R348 to R351) -/

section
variable {s t u t1 t2 : State} {c : Issue} {sw : Bool} {d n b : BitVec 6} {ds ss : List LockOn}

theorem bits_low (x n : Nat) : bits x 0 n = x % 2 ^ n := by rw [bits, Nat.pow_zero, Nat.div_one]

/-- The pair S(sd), S(sd + 1) lies within the file where the word begins. -/
theorem Issue.srcPtr_eq {i : Instr} (h : (sheetForm d n b).begins s i sw = some (c, t)) :
    c.srcPtr d = (c.p.ureg (d.toNat + 1)).toNat := by
  have hd : d ≠ 63 := by simpa [sheetForm] using Uses.begins_okOp h
  have hnext : (d + 1).toNat = d.toNat + 1 := by bv_omega
  rw [Issue.srcPtr, Issue.ureg, hnext]

theorem pointersBad_pair {x y : Nat} (hx : pointerBad x = none) (hy : pointerBad y = none) : pointersBad [x, y] = none := by
  simp only [pointersBad, List.findSome?_cons, hx, hy, Option.map_none, List.findSome?_nil]

theorem State.sheetIssue_goes {i : Instr} {ptrs : Issue → List Nat} {more : Issue → Option Nat} {go : Issue → State → State}
    (h : (sheetForm d n b).begins s i sw = some (c, t)) (hp : pointersBad (ptrs c) = none) (hm : more c = none) (hb : BarOk t c b u) :
    s.sheetIssue i sw d n b ptrs more go = .next (go c u) := by
  rw [State.sheetIssue]
  refine State.issueWith_run h rfl ?_
  simp only [hp, hm]
  exact State.withBar_ok hb _

/-- An operation of a kind over the ranges that S(sd) and S(sd + 1) point at. -/
def Issue.sheetJob (c : Issue) (k : JobKind) (d b : BitVec 6) (fr : Nat) : Job :=
  { newJob k (c.ureg b) with dst := BitVec.ofNat 64 (c.dstPtr d), src := BitVec.ofNat 64 fr }

theorem State.rangeNames_zero (t : State) (ag : Agent) (use : Use) (p : Nat) : t.rangeNames ag use p 0 = (t, []) := by
  simp only [State.rangeNames, if_true]

variable (hb : BarOk t c b u) (hto : pointerBad (c.dstPtr d) = none) {fr : Nat} (hfr : pointerBad fr = none) (hsrc : c.srcPtr d = fr)
include hb hto hfr hsrc

theorem exec_cpy_queues {len : Nat} (h : (sheetForm d n b).begins s (.cpy sw d n b) sw = some (c, t)) (hlen : c.ureg n % 2 ^ 31 = len)
    (hd : u.rangeNames c.engine .store (c.dstPtr d) len = (t1, ds)) (hs : t1.rangeNames c.engine .load fr len = (t2, ss)) :
    exec (.cpy sw d n b) s = .next (t2.queueSheet c (c.sheetJob .cpy d b fr) len ds ss
      (pointersMeet (u.ownPtr (c.dstPtr d)) (u.ownPtr fr) len || ds.any fun o => ss.any o.meets)) := by
  subst hsrc
  rw [exec_cpy, execCpy, State.sheetIssue_goes h (pointersBad_pair hto hfr) rfl hb]
  simp only [bits_low, hlen, hd, hs]
  rfl

/-- A GATH by its count, its size code and its bytes (R350). -/
theorem exec_gath_issues {count code len : Nat} (h : (sheetForm d n b).begins s (.gath sw d n b) sw = some (c, t)) (hal : fr % 8 = 0)
    (hcount : c.ureg n % 2 ^ 16 = count) (hcode : c.ureg n / 2 ^ 16 % 16 = code) (hlen : count * (32 * 2 ^ code) = len)
    {j : Job} (hj : j = { c.sheetJob .gath d b fr with
      desc := BitVec.ofNat 64 code, bytes := len, status := if 11 < code ∨ 2 ^ 31 ≤ len then 8 else 0 })
    (hd : u.rangeNames c.engine .store (c.dstPtr d) len = (t1, ds)) (hs : t1.rangeNames c.engine .load fr (8 * count) = (t2, ss)) :
    exec (.gath sw d n b) s = .next (
      if len = 0 then u.queueSheet c j 0 [] [] false
      else if 11 < code ∨ 2 ^ 31 ≤ len then u.issueJob c { j with done := true } [] [] [] false id
      else t2.queueSheet c j len ds ss false) := by
  subst hsrc hj
  have hcode' : bits (c.ureg n) 16 4 = code := hcode
  have hbad : 2 ^ 31 - 1 < len ↔ 2 ^ 31 ≤ len := by omega
  rw [exec_gath, execGath, State.sheetIssue_goes h (pointersBad_pair hto hfr) (if_pos hal) hb]
  simp only [bits_low, hcount, hcode', hlen, hbad, hd, hs]
  rfl

/-- An XFRM by the binding that its descriptor lays down (R351). -/
theorem exec_xfrm_issues {t0 : State} {desc : List Byte} {x : Binding} (h : (sheetForm d n b).begins s (.xfrm sw d n b) sw = some (c, t))
    (hspace : c.ureg n / 2 ^ 60 = 3) (hal : c.ureg n % 32 = 0) (hread : u.readSeen c (c.ureg n) 32 = (t0, .ok desc))
    (hx : bindingOf desc = x)
    {j : Job} (hj : j = { c.sheetJob .xfrm d b fr with xf := x, bytes := x.length })
    (hd : t0.rangeNames c.engine .store (c.dstPtr d) x.length = (t1, ds))
    (hs : (if x.code = 2 ∨ x.code = 3 then (t1, []) else t1.rangeNames c.engine .load fr x.length) = (t2, ss)) :
    exec (.xfrm sw d n b) s = .next (
      if x.length = 0 then t0.queueSheet c { j with status := 8 } 0 [] [] false
      else if x.ok = false then t0.issueJob c { j with status := 8, done := true } [] [] [] false id
      else t2.queueSheet c j x.length ds ss false) := by
  subst hsrc hx hj
  have hspace' : bits (c.ureg n) 60 4 = 3 := (bits_space (c.ureg_lt n)).trans hspace
  have hptrs : pointersBad [c.dstPtr d, c.srcPtr d, c.ureg n] = none := by
    have harg : pointerBad (c.ureg n) = none := by simp [pointerBad, hspace']
    simp only [pointersBad, List.findSome?_cons, hto, hfr, harg, Option.map_none, List.findSome?_nil]
  rw [exec_xfrm, execXfrm, State.sheetIssue_goes h hptrs (if_pos ⟨hspace', hal⟩) hb]
  simp only [hread, hd, hs]
  rfl

end

theorem sheetOps : SheetOps := by
  intro s c t u sw d n b to_ fr arg hb hto hfr
  refine ⟨?_, ?_, ?_⟩
  · intro t1 t2 ds ss h len j
    have hsrc := Issue.srcPtr_eq h
    refine ⟨fun hz => ?_, ?_⟩
    · have hexec := exec_cpy_queues hb hto hfr hsrc h hz (State.rangeNames_zero _ _ _ _) (State.rangeNames_zero _ _ _ _)
      exact empties_of hexec
    · intro hpos hd hs meet
      have hexec := exec_cpy_queues hb hto hfr hsrc h (len := len) rfl hd hs
      rw [State.queueSheet_pos hpos] at hexec
      have hmeet : (pointersMeet (u.ownPtr (c.dstPtr d)) (u.ownPtr fr) len || ds.any fun o => ss.any o.meets) = true ↔ meet :=
        Bool.or_eq_true_iff
      refine ⟨fun hno => entered_of ?_, fun hyes => clashes_of (dst := ds) (src := ss) ?_⟩
      · rwa [Bool.eq_false_iff.mpr (mt hmeet.mp hno)] at hexec
      · rwa [hmeet.mpr hyes] at hexec
  · intro t1 t2 ds ss h hal count code len bad j
    have hexec {t1 t2 : State} {ds ss : List LockOn} := exec_gath_issues hb hto hfr (Issue.srcPtr_eq h) h hal
      (count := count) (code := code) (len := len) (j := j) (t1 := t1) (t2 := t2) (ds := ds) (ss := ss) rfl rfl rfl rfl
    refine ⟨fun hz => empties_of (dst := []) (src := []) (clash := false) ?_, fun hpos hbad => entered_of ?_,
      fun hpos hgood hd hs => entered_of ?_⟩
    · exact (hexec Prod.mk.eta.symm Prod.mk.eta.symm).trans (by rw [if_pos hz])
    · exact (hexec Prod.mk.eta.symm Prod.mk.eta.symm).trans (by rw [if_neg hpos.ne', if_pos hbad])
    · exact (hexec hd hs).trans (by rw [if_neg hpos.ne', if_neg hgood, State.queueSheet_pos hpos])
  · intro t0 t1 t2 ds ss desc h hspace hal hread x j
    have hexec {t1 t2 : State} {ds ss : List LockOn} := exec_xfrm_issues hb hto hfr (Issue.srcPtr_eq h) h hspace hal hread
      (x := x) (j := j) (t1 := t1) (t2 := t2) (ds := ds) (ss := ss) rfl rfl
    refine ⟨fun hz => empties_of (dst := []) (src := []) (clash := false) ?_, fun hpos hbad => entered_of ?_,
      fun hpos hgood hd hs => entered_of ?_⟩
    · exact (hexec Prod.mk.eta.symm Prod.mk.eta.symm).trans (by rw [if_pos hz])
    · exact (hexec Prod.mk.eta.symm Prod.mk.eta.symm).trans (by rw [if_neg hpos.ne', if_pos hbad])
    · have hok : ¬x.ok = false := by rw [hgood]; decide
      exact (hexec hd hs).trans (by rw [if_neg hpos.ne', if_neg hok, State.queueSheet_pos hpos])

end Sys2Proof.Machine

/-- Settles O26: the operations of tiles and accumulators, those of the Sheet and the Jib, and the check of a barrier reference. -/
theorem engineOperationsEntered : Obligations.EngineOperationsEntered :=
  ⟨Sys2Proof.Machine.tileOps, Sys2Proof.Machine.sheetOps, Sys2Proof.Machine.barChecks⟩
end

section
/-! SUPPORT. Every instruction and every step goes on (R205, R209, R272, R273): the meaning of an event is a next state in each of its
branches, and a coded instruction stops at most where no split issues. -/
namespace Sys2Proof.Machine

theorem completes_next (t : State) : Completes (.next t) := ⟨t, rfl⟩

/-- Outcome `o` of instruction `i` is a next state, or else the model's own fault, which a coded instruction has where no split issues. -/
def GoesOn (i : Instr) (s : State) (o : Host.Outcome State Fault Refusal) : Prop :=
  Completes o ∨ (s.issue? false = none ∧ (encodeNat i).isSome = true ∧ o = .fault .noIssuingSplit)

section
variable {i : Instr} {s : State}

/-- Whether a split issues does not depend on the marker. -/
theorem State.issue?_none_iff (s : State) (sw : Bool) : s.issue? sw = none ↔ s.issue? false = none := by
  unfold State.issue?
  repeat' split
  all_goals simp only [reduceCtorEq]

theorem State.issueWith_goesOn (hi : (encodeNat i).isSome = true) {sw : Bool} {u : Uses} {body : Issue → State → State} :
    GoesOn i s (s.issueWith i sw u body) := by
  cases h : s.issue? sw with
  | none => exact .inr ⟨(s.issue?_none_iff sw).mp h, hi, State.issueWith_noSplit h⟩
  | some c => exact .inl (State.issueWith_completes h)

theorem State.hint_goesOn (hi : (encodeNat i).isSome = true) {kind payload : Nat} : GoesOn i s (s.hint kind payload) := by
  unfold State.hint
  cases h : s.issue? false with
  | none => exact .inr ⟨h, hi, rfl⟩
  | some c => exact .inl (completes_next _)

section
variable (hi : (encodeNat i).isSome = true)
include hi

theorem State.v3Int_goesOn {sw : Bool} {w : BitVec 3} {hh : BitVec 2} {d a b : BitVec 7} {sat addend : Bool}
    {f : Bool → Nat → Nat → Nat → Nat → Int} :
    GoesOn i s (s.v3Int i sw w hh d a b sat addend f) := by
  unfold State.v3Int
  exact State.issueWith_goesOn hi

theorem State.v3Fp_goesOn {sw : Bool} {w : BitVec 3} {hh : BitVec 2} {d a b : BitVec 7} {rnd addend : Bool}
    {f : FloatFmt → Rounding → Nat → Nat → Nat → Rounded} :
    GoesOn i s (s.v3Fp i sw w hh d a b rnd addend f) := by
  unfold State.v3Fp
  exact State.issueWith_goesOn hi

theorem State.vuInt_goesOn {sw : Bool} {u : Uses} {d a : BitVec 7} {n m : Nat} {f : Issue → Nat → Nat → Int} :
    GoesOn i s (s.vuInt i sw u d a n m f) := by
  unfold State.vuInt
  exact State.issueWith_goesOn hi

theorem State.vuFp_goesOn {sw later : Bool} {u : Uses} {d a : BitVec 7} {n m : Nat} {f : Rounding → Nat → Rounded} :
    GoesOn i s (s.vuFp i sw later u d a n m f) := by
  unfold State.vuFp
  exact State.issueWith_goesOn hi

theorem State.vuNone_goesOn {sw : Bool} {u : Uses} {d : BitVec 7} {n : Nat} {f : Issue → Nat → Int} :
    GoesOn i s (s.vuNone i sw u d n f) := by
  unfold State.vuNone
  exact State.issueWith_goesOn hi

theorem State.icmp_goesOn {sw : Bool} {w : BitVec 3} {b a : BitVec 7} {n : BitVec 1} {p : BitVec 3} {f : Nat → Nat → Nat → Bool} :
    GoesOn i s (s.icmp i sw w b a n p f) := by
  unfold State.icmp
  exact State.issueWith_goesOn hi

theorem State.fcmp_goesOn {sw quiet : Bool} {w : BitVec 3} {b a : BitVec 7} {n : BitVec 1} {p : BitVec 3}
    {f : FVal → FVal → Bool} :
    GoesOn i s (s.fcmp i sw quiet w b a n p f) := by
  unfold State.fcmp
  exact State.issueWith_goesOn hi

theorem State.scan_goesOn {sw : Bool} {w : BitVec 3} {d a : BitVec 7} {f : BitVec 1} {hh : BitVec 3} {k : Fold}
    {part : Nat → Nat → Bool} :
    GoesOn i s (s.scan i sw w d a f hh k part) := by
  unfold State.scan
  exact State.issueWith_goesOn hi

theorem State.ballotOf_goesOn {sw : Bool} {d : BitVec 7} {n : Nat} {p : BitVec 3} {f : BitVec 32 → Nat} :
    GoesOn i s (s.ballotOf i sw d n p f) := by
  unfold State.ballotOf
  exact State.issueWith_goesOn hi

theorem State.shuffle_goesOn {sw : Bool} {w : BitVec 3} {d a : BitVec 7} {k : BitVec 4} {f : Nat → Nat → Nat} :
    GoesOn i s (s.shuffle i sw w d a k f) := by
  unfold State.shuffle
  exact State.issueWith_goesOn hi

theorem State.predFn_goesOn {sw : Bool} {ps : List Nat} {p : BitVec 3} {f : Lane → Bool} :
    GoesOn i s (s.predFn i sw ps p f) := by
  unfold State.predFn
  exact State.issueWith_goesOn hi

theorem State.atomics_goesOn {sw : Bool} {op : Nat} {c g : BitVec 3} {w : BitVec 1} {d a : BitVec 7} {n : BitVec 1} :
    GoesOn i s (s.atomics i sw op c g w d a n) := by
  unfold State.atomics
  exact State.issueWith_goesOn hi

theorem State.barrierOp_goesOn {sw : Bool} {b a : BitVec 6} {u : Uses} {fn dest : Nat} {release : Bool}
    {here : Issue → BarAt → State → State} :
    GoesOn i s (s.barrierOp i sw b a u fn dest release here) := by
  unfold State.barrierOp
  exact State.issueWith_goesOn hi

theorem State.uni2_goesOn {sw : Bool} {d a b : BitVec 6} {f : Nat → Nat → Int} :
    GoesOn i s (s.uni2 i sw d a b f) := by
  unfold State.uni2
  exact State.issueWith_goesOn hi

theorem State.uni1_goesOn {sw : Bool} {d a : BitVec 6} {f : Nat → Nat} :
    GoesOn i s (s.uni1 i sw d a f) := by
  unfold State.uni1
  exact State.issueWith_goesOn hi

theorem State.sheetIssue_goesOn {sw : Bool} {d n b : BitVec 6} {ptrs : Issue → List Nat} {more : Issue → Option Nat}
    {go : Issue → State → State} :
    GoesOn i s (s.sheetIssue i sw d n b ptrs more go) := by
  unfold State.sheetIssue
  exact State.issueWith_goesOn hi

theorem State.lookups1_goesOn {sw : Bool} {u : Uses} {q : Issue → State → Nat → TableReq} :
    GoesOn i s (s.lookups1 i sw u q) := by
  unfold State.lookups1
  exact State.issueWith_goesOn hi

theorem State.mutations_goesOn {sw : Bool} {u : Uses} {op : TableOp} {b : BitVec 3} {d : Nat} {k : BitVec 7} {p : BitVec 3} :
    GoesOn i s (s.mutations i sw u op b d k p) := by
  unfold State.mutations
  exact State.issueWith_goesOn hi

theorem State.pushes_goesOn {sw : Bool} {u : Uses} {kind : Nat} {q : BitVec 3} {e : Option (BitVec 7)} {g : BitVec 7}
    {p : BitVec 3} :
    GoesOn i s (s.pushes i sw u kind q e g p) := by
  unfold State.pushes
  exact State.issueWith_goesOn hi

theorem State.rates_goesOn {sw : Bool} {u : Uses} {b : BitVec 3} {k : BitVec 7} {write : Bool}
    {f : Issue → State → Nat → RatePar → RateHdr → RateHdr × List (Dest × Nat)} :
    GoesOn i s (s.rates i sw u b k write f) := by
  unfold State.rates
  exact State.issueWith_goesOn hi

end

theorem GoesOn.completes_of_event {o : Host.Outcome State Fault Refusal} (h : GoesOn i s o) (hi : (encodeNat i).isSome = false) :
    Completes o :=
  h.resolve_right fun hc => Bool.false_ne_true (hi.symm.trans hc.2.1)

theorem GoesOn.completes_of_issue {o : Host.Outcome State Fault Refusal} (h : GoesOn i s o) (hs : s.issue? false ≠ none) : Completes o :=
  h.resolve_right fun hc => hs hc.1

end

/-! ## One instruction -/

/-- The events whose meaning is one next state, those that choose among next states, and the coded instructions, hints first. -/
theorem exec_goesOn (i : Instr) (s : State) : GoesOn i s (exec i s) := by
  cases i <;> dsimp only [exec]
  case deviceReset | fwloadFirmware | fwloadConfiguration | attestStart | lifetimeAppend | thermalLimit115 |
    powerCapStep | dieIdle | psReqPs3 | psReqNone | ps3EntryComplete | ps3WakeComplete | partitionDeleteComplete |
    contextKill | contextFree | expertDisable | cxlpSetEnable | cxlpSetDisable | cxlExpanderTimeout |
    memoryErrorCorrected | memoryErrorUncorrectable | sessionOpen | sessionClose | linkRetrainComplete | stayPortDown
    | queueEnable | queueResume | queueDisable | hqStatusClear | recordWaitPoll | workgroupPlace | quadAtomicWriteback
    | journalApply | stagingComplete | translationInvalidate | xltinvComplete | handleMint | counterClear |
    warpRungEntry | contextResume | workgroupEnd | hostResponseTimeout | rowCacheEviction | powerLoss |
    stayPortTrained => exact .inl ⟨_, rfl⟩
  case sheetChunkComplete | mainsailGrant | engineOperationComplete | tileLoadRetry | jibChunkComplete | halyardCommit | nodeReadRetry |
    tableRetire =>
    refine .inl ?_
    simp only [execSheetChunkComplete, execMainsailGrant, execEngineOperationComplete, execTileLoadRetry, execJibChunkComplete,
      execHalyardCommit, execNodeReadRetry, execTableRetire]
    repeat' (split <;> try exact completes_next _)
  case resultLands | storeSettled | yieldTimeout | sleepExpiry | waitePoll | splitLift | workgroupRungEntry | handlerTimeout |
    barrierStarved | workgroupStateError =>
    refine .inl ?_
    simp only [execResultLands, execStoreSettled, execYieldTimeout, execSleepExpiry, execWaitePoll, execSplitLift, execWorkgroupRungEntry,
      execHandlerTimeout, execBarrierStarved, execWorkgroupStateError]
    repeat' (split <;> try exact completes_next _)
  case packFlushTimeout | drainReservation | coopDieReserve | resourceRelease | recordFetch | seqReadReturn | seqRetryTimer |
    seqStallTimeout | recordPayloadReturn | recordStart | recordSignal =>
    refine .inl ?_
    simp only [execPackFlushTimeout, execDrainReservation, execCoopDieReserve, execResourceRelease, execRecordFetch, execSeqReadReturn,
      execSeqRetryTimer, execSeqStallTimeout, execRecordPayloadReturn, execRecordStart, execRecordSignal]
    repeat' (split <;> try exact completes_next _)
  case contextSliceExpiry | contextPreempt | haltComplete | exchangeComplete | writebackComplete | contextRungEntry | partitionReset |
    partitionResetTimeout =>
    refine .inl ?_
    simp only [execContextSliceExpiry, execContextPreempt, execHaltComplete, execExchangeComplete, execWritebackComplete,
      execContextRungEntry, execPartitionReset, execPartitionResetTimeout]
    repeat' (split <;> try exact completes_next _)
  case thermalLimit105 | thermalRecover | fwloadComplete | attestComplete | flitReceive | peerRingTimeout | hostCompletionTimeout =>
    refine .inl ?_
    simp only [execThermalLimit105, execThermalRecover, execFwloadComplete, execAttestComplete, execFlitReceive, execPeerRingTimeout,
      execHostCompletionTimeout]
    repeat' (split <;> try exact completes_next _)
  case queueNotify | hostMwinRead | hostMwinWrite | partitionCreate | partitionDelete | registerWrite =>
    refine .inl ?_
    simp only [execQueueNotify, execHostMwinRead, execHostMwinWrite, execPartitionCreate, execPartitionDelete, execRegisterWrite]
    repeat' (split <;> try exact completes_next _)
  case hintImm | hintImmhi | hintGuard | hintRnd | hintSat | hintOrd | hintCache | hintOffs | hintCheck | hintPri =>
    exact State.hint_goesOn (by rfl)
  case iadd | isub | imul | imulh | imulhu | imad | imin | iminu | imax | imaxu | and | or | xor | shl | shr | sra =>
    exact State.v3Int_goesOn (by rfl)
  case fadd | fsub | fmul | ffma | fmin | fmax =>
    exact State.v3Fp_goesOn (by rfl)
  case mov | not | neg | abs | popc | clz | ctz | exts | extz | fcls | shli | shri | srai | addi =>
    exact State.vuInt_goesOn (by rfl)
  case cvt | cvts | icvt | ucvt | frcp | frsq | fsqrt | fexp2 | flog2 | fsin | fcos | ftanh | frnd =>
    exact State.vuFp_goesOn (by rfl)
  case laneid | movu | vmovi =>
    exact State.vuNone_goesOn (by rfl)
  case icmpEq | icmpNe | icmpLt | icmpLe | icmpLtu | icmpLeu =>
    exact State.icmp_goesOn (by rfl)
  case fcmpEq | fcmpNe | fcmpLt | fcmpLe | fcmpUn =>
    exact State.fcmp_goesOn (by rfl)
  case vscan | vscanx | vred | vredmax | vredmin =>
    exact State.scan_goesOn (by rfl)
  case ballot | vpopc | vfirst =>
    exact State.ballotOf_goesOn (by rfl)
  case shfu | shfd | shfxor =>
    exact State.shuffle_goesOn (by rfl)
  case pand | por | pxor | pnot =>
    exact State.predFn_goesOn (by rfl)
  case atomAdd | atomMin | atomMax | atomMinu | atomMaxu | atomAnd | atomOr | atomXor | atomExch | atomCas | atomFadd | atomFmin |
    atomFmax | atomRedc | atomInc =>
    exact State.atomics_goesOn (by rfl)
  case binit | barv | bwait | bexp | btest =>
    exact State.barrierOp_goesOn (by rfl)
  case sadd | ssub | smul | smulh | sand | sor | sxor | sshl | sshr | ssra | smin | smax | sminu | smaxu | seq | slt | sltu | sbfx =>
    exact State.uni2_goesOn (by rfl)
  case spopc | sclz | sctz =>
    exact State.uni1_goesOn (by rfl)
  case cpy | gath | xfrm =>
    exact State.sheetIssue_goesOn (by rfl)
  case tget | tgetx | tref | tnext =>
    exact State.lookups1_goesOn (by rfl)
  case tins | tinsx | tups | tdel =>
    exact State.mutations_goesOn (by rfl)
  case rdue | rvisit | rreadh | rreadx | rset =>
    exact State.rates_goesOn (by rfl)
  case shf | shfx | qhad | sel | pmovv | vmovp | ld | ldl | lds | st | sts | stc | pref | fence | sld | sst | vtos | exit | rett | tld |
    tst | thset | tcvt | mma | adrn | seth | tscan | tcnt | href | hbnd | qpull =>
    simp only [execShf, execShfx, execQhad, execSel, execPmovv, execVmovp, execLd, execLdl, execLds, execSt, execSts, execStc, execPref,
      execFence, execSld, execSst, execVtos, execExit, execRett, execTld, execTst, execThset, execTcvt, execMma, execAdrn, execSeth,
      execTscan, execTcnt, execHref, execHbnd, execQpull]
    exact State.issueWith_goesOn (by rfl)
  case brev =>
    simp only [execBrev]
    exact State.vuInt_goesOn (by rfl)
  case spawn | qpush =>
    simp only [execSpawn, execQpush]
    exact State.pushes_goesOn (by rfl)
  all_goals exact State.issueWith_goesOn (by rfl)

/-! ## A step -/

section
variable {o : Host.Outcome State Fault Refusal}

theorem Completes.ticked (h : Completes o) : Completes (ticked o) := by
  obtain ⟨t, rfl⟩ := h
  exact completes_next _

theorem Completes.issued (h : Completes o) : Completes (issued o) := by
  obtain ⟨t, rfl⟩ := h
  exact completes_next _

end

section
variable (s : State)

/-- Only an event happens of itself. -/
theorem State.happen_completes (m : Move) : Completes (s.happen m) := by
  unfold State.happen
  split
  · exact completes_next s
  · next h =>
    rw [not_or, Bool.not_eq_true] at h
    exact (exec_goesOn _ _).completes_of_event h.1

theorem State.decodeFor_run {s : State} {c : Issue} {w : IWord} {i : Instr} {t : State}
    (h : s.decodeFor c w = .run i t) : t = s := by
  unfold State.decodeFor at h
  split at h
  · cases h
    rfl
  all_goals cases h

/-- A word that is to run was fetched for a split that issues. -/
theorem State.fetch_run_issues {id : SplitId} {i : Instr} {t : State} (h : s.fetch id = .run i t) : t.issue? false ≠ none := by
  unfold State.fetch at h
  split at h
  · cases h
  extract_lets b s0 s0' y s1 at h
  clear_value s1
  split at h
  · cases h
  next c hc =>
  split at h
  · cases h
  next s2 x hx =>
  have hm : Mapped s1 s2 := by
    have := State.fetchWord_mapped s1 (c.agent none) c.g c.pc
    rwa [hx] at this
  rw [State.decodeFor_run h, hm.issue?, hc]
  exact Option.some_ne_none c

theorem State.perform_completes (x : Candidate) : Completes (s.perform x) := by
  cases x with
  | event m => exact s.happen_completes m
  | issue id =>
    unfold State.perform
    dsimp only
    split
    · next h => exact ((exec_goesOn _ _).completes_of_issue (s.fetch_run_issues h)).issued
    · exact completes_next _

theorem step_completes : Completes (step s) := by
  unfold step
  split
  · exact (State.happen_completes _ _).ticked
  split
  · exact completes_next _
  split
  · exact (s.perform_completes _).ticked
  · exact completes_next _

end
end Sys2Proof.Machine

open Sys2Proof.Machine

/-- Settles O44: the arms of the dispatch one by one, and a step around what happens in it. -/
theorem stepGoesOn : Obligations.StepGoesOn := ⟨exec_goesOn, step_completes⟩
end

section
/-! SUPPORT. The fault of TRAP and BRK, and the return of RETT (R214, R216, R283). -/
namespace Sys2Proof.Machine

section
variable {s t : State} {c : Issue} {sw : Bool} {r : FaultRec}

theorem State.trapAt_eq_trapped (t : State) (c : Issue) (r : FaultRec) : t.trapAt c r = trapped t c r := rfl

theorem exec_trap_begins {g : BitVec 3} {n : BitVec 1} {k : BitVec 18}
    (h : Uses.begins { preds := [g.toNat] } s (.trap sw g n k) sw = some (c, t)) :
    exec (.trap sw g n k) s = .next (if c.chosen g n = 0 then t.complete c
      else trapped t c { code := .trap, fmask := c.chosen g n, counter := c.pc, detail := k.zeroExtend 64 }) := by
  rw [exec_trap, execTrap]
  exact State.issueWith_run h rfl (by simp only [Issue.guarded_eq_chosen, State.trapAt_eq_trapped, BitVec.ofNat_toNat])

theorem exec_brk_begins {g : BitVec 3} {n : BitVec 1} (h : Uses.begins { preds := [g.toNat] } s (.brk sw g n) sw = some (c, t)) :
    exec (.brk sw g n) s = .next (if c.chosen g n = 0 then t.complete c
      else trapped t c { code := .brk, fmask := c.chosen g n, counter := c.pc }) := by
  rw [exec_brk, execBrk]
  exact State.issueWith_run h rfl (by simp only [Issue.guarded_eq_chosen, State.trapAt_eq_trapped])

theorem exec_rett_begins (h : Uses.begins {} s (.rett sw) sw = some (c, t))
    (hh : ∀ d, s.issue? sw = some d → d.w.inHandler d.id.split = true) :
    exec (.rett sw) s = .next (
      if sw ∧ (c.w.resultsOut c.id.split ∨ t.storesSettled c.id.warp = false) then
        (t.waitAt c .results).dropLatch fun e => e.core == c.w.core && e.group == slotGroup c.w.slot
      else if sw ∧ (c.w.late.any fun l => l.inHandler) then t.deliverLate c.id.warp c.id.split
      else if (t.drain c.id.warp 0xFFFFFFFF).storesLeft c.id.warp then (t.drain c.id.warp 0xFFFFFFFF).waitAt c .results
      else t.returnFrom c.id c.pc (encodeWord (.rett sw))) := by
  rw [exec_rett, execRett]
  refine State.issueWith_run h ?_ rfl
  cases hi : s.issue? sw with
  | none => rfl
  | some d => simp only [hh d hi]

end
end Sys2Proof.Machine

open Sys2Proof.Machine

/-- Settles O18: each instruction's own effect; for RETT its four cases, in the order in which the model asks for them. -/
theorem trapsTaken : Obligations.TrapsTaken := by
  refine ⟨fun s c t sw g n k => exec_trap_begins, fun s c t sw g n => exec_brk_begins, fun s c t sw h hh => ?_⟩
  intro landed late left
  have hexec := exec_rett_begins h hh
  have hout : (c.w.resultsOut c.id.split = true ∨ t.storesSettled c.id.warp = false) ↔ ¬landed := by
    rw [not_and_or, Bool.not_eq_false, Bool.not_eq_true]
  have hlate : (c.w.late.any fun l => l.inHandler) = true ↔ late := List.any_eq_true
  simp only [hout, hlate] at hexec
  -- without the marker, or with nothing outstanding, neither of the first two cases applies
  have hgo (hgo : sw = false ∨ (landed ∧ ¬late)) : ¬(sw = true ∧ ¬landed) ∧ ¬(sw = true ∧ late) := by
    rcases hgo with rfl | ⟨hl, hn⟩
    · simp
    · exact ⟨fun h => h.2 hl, fun h => hn h.2⟩
  refine ⟨fun hg hleft => ?_, fun hg hleft => ?_, fun hsw hl hlt => ?_, fun hsw hl => ?_⟩
  · rwa [if_neg (hgo hg).1, if_neg (hgo hg).2, if_neg (Bool.not_eq_true _ ▸ hleft)] at hexec
  · rwa [if_neg (hgo hg).1, if_neg (hgo hg).2, if_pos hleft] at hexec
  · rwa [if_neg fun h => h.2 hl, if_pos ⟨hsw, hlt⟩] at hexec
  · rwa [if_pos ⟨hsw, hl⟩] at hexec
end

section
/-! SUPPORT. A split that parks under the switch marker while its warp's fault waits (R210, R212, R257). -/
namespace Sys2Proof.Machine

/-- The warp of `ready` with a store outstanding; its split 0 is the handler split of its workgroup (R214), and this handler has raised a
fault of its own, which comes to the next rung as soon as the splits can stop (R212). -/
def faultingHandler : State := readyWarp fun w => { w with
  stores := [⟨some 0, 1, 0, 0x3000000000000000, [1], false, none, 0, []⟩]
  raised := some { code := .trap, fmask := 1, counter := 0 }
  handler := some ⟨2, 0, true, w.splits, 0⟩ }

/-- The split that issues in `t` under the switch marker meets what `MarkerParks` asks for, and its warp has stores outstanding. -/
abbrev MarkerStores (t : State) (c : Issue) : Prop :=
  t.warp? c.id.warp = some c.w ∧ c.w.split c.id.split = some c.p ∧ c.id.split < 4 ∧ c.sw = true ∧ t.storesSettled c.id.warp = false

/-- The handler's split does not stay parked: as it parks, the warp stops for the fault and climbs, which makes the split ready. -/
theorem faultingHandler_climbs : ∃ c, MarkerStores faultingHandler c ∧
    ((faultingHandler.goTo c 0).splitOf c.id).map (fun p : Split => p.wait) = some .ready := by
  have hissue : (faultingHandler.issue? true).isSome = true := by decide +kernel
  obtain ⟨c, hc⟩ := Option.isSome_iff_exists.mp hissue
  have hall : (faultingHandler.issue? true).all (fun c => decide (MarkerStores faultingHandler c ∧
      ((faultingHandler.goTo c 0).splitOf c.id).map (fun p : Split => p.wait) = some .ready)) = true := by decide +kernel
  rw [hc] at hall
  exact ⟨c, of_decide_eq_true hall⟩

end Sys2Proof.Machine

open Sys2Proof.Machine

/-- Refutes O59: the second clause of `MarkerParks` says, with no condition beside it, that a split under the switch marker stays parked
while its warp has stores outstanding. Where a handler split parks and its warp has a fault raised (`faultingHandler`), the model takes that
fault as the split parks (R212): the record climbs to the next rung, and the split is ready. The clause's other case asks that no fault is
raised, and so does the clause on a split that goes on; this one would have to ask for it too. -/
theorem not_storeSettles : ¬ Obligations.StoreSettles := by
  rintro ⟨-, hparks⟩
  obtain ⟨c, ⟨hw, hp, hlt, hsw, hstores⟩, hready⟩ := faultingHandler_climbs
  obtain ⟨-, hmarker, -⟩ := hparks faultingHandler c 0 hw hp hlt hsw
  have hwait : some Wait.marker = some Wait.ready :=
    (congrArg (Option.map fun p : Split => p.wait) (hmarker (.inr hstores))).symm.trans hready
  exact absurd hwait (by decide)
end

section
/-! SUPPORT. The frame of a WARP handler, and the bytes of row storage that writing it leaves alone (R129, R205, R213, R214). -/
namespace Sys2Proof.Machine

/-! ## The 256 bytes of a frame -/

@[simp] theorem splitEntry_length (o : Option Split) : (splitEntry o).length = 32 := by
  cases o with
  | none => rfl
  | some p => simp [splitEntry]

@[simp] theorem FaultRec.bytes_length (r : FaultRec) : r.bytes.length = 64 := by simp [FaultRec.bytes]

@[simp] theorem Warp.header_length (w : Warp) (g : Workgroup) (sp : List (Option Split)) (r : Option FaultRec) :
    (w.header g sp r).length = 256 := by
  cases r <;> simp [Warp.header, List.length_flatMap]

/-! ## Row storage behind a write of places -/

/-- Row storage `m` behind a write of `data` at a place. -/
def Place.written (pl : Place) (m : Cells) (data : List Byte) : Cells := match pl with
  | .mem key => m.setBytes key data
  | _ => m

/-- A place and a length in row storage do not hold address `a`. -/
def Place.misses (pl : Place) (n a : Nat) : Prop := ∀ key, pl = .mem key → a < key ∨ key + n ≤ a

theorem Place.written_wf {m : Cells} (hm : Memory.wf m = true) (pl : Place) (data : List Byte) : Memory.wf (pl.written m data) = true := by
  cases pl with
  | mem key => exact Cells.setBytes_wf hm key data
  | scr | host | peer => exact hm

theorem Place.byte_written {m : Cells} (hm : Memory.wf m = true) {pl : Place} {n a : Nat} (h : pl.misses n a) {data : List Byte}
    (hlen : data.length ≤ n) : (pl.written m data).byte a = m.byte a := by
  cases pl with
  | mem key =>
    have := h key rfl
    exact (Cells.byte_setBytes hm key data a).trans (if_neg (by omega))
  | scr | host | peer => rfl

theorem State.writePlace_mem (s : State) (pl : Place) (data : List Byte) : (s.writePlace pl data).mem = pl.written s.mem data := by
  cases pl <;> rfl

theorem State.coreWrite_mem (s : State) (core : Nat) (pl : Place) (data : List Byte) :
    (s.coreWrite core pl data).mem = pl.written s.mem data := by
  cases pl <;> rfl

/-- A write of places leaves every byte of row storage alone that none of them holds. -/
theorem State.byte_writeParts {a : Nat} (core : Option Nat) {ps : List (Place × Nat)} (h : ∀ x ∈ ps, x.1.misses x.2 a) :
    ∀ (data : List Byte) {s : State}, Memory.wf s.mem = true → (State.writeParts core ps data s).mem.byte a = s.mem.byte a := by
  induction ps with
  | nil => exact fun _ _ _ => rfl
  | cons x xs ih =>
    obtain ⟨hx, hxs⟩ := List.forall_mem_cons.mp h
    intro data s hs
    have hlen : (data.take x.2).length ≤ x.2 := by simp
    unfold State.writeParts
    cases core with
    | none =>
      have hmem := s.writePlace_mem x.1 (data.take x.2)
      rw [ih hxs _ (hmem ▸ Place.written_wf hs _ _), hmem, Place.byte_written hs hx hlen]
    | some k =>
      have hmem := s.coreWrite_mem k x.1 (data.take x.2)
      rw [ih hxs _ (hmem ▸ Place.written_wf hs _ _), hmem, Place.byte_written hs hx hlen]

/-- The bytes outside the places of a write by a core (R213). -/
theorem State.byte_writeCore {s t u : State} {ag : Agent} {p n a : Nat} {data : List Byte} {ps : List (Place × Nat)}
    (hw : s.writeCore ag p data = (t, .ok ())) (hlen : data.length = n) (hp : s.places ag .store p n = (u, .ok ps))
    (hu : Memory.wf u.mem = true) (h : ∀ x ∈ ps, x.1.misses x.2 a) : t.mem.byte a = u.mem.byte a := by
  simp only [State.writeCore, hlen, hp, Prod.mk.injEq, and_true] at hw
  exact hw ▸ State.byte_writeParts _ h _ hu

/-! ## The handler begins -/

theorem State.writeCore_keeps {s t : State} {ag : Agent} {p : Nat} {data : List Byte} {e : Except MErr Unit}
    (h : s.writeCore ag p data = (t, e)) : Kept s t := by
  have hkept := State.writeCore_kept s ag p data
  rwa [h] at hkept

theorem Split.stop_faulted (p : Split) (stop : Word) : (p.faulted stop).stop = p.faulted stop := by
  simp [Split.stop, Split.faulted]

/-- The splits of a warp that stops for its fault: the one at fault stands at its stop position. -/
theorem Warp.split_stoppedForRung (x : Warp) (n : Nat) : x.stoppedForRung.split n = (x.split n).map Split.stop :=
  Warp.split_mapSplits x Split.stop n

theorem Warp.split_warpHandler {x : Warp} {r : FaultRec} {n v now : Nat} {q : Split} (h : x.split n = some q) :
    (x.warpHandler r n v now).split n = some (handlerSplit q v (liveLanes x.splits) (now + 1)) := by
  have hn := Warp.split_lt h
  show (modifyAt _ x.splits n).getD n none = _
  rw [modifyAt_getD, if_pos ⟨rfl, hn⟩]
  exact congrArg _ h

section
variable {s t2 t3 : State} {id : SplitId} {w w1 : Warp} {g : Workgroup} {p : Split} {stop : Word} {r : FaultRec} {v : Nat}
  (hc : s.calm id w g p)

theorem State.stoppedFor_eq (s : State) (id : SplitId) (stop : Word) (r : FaultRec) : s.stoppedFor id stop =
    (s.modWarp id.warp (Warp.faultedAt id.split stop r)).modWarp id.warp Warp.stoppedForRung :=
  calc s.stoppedFor id stop
    _ = s.modWarp id.warp fun x => (x.faultedAt id.split stop r).stoppedForRung :=
      State.modWarp_modWarp s id.warp Warp.stoppedForRung (G := fun x => x.modSplit id.split fun p => p.faulted stop) fun _ => rfl
    _ = _ := (State.modWarp_modWarp s id.warp Warp.stoppedForRung (G := Warp.faultedAt id.split stop r) fun _ => rfl).symm

theorem State.stoppedFor_warp?_ne (s : State) {id : SplitId} (stop : Word) {k : Nat} (hk : k ≠ id.warp) :
    (s.stoppedFor id stop).warp? k = s.warp? k :=
  (State.warp?_modWarp_ne _ hk Warp.stoppedForRung fun _ => rfl).trans
    (State.warp?_modWarp_ne s hk (fun x => x.modSplit id.split fun p => p.faulted stop) fun _ => rfl)

include hc

/-- The faulting split of the stopped warp stands at its stop position. -/
theorem State.stoppedFor_split (hw1 : (s.stoppedFor id stop).warp? id.warp = some w1) : w1.split id.split = some (p.faulted stop) := by
  obtain ⟨hw, -, hp, -⟩ := hc
  have hfaulted := State.warp?_modWarp_self hw (fun x => x.modSplit id.split fun p => p.faulted stop) fun _ => rfl
  have hstopped := State.warp?_modWarp_self hfaulted Warp.stoppedForRung fun _ => rfl
  cases hw1.symm.trans hstopped
  rw [Warp.split_stoppedForRung, Warp.split_modSplit, if_pos rfl, hp]
  exact congrArg some (p.stop_faulted stop)

variable (hr : r.split ≠ 0xFF) {r1 : FaultRec} (hr1 : r1 = { r with split := BitVec.ofNat 8 id.split, serial := w.serial })
  (hw1 : (s.stoppedFor id stop).warp? id.warp = some w1)
  (hv : (s.stoppedFor id stop).vector (w.agent g id.split none) (s.vecBase g) 1 r.code.num = some (t2, v))
  (hf : t2.writeCore (w.agent g id.split none) (frameAddr (s.vecBase g) w.core w.slot 1)
    (w1.header g w1.splits (some { r1 with rung := 1 })) = (t3, .ok ()))
include hr hr1 hw1 hv hf

/-- A fault with a vector and a frame enters the WARP rung at once (R205, R214). -/
theorem State.takeFault_enters : s.takeFault id stop r =
    (t3.dropOwn id.warp).modWarp id.warp (Warp.warpHandler r1 id.split v s.cycle) := by
  have hid := State.warp?_id hc.1
  have hfault := State.takeFault_calm (stop := stop) hc hid hr
  have hstop := State.canStop_faultedAt (stop := stop) (r := r1) hc
  obtain ⟨hw, hg, hp, hlen, hh, -, hgr, -, hrun, -⟩ := hc
  have hwarp := State.warp?_modWarp_self hw (Warp.faultedAt id.split stop r1) fun _ => rfl
  have hlt := Warp.split_lt hp
  have hto : r1.split.toNat = id.split := by
    rw [hr1]
    exact Nat.mod_eq_of_lt (by omega)
  -- the handler runs on the split at fault
  have hsubject : id.split = if ((w.faultedAt id.split stop r1).split r1.split.toNat).isSome then r1.split.toNat
      else (w.faultedAt id.split stop r1).valid.headD 0 := by
    rw [hto, Warp.split_faultedAt, if_pos rfl, hp]
    rfl
  have hcode : r1.code.num = r.code.num := by rw [hr1]
  rw [State.stoppedFor_eq s id stop r1] at hw1 hv
  rw [hid] at hfault hstop
  rw [hfault, ← hr1, State.warpEnters_due hwarp hg rfl hh hrun hstop hgr]
  exact State.enterWarp_enters hwarp hg rfl hsubject hw1 (hcode ▸ hv) hf

/-- The warp at fault behind the entry of its handler. -/
theorem State.takeFault_warp? : (s.takeFault id stop r).warp? id.warp = some (w1.warpHandler r1 id.split v s.cycle) := by
  rw [State.takeFault_enters hc hr hr1 hw1 hv hf]
  have hw3 : t3.warp? id.warp = some w1 := ((State.writeCore_keeps hf).warp? _).trans (((State.vector_mapped hv).warp? _).trans hw1)
  exact State.warp?_modWarp_self (s := t3.dropOwn id.warp) hw3 _ fun _ => rfl

theorem State.takeFault_warp?_ne {k : Nat} (hk : k ≠ id.warp) : (s.takeFault id stop r).warp? k = s.warp? k := by
  calc (s.takeFault id stop r).warp? k
    _ = ((t3.dropOwn id.warp).modWarp id.warp (Warp.warpHandler r1 id.split v s.cycle)).warp? k := by
      rw [State.takeFault_enters hc hr hr1 hw1 hv hf]
    _ = t3.warp? k := State.warp?_modWarp_ne _ hk _ fun _ => rfl
    _ = t2.warp? k := (State.writeCore_keeps hf).warp? k
    _ = (s.stoppedFor id stop).warp? k := (State.vector_mapped hv).warp? k
    _ = s.warp? k := State.stoppedFor_warp?_ne s stop hk

end
end Sys2Proof.Machine

open Sys2Proof.Machine

/-- Settles O51: the fault is raised in a warp that can stop at once (`State.takeFault_enters`), and what the entry of the rung writes is the
frame alone, whose 256 bytes `State.byte_writeCore` follows to their places. -/
theorem takingAFault : Obligations.TakingAFault := by
  intro s id w g p w1 stop r v t2 t3 hc hr n r1 s1 hw1 hv hf t
  have ht : t = _ := State.takeFault_enters hc hr rfl hw1 hv hf
  have hwarp := State.takeFault_warp? hc hr rfl hw1 hv hf
  have hsplit := State.stoppedFor_split hc hw1
  have hmem : t.mem = t3.mem := by rw [ht]; rfl
  refine ⟨Warp.header_length _ _ _ _, hmem, by rw [ht]; rfl, by rw [ht]; rfl, fun u ps hps hu a hout => ?_,
    fun k => State.takeFault_warp?_ne hc hr rfl hw1 hv hf, hwarp, hsplit, ?_⟩
  · rw [hmem]
    exact State.byte_writeCore hf (Warp.header_length _ _ _ _) hps hu hout
  · rw [show t.splitOf id = _ from State.splitOf_of hwarp id.split, Warp.split_warpHandler hsplit]
    rfl
end

section
/-! SUPPORT. Floating-point vector words (R308, R309), the thread instructions on tiles (R380, R385 to R391) and E8M0 scale bytes
(R228). -/
namespace Sys2Proof.Machine

/-! ## Floating-point V3 words (R308, R309) -/

/-- A row whose meaning is the shared floating-point V3 operation. -/
theorem v3FpRuns_of {row : V3Row} {rnd addend : Bool} {f : FloatFmt → Rounding → Nat → Nat → Nat → Rounded}
    (hrow : ∀ sw w h d a b s, exec (row sw w h d a b) s = s.v3Fp (row sw w h d a b) sw w h d a b rnd addend f) :
    V3FpRuns row rnd addend f := by
  intro s c t sw w h d a b hbegins
  rw [hrow, State.v3Fp]
  exact State.issueWith_run hbegins rfl rfl

/-! ## Thread instructions on tiles (R380, R385 to R391) -/

section
variable {s t : State} {c : Issue} {sw : Bool} {a b : BitVec 4}

/-- A thread instruction on tile registers that no engine lock keeps from it has its own effect (R380). -/
theorem State.issueWith_tilesFree {r : State} {i : Instr} {u : Uses} {ts : List (Nat × Bool)} {go : Issue → State → State}
    (h : u.begins s i sw = some (c, t)) (ht : t.tilesLocked c ts = none) (hr : go c t = r) :
    s.issueWith i sw u (fun c x => x.tilesFree c ts (go c x)) = .next r :=
  State.issueWith_run h rfl ((State.tilesFree_eq ht _).trans hr)

theorem exec_tmov_moves (h : Uses.begins { tiles := [a.toNat, b.toNat] } s (.tmov sw a b) sw = some (c, t))
    (ht : tilesOk t c [(b, false), (a, true)]) (hhdr : hdrCheck4 (c.tile b) = none) :
    exec (.tmov sw a b) s = .next (if a = b then t.complete c else t.putTile c a (c.tile b)) := by
  rw [exec_tmov, execTmov]
  exact State.issueWith_tilesFree h ht (by simp only [hhdr])

theorem exec_thdr_reads {d : BitVec 6}
    (h : Uses.begins { okOp := decide (d.toNat ≤ 60), tiles := [a.toNat] } s (.thdr sw a d) sw = some (c, t))
    (ht : tilesOk t c [(a, false)]) :
    exec (.thdr sw a d) s = .next ((t.putLater c ((List.range 4).map fun i =>
      (.ureg (d.toNat + i), bits (c.tile a) (64 * i) 64))).complete c) := by
  rw [exec_thdr, execThdr]
  exact State.issueWith_tilesFree h ht rfl

/-- The header `hdr` that THSET lays down is what its four registers give, with its CRC (R386). -/
theorem exec_thset_sets {d : BitVec 6} {rs : List Nat} {given hdr : Nat} (hrs : rs = (List.range 4).map fun i => d.toNat + i)
    (h : Uses.begins { okOp := decide (d.toNat ≤ 60), tiles := [a.toNat], uregs := rs } s (.thset sw a d) sw = some (c, t))
    (ht : tilesOk t c [(a, true)]) (hgiven : rs.foldr (fun r v => (c.p.ureg r).toNat + 2 ^ 64 * v) 0 = given)
    (hcrc : given % 2 ^ 240 + hdrCrc given * 2 ^ 240 = hdr) (hhdr : hdrCheck4 hdr = none) (heven : (tileHdr hdr).version % 2 = 0) :
    exec (.thset sw a d) s = .next (t.putTile c a (setBits (c.tile a) 0 256 hdr)) := by
  subst hrs
  have hodd : ¬(tileHdr hdr).version % 2 = 1 := by omega
  rw [exec_thset, execThset]
  refine State.issueWith_tilesFree h ht ?_
  simp only [bits_low, hgiven, hcrc, hhdr, if_neg hodd]

theorem exec_tfill_fills {v : BitVec 6} (h : Uses.begins { tiles := [a.toNat], uregs := [v.toNat] } s (.tfill sw a v) sw = some (c, t))
    (ht : tilesOk t c [(a, true)]) (hhdr : hdrCheck4 (c.tile a) = none) :
    exec (.tfill sw a v) s = .next (t.putTile c a (fillTile (c.tile a) (c.ureg v))) := by
  rw [exec_tfill, execTfill]
  exact State.issueWith_tilesFree h ht (by simp only [hhdr])

theorem exec_tdrn_drains {d : BitVec 7} {i : BitVec 6}
    (h : Uses.begins { tiles := [a.toNat], uregs := [i.toNat], vs := [(d.toNat, 64)] } s (.tdrn sw a d i) sw = some (c, t))
    (ht : tilesOk t c [(a, false)]) (hhdr : hdrCheck3 (c.tile a) = none) :
    exec (.tdrn sw a d i) s = .next ((t.putLater c ((lanesOf c.p.mask).map fun l =>
      (c.dst l d.toNat 64, if 8 < c.ureg i % 16 then 0 else bits (c.tile a) (8 * (32 + 1024 * (c.ureg i % 16) + 32 * l)) 256))).complete c) := by
  rw [exec_tdrn, execTdrn]
  exact State.issueWith_tilesFree h ht (by simp only [hhdr])

/-- The bound is that of the largest magnitude where step 4 of R243 passes the header, else some value. -/
theorem exec_tbnd_bounds (h : Uses.begins { tiles := [a.toNat] } s (.tbnd sw a) sw = some (c, t))
    (ht : tilesOk t c [(a, true)]) (hhdr : hdrCheck3 (c.tile a) = none) :
    ∃ k, (hdrCheck4 (c.tile a) = none → k = boundOf ((tileHdr (c.tile a)).maxMag (c.tile a))) ∧
      exec (.tbnd sw a) s = .next (t.putTile c a
        (setBits (setBits (c.tile a) 128 32 k) 240 16 (hdrCrc (setBits (c.tile a) 128 32 k)))) := by
  rw [exec_tbnd, execTbnd]
  refine ⟨if (hdrCheck4 (c.tile a)).isNone then boundOf ((tileHdr (c.tile a)).maxMag (c.tile a)) else Config.pick s.free 12 0 0 % 2 ^ 32,
    fun hgood => if_pos (Option.isNone_iff_eq_none.mpr hgood), State.issueWith_tilesFree h ht ?_⟩
  simp only [hhdr]

theorem exec_prune_compares {m : BitVec 6} {p : BitVec 3} {x y : FVal}
    (h : Uses.begins { tiles := [a.toNat], uregs := [m.toNat] } s (.prune sw a m p) sw = some (c, t))
    (ht : tilesOk t c [(a, false)]) (hhdr : hdrCheck3 (c.tile a) = none)
    (hx : FloatFmt.f32.decode (tileHdr (c.tile a)).bound = x) (hy : FloatFmt.f32.decode (c.ureg m % 2 ^ 32) = y) :
    exec (.prune sw a m p) s = .next ((t.predLater c p (!x.isNaN && !y.isNaN && x.ltNum y)).complete c) := by
  rw [exec_prune, execPrune]
  refine State.issueWith_tilesFree h ht ?_
  simp only [hhdr, bits_low, hx, hy]

/-- What TCVT makes of tile `v` for target `g`: its new tile over a register that holds `rest`, flags and stream (R388). -/
def Issue.converted (c : Issue) (rest : BitVec 73984) (v : Nat) (g : Target) : Encoded :=
  encodeTile rest g.hdr { mode := modeOf c.p.hints, sat := satOf c.p.hints } (c.w.lane ((lowestLane c.p.mask).getD 0)).sr.toNat false
    fun i j => ((tileHdr v).decoded v i j).1

/-- Flags that the elements of tile `v` raise as they are decoded, in index order (R233, R236). -/
def decodeFlags (v : Nat) : Nat :=
  (List.range ((tileHdr v).rows * (tileHdr v).cols)).foldl
    (fun x n => x ||| ((tileHdr v).decoded v (n / (tileHdr v).cols) (n % (tileHdr v).cols)).2) 0

theorem exec_tcvt_converts {f : BitVec 6} {g : Target}
    (h : Uses.begins { fits := [3, 4], tiles := [a.toNat, b.toNat], uregs := [f.toNat], target := some f } s (.tcvt sw a b f) sw =
      some (c, t))
    (ht : tilesOk t c [(b, false), (a, true)]) (hhdr : hdrCheck4 (c.tile b) = none)
    (hg : targetOf (c.ureg f) (tileHdr (c.tile b)).rows (tileHdr (c.tile b)).cols (tileHdr (c.tile b)).seed false = some g)
    {r : Encoded} (hr : c.converted (Config.tileRest t.free) (c.tile b) g = r) :
    exec (.tcvt sw a b f) s = .next ((t.modWarp c.id.warp fun w =>
      ((lanesOf c.p.mask).foldl (fun w l => w.addFlags l (r.flags ||| decodeFlags (c.tile b))) w).modLane
        ((lowestLane c.p.mask).getD 0) fun y => { y with sr := BitVec.ofNat 64 r.stream }).putTile c a r.tile) := by
  subst hr
  rw [exec_tcvt, execTcvt]
  refine State.issueWith_tilesFree h ht ?_
  simp only [hhdr, hg]
  rfl

end

/-! ## E8M0 scale bytes (R228) -/

theorem e8m0_nan : e8m0 255 = .nan false := rfl

theorem e8m0_power {e : Nat} (h : e ≤ 254) : e8m0 e = .fin false 1 (e - 127) := if_neg (by omega)

end Sys2Proof.Machine

open Sys2Proof.Machine

/-- Settles O2: every row is the shared floating-point V3 operation. -/
theorem floatVectorResults : Obligations.FloatVectorResults :=
  ⟨v3FpRuns_of exec_fadd, v3FpRuns_of exec_fsub, v3FpRuns_of exec_fmul, v3FpRuns_of exec_ffma, v3FpRuns_of exec_fmin,
    v3FpRuns_of exec_fmax⟩

/-- Settles O25, instruction by instruction; the free values are the bound of a header that step 4 of R243 refuses, and what TCVT's tile
holds outside its areas. -/
theorem tileInstructionsComplete : Obligations.TileInstructionsComplete :=
  ⟨fun _ _ _ _ _ _ => exec_tmov_moves, fun _ _ _ _ _ _ => exec_thdr_reads, fun _ _ _ _ _ _ h ht => exec_thset_sets rfl h ht rfl rfl,
    fun _ _ _ _ _ _ => exec_tfill_fills, fun _ _ _ _ _ _ _ => exec_tdrn_drains, fun _ _ _ _ _ => exec_tbnd_bounds,
    fun _ _ _ _ _ _ _ h ht hhdr => exec_prune_compares h ht hhdr rfl rfl,
    fun _ _ _ _ _ _ _ _ h ht hhdr hg => ⟨_, exec_tcvt_converts h ht hhdr hg rfl⟩⟩

/-- Settles O60: 255 is the NaN, and every other byte a power of two, which is positive and finite. -/
theorem scaleDecode : Obligations.ScaleDecode := by
  intro e he
  obtain hlow | rfl : e ≤ 254 ∨ e = 255 := by omega
  · rw [e8m0_power hlow]
    exact ⟨fun _ => rfl, fun h => absurd h (by omega), rfl, rfl, fun _ => FVal.noConfusion⟩
  · rw [e8m0_nan]
    exact ⟨fun h => absurd h (by omega), fun _ => rfl, rfl, rfl, fun _ => FVal.noConfusion⟩
end

section
/-! SUPPORT. The VU words (R262, R303 to R306, R310 to R316). -/
namespace Sys2Proof.Machine

/-! ## The shared meanings -/

section
variable {i : Instr} {sw later : Bool} {u : Uses} {d a : BitVec 7} {n m : Nat}

/-- A row whose meaning is the shared one-source operation; what it computes counts modulo the width written. -/
theorem vuRuns_of {f g : Issue → Nat → Nat → Int} (hrow : ∀ s, exec i s = s.vuInt i sw u d a n m g)
    (hfg : ∀ c l v, trunc (g c l v) (4 * n) = trunc (f c l v) (4 * n)) : VuRuns i sw u d a n m f := by
  intro s c t h
  rw [hrow, State.vuInt]
  exact State.issueWith_run h rfl (by simp only [hfg]; rfl)

theorem vuFpRuns_of {f : Rounding → Nat → Rounded} (hrow : ∀ s, exec i s = s.vuFp i sw later u d a n m f) :
    VuFpRuns i sw later u d a n m f := by
  intro s c t h
  rw [hrow, State.vuFp]
  exact State.issueWith_run h rfl rfl

theorem vuNoneRuns_of {f : Issue → Nat → Int} (hrow : ∀ s, exec i s = s.vuNone i sw u d n f) : VuNoneRuns i sw u d n f := by
  intro s c t h
  rw [hrow, State.vuNone]
  exact State.issueWith_run h rfl rfl

end

/-! ## What the one-source instructions compute (R310, R311) -/

theorem trunc_sub_mod (n v : Nat) : trunc (-(v : Int) - 1) n = trunc (2 ^ n - 1 - v) n := by
  rw [trunc_emod, trunc_emod (2 ^ n - 1 - v), show (2 : Int) ^ n - 1 - v = -(v : Int) - 1 + 2 ^ n by ring, Int.add_emod_right]

theorem wSlices_pos (w : BitVec 3) : 0 < wSlices w := by
  unfold wSlices
  split <;> decide

/-- BREV's fold sums the bits at their new places. -/
theorem foldl_add_if (p : Nat → Bool) (g : Nat → Nat) (ls : List Nat) (k : Nat) :
    ((ls.foldl (fun acc i => if p i then acc + g i else acc) k : Nat) : Int) = k + ((ls.filter p).map fun i => (g i : Int)).sum := by
  induction ls generalizing k with
  | nil => simp
  | cons i ls ih =>
    rw [List.foldl_cons, ih]
    cases hp : p i
    · simp [hp]
    · simp [hp, add_assoc]

/-- The count of an immediate shift: a field of 4 bits fits every width (R310). -/
theorem shiftCount_eq (c : Issue) (w : BitVec 3) (k : BitVec 4) :
    shiftCount c (4 * wSlices w) k = trunc ((immOf c.p.hints).getD k.toNat) (4 * wSlices w) := by
  unfold shiftCount
  cases immOf c.p.hints with
  | some v => rfl
  | none =>
    have hw : 2 ^ 4 ≤ 2 ^ (4 * wSlices w) := Nat.pow_le_pow_right Nat.two_pos (Nat.le_mul_of_pos_right 4 (wSlices_pos w))
    rw [Option.getD_none, trunc_natCast, Nat.mod_eq_of_lt (Nat.lt_of_lt_of_le k.isLt hw)]

theorem trunc_shlN (n x k : Nat) : trunc (shlN n x k) n = trunc (if n ≤ k then 0 else (x * 2 ^ k : Int)) n := by
  unfold shlN
  split
  · rfl
  · push_cast
    rw [← trunc_emod]

theorem shrN_cast (n x k : Nat) : (shrN n x k : Int) = if n ≤ k then 0 else (x : Int) / 2 ^ k := by
  unfold shrN
  split
  · rfl
  · push_cast
    rfl

/-- A count of all the bits or more leaves the sign. -/
theorem sraN_eq {n : Nat} (hn : 0 < n) (x k : Nat) :
    sraN n x k = if n ≤ k then (if sext x n < 0 then -1 else 0) else sext x n / 2 ^ k := by
  unfold sraN
  by_cases hk : n ≤ k
  · rw [if_pos hk, Nat.min_eq_right (by omega)]
    have hlt := sext_lt x hn
    have hge := sext_ge x hn
    split
    · next hneg => rw [Int.ediv_eq_iff_of_pos (by positivity)]; omega
    · next hpos => exact Int.ediv_eq_zero_of_lt (by omega) hlt
  · rw [if_neg hk, Nat.min_eq_left (by omega)]

theorem oneSources : OneSources := by
  intro sw w x d a k n imm cnt
  have hn : 0 < 4 * n := Nat.mul_pos (by decide) (wSlices_pos w)
  refine ⟨vuRuns_of (exec_mov sw w d a) fun _ _ _ => rfl, vuRuns_of (exec_not sw w d a) fun _ _ v => trunc_sub_mod _ v,
    vuRuns_of (exec_neg sw w d a 0) fun _ _ _ => by rw [if_pos rfl, Int.zero_sub],
    vuRuns_of (exec_abs sw w d a 0) fun _ _ _ => by rw [if_pos rfl, Int.natCast_natAbs],
    vuRuns_of (exec_neg sw w d a 1) fun _ _ _ => rfl, vuRuns_of (exec_abs sw w d a 1) fun _ _ _ => rfl,
    vuRuns_of (exec_popc sw w d a) fun _ _ _ => rfl, vuRuns_of (exec_clz sw w d a) fun _ _ _ => rfl,
    vuRuns_of (exec_ctz sw w d a) fun _ _ _ => rfl, vuRuns_of (fun s => by rw [exec_brev, execBrev]) fun _ _ v => ?_,
    vuRuns_of (exec_exts sw w d a x) fun _ _ _ => rfl, vuRuns_of (exec_extz sw w d a x) fun _ _ _ => rfl,
    vuRuns_of (exec_fcls sw w d a) fun _ _ _ => rfl, vuRuns_of (exec_shli sw w d a k) fun c _ v => ?_,
    vuRuns_of (exec_shri sw w d a k) fun c _ v => ?_, vuRuns_of (exec_srai sw w d a k) fun c _ v => ?_,
    vuRuns_of (exec_addi sw w d a k) fun _ _ _ => rfl⟩
  · rw [foldl_add_if]
    push_cast
    rw [zero_add]
  · rw [shiftCount_eq, trunc_shlN]
  · rw [shiftCount_eq, shrN_cast]
  · rw [shiftCount_eq, sraN_eq hn]

/-! ## Constants (R310) -/

theorem constants : Constants := fun sw w d r k =>
  ⟨vuNoneRuns_of (exec_laneid sw w d), vuNoneRuns_of (exec_movu sw w d r), vuNoneRuns_of (exec_vmovi sw w d k)⟩

/-! ## Conversions and functions (R312 to R314) -/

theorem conversions : Conversions := fun sw w d a x =>
  ⟨vuFpRuns_of (exec_cvt sw w d a x), vuFpRuns_of (exec_cvts sw w d a x), vuFpRuns_of (exec_icvt sw w d a x),
    vuFpRuns_of (exec_ucvt sw w d a x), fun m => vuFpRuns_of (exec_frnd sw w d a m)⟩

/-! ## QHAD (R316) -/

theorem State.vecF_congr {t : State} {c : Issue} {later : Bool} {ls : BitVec 32} {d n : Nat} {f g : Nat → Rounded}
    (h : ∀ l ∈ lanesOf ls, f l = g l) : t.vecF c later ls d n f = t.vecF c later ls d n g := by
  have hm : ((lanesOf ls).map fun l => (l, f l)) = (lanesOf ls).map fun l => (l, g l) :=
    List.map_congr_left fun l hl => by rw [h l hl]
  simp only [State.vecF, hm]

theorem getD_map_range {α : Type} (f : Nat → α) (x : α) {n l : Nat} (h : l < n) : ((List.range n).map f).getD l x = f l := by
  rw [List.getD_eq_getElem?_getD, List.getElem?_map, List.getElem?_range h, Option.map_some, Option.getD_some]

/-- A fold over all the lanes that passes by those of no mask is the fold over the mask's lanes. -/
theorem foldl_lanes {α : Type} (ls : BitVec 32) (f g : α → Nat → α) (hfg : ∀ x l, l ∈ lanesOf ls → f x l = g x l) (x : α) :
    (List.range 32).foldl (fun m l => if ls.getLsbD l then f m l else m) x = (lanesOf ls).foldl g x := by
  rw [← List.foldl_filter]
  exact List.foldl_ext f g x fun m l hl => hfg m l hl

theorem functions : Functions := by
  refine ⟨fun sw w d a => ⟨vuFpRuns_of (exec_frcp sw w d a), vuFpRuns_of (exec_frsq sw w d a), vuFpRuns_of (exec_fsqrt sw w d a),
    vuFpRuns_of (exec_fexp2 sw w d a), vuFpRuns_of (exec_flog2 sw w d a), vuFpRuns_of (exec_fsin sw w d a),
    vuFpRuns_of (exec_fcos sw w d a), vuFpRuns_of (exec_ftanh sw w d a)⟩, fun s c t sw w d a n r h => ?_⟩
  intro ls y out sn
  rw [exec_qhad, execQhad]
  refine State.issueWith_run h rfl (State.vecF_congr fun l hl => ?_)
  have hout (i : Nat) (hi : i ∈ lanesOf ls) : ((List.range 32).map out).getD i ⟨0, 0, false⟩ = out i :=
    getD_map_range out _ (lanesOf_lt hi)
  have hfold (x : Nat) : (List.range 32).foldl (fun m i =>
      if ls.getLsbD i then m ||| (((List.range 32).map out).getD i ⟨0, 0, false⟩).flags else m) x =
      (lanesOf ls).foldl (fun m i => m ||| (out i).flags) x :=
    foldl_lanes ls _ _ (fun m i hi => by rw [hout i hi]) x
  rw [← hfold, ← hout l hl]
  rfl

end Sys2Proof.Machine

open Sys2Proof.Machine

/-- Settles O4: every row but QHAD is the shared one-source operation. -/
theorem conversionResults : Obligations.ConversionResults := ⟨conversions, functions⟩

/-- Settles O5. -/
theorem oneSourceResults : Obligations.OneSourceResults := ⟨oneSources, constants⟩

end

section
/-! SUPPORT. Branches, calls and returns (R267, R276, R278, R284). -/
namespace Sys2Proof.Machine

section
variable {s t : State} {c : Issue} {n : Nat}

theorem State.jump_row (hs : (c.p.ureg n).toNat / 2 ^ 60 = 3) (ha : (c.p.ureg n).toNat % 4 = 0) :
    t.jump c (c.p.ureg n).toNat = t.goTo c (c.p.ureg n) := by
  rw [State.jump, bits_space (c.p.ureg n).isLt, if_neg (by omega), BitVec.ofNat_toNat, BitVec.setWidth_eq]

theorem State.jump_bad (h : (c.p.ureg n).toNat / 2 ^ 60 ≠ 3 ∨ (c.p.ureg n).toNat % 4 ≠ 0) :
    t.jump c (c.p.ureg n).toNat = t.faultAt c .badSpace c.p.mask (c.p.ureg n) 0 := by
  rw [State.jump, bits_space (c.p.ureg n).isLt, if_pos h, BitVec.ofNat_toNat, BitVec.setWidth_eq]

theorem Issue.ureg_eq_zero (c : Issue) (r : BitVec 6) : c.ureg r = 0 ↔ c.p.ureg r.toNat = 0 :=
  ⟨fun h => BitVec.eq_of_toNat_eq h, fun h => by rw [Issue.ureg, h]; rfl⟩

/-- A branch on a register goes to its target or on (R278). -/
theorem State.goTo_ite (t : State) (c : Issue) (p : Prop) [Decidable p] (x y : Word) :
    (if p then t.goTo c x else t.goTo c y) = t.goTo c (if p then x else y) := (apply_ite (t.goTo c) p x y).symm

end

theorem branches : Branches := by
  refine ⟨fun s c t sw o h => ?_, fun s c t sw r o h => ?_, fun s c t sw r o h => ?_, fun s c t sw o h => ?_,
    fun s c t sw h hs ha => ?_, fun s c t sw r h hs ha => ?_, fun s c t sw h => ?_, fun s c t sw n h => ?_⟩
  · rw [exec_bra, execBra]
    exact State.issueWith_run h rfl (by rw [Issue.target_eq_branchTo])
  · rw [exec_brz, execBrz]
    exact State.issueWith_run h rfl (by simp only [State.complete, State.goTo_ite, Issue.ureg_eq_zero, Issue.target_eq_branchTo])
  · rw [exec_brnz, execBrnz]
    exact State.issueWith_run h rfl (by
      simp only [State.complete, State.goTo_ite, ne_eq, ite_not, Issue.ureg_eq_zero, Issue.target_eq_branchTo])
  · rw [exec_call, execCall]
    exact State.issueWith_run h rfl (by rw [Issue.target_eq_branchTo])
  · rw [exec_ret, execRet]
    exact State.issueWith_run h rfl (State.jump_row hs ha)
  · rw [exec_brx, execBrx]
    exact State.issueWith_run h rfl (State.jump_row hs ha)
  · rw [exec_nop, execNop]
    exact State.issueWith_run h rfl rfl
  · rw [exec_sleep, execSleep]
    exact State.issueWith_run h rfl rfl

theorem badJumps : BadJumps := by
  refine ⟨fun s c t sw r h hbad => ?_, fun s c t sw h hbad => ?_⟩
  · rw [exec_brx, execBrx]
    exact State.issueWith_run h rfl (State.jump_bad hbad)
  · rw [exec_ret, execRet]
    exact State.issueWith_run h rfl (State.jump_bad hbad)

end Sys2Proof.Machine

open Sys2Proof.Machine

/-- Settles O16. -/
theorem branchesComplete : Obligations.BranchesComplete := ⟨branches, badJumps⟩

end

section
/-! SUPPORT. The HINT words join the run (R269, R271). -/
namespace Sys2Proof.Machine

/-- A row of HINT form: the fourth hint in a row shows its own word in the detail. -/
theorem hintRuns_of {i : Instr} {kind payload n : Nat} (hrow : ∀ s, exec i s = s.hint kind payload) (hi : encodeNat i = some n)
    (hk : kind < 2 ^ 5) (hp : payload < 2 ^ 21) (hn : n = 0x7C000000 + kind * 2 ^ 21 + payload) : HintRuns i kind payload := by
  intro s c hc
  have hword : (encodeWord i).toNat = (⟨BitVec.ofNat 5 kind, BitVec.ofNat 21 payload⟩ : HintRec).word := by
    simp only [encodeWord, encode, hi, Option.map_some, Option.getD_some, HintRec.word, BitVec.toNat_ofNat]
    omega
  simp only [hrow, State.hint, hc, State.takeHint, hword]
  exact ⟨fun h => by rw [if_neg (by omega)], fun h => by rw [if_pos h]⟩

end Sys2Proof.Machine

open Sys2Proof Sys2Proof.Machine

/-- Settles O27, kind by kind. -/
theorem hintsJoinTheRun : Obligations.HintsJoinTheRun := by
  refine ⟨fun i => hintRuns_of (exec_hintImm i) rfl (by decide) i.isLt ?_, fun i => hintRuns_of (exec_hintImmhi i) rfl (by decide) i.isLt ?_,
    fun n p => hintRuns_of (exec_hintGuard n p) rfl (by decide) (by omega) ?_, fun m => hintRuns_of (exec_hintRnd m) rfl (by decide) (by omega) ?_,
    hintRuns_of exec_hintSat rfl (by decide) (by decide) ?_, fun c o => hintRuns_of (exec_hintOrd c o) rfl (by decide) (by omega) ?_,
    fun c => hintRuns_of (exec_hintCache c) rfl (by decide) (by omega) ?_, fun o => hintRuns_of (exec_hintOffs o) rfl (by decide) o.isLt ?_,
    hintRuns_of exec_hintCheck rfl (by decide) (by decide) ?_, fun p => hintRuns_of (exec_hintPri p) rfl (by decide) (by omega) ?_⟩
  all_goals
    simp only [encFields]
    omega

end

section
/-! SUPPORT. A step: an event, or the issue of the word at a counter (R103, R253, R254, R281). -/
namespace Sys2Proof.Machine

section
variable {s t : State}

/-! ## What happens -/

theorem State.happen_taken {m : Move} (he : (encodeNat m.row).isSome = false) (ht : s.takes m.row = true) :
    s.happen m = exec m.row { s with args := m.args, cur := none } := by
  rw [State.happen, he, ht, if_neg (by decide)]

theorem State.happen_untaken {m : Move} (ht : s.takes m.row = false) : s.happen m = .next s := if_pos (.inr ht)

theorem step_agenda {m : Move} {rest : List Move} (h : s.agenda = m :: rest) :
    step s = ticked (State.happen { s with agenda := rest } m) := by
  simp only [step, h]

theorem step_picked {x : Candidate} (h : s.agenda = []) (hoff : s.off = false) (hx : s.pick s.candidates = some x) :
    step s = ticked (s.perform x) := by
  simp only [step, h, hoff, hx, Bool.false_eq_true, if_false]

theorem step_idle (h : s.agenda = []) (hi : s.off = true ∨ s.candidates = []) : step s = .next s.tick := by
  cases hoff : s.off with
  | true => simp only [step, h, hoff, if_true]
  | false =>
    have hc : s.candidates = [] := hi.resolve_left (by rw [hoff]; exact Bool.false_ne_true)
    simp only [step, h, hoff, hc, State.pick, Bool.false_eq_true, if_false]

/-! ## Issue -/

theorem State.fetch_run {id : SplitId} {w : Warp} {c : Issue} {x : IWord} {i : Instr} (hw : s.warp? id.warp = some w)
    (hi : (s.atIssue id w).issue? false = some c) (hf : (s.atIssue id w).fetchWord (c.agent none) c.g c.pc = (t, .ok x))
    (hx : decode x = .ok i) : s.fetch id = .run i t := by
  unfold State.atIssue at hi hf
  simp only [State.fetch, hw, hi, hf, State.decodeFor, hx]

/-- A split that waits for a result or for room has not issued (R281). -/
theorem issued_waiting {id : SplitId} {w : Warp} {p : Split} (hcur : t.cur = some id) (hw : t.warp? id.warp = some w)
    (hp : w.split id.split = some p) (h : p.wait = .full ∨ p.wait = .results) : issued (.next t) = .next t := by
  have hb : (p.wait == .full || p.wait == .results) = true := by simpa only [Bool.or_eq_true, beq_iff_eq] using h
  simp only [issued, State.issuedNow, hcur, hw, hp, Option.bind_some, Option.any_some, hb, if_true]

theorem issued_going {id : SplitId} {w : Warp} {p : Split} (hcur : t.cur = some id) (hw : t.warp? id.warp = some w)
    (hp : w.split id.split = some p) (hf : p.wait ≠ .full) (hr : p.wait ≠ .results) :
    issued (.next t) = .next (t.yieldSweep (some id)) := by
  have hb : (p.wait == .full || p.wait == .results) = false := by simp only [beq_eq_false_iff_ne.2 hf, beq_eq_false_iff_ne.2 hr, Bool.or_self]
  simp only [issued, State.issuedNow, hcur, hw, hp, Option.bind_some, Option.any_some, hb, Bool.false_eq_true, if_false]

/-! ## The word fetched -/

theorem State.staleWord_fresh {g : Workgroup} {key : Nat} {x : IWord}
    (h : (s.stale.any fun x => x.key == key && decide (g.started ≤ x.at_)) = false) : s.staleWord g key x = x := by
  rw [State.staleWord, List.filter_eq_nil_iff.2 fun y hy => by simpa using List.any_eq_false.1 h y hy]

theorem State.fetchWord_fresh {ag : Agent} {g : Workgroup} {pc : Word} {key : Nat} (hs : pc.toNat / 2 ^ 60 = 3)
    (hp : s.places ag .fetch pc.toNat 4 = (t, .ok [(.mem key, 4)]))
    (h : (t.stale.any fun x => x.key == key && decide (g.started ≤ x.at_)) = false) :
    s.fetchWord ag g pc = (t, .ok (BitVec.ofNat 32 (leNat (t.homeBytes key 4)))) := by
  rw [State.fetchWord, if_neg (by rw [bits_space pc.isLt]; exact not_not_intro hs), hp]
  simp only [State.staleWord_fresh h, List.flatMap_cons, List.flatMap_nil, List.append_nil]

/-! ## The choice -/

theorem State.pick_mem (s : State) {cs : List Candidate} (h : cs ≠ []) : ∃ c ∈ cs, s.pick cs = some c := by
  match cs with
  | [c] => exact ⟨c, List.mem_singleton_self c, rfl⟩
  | c :: d :: ds =>
    have hlt : Config.pickMove s.turn ((d :: ds).length + 1) % ((d :: ds).length + 1) < (c :: d :: ds).length :=
      Nat.mod_lt _ (Nat.succ_pos _)
    exact ⟨_, List.getElem_mem hlt, congrArg some (List.getD_eq_getElem _ _ hlt)⟩

end
end Sys2Proof.Machine

open Sys2Proof Sys2Proof.Machine

/-- Settles O43, clause by clause. -/
theorem stepRunsDecoded : Obligations.StepRunsDecoded := by
  refine ⟨fun s m rest ha he ht => ?_, fun s m rest ha ht => ?_, fun s m ha hoff hp he ht => ?_, fun s => step_idle,
    fun s id w c t x i ha hoff hp hw hi hf hx => ?_,
    fun t id w p hcur hw hp => ⟨issued_waiting hcur hw hp, issued_going hcur hw hp⟩,
    fun s t ag g pc key => State.fetchWord_fresh, fun s c => rfl, fun s cs => s.pick_mem⟩
  · rw [step_agenda ha, State.happen_taken he ht]
  · rw [step_agenda ha, State.happen_untaken ht]
    rfl
  · rw [step_picked ha hoff hp, State.perform, State.happen_taken he ht]
  · rw [step_picked ha hoff hp]
    simp only [State.perform, State.fetch_run hw hi hf hx]

end

section
/-! SUPPORT. Words of the manual (R253, R266 to R269, R278 to R288, R307, R310, R312, R317, R322, R323). -/

/-- Settles O49 by evaluation of the decoder on the fifteen words. -/
theorem decodeWords : Obligations.DecodeWords := by
  unfold Obligations.DecodeWords
  refine ⟨?_, ?_, ?_, ?_, ?_, ?_, ?_, ?_, ?_, ?_, ?_, ?_, ?_, ?_, ?_⟩ <;> decide

end

section
/-! SUPPORT. The decoder and the encoder read each other's words (R253, R261 to R269). -/
namespace Sys2Proof

/-! ## A word as or-ed fields -/

theorem bits_or (x y lo n : Nat) : bits (x ||| y) lo n = bits x lo n ||| bits y lo n := by
  simp only [bits, Nat.or_div_two_pow, Nat.or_mod_two_pow]

theorem bits_or_above (x v : Nat) {l n lo : Nat} (h : l + n ≤ lo) : bits (x ||| v <<< lo) l n = bits x l n := by
  obtain ⟨k, rfl⟩ := Nat.exists_eq_add_of_le h
  have hv : bits (v <<< (l + n + k)) l n = 0 := by
    rw [bits, Nat.shiftLeft_eq, show v * 2 ^ (l + n + k) = 2 ^ l * (2 ^ n * (v * 2 ^ k)) by ring,
      Nat.mul_div_cancel_left _ (Nat.two_pow_pos l), Nat.mul_mod_right]
  rw [bits_or, hv, Nat.or_zero]

theorem bits_or_below (x : Nat) {m : Nat} (v : BitVec m) {l n lo : Nat} (h : lo + m ≤ l) :
    bits (x ||| v.toNat <<< lo) l n = bits x l n := by
  have hv : v.toNat <<< lo < 2 ^ l := calc
    v.toNat <<< lo < 2 ^ m * 2 ^ lo := by
      rw [Nat.shiftLeft_eq]
      exact Nat.mul_lt_mul_of_pos_right v.isLt (Nat.two_pow_pos lo)
    _ = 2 ^ (lo + m) := by rw [Nat.pow_add, Nat.mul_comm]
    _ ≤ 2 ^ l := Nat.pow_le_pow_right Nat.two_pos h
  rw [bits_or, bits, bits, Nat.div_eq_of_lt hv, Nat.zero_mod, Nat.or_zero]

theorem bits_or_apart (x : Nat) {m : Nat} (v : BitVec m) {l n lo : Nat} (h : l + n ≤ lo ∨ lo + m ≤ l) :
    bits (x ||| v.toNat <<< lo) l n = bits x l n :=
  h.elim (bits_or_above x v.toNat) (bits_or_below x v)

theorem bits_or_at {x n lo : Nat} (v : BitVec n) (h : bits x lo n = 0) : bits (x ||| v.toNat <<< lo) lo n = v.toNat := by
  rw [bits_or, h, Nat.zero_or, bits, Nat.shiftLeft_eq, Nat.mul_div_cancel _ (Nat.two_pow_pos lo), Nat.mod_eq_of_lt v.isLt]

/-- A field added over zero bits is or-ed in. -/
theorem add_field_eq_or {b n lo : Nat} (v : BitVec n) (h : bits b lo n = 0) : b + v.toNat * 2 ^ lo = b ||| v.toNat <<< lo := by
  have hr : b % 2 ^ lo < 2 ^ lo := Nat.mod_lt _ (Nat.two_pow_pos lo)
  obtain ⟨q, hq⟩ : 2 ^ n ∣ b / 2 ^ lo := Nat.dvd_of_mod_eq_zero h
  have hb : b = 2 ^ lo * (2 ^ n * q) + b % 2 ^ lo := by rw [← hq, Nat.div_add_mod]
  calc b + v.toNat * 2 ^ lo = 2 ^ lo * (2 ^ n * q + v.toNat) + b % 2 ^ lo := by rw [Nat.mul_add, Nat.mul_comm v.toNat]; omega
    _ = 2 ^ lo * (2 ^ n * q) ||| v.toNat <<< lo ||| b % 2 ^ lo := by
      rw [Nat.two_pow_add_eq_or_of_lt hr, Nat.two_pow_add_eq_or_of_lt v.isLt, Nat.mul_comm, ← Nat.shiftLeft_eq,
        Nat.shiftLeft_or_distrib, Nat.shiftLeft_eq, Nat.mul_comm]
    _ = b ||| v.toNat <<< lo := by
      rw [Nat.or_right_comm, ← Nat.two_pow_add_eq_or_of_lt hr, ← hb]

/-! ## The fields of a word -/

/-- The fields of a word, each a value and a place; their places, each the lowest bit and a width; and what a word that holds
them reads there. -/
inductive Fields : List (Nat × Nat) → List (Nat × Nat) → (Nat → Prop) → Prop
  | nil : Fields [] [] fun _ => True
  | cons {n lo : Nat} {fs ps : List (Nat × Nat)} {r : Nat → Prop} (v : BitVec n) :
      Fields fs ps r → Fields ((v.toNat, lo) :: fs) ((lo, n) :: ps) fun w => fieldAt n w lo = v ∧ r w
  | switch {lo : Nat} {fs ps : List (Nat × Nat)} {r : Nat → Prop} (sw : Bool) :
      Fields fs ps r → Fields ((sw.toNat, lo) :: fs) ((lo, 1) :: ps) fun w => (bits w lo 1 == 1) = sw ∧ r w

/-- The `n` bits at `lo` stand in a word, and no place lies in them. -/
def clearAt (lo n : Nat) : List (Nat × Nat) → Bool
  | [] => decide (lo + n ≤ 32)
  | (l, m) :: ps => (decide (lo + n ≤ l) || decide (l + m ≤ lo)) && clearAt lo n ps

/-- The places lie apart in a word, over zero bits of `b`. -/
def fitsIn (b : Nat) : List (Nat × Nat) → Bool
  | [] => true
  | (lo, n) :: ps => bits b lo n == 0 && clearAt lo n ps && fitsIn b ps

theorem clearAt_cons {l m lo n : Nat} {ps : List (Nat × Nat)} (h : clearAt lo n ((l, m) :: ps) = true) :
    (lo + n ≤ l ∨ l + m ≤ lo) ∧ clearAt lo n ps = true := by
  simpa only [clearAt, Bool.and_eq_true, Bool.or_eq_true, decide_eq_true_eq] using h

theorem fitsIn_cons {b lo n : Nat} {ps : List (Nat × Nat)} (h : fitsIn b ((lo, n) :: ps) = true) :
    bits b lo n = 0 ∧ clearAt lo n ps = true ∧ fitsIn b ps = true := by
  simpa only [fitsIn, Bool.and_eq_true, beq_iff_eq, and_assoc] using h

/-- A field at a clear place leaves room for the others. -/
theorem fitsIn_or {b lo n : Nat} (v : BitVec n) {ps : List (Nat × Nat)} (hc : clearAt lo n ps = true) (h : fitsIn b ps = true) :
    fitsIn (b ||| v.toNat <<< lo) ps = true := by
  induction ps with
  | nil => rfl
  | cons q ps ih =>
    obtain ⟨hq, hqs, hrest⟩ := fitsIn_cons h
    obtain ⟨hap, hcs⟩ := clearAt_cons hc
    rw [fitsIn, bits_or_apart b v hap.symm, hq, hqs, ih hcs hrest]
    rfl

theorem encFields_cons {b n lo : Nat} {v : BitVec n} {fs : List (Nat × Nat)} (h : bits b lo n = 0) :
    encFields b ((v.toNat, lo) :: fs) = encFields (b ||| v.toNat <<< lo) fs := by
  rw [encFields, add_field_eq_or v h]

theorem bits_word {x lo n : Nat} (h : lo + n ≤ 32) : bits (BitVec.ofNat 32 x).toNat lo n = bits x lo n := by
  obtain ⟨k, hk⟩ := Nat.exists_eq_add_of_le h
  rw [bits, bits, BitVec.toNat_ofNat, hk, Nat.add_assoc, Nat.pow_add, Nat.mod_mul_right_div_self, Nat.pow_add,
    Nat.mod_mul_right_mod]

theorem fieldAt_eq {n w lo : Nat} {v : BitVec n} (h : bits w lo n = v.toNat) : fieldAt n w lo = v := by
  rw [fieldAt, h, BitVec.ofNat_toNat, BitVec.setWidth_eq]

theorem switchAt_eq {w lo : Nat} {sw : Bool} (h : bits w lo 1 = (BitVec.ofBool sw).toNat) : (bits w lo 1 == 1) = sw := by
  rw [h]
  cases sw <;> rfl

/-- A word holds its fixed bits between its fields, and its fields. -/
theorem Fields.read {fs ps : List (Nat × Nat)} {r : Nat → Prop} (hf : Fields fs ps r) {b : Nat} (hb : fitsIn b ps = true) :
    (∀ lo n, clearAt lo n ps = true → bits (BitVec.ofNat 32 (encFields b fs)).toNat lo n = bits b lo n) ∧
    r (BitVec.ofNat 32 (encFields b fs)).toNat := by
  induction hf generalizing b with
  | nil => exact ⟨fun _ _ h => bits_word (of_decide_eq_true h), trivial⟩
  | @cons n lo fs ps r v _ ih =>
    obtain ⟨h0, hc, hrest⟩ := fitsIn_cons hb
    obtain ⟨hclear, hread⟩ := ih (fitsIn_or v hc hrest)
    rw [encFields_cons h0]
    refine ⟨fun l m h => ?_, fieldAt_eq ((hclear lo n hc).trans (bits_or_at v h0)), hread⟩
    obtain ⟨hap, hcs⟩ := clearAt_cons h
    exact (hclear l m hcs).trans (bits_or_apart b v hap)
  | @switch lo fs ps r sw _ ih =>
    obtain ⟨h0, hc, hrest⟩ := fitsIn_cons hb
    obtain ⟨hclear, hread⟩ := ih (fitsIn_or (BitVec.ofBool sw) hc hrest)
    rw [← BitVec.toNat_ofBool, encFields_cons h0]
    refine ⟨fun l m h => ?_, switchAt_eq ((hclear lo 1 hc).trans (bits_or_at _ h0)), hread⟩
    obtain ⟨hap, hcs⟩ := clearAt_cons h
    exact (hclear l m hcs).trans (bits_or_apart b (BitVec.ofBool sw) hap)

/-! ## The decoder as tables of rows -/

/-- Fixed bits that a row asks for besides its number: places, widths and values. -/
def FixedBits (w : Nat) (z : List (Nat × Nat × Nat)) : Prop := ∀ t ∈ z, bits w t.1 t.2.1 = t.2.2

theorem fixedBits_cons {w lo n c : Nat} {z : List (Nat × Nat × Nat)} (h : FixedBits w ((lo, n, c) :: z)) :
    bits w lo n = c ∧ FixedBits w z := List.forall_mem_cons.1 h

/-- With the fixed bits `z` the answer `d` is `a`. -/
def Decoded.Under (w : Nat) (d : Decoded) (z : List (Nat × Nat × Nat)) (a : Decoded) : Prop := FixedBits w z → d = a

theorem Decoded.Under.refl {w : Nat} {a : Decoded} : a.Under w [] a := fun _ => rfl

theorem Decoded.Under.test {w lo n c : Nat} {x y a : Decoded} {z : List (Nat × Nat × Nat)} (h : x.Under w z a) :
    Decoded.Under w (if bits w lo n = c then x else y) ((lo, n, c) :: z) a := fun hz => by
  obtain ⟨h0, hz⟩ := fixedBits_cons hz
  rw [if_pos h0, h hz]

/-- The answer `d` to the row number `fn` stands in the table: the number, the fixed bits and the answer of each row. -/
def Decoded.Rows (w : Nat) (d : Decoded) (fn : Nat) (l : List (Nat × List (Nat × Nat × Nat) × Decoded)) : Prop :=
  ∀ k z a, l.lookup k = some (z, a) → fn = k → d.Under w z a

section
variable {w fn k : Nat} {x a b : Decoded} {z : List (Nat × Nat × Nat)} {l : List (Nat × List (Nat × Nat × Nat) × Decoded)}

theorem Decoded.Rows.nil : x.Rows w fn [] := fun _ _ _ h => nomatch h

theorem Decoded.Rows.row {d : Decoded} (hrow : fn = k → d.Under w z a) (hrest : fn ≠ k → d = b) (h : b.Rows w fn l) :
    d.Rows w fn ((k, z, a) :: l) := by
  intro j y r hl hfn
  by_cases hk : j = k
  · subst hk
    simp only [List.lookup_cons, beq_self_eq_true, Option.some.injEq, Prod.mk.injEq] at hl
    obtain ⟨rfl, rfl⟩ := hl
    exact hrow hfn
  · rw [List.lookup_cons, beq_eq_false_iff_ne.2 hk] at hl
    rw [hrest fun e => hk (hfn.symm.trans e)]
    exact h j y r hl hfn

theorem Decoded.Rows.plain (hx : x.Under w z a) (h : b.Rows w fn l) : Decoded.Rows w (if fn = k then x else b) fn ((k, z, a) :: l) :=
  .row (fun e => by rwa [if_pos e]) (fun e => if_neg e) h

theorem Decoded.Rows.one {lo n c : Nat} (hx : x.Under w z a) (h : b.Rows w fn l) :
    Decoded.Rows w (if fn = k ∧ bits w lo n = c then x else b) fn ((k, (lo, n, c) :: z, a) :: l) := by
  refine .row (fun e hz => ?_) (fun e => if_neg fun h => e h.1) h
  obtain ⟨h0, hz⟩ := fixedBits_cons hz
  rw [if_pos ⟨e, h0⟩, hx hz]

theorem Decoded.Rows.two {lo n c lo' n' c' : Nat} (hx : x.Under w z a) (h : b.Rows w fn l) :
    Decoded.Rows w (if fn = k ∧ bits w lo n = c ∧ bits w lo' n' = c' then x else b) fn
      ((k, (lo, n, c) :: (lo', n', c') :: z, a) :: l) := by
  refine .row (fun e hz => ?_) (fun e => if_neg fun h => e h.1) h
  obtain ⟨h0, hz⟩ := fixedBits_cons hz
  obtain ⟨h1, hz⟩ := fixedBits_cons hz
  rw [if_pos ⟨e, h0, h1⟩, hx hz]

/-- The rows of a chain of tests, read off it. -/
def Decoded.rows (d : Decoded) {l : List (Nat × List (Nat × Nat × Nat) × Decoded)}
    (h : d.Rows w fn l := by
      repeat' first
        | eapply Decoded.Under.test
        | exact Decoded.Under.refl
        | eapply Decoded.Rows.two
        | eapply Decoded.Rows.one
        | eapply Decoded.Rows.plain
        | exact Decoded.Rows.nil) :
    { l // d.Rows w fn l } := ⟨l, h⟩

end

def rowsV3 (w fn : Nat) : { l // (decodeV3 w fn).Rows w fn l } := (decodeV3 w fn).rows

def rowsVU (w fn : Nat) : { l // (decodeVU w fn).Rows w fn l } := (decodeVU w fn).rows

def rowsVC (w fn : Nat) : { l // (decodeVC w fn).Rows w fn l } := (decodeVC w fn).rows

def rowsMEM (w fn : Nat) : { l // (decodeMEM w fn).Rows w fn l } := (decodeMEM w fn).rows

def rowsATOM (w fn : Nat) : { l // (decodeATOM w fn).Rows w fn l } := (decodeATOM w fn).rows

def rowsUNI (w fn : Nat) : { l // (decodeUNI w fn).Rows w fn l } := (decodeUNI w fn).rows

def rowsCTRL (w fn : Nat) : { l // (decodeCTRL w fn).Rows w fn l } := (decodeCTRL w fn).rows

def rowsENG (w fn : Nat) : { l // (decodeENG w fn).Rows w fn l } := (decodeENG w fn).rows

def rowsHINT (w fn : Nat) (h : FixedBits w [(31, 1, 0)]) : { l // (decodeHINT w fn).Rows w fn l } := ⟨_, by
  obtain ⟨hsw, -⟩ := fixedBits_cons h
  unfold decodeHINT
  rw [hsw, if_neg Nat.zero_ne_one]
  repeat' first | eapply Decoded.Under.test | exact Decoded.Under.refl | eapply Decoded.Rows.plain | exact .nil⟩

/-- A format: the fixed bits of all its rows, the place of the row's number, its decoder and its rows. -/
structure Format where
  fixed : List (Nat × Nat × Nat)
  lo : Nat
  width : Nat
  dec : Nat → Nat → Decoded
  rows : ∀ w fn, FixedBits w fixed → { l // (dec w fn).Rows w fn l }

/-- The format of an opcode (R253). -/
def formatOf (op : Nat) : Format :=
  match op with
  | 24 => ⟨[], 21, 5, decodeVU, fun w fn _ => rowsVU w fn⟩
  | 25 => ⟨[], 21, 5, decodeVC, fun w fn _ => rowsVC w fn⟩
  | 26 => ⟨[], 21, 5, decodeMEM, fun w fn _ => rowsMEM w fn⟩
  | 27 => ⟨[], 22, 4, decodeATOM, fun w fn _ => rowsATOM w fn⟩
  | 28 => ⟨[], 20, 6, decodeUNI, fun w fn _ => rowsUNI w fn⟩
  | 29 => ⟨[], 22, 4, decodeCTRL, fun w fn _ => rowsCTRL w fn⟩
  | 30 => ⟨[], 20, 6, decodeENG, fun w fn _ => rowsENG w fn⟩
  | 31 => ⟨[(31, 1, 0)], 21, 5, decodeHINT, rowsHINT⟩
  | _ => ⟨[], 26, 5, decodeV3, fun w fn _ => rowsV3 w fn⟩

theorem formatOf_of_lt {op : Nat} (h : op < 24) : formatOf op = ⟨[], 26, 5, decodeV3, fun w fn _ => rowsV3 w fn⟩ := by
  unfold formatOf
  split
  case h_9 => rfl
  all_goals omega

/-- The format of a word. -/
def formatAt (w : Nat) : Format := formatOf (bits w 26 5)

/-- The number of a word's row in its format. -/
def rowAt (w : Nat) : Nat := bits w (formatAt w).lo (formatAt w).width

theorem decodeNat_eq (w : Nat) : decodeNat w = (formatAt w).dec w (rowAt w) := by
  have hop : bits w 26 5 < 32 := Nat.mod_lt _ (Nat.two_pow_pos 5)
  rw [rowAt, formatAt]
  by_cases hv3 : bits w 26 5 < 24
  · rw [decodeNat, if_pos hv3, formatOf_of_lt hv3]
  · obtain h | h | h | h | h | h | h | h : bits w 26 5 = 24 ∨ bits w 26 5 = 25 ∨ bits w 26 5 = 26 ∨ bits w 26 5 = 27 ∨
        bits w 26 5 = 28 ∨ bits w 26 5 = 29 ∨ bits w 26 5 = 30 ∨ bits w 26 5 = 31 := by omega
    all_goals rw [decodeNat, h]; rfl

/-- The fixed bits `z` stand in the fixed part `b` of a word with fields at `ps`. -/
def fixedIn (b : Nat) (ps : List (Nat × Nat)) (z : List (Nat × Nat × Nat)) : Bool :=
  z.all fun t => clearAt t.1 t.2.1 ps && bits b t.1 t.2.1 == t.2.2

theorem fixedBits_of_fixedIn {b w : Nat} {ps : List (Nat × Nat)} {z : List (Nat × Nat × Nat)} (h : fixedIn b ps z = true)
    (hw : ∀ lo n, clearAt lo n ps = true → bits w lo n = bits b lo n) : FixedBits w z := fun t ht => by
  obtain ⟨hc, hb⟩ := Bool.and_eq_true_iff.1 (List.all_eq_true.1 h t ht)
  rw [hw _ _ hc, beq_iff_eq.1 hb]

/-- The word of a row's fixed bits and fields is decoded by that row. -/
theorem decode_of_row {i : Instr} {w : IWord} {b : Nat} {fs ps : List (Nat × Nat)} {r : Nat → Prop}
    {z : List (Nat × Nat × Nat)} {a : Nat → Decoded} (h : encode i = some w)
    (hi : encodeNat i = some (encFields b fs)) (hf : Fields fs ps r) (hb : fitsIn b ps = true)
    (hnum : fixedIn b ps [(26, 5, bits b 26 5), ((formatAt b).lo, (formatAt b).width, rowAt b)] = true)
    (hfix : fixedIn b ps (formatAt b).fixed = true)
    (hrow : ∀ u hu, ((formatAt b).rows u (rowAt b) hu).1.lookup (rowAt b) = some (z, a u))
    (hz : fixedIn b ps z = true) (ha : ∀ u, r u → a u = .ok i) : decode w = .ok i := by
  rw [encode, hi] at h
  obtain rfl := Option.some.inj h
  obtain ⟨hclear, hread⟩ := hf.read hb
  have hfix := fixedBits_of_fixedIn hfix hclear
  obtain ⟨hop, hfn⟩ := fixedBits_cons (fixedBits_of_fixedIn hnum hclear)
  obtain ⟨hfn, -⟩ := fixedBits_cons hfn
  rw [decode, decodeNat_eq, rowAt, formatAt, hop, ← formatAt, hfn, ← ha _ hread]
  exact ((formatAt b).rows _ _ hfix).2 _ _ _ (hrow _ hfix) rfl (fixedBits_of_fixedIn hz hclear)

/-- The second row of its number in UNI form. -/
theorem decode_winReg {sw : Bool} {u : BitVec 6} {w : IWord} (h : encode (.winReg sw u) = some w) : decode w = .ok (.winReg sw u) := by
  obtain rfl := Option.some.inj h
  obtain ⟨hclear, hread⟩ := (Fields.switch (lo := 31) sw (.cons (lo := 8) u .nil)).read (b := 0x71900001) rfl
  have hfix : FixedBits _ [(26, 5, 28), (20, 6, 25), (0, 8, 1), (14, 6, 0)] := fixedBits_of_fixedIn rfl hclear
  simp only [FixedBits, List.forall_mem_cons] at hfix
  simp only [decode, decodeNat, decodeUNI, hfix, hread, Nat.reduceLT, Nat.reduceEqDiff, false_and, and_false, true_and, ↓reduceIte]

/-- Row by row: every field that the row's word is decoded by stands in it by itself. -/
theorem decode_encode {i : Instr} {w : IWord} (h : encode i = some w) : decode w = .ok i := by
  cases i
  case winReg sw u => exact decode_winReg h
  all_goals try (cases h; done)
  all_goals
    refine decode_of_row h rfl (by repeat constructor) rfl rfl rfl (fun _ _ => rfl) rfl fun u hu => ?_
    simp only [hu]

/-! ## A word as the sum of its fields -/

/-- The number that the `k` lowest bits of a word give. -/
def lowBits (w k : Nat) : Int := (w % 2 ^ k : Nat)

theorem lowBits_zero (w : Nat) : lowBits w 0 = 0 := by rw [lowBits, Nat.pow_zero, Nat.mod_one]; rfl

/-- A field is what its bits add to those below it. -/
theorem bits_mul_pow (w lo n : Nat) : (bits w lo n : Int) * 2 ^ lo = lowBits w (lo + n) - lowBits w lo := by
  have h : w % 2 ^ (lo + n) = w % 2 ^ lo + 2 ^ lo * bits w lo n := by rw [Nat.pow_add, Nat.mod_mul, bits]
  rw [lowBits, lowBits, h]
  push_cast
  ring

theorem bits_eq_iff (w lo n c : Nat) : bits w lo n = c ↔ lowBits w (lo + n) = lowBits w lo + c * 2 ^ lo := by
  rw [← sub_eq_iff_eq_add', ← bits_mul_pow, mul_left_inj' (by positivity), Int.natCast_inj]

theorem fieldAt_toNat (n w lo : Nat) : (fieldAt n w lo).toNat = bits w lo n := by
  rw [fieldAt, BitVec.toNat_ofNat, bits, Nat.mod_mod]

theorem switchAt_toNat (w lo : Nat) : (bits w lo 1 == 1).toNat = bits w lo 1 := by
  have h : bits w lo 1 < 2 := Nat.mod_lt _ Nat.two_pos
  obtain h | h : bits w lo 1 = 0 ∨ bits w lo 1 = 1 := by omega
  all_goals rw [h]; rfl

theorem encFields_add (b x : Nat) (fs : List (Nat × Nat)) : encFields (b + x) fs = x + encFields b fs := by
  induction fs generalizing b with
  | nil => exact Nat.add_comm b x
  | cons f fs ih => rw [encFields, encFields, Nat.add_right_comm, ih]

theorem encFields_nil (b : Nat) : encFields b [] = b := rfl

theorem encFields_cons_cast (b v lo : Nat) (fs : List (Nat × Nat)) :
    (encFields b ((v, lo) :: fs) : Int) = v * 2 ^ lo + encFields b fs := by
  rw [encFields, encFields_add]
  push_cast
  rfl

/-! ## Every bit of a decoded word is read -/

/-- An answer for the word `w`: no instruction, or one whose word is `w`. -/
def Decoded.Reads (w : Nat) : Decoded → Prop
  | .ok i => encodeNat i = some w
  | _ => True

theorem Decoded.Reads.ite {w : Nat} {c : Prop} [Decidable c] {a b : Decoded} (ha : c → a.Reads w) (hb : b.Reads w) :
    (if c then a else b).Reads w := by
  split
  · exact ha ‹_›
  · exact hb

theorem Decoded.Reads.row {w n : Nat} {i : Instr} (hw : w < 2 ^ 32) (he : encodeNat i = some n) (hn : (n : Int) = lowBits w 32) :
    (Decoded.ok i).Reads w := by
  rw [lowBits, Nat.mod_eq_of_lt hw] at hn
  rw [Decoded.Reads, he, Int.natCast_inj.1 hn]

/-- The rows of HINT form have no switch marker. -/
theorem decodeHINT_reads {w : Nat} (hw : w < 2 ^ 32) (hop : bits w 26 5 = 31) : (decodeHINT w (bits w 21 5)).Reads w := by
  by_cases hsw : bits w 31 1 = 1
  · rw [decodeHINT, if_pos hsw]
    trivial
  · replace hsw : bits w 31 1 = 0 := (Nat.mod_two_eq_zero_or_one _).resolve_right hsw
    rw [decodeHINT, hsw, if_neg Nat.zero_ne_one]
    repeat' refine Decoded.Reads.ite (fun hrow => ?_) ?_
    all_goals try exact trivial
    all_goals
      refine .row hw rfl ?_
      simp only [bits_eq_iff, Nat.reduceAdd, lowBits_zero] at *
      simp only [encFields_cons_cast, encFields_nil, fieldAt_toNat, bits_mul_pow, Nat.reduceAdd, lowBits_zero]
      omega

/-- Row by row: the fields, and the bits that the row fixes, make up the word. -/
theorem decodeNat_reads {w : Nat} (hw : w < 2 ^ 32) : (decodeNat w).Reads w := by
  have hop : bits w 26 5 < 32 := Nat.mod_lt _ (Nat.two_pow_pos 5)
  unfold decodeNat
  dsimp only
  split_ifs with hv3 hop hop hop hop hop hop hop
  case neg => exact decodeHINT_reads hw (by omega)
  all_goals
    clear * - hw hop
    simp only [decodeV3, decodeVU, decodeVC, decodeMEM, decodeATOM, decodeUNI, decodeCTRL, decodeENG]
    repeat' refine Decoded.Reads.ite (fun hrow => ?_) ?_
  all_goals try exact trivial
  all_goals
    refine .row hw rfl ?_
    simp only [bits_eq_iff, Nat.reduceAdd, lowBits_zero] at *
    simp only [encFields_cons_cast, encFields_nil, fieldAt_toNat, switchAt_toNat, bits_mul_pow, Nat.reduceAdd, lowBits_zero]
    omega

/-- A word that decodes to an instruction is its word. -/
theorem encode_of_decode {w : IWord} {i : Instr} (h : decode w = .ok i) : encode i = some w := by
  have hr := decodeNat_reads w.isLt
  rw [show decodeNat w.toNat = .ok i from h] at hr
  rw [encode, show encodeNat i = some w.toNat from hr, Option.map_some, BitVec.ofNat_toNat, BitVec.setWidth_eq]

end Sys2Proof

/-- Settles O47: no row needs well-formed operands for it. -/
theorem roundTrip : Obligations.RoundTrip := fun _ _ _ h => Sys2Proof.decode_encode h

/-- Settles O48, from the decoder's rows. -/
theorem decodeEncode : Obligations.DecodeEncode := fun _ _ h => Sys2Proof.encode_of_decode h

end

section
/-! SUPPORT. The frame of the vector instructions (R276, R304): one change of the issuing warp, read back lane by lane. -/
namespace Sys2Proof.Machine

/-- The issuing warp behind vector results at fixed latency, but for its counter. -/
def Issue.vectored (c : Issue) (ls : BitVec 32) (d n : Nat) (f : Nat → Nat) : Warp :=
  (lanesOf ls).foldl (fun w l => w.modLane l fun x => x.put (c.abs d) n (trunc (f l) (4 * n))) c.w

section
variable {t : State} {c : Issue} {ls : BitVec 32} {d n : Nat} {f : Nat → Nat}

theorem Issue.plain.changes_vec (hp : c.plain t) :
    c.Changes t ((c.vectored ls d n f).modSplit c.id.split (Split.onward (c.pc + 4) t.cycle)) (t.vec c ls d n f) := by
  obtain ⟨-, -, hpend, hsw, -⟩ := hp
  have h := Issue.changes_put_only (t := t) hsw ((lanesOf ls).map fun l => (c.dst l d n, trunc (f l) (4 * n)))
  rwa [Warp.foldl_write_lanes hpend c.id.split (fun l => c.dst l d n) _
    (fun l x => x.put (c.abs d) n (trunc (f l) (4 * n))) (fun _ _ => rfl)] at h

theorem Issue.plain.laneOf_vec (hp : c.plain t) (l : Nat) : (t.vec c ls d n f).laneOf c.id.warp l =
    if ls.getLsbD l = true then (t.laneOf c.id.warp l).put (c.abs d) n (trunc (f l) (4 * n)) else t.laneOf c.id.warp l := by
  rw [hp.laneOf]
  exact (hp.changes_vec.laneOf hp l).trans
    (Warp.lane_foldl_mask hp.lanes_length ls (fun l x => x.put (c.abs d) n (trunc (f l) (4 * n))) l)

theorem Issue.plain.vec_onlyLanes (hp : c.plain t) : OnlyLanes c.id.warp c.id.split (c.behind t.cycle) c.w t (t.vec c ls d n f) := by
  obtain ⟨l', -, h⟩ := Warp.foldl_modLane_rest (fun l x => x.put (c.abs d) n (trunc (f l) (4 * n))) (lanesOf ls) c.w
  have hc := hp.changes_vec (ls := ls) (d := d) (n := n) (f := f)
  rw [Issue.vectored, h] at hc
  exact hc.onlyLanes hp

end

end Sys2Proof.Machine

open Sys2Proof.Machine

/-- Settles O54: an executing lane takes its result in the destination slices alone, any other lane nothing. -/
theorem vectorFrame : Obligations.VectorFrame := by
  intro t c ls d n f hp hd
  refine ⟨hp.vec_onlyLanes, fun l hl => ?_, fun l k h => ?_, fun l => ?_⟩
  · rw [hp.laneOf_vec, if_pos hl, Lane.get_put _ hd, Nat.mod_eq_of_lt (trunc_lt _ _)]
  · rw [hp.laneOf_vec]
    split
    · next hl => exact Lane.get_put_ne _ _ (h.resolve_left (by simp only [hl, Bool.true_eq_false, not_false_eq_true]))
    · rfl
  · rw [hp.laneOf_vec]
    split <;> rfl

end

section
/-! SUPPORT. The uniform instructions: what each writes to S(sd), and the words of the two-source functions (R121, R285 to R288). -/
namespace Sys2Proof.Machine

/-! ## The two-source functions (R285, R287) -/

/-- A row whose meaning is the shared two-source operation; what it computes counts modulo 2^64. -/
theorem uni2Runs_of {row : Bool → BitVec 6 → BitVec 6 → BitVec 6 → Instr} {f g : Nat → Nat → Int}
    (hexec : ∀ sw d a b s, exec (row sw d a b) s = s.uni2 (row sw d a b) sw d a b g)
    (hfg : ∀ x y, trunc (g x y) 64 = trunc (f x y) 64) : Uni2Runs row f := by
  intro s c t sw d a b h
  rw [hexec, State.uni2]
  refine State.issueWith_run h rfl ?_
  rw [State.putU, hfg]
  rfl

/-- The lower of two signed values, as a pattern (R285). -/
theorem trunc_smin (n x y : Nat) : trunc (if sle n x y then (x : Int) else y) n = trunc (min (sext x n) (sext y n)) n := by
  by_cases h : sext x n ≤ sext y n
  · rw [sle, decide_eq_true h, if_pos rfl, min_eq_left h, trunc_sext]
  · rw [sle, decide_eq_false h, if_neg Bool.false_ne_true, min_eq_right (le_of_not_ge h), trunc_sext]

theorem trunc_smax (n x y : Nat) : trunc (if sle n x y then (y : Int) else x) n = trunc (max (sext x n) (sext y n)) n := by
  by_cases h : sext x n ≤ sext y n
  · rw [sle, decide_eq_true h, if_pos rfl, max_eq_right h, trunc_sext]
  · rw [sle, decide_eq_false h, if_neg Bool.false_ne_true, max_eq_left (le_of_not_ge h), trunc_sext]

theorem uniformArithmetic : UniformArithmetic :=
  ⟨uni2Runs_of exec_sadd fun _ _ => rfl, uni2Runs_of exec_ssub fun _ _ => rfl, uni2Runs_of exec_smul fun _ _ => rfl,
    uni2Runs_of exec_smulh fun _ _ => rfl, uni2Runs_of exec_sand fun _ _ => rfl, uni2Runs_of exec_sor fun _ _ => rfl,
    uni2Runs_of exec_sxor fun _ _ => rfl, uni2Runs_of exec_sshl fun _ _ => by push_cast; rfl,
    uni2Runs_of exec_sshr fun _ _ => by push_cast; rfl, uni2Runs_of exec_ssra fun _ _ => rfl, uni2Runs_of exec_smin (trunc_smin 64),
    uni2Runs_of exec_smax (trunc_smax 64), uni2Runs_of exec_sminu fun _ _ => by push_cast; rfl,
    uni2Runs_of exec_smaxu fun _ _ => by push_cast; rfl, uni2Runs_of exec_seq fun _ _ => rfl, uni2Runs_of exec_slt fun _ _ => rfl,
    uni2Runs_of exec_sltu fun _ _ => rfl, uni2Runs_of exec_sbfx fun x y => by rw [bits_low y 6]; rfl⟩

/-! ## The other functions (R286 to R288) -/

/-- An instruction whose effect is one uniform result. -/
theorem uniRuns_of {i : Instr} {sw : Bool} {u : Uses} {d : BitVec 6} {f g : Issue → State → Int}
    (hexec : ∀ s, exec i s = s.issueWith i sw u fun c t => t.putU c d (g c t)) (hfg : ∀ c t, g c t = f c t) : UniRuns i sw u d f := by
  intro s c t h
  rw [hexec]
  refine State.issueWith_run h rfl ?_
  rw [hfg]
  rfl

/-- A row whose meaning is the shared one-source operation (R286). -/
theorem uni1Runs_of {i : Instr} {sw : Bool} {d a : BitVec 6} {f : Nat → Nat} {g : Issue → State → Int}
    (hexec : ∀ s, exec i s = s.uni1 i sw d a f) (hfg : ∀ c t, (f (c.ureg a) : Int) = g c t) :
    UniRuns i sw { uregs := [a.toNat] } d g :=
  uniRuns_of (g := fun c _ => f (c.ureg a)) hexec hfg

/-- The upper half that SLUI writes: a field of 14 bits is its own value (R286). -/
theorem upperHalf_eq (o : Option Int) (k : BitVec 14) :
    (match o with | some v => trunc v 32 | none => k.toNat) = trunc (o.getD k.toNat) 32 := by
  cases o with
  | some v => rfl
  | none => rw [Option.getD_none, trunc_natCast, Nat.mod_eq_of_lt (Nat.lt_trans k.isLt (by decide))]

theorem uniformFields : UniformFields := by
  intro sw d a b k j v val
  exact ⟨uniRuns_of (exec_smovi sw d k) fun _ _ => rfl,
    uniRuns_of (exec_slui sw d k) fun c _ => by rw [← upperHalf_eq]; rfl,
    uniRuns_of (exec_saddi sw d a j) fun _ _ => rfl, uni1Runs_of (exec_spopc sw d a) fun _ _ => rfl,
    uni1Runs_of (exec_sclz sw d a) fun _ _ => rfl, uni1Runs_of (exec_sctz sw d a) fun _ _ => rfl,
    uniRuns_of (exec_sbfi sw d a b) fun c _ => by rw [bits_low]; rfl, uniRuns_of (exec_sread sw d a) fun _ _ => rfl,
    uniRuns_of (fun s => by rw [exec_vtos, execVtos]) fun _ _ => rfl⟩

/-! ## Words (R266, R285) -/

/-- Row `k` of the two-source functions has function number `k` in its word. -/
theorem encodeNat_uni2Rows (sw : Bool) (d a b : BitVec 6) : uni2Rows.map (fun row => encodeNat (row sw d a b)) =
    (List.range 17).map fun k => some (encFields (0x70000000 + 2 ^ 20 * k) [(sw.toNat, 31), (d.toNat, 14), (a.toNat, 8), (b.toNat, 2)]) := rfl

theorem encode_uni2Row {k : Nat} {row : Bool → BitVec 6 → BitVec 6 → BitVec 6 → Instr} (h : uni2Rows[k]? = some row)
    (sw : Bool) (d a b : BitVec 6) : encode (row sw d a b) = some (BitVec.ofNat 32
      (2 ^ 31 * sw.toNat + 0x70000000 + 2 ^ 20 * k + 2 ^ 14 * d.toNat + 2 ^ 8 * a.toNat + 2 ^ 2 * b.toNat)) := by
  have hk : k < 17 := (List.getElem?_eq_some_iff.1 h).1
  have hrow := congrArg (fun xs => xs[k]?) (encodeNat_uni2Rows sw d a b)
  simp only [List.getElem?_map, h, List.getElem?_range hk, Option.map_some, Option.some.injEq] at hrow
  rw [encode, hrow, Option.map_some]
  congr 2
  simp only [encFields]
  omega

end Sys2Proof.Machine

open Sys2Proof.Machine

/-- Settles O13: the two-source functions are the shared `uni2`, the others one uniform result each; a row's place is its fn. -/
theorem uniformResults : Obligations.UniformResults :=
  ⟨uniformArithmetic, uniformFields, fun _ _ h => encode_uni2Row h, fun p => ⟨p.ureg_zero, p.setUreg_zero⟩⟩

end

section
/-! SUPPORT. Uniform loads and stores, and the shape registers (R289, R397). -/
namespace Sys2Proof.Machine

variable {s t r : State} {c : Issue} {sw : Bool} {h : BitVec 4} {d a p : BitVec 6}

theorem exec_sld_starts {x : BitVec 2}
    (hb : Uses.begins { orders := true, okOp := decide (x < 2#2), fits := [7], uregs := [a.toNat] } s (.sld sw d a x) sw = some (c, t))
    (hr : t.loadFor c none (uniformPtr c a) (if x = 0 then 8 else 4) (.ureg d.toNat) false false false = (r, .done)) :
    exec (.sld sw d a x) s = .next (r.complete c) := by
  rw [exec_sld, execSld]
  exact State.issueWith_run hb rfl (by simp only [hr, State.uniformEnd])

theorem exec_sst_begins {x : BitVec 2}
    (hb : Uses.begins { okOp := decide (x < 2#2), fits := [7], uregs := [d.toNat, a.toNat] } s (.sst sw d a x) sw = some (c, t)) :
    exec (.sst sw d a x) s = .next ((t.storeFor c none (uniformPtr c a)
      (leBytes (if x = 0 then 8 else 4) (c.p.ureg d.toNat).toNat) none).complete c) := by
  rw [exec_sst, execSst]
  exact State.issueWith_run hb rfl rfl

theorem exec_ldh_starts
    (hb : Uses.begins { orders := true, fits := [7], uregs := [p.toNat], shapes := [h.toNat] } s (.ldh sw h p) sw = some (c, t))
    (hr : t.loadFor c none (uniformPtr c p) 64 (.shape h.toNat) false false false = (r, .done)) :
    exec (.ldh sw h p) s = .next (r.complete c) := by
  rw [exec_ldh, execLdh]
  exact State.issueWith_run hb rfl (by simp only [hr, State.uniformEnd])

theorem exec_sth_begins
    (hb : Uses.begins { fits := [7], uregs := [p.toNat], shapes := [h.toNat] } s (.sth sw h p) sw = some (c, t)) :
    exec (.sth sw h p) s =
      .next ((t.storeFor c none (uniformPtr c p) (leBytes 64 (c.w.shape h.toNat).toNat) none).complete c) := by
  rw [exec_sth, execSth]
  exact State.issueWith_run hb rfl rfl

theorem exec_seth_begins {rs : List Nat} (hrs : rs = (List.range 8).map fun i => d.toNat + i)
    (hb : Uses.begins { okOp := decide (d.toNat ≤ 56), uregs := rs, shapes := [h.toNat] } s (.seth sw h d) sw = some (c, t)) :
    exec (.seth sw h d) s =
      .next ((t.putLater c [(.shape h.toNat, rs.foldr (fun r v => (c.p.ureg r).toNat + 2 ^ 64 * v) 0)]).complete c) := by
  subst hrs
  rw [exec_seth, execSeth]
  exact State.issueWith_run hb rfl rfl

end Sys2Proof.Machine

open Sys2Proof.Machine

/-- Settles O15: a load that starts completes its instruction; a store and SETH need no answer. -/
theorem uniformMemoryCompletes : Obligations.UniformMemoryCompletes :=
  ⟨fun _ _ _ _ _ _ _ _ => exec_sld_starts, fun _ _ _ _ _ _ _ => exec_sst_begins, fun _ _ _ _ _ _ _ => exec_ldh_starts,
    fun _ _ _ _ _ _ => exec_sth_begins, fun _ _ _ _ _ _ => exec_seth_begins rfl⟩

end

section
/-! SUPPORT. Barrier instructions here and at another device, event words, and the traffic counters (R300, R301, R338 to R346, R414). -/
namespace Sys2Proof.Machine

variable {i : Instr} {sw : Bool} {a b : BitVec 6} {fn dest : Nat} {release : Bool}

/-! ## The shared barrier operation -/

/-- What a barrier instruction sends with its function to another device (R340, R341, R345). -/
def Issue.barArg (c : Issue) (a : BitVec 6) : Nat → Nat
  | 0 => c.ureg a + 2 ^ 64 * c.w.serial.toNat
  | 2 => bits (c.ureg a) 0 16 + 2 ^ 16 * c.p.asked.toNat + 2 ^ 17 * (4 * c.id.warp + c.id.split)
  | _ => c.ureg a

section
variable {s t : State} {c : Issue} {here : Issue → BarAt → State → State}

/-- A release whose lanes' stores are answered goes on at once (R192, R193). -/
theorem State.releaseTo_answered {lanes : BitVec 32} (hans : answered t c lanes) (scope : Nat) (k : State → State) :
    t.releaseTo c lanes scope k = k (t.release c.id.warp c.w.core lanes scope) := State.releaseTo_eq hans scope k

/-- Behind the release of an arrival whose stores are answered, or at once, the instruction goes on. -/
theorem State.releaseIf_eq (scope : Nat) (hans : release = true → answered t c c.p.mask) (k : State → State) :
    (if release then t.releaseTo c c.p.mask scope k else k t) =
      k (if release then t.release c.id.warp c.w.core c.p.mask scope else t) := by
  cases release with
  | false => rfl
  | true => exact State.releaseTo_answered (hans rfl) scope k

/-- At an object of this device a barrier instruction acts itself. -/
theorem State.barrierOp_here {x : BarAt} (hb : Uses.begins { uregs := [b.toNat, a.toNat] } s i sw = some (c, t))
    (hx : t.findBar c (c.ureg b) (fn == 0) = .ok x) (hpod : ∀ p dev k, x ≠ .pod p dev k)
    (hans : release = true → answered t c c.p.mask) :
    s.barrierOp i sw b a {} fn dest release here =
      .next (here c x (if release then t.release c.id.warp c.w.core c.p.mask x.scope else t)) := by
  rw [State.barrierOp]
  refine State.issueWith_run hb rfl ?_
  dsimp only
  rw [← State.releaseIf_eq x.scope hans (here c x), hx]
  cases x
  case pod p dev k => exact absurd rfl (hpod p dev k)
  all_goals rfl

section
variable {p : BitVec 2} {dev : BitVec 8} {k : Nat}

/-- At an object of another device it asks that device; an AUTO object there is refused (R341). -/
theorem State.barrierOp_asks (hb : Uses.begins { uregs := [b.toNat, a.toNat] } s i sw = some (c, t))
    (hx : t.findBar c (c.ureg b) (fn == 0) = .ok (.pod p dev k)) (hauto : ¬ (fn = 0 ∧ (c.ureg a).testBit 16 = false))
    (hans : release = true → answered t c c.p.mask) :
    s.barrierOp i sw b a {} fn dest release here =
      .next ((if release then t.release c.id.warp c.w.core c.p.mask 4 else t).askBarrier c p dev fn k (c.barArg a fn) dest
        (c.ureg b)) := by
  rw [State.barrierOp]
  refine State.issueWith_run hb rfl ?_
  dsimp only
  rw [← State.releaseIf_eq 4 hans fun t => t.askBarrier c p dev fn k (c.barArg a fn) dest (c.ureg b), hx]
  exact if_neg hauto

theorem State.barrierOp_auto (hb : Uses.begins { uregs := [b.toNat, a.toNat] } s i sw = some (c, t))
    (hx : t.findBar c (c.ureg b) true = .ok (.pod p dev k)) (hauto : (c.ureg a).testBit 16 = false) :
    s.barrierOp i sw b a {} 0 dest release here = .next (t.faultAt c .badSpace c.p.mask (c.p.ureg b.toNat) 0) := by
  rw [State.barrierOp]
  refine State.issueWith_run hb rfl ?_
  simp only [beq_self_eq_true, hx, hauto, and_self, if_true, c.ofNat_ureg b]

end
end

/-- A row whose meaning is the shared barrier operation, at an object of this device. -/
theorem barrierRuns_of {fresh : Bool} {here here' : Issue → BarAt → State → State}
    (hexec : ∀ s, exec i s = s.barrierOp i sw b a {} fn dest release here') (hfresh : (fn == 0) = fresh)
    (hhere : ∀ c x t, here' c x t = here c x t) : BarrierRuns i sw b a fresh release here := by
  intro s c t x hb hx hpod hans
  rw [hexec, State.barrierOp_here hb (hfresh ▸ hx) hpod hans, hhere]

/-- The same row at an object of another device. -/
theorem barrierAsks_of {here : Issue → BarAt → State → State} {arg : Issue → Nat} {fits : Issue → Prop}
    (hexec : ∀ s, exec i s = s.barrierOp i sw b a {} fn dest release here) (harg : ∀ c, c.barArg a fn = arg c)
    (hfits : ∀ c, fits c → ¬ (fn = 0 ∧ (c.ureg a).testBit 16 = false)) :
    BarrierAsks i sw b [b.toNat, a.toNat] fn dest release arg fits := by
  intro s c t p dev k hb hx hc hans
  rw [hexec, State.barrierOp_asks hb hx (hfits c hc) hans, harg]
  rfl

/-! ## The barrier instructions (R341 to R346) -/

section
variable {s t : State} {c : Issue} {l : BitVec 1}

/-- BSTAT reads the status word of an object of this device (R346). -/
theorem exec_bstat_here {x : BarAt} (hb : Uses.begins { uregs := [b.toNat] } s (.bstat sw b a l) sw = some (c, t))
    (hx : t.findBar c (c.ureg b) false = .ok x) (hpod : ∀ p dev k, x ≠ .pod p dev k) :
    exec (.bstat sw b a l) s = .next ((t.putLater c
      [(.ureg a.toNat, (if l = 1 then (t.bar x).last else (t.bar x).current).toNat)]).complete c) := by
  rw [exec_bstat, execBstat]
  refine State.issueWith_run hb rfl ?_
  dsimp only
  rw [hx]
  cases x
  case pod p dev k => exact absurd rfl (hpod p dev k)
  all_goals rfl

theorem exec_bstat_asks {p : BitVec 2} {dev : BitVec 8} {k : Nat}
    (hb : Uses.begins { uregs := [b.toNat] } s (.bstat sw b a l) sw = some (c, t))
    (hx : t.findBar c (c.ureg b) false = .ok (.pod p dev k)) :
    exec (.bstat sw b a l) s = .next (t.askBarrier c p dev 5 k l.toNat a.toNat (c.ureg b)) := by
  rw [exec_bstat, execBstat]
  exact State.issueWith_run hb rfl (by simp only [hx])

end

theorem barriers : Barriers := by
  intro sw b a p l v
  refine ⟨barrierRuns_of (exec_binit sw b a) rfl fun c x t => ?_, barrierRuns_of (exec_barv sw b a p) rfl fun c x t => ?_,
    barrierRuns_of (exec_bwait sw b a) rfl fun c x t => ?_, barrierRuns_of (exec_bexp sw b a) rfl fun c x t => ?_,
    barrierRuns_of (exec_btest sw b a p) rfl fun c x t => ?_, fun s c t x => exec_bstat_here⟩
  · dsimp only
    rw [c.ofNat_ureg]
    rfl
  · rw [bits_low]
    rfl
  · rw [bits_low, c.ofNat_ureg, Issue.ureg, BitVec.ofNat_toNat]
  · rw [Issue.ureg, BitVec.ofNat_toNat]
  · rw [bits_low]
    rfl

/-- A device that takes the request is waited for (R338). -/
theorem State.askBarrier_waits {t u : State} {c : Issue} {q : BitVec 2} {dev : BitVec 8} {fn k arg dest ref : Nat}
    (h : (t.beforePeer dev 0).peerRequest q dev 0 (.barrier fn k arg)
      { c.ext none 4 ref (t.beforePeer dev 0).free with dest := dest, width := fn } = some u) :
    t.askBarrier c q dev fn k arg dest ref = (u.waitAt c .outcome).modSplit c.id fun p => { p with out := some ⟨1, 0, [], c.sw⟩ } := by
  rw [State.askBarrier, h]
  exact if_neg (by decide)

theorem podBarriers : PodBarriers := by
  intro sw b a p l v us
  refine ⟨barrierAsks_of (exec_binit sw b a) (fun _ => rfl) fun c hfixed hauto => ?_,
    fun s c t q dev k hb hx hauto => (exec_binit sw b a s).trans (State.barrierOp_auto hb hx hauto),
    barrierAsks_of (exec_barv sw b a p) (fun _ => rfl) fun _ _ h => absurd h.1 (by decide),
    barrierAsks_of (exec_bwait sw b a) (fun c => ?_) fun _ _ h => absurd h.1 (by decide),
    barrierAsks_of (exec_bexp sw b a) (fun _ => rfl) fun _ _ h => absurd h.1 (by decide),
    barrierAsks_of (exec_btest sw b a p) (fun _ => rfl) fun _ _ h => absurd h.1 (by decide),
    fun s c t q dev k hb hx _ _ => exec_bstat_asks hb hx, fun t u c q dev fn k arg dest ref => State.askBarrier_waits⟩
  · exact Bool.false_ne_true (hauto.2.symm.trans hfixed)
  · rw [Issue.barArg, bits_low]
    rfl

/-! ## Event words (R300, R301) -/

section
variable {s t r : State} {c : Issue} {p v : BitVec 6} {sc : Nat}

theorem exec_waite_begins (hb : Uses.begins { orders := true, uregs := [p.toNat, v.toNat] } s (.waite sw p v) sw = some (c, t))
    (hsc : eventScope (c.ureg p) = some sc) (halign : c.ureg p % 8 = 0) :
    exec (.waite sw p v) s = .next (if c.ureg v = 0 then (t.acquire c.w.core sc).complete c else t.readEvent c (c.ureg p) (c.ureg v)) := by
  rw [exec_waite, execWaite]
  refine State.issueWith_run hb rfl ?_
  simp only [hsc]
  exact if_neg (not_not_intro halign)

/-- What SIGE does with a pointer of an event word's space. -/
theorem exec_sige_begins (hb : Uses.begins { orders := true, uregs := [p.toNat, v.toNat] } s (.sige sw p v) sw = some (c, t))
    (hsc : eventScope (c.ureg p) = some sc) :
    exec (.sige sw p v) s = .next (t.releaseTo c c.p.mask sc fun t1 =>
      let y := t1.atomFor c none 0 8 sc (c.ureg p) (c.ureg v) 0 none false
      y.1.uniformEnd c (BitVec.ofNat 64 (c.ureg p)) y.2) := by
  rw [exec_sige, execSige]
  refine State.issueWith_run hb rfl ?_
  simp only [hsc]
  rfl

theorem exec_sige_adds (hb : Uses.begins { orders := true, uregs := [p.toNat, v.toNat] } s (.sige sw p v) sw = some (c, t))
    (hsc : eventScope (c.ureg p) = some sc) (hans : answered t c c.p.mask)
    (hatom : (t.release c.id.warp c.w.core c.p.mask sc).atomFor c none 0 8 sc (c.ureg p) (c.ureg v) 0 none false = (r, .done)) :
    exec (.sige sw p v) s = .next (r.complete c) := by
  rw [exec_sige_begins hb hsc, State.releaseTo_answered hans]
  exact congrArg _ (congrArg (fun y : State × LaneAns => y.1.uniformEnd c (BitVec.ofNat 64 (c.ureg p)) y.2) hatom)

theorem exec_sige_waits (hb : Uses.begins { orders := true, uregs := [p.toNat, v.toNat] } s (.sige sw p v) sw = some (c, t))
    (hsc : eventScope (c.ureg p) = some sc) (hans : ¬ answered t c c.p.mask) :
    exec (.sige sw p v) s = .next ((t.drain c.id.warp c.p.mask).waitAt c .results) := by
  rw [exec_sige_begins hb hsc]
  exact congrArg _ (if_pos (Bool.of_not_eq_false hans))

/-- No event word lies in space 0 (R145). -/
theorem exec_sige_null (hb : Uses.begins { orders := true, uregs := [p.toNat, v.toNat] } s (.sige sw p v) sw = some (c, t))
    (hnull : c.ureg p < 2 ^ 60) :
    exec (.sige sw p v) s = .next (t.faultAt c .nullDeref c.p.mask (BitVec.ofNat 64 (c.ureg p)) 0) := by
  have hspace : bits (c.ureg p) 60 4 = 0 := by rw [bits_space (c.ureg_lt p), Nat.div_eq_of_lt hnull]
  have hsc : eventScope (c.ureg p) = none := by simp only [eventScope, hspace]
  rw [exec_sige, execSige]
  refine State.issueWith_run hb rfl ?_
  simp only [hsc, hspace, if_true]

end

/-! ## Traffic counters (R414) -/

/-- What PCNT reads for a selector (R414). -/
def State.counterAt (t : State) (c : Issue) (x : Nat) : Nat :=
  if bits x 4 4 ≠ 0 ∨ bits x 16 48 ≠ 0 ∨ (x.testBit 3 ∧ bits x 8 8 = 0) ∨ (x.testBit 3 = false ∧ bits x 8 8 ≠ 0) then 2 ^ 64 - 1
  else if x.testBit 3 then (Sparse.get 0 t.tableCounters (8 * (256 * c.g.part.toNat + bits x 8 8) + x % 8)).toNat
  else (Sparse.get 0 t.coreCounters (8 * c.w.core + x % 8)).toNat

section
variable {s t : State} {c : Issue} {x : Nat} {d e : BitVec 6}

theorem exec_pcnt_begins (hb : Uses.begins { uregs := [e.toNat] } s (.pcnt sw d e) sw = some (c, t)) :
    exec (.pcnt sw d e) s = .next ((t.putLater c [(.ureg d.toNat, t.counterAt c (c.ureg e))]).complete c) := by
  rw [exec_pcnt, execPcnt]
  exact State.issueWith_run hb rfl rfl

theorem testBit_three (x : Nat) : x.testBit 3 = decide (8 ≤ x % 16) := by
  rw [Nat.testBit_eq_decide_div_mod_eq]
  exact decide_eq_decide.2 (by omega)

theorem State.counterAt_core (t : State) (c : Issue) (hx : x < 8) :
    t.counterAt c x = (Sparse.get 0 t.coreCounters (8 * c.w.core + x)).toNat := by
  have h3 : x.testBit 3 = false := by rw [testBit_three]; exact decide_eq_false (by omega)
  rw [State.counterAt, if_neg, if_neg, Nat.mod_eq_of_lt hx]
  · rw [h3]; exact Bool.false_ne_true
  · simp only [h3, bits, Bool.false_eq_true, false_and, true_and, false_or, ne_eq]
    omega

theorem State.counterAt_table (t : State) (c : Issue) (hx : x < 2 ^ 16) (hlo : 8 ≤ x % 2 ^ 8) (hhi : x % 2 ^ 8 < 16)
    (hset : x / 2 ^ 8 % 2 ^ 8 ≠ 0) :
    t.counterAt c x = (Sparse.get 0 t.tableCounters (8 * (256 * c.g.part.toNat + x / 2 ^ 8 % 2 ^ 8) + x % 8)).toNat := by
  have h3 : x.testBit 3 = true := by rw [testBit_three]; exact decide_eq_true (by omega)
  rw [State.counterAt, if_neg, if_pos h3]
  · rfl
  · simp only [h3, bits, Bool.true_eq_false, false_and, true_and, or_false, ne_eq]
    omega

theorem State.counterAt_none (t : State) (c : Issue) (hlt : x < 2 ^ 64)
    (hx : 2 ^ 16 ≤ x ∨ 16 ≤ x % 2 ^ 8 ∨ (x % 2 ^ 8 < 8 ∧ x / 2 ^ 8 % 2 ^ 8 ≠ 0) ∨ (8 ≤ x % 2 ^ 8 ∧ x / 2 ^ 8 % 2 ^ 8 = 0)) :
    t.counterAt c x = 2 ^ 64 - 1 := by
  refine if_pos ?_
  simp only [testBit_three, bits, decide_eq_true_eq, decide_eq_false_iff_not, ne_eq]
  omega

end

theorem eventWords : EventWords := by
  refine ⟨fun s c t sw p v sc hb hsc halign => ?_, fun s c t r sw p v sc => exec_sige_adds, fun s c t sw p v => exec_sige_null,
    fun s c t sw p v sc => exec_sige_waits, fun s c t sw d e hb => ?_⟩
  · rw [exec_waite_begins hb hsc halign]
    exact congrArg _ (if_congr (BitVec.toNat_inj (y := 0)) rfl rfl)
  · intro x reads set
    have hreads : reads (t.counterAt c x) := exec_pcnt_begins hb
    refine ⟨fun hx => ?_, fun hx hlo hhi hset => ?_, fun hx => ?_⟩
    · rwa [t.counterAt_core c hx] at hreads
    · rwa [t.counterAt_table c hx hlo hhi hset] at hreads
    · rwa [t.counterAt_none c (x := x) (c.ureg_lt e) hx] at hreads

end Sys2Proof.Machine

/-- Settles O19: a barrier instruction is the shared `barrierOp`, here or at another device; an event word is read or added to, and PCNT
reads what its selector names. -/
theorem barriersComplete : Obligations.BarriersComplete :=
  ⟨Sys2Proof.Machine.barriers, Sys2Proof.Machine.podBarriers, Sys2Proof.Machine.eventWords⟩

end

section
/-! SUPPORT. Device queues: pushes, pulls, the flush of bins, and what a lane does to the pointers (R89 to R92, R295 to R298). -/
namespace Sys2Proof.Machine

/-! ## The instructions (R295 to R298) -/

/-- A descriptor that is bound under the instruction's kind serves it (R293). -/
theorem bindingFits_eq {b : BitVec 128} {kind : Nat} (hdesc : qbPtr b ≠ 0) (hkind : qbKind b = kind) : ¬ bindingFits b kind = false := by
  simp only [bindingFits, hkind, bne_iff_ne.2 hdesc, beq_self_eq_true, Bool.and_true, Bool.true_eq_false, not_false_eq_true]

section
variable {s t t2 : State} {c : Issue} {raw : List Byte} {sw : Bool} {q : BitVec 3}

/-- A push that can read its descriptor is the run of its lanes, and the pointers written back. -/
theorem pushRuns_of {i : Instr} {u : Uses} {kind : Nat} {e : Option (BitVec 7)} {g : BitVec 7} {p : BitVec 3}
    (hexec : ∀ s, exec i s = s.pushes i sw u kind q e g p) : PushRuns i sw u kind q e g p := by
  intro s c t t2 raw hb ls desc hls hdesc hkind hans hread x hclean
  rw [hexec, State.pushes]
  refine State.issueWith_run hb rfl ?_
  refine (if_neg (mt List.isEmpty_iff.1 hls)).trans ((if_neg (bindingFits_eq hdesc hkind)).trans ((State.releaseTo_answered hans 3 _).trans ?_))
  dsimp only
  rw [hread]
  exact LaneRun.finish_clean (r := { x.run with st := x.st.queueBack (c.hw none) (qdescOf raw).kind desc x }) hclean c

theorem exec_qpull_reads {d : BitVec 7} {p : BitVec 3} {u : Uses} (hu : u = { orders := true, fits := [2], vs := [(d.toNat, 16)] })
    (hb : u.begins s (.qpull sw q d p) sw = some (c, t)) (hls : u.todo c ≠ []) (hdesc : qbPtr (c.p.qbind q.toNat) ≠ 0)
    (hkind : qbKind (c.p.qbind q.toNat) = 1)
    (hread : (t.acquire c.w.core 3).hwRead (c.hw none) (qbPtr (c.p.qbind q.toNat)) 64 = (t2, .ok raw)) :
    let x := (u.todo c).foldl (fun (x : QRun) l => x.pull c (qdescOf raw) d l p.toNat)
      { st := t2, head := (qdescOf raw).head, tail := (qdescOf raw).tail, dropped := fieldOf raw 0x28 8, run := { st := t2 } : QRun }
    x.run.clean → exec (.qpull sw q d p) s =
      .next ((x.st.queueBack (c.hw none) (qdescOf raw).kind (qbPtr (c.p.qbind q.toNat)) x).complete c) := by
  intro x hclean
  subst hu
  rw [exec_qpull, execQpull]
  refine State.issueWith_run hb rfl ?_
  refine (if_neg (mt List.isEmpty_iff.1 hls)).trans ((if_neg (bindingFits_eq hdesc hkind)).trans ?_)
  rw [hread]
  exact LaneRun.finish_clean
    (r := { x.run with st := x.st.queueBack (c.hw none) (qdescOf raw).kind (qbPtr (c.p.qbind q.toNat)) x }) hclean c

theorem exec_qflush_begins (hb : Uses.begins {} s (.qflush sw q) sw = some (c, t)) (hdesc : qbPtr (c.p.qbind q.toNat) ≠ 0) :
    exec (.qflush sw q) s = .next ((if qbKind (c.p.qbind q.toNat) = 0 then
      t.flushWhere fun x => x.part == c.g.part && x.ctx == c.g.ctx && x.desc == BitVec.ofNat 64 (qbPtr (c.p.qbind q.toNat))
      else t).complete c) := by
  rw [exec_qflush, execQflush]
  refine State.issueWith_run hb rfl ((if_neg hdesc).trans ?_)
  by_cases hkind : qbKind (c.p.qbind q.toNat) = 0
  · rw [if_neg (not_not_intro hkind), if_pos hkind]
  · rw [if_pos hkind, if_neg hkind]

end

theorem queueWords : QueueWords :=
  ⟨fun sw q e g p => pushRuns_of (exec_spawn sw q e g p), fun sw q g p => pushRuns_of (exec_qpush sw q g p),
    fun _ _ _ _ _ _ _ _ _ hb hls hdesc hkind hread => exec_qpull_reads rfl hb hls hdesc hkind hread,
    fun _ _ _ _ _ => exec_qflush_begins⟩

/-! ## A lane's item (R90, R295, R297) -/

section
variable {x : QRun} {t : State} {c : Issue} {q : QDesc} {desc entry arg : Word} {l p : Nat} {d : BitVec 7}

/-- A push that finds no room, or a lane refused before it, is dropped. -/
theorem QRun.push_refused (hf : x.run.faults = []) (hk : q.kind ≠ 0) (h : x.full = true ∨ 2 ^ q.logCap ≤ x.tail - x.head) :
    let y := x.push c q desc entry arg l p
    y.head = x.head ∧ y.tail = x.tail ∧ y.dropped = x.dropped + 1 ∧ y.full = true := by
  have hno : ¬ (x.full = false ∧ x.tail - x.head < 2 ^ q.logCap) := fun hroom =>
    h.elim (fun hfull => Bool.false_ne_true (hroom.1.symm.trans hfull)) (Nat.not_le.2 hroom.2)
  simp only [QRun.push, hf, List.find?_nil, hk, hno, if_false, and_self]

/-- A push that finds room adds its item at the tail. -/
theorem QRun.push_accepted (hf : x.run.faults = []) (hk : q.kind ≠ 0) (hfull : x.full = false) (hroom : x.tail - x.head < 2 ^ q.logCap)
    {b : Unit}
    (hw : (x.st.countEntry (c.hw (some l)) (q.ring + 16 * (x.tail % 2 ^ q.logCap)) true).hwWrite (c.hw (some l))
      (q.ring + 16 * (x.tail % 2 ^ q.logCap)) (leBytes 8 entry.toNat ++ leBytes 8 arg.toNat) = (t, .ok b)) :
    let y := x.push c q desc entry arg l p
    y.tail = x.tail + 1 ∧ y.head = x.head ∧ y.dropped = x.dropped ∧ y.full = false := by
  simp only [QRun.push, hf, List.find?_nil, hk, hfull, hroom, if_false, if_true, and_self, hw]

theorem QRun.pull_empty (hf : x.run.faults = []) (h : x.tail ≤ x.head) : (x.pull c q d l p).head = x.head := by
  simp only [QRun.pull, hf, List.head?_nil, Nat.not_lt.2 h, if_false]

/-- A pull takes the item at the head. -/
theorem QRun.pull_item (hf : x.run.faults = []) (h : x.head < x.tail) {e : List Byte}
    (hr : (x.st.countEntry (c.hw (some l)) (q.ring + 16 * (x.head % 2 ^ q.logCap)) false).hwRead (c.hw (some l))
      (q.ring + 16 * (x.head % 2 ^ q.logCap)) 16 = (t, .ok e)) :
    (x.pull c q d l p).head = x.head + 1 ∧ (x.pull c q d l p).tail = x.tail := by
  simp only [QRun.pull, hf, List.head?_nil, h, if_true, hr, and_self]

end

theorem occupancy : Occupancy :=
  ⟨fun _ _ _ _ _ _ _ _ hf hk => ⟨QRun.push_refused hf hk, fun _ _ hfull hroom => QRun.push_accepted hf hk hfull hroom⟩,
    fun _ _ _ _ _ _ hf => ⟨QRun.pull_empty hf, fun _ _ h => QRun.pull_item hf h⟩⟩

end Sys2Proof.Machine

/-- Settles O20: a push and a pull are the runs of their lanes behind the descriptor; a lane's item moves one pointer or none. -/
theorem queueInstructionsComplete : Obligations.QueueInstructionsComplete :=
  ⟨Sys2Proof.Machine.queueWords, Sys2Proof.Machine.occupancy⟩

end
